-- ==== Sys2Proof/Word.lean ====
section
/-! DEFINITION. The words of the machine: bytes, 64-bit words, 512-bit token values, and the sparse
tables in which memories and register files are held. All multi-byte quantities are little-endian (R2). -/

namespace Sys2Proof

/-- One byte of memory. -/
abbrev Byte := BitVec 8

/-- A 64-bit word: a control register, a fat pointer, an instruction, word n of a token. -/
abbrev Word := BitVec 64

/-- The 512-bit value of a token or of a register (R12, R121). -/
abbrev Wide := BitVec 512

/-- A sparse table: (key, value) pairs, keys strictly rising, no value equal to the table's default. -/
abbrev Tab (α : Type) := List (Nat × α)

end Sys2Proof
end

