-- ==== Sys2Proof/Config.lean ====
section
/-! DEFINITION. The free values: what the manual leaves open, as constants with no body. A statement
about one of them holds whatever it is. `State.freeCounter` numbers the uses, so that each use is fresh. -/

namespace Sys2Proof

/-- The bytes a device register on the DEV path delivers: the manual gives no address map for DEV (R57, R163).
Arguments: the use number, the address, the byte number. Log entry 3. -/
opaque Config.devRead : Nat → Nat → Nat → Byte

/-- The bytes DST holds after a collective that ended with a code other than 0x00 (R394: unspecified bytes).
Arguments: the use number, the byte number. Log entry 4. -/
opaque Config.collByte : Nat → Nat → Byte

/-- The value of a byte that two elements of one mortar job write (R232: one of the two values):
true keeps the later element's byte. Log entry 5. -/
opaque Config.jobKeepsLater : Nat → Bool

/-- The cores of a die that its test fuses enable (R375, R382). Log entry 7. -/
opaque Config.coreFuses : Nat → BitVec 256

/-- Tenure records of a home slice beside the first (R292: their number is not stated). Arguments: die, slice. Log entry 65. -/
opaque Config.tenureRecords : Nat → Nat → Nat

/-- The shared register that an address of control space names: core of the die, register, byte (R125; no layout of control
space is given). Log entry 64. -/
opaque Config.controlShared : Nat → Option (Nat × Nat × Nat)

/-- What a scratchpad byte holds after its cluster powered down (R380: not preserved). Arguments: the use number, the
core, the offset. Log entry 9. -/
opaque Config.lostByte : Nat → Nat → Nat → Byte

/-- The kiln status word for a boot step and a cause (R375, R377: no encoding is given); step 5 is READY. Log entry 10. -/
opaque Config.kilnStatus : Nat → Nat → BitVec 64

/-- The step of boot, 2, 3 or 4, at which loading or training fails (R375); another number: it succeeds. Argument: the
use number. Log entry 12. -/
opaque Config.trainingFault : Nat → Nat

/-- The width at which a host port trains (R370, R377), as CAP.PKG encodes it; a number that is no width stands for x16.
Arguments: the use number, the port. Log entry 12. -/
opaque Config.trainedWidth : Nat → Nat → Nat

/-- Ed25519 verification of a signature over a message under a key (R376). Log entry 6. -/
opaque Config.edVerify : List Byte → List Byte → List Byte → Bool

/-- ML-DSA-65 verification of a signature over a message under a key (R376). Log entry 6. -/
opaque Config.mldsaVerify : List Byte → List Byte → List Byte → Bool

/-- SHA-512 of a byte string (R376). Log entry 6. -/
opaque Config.sha512 : List Byte → List Byte

/-- The fused digest of the Ed25519 public key (R376). Log entry 6. -/
opaque Config.fusedEdKey : List Byte

/-- The fused digest of the ML-DSA-65 public key (R376). Log entry 6. -/
opaque Config.fusedMlKey : List Byte

/-- The fused minimum security version (R376). Log entry 6. -/
opaque Config.fusedSvn : Nat

/-- The Ed25519 signature by the module's identity key (R378). Log entry 6. -/
opaque Config.edSign : List Byte → List Byte

/-- The ML-DSA-65 signature by the module's identity key (R378). Log entry 6. -/
opaque Config.mldsaSign : List Byte → List Byte

/-- The register of control space at an address: its partition, of no concern to a register of a die, and its number (R363;
no layout of control space is given). Log entry 64. -/
opaque Config.controlRegister : Nat → Option (Nat × Nat)

/-- The module's device identity public keys (R378). Log entry 6. -/
opaque Config.identityEdKey : List Byte
opaque Config.identityMlKey : List Byte

/-- Morwald's signatures over an identity certificate (R378). Log entry 6. -/
opaque Config.makerEdSign : List Byte → List Byte
opaque Config.makerMldsaSign : List Byte → List Byte

/-- What the management cores write at bring-up from the system configuration (R383): the module's node number, and for
each node the ports that lead there. Log entry 95. -/
opaque Config.fabricNode : Nat
opaque Config.fabricRoutes : List (Nat × List Nat)

/-- The node at the other end of a fabric port, and the lanes at which the port trains at bring-up (R384, R399). Log entry
95. -/
opaque Config.fabricPeer : Nat → Nat
opaque Config.fabricLanes : Nat → Nat

/-- A byte of those sections of a save record whose layout firmware sets (R204): use of the free values, core, offset. Log entry 75. -/
opaque Config.saveByte : Nat → Nat → Nat → Byte

end Sys2Proof
end

