-- ==== Sys2Proof/Syntax.lean ====
section
/-! DEFINITION. The syntax of Huamos: element types, targets, the four instruction formats (R42 to R49),
and one constructor of `Instr` per row of the opcode table. A brick instruction carries the fields of its
64-bit word; a machine event or a host action carries the names of the units it concerns. -/

namespace Sys2Proof

/-- Element types (R42), in the order of their codes 0x0 to 0xF. `l6s` is also `.tok` in memory instructions (R162). -/
inductive ElemType where
  | i8 | i16 | i32 | i64 | n8 | n16 | n32 | n64
  | f64 | f32 | bf16 | f16 | e4m3 | e5m2 | l6 | l6s
  deriving DecidableEq, Repr

/-- Predicate mode (R43): none, on-true, on-false. -/
inductive PredMode where
  | always | onTrue | onFalse
  deriving DecidableEq, Repr

/-- Operand slots of an instruction (R14). -/
inductive Slot where
  | a | b | c | p
  deriving DecidableEq, Repr

/-- A target field (R40): none, an operand slot of the instruction at an index, or a write slot. -/
inductive Target where
  | none
  | operand (slot : Slot) (index : BitVec 7)
  | write (w : BitVec 5)
  deriving DecidableEq, Repr

/-- Tag arithmetic of a G-format target (R41). -/
inductive TagArith where
  | same | next | out
  deriving DecidableEq, Repr

/-- The rounding-override field (R44). -/
inductive RoundOvr where
  | context | nearest | zero | stochastic
  deriving DecidableEq, Repr

/-- Fields of format G (R43, R44) below the opcode. -/
structure GFields where
  ty      : ElemType
  pm      : PredMode
  t0      : Target
  t1      : Target
  tag0    : TagArith
  tag1    : TagArith
  uniform : Bool
  sat     : Bool
  rnd     : RoundOvr
  imm     : Bool
  wide    : Bool
  imm16   : BitVec 16
  deriving DecidableEq, Repr

/-- Fields of format L (R46, R47) below the opcode. `mc` is the memory-control field [27:24], bit 3 its bit 27. -/
structure LFields where
  ty    : ElemType
  pm    : PredMode
  t0    : Target
  lsid  : BitVec 5
  cache : BitVec 2
  hint  : BitVec 2
  mc    : BitVec 4
  off   : BitVec 24
  deriving DecidableEq, Repr

/-- Fields of format B (R48) below the opcode. -/
structure BFields where
  pm    : PredMode
  exit  : BitVec 3
  call  : Bool
  ret   : Bool
  leave : Bool
  mchk  : Bool
  off   : BitVec 32
  deriving DecidableEq, Repr

/-- Fields of format X (R49) below the opcode. -/
structure XFields where
  ta      : ElemType
  tb      : ElemType
  acc     : BitVec 3
  t0      : Target
  shape   : BitVec 16
  pm      : PredMode
  uniform : Bool
  flags   : BitVec 5
  deriving DecidableEq, Repr

/-- A hardware context: a core of the module (die × 256 + physical cluster × 8 + core; 1024 + die is the
management core of a die, R363) and the context's number within it (R127). -/
structure CtxId where
  core : Nat
  ctx  : Nat
  deriving DecidableEq, Repr

/-- A line that enters a block cache (R128), and what happens to the cache before: it may replace a line for another reason
(R133), or lose one to a double-bit error (R135); `drop` counts its lines, oldest first. -/
structure Fill where
  line : Word
  drop : Option Nat
  deriving DecidableEq, Repr

/-- What goes wrong where a token arrives (R135): nothing; a parity error on the network; a single-bit error that SECDED
corrects; a double-bit error in the register that a read entry reads; one in the load-store queue entry of an instruction
that has fired. -/
inductive Upset where
  | none
  | parity
  | parityAt (target : Nat)
  | corrected
  | double
  | queue (index : Nat)
  deriving DecidableEq, Repr

/-- A request of the host to the module's HBM (R370): bytes written; or a read, which may meet an error of its granule
(R369), none, a single-bit one that is corrected or one that is not. -/
inductive HostMem where
  | read (error : Option Bool)
  | write (data : List Byte)
  deriving DecidableEq, Repr

/-- An access of the host to BAR0 (R373): bytes written, or a number of bytes read. -/
inductive BarAccess where
  | write (data : List Byte)
  | read (n : Nat)
  deriving DecidableEq, Repr

/-- One constructor per row of the opcode table. -/
inductive Instr where
  /-- ADD (R88). Integer add, wrapping or saturating, in scalar or wide form. -/
  | add (f : GFields)
  /-- SUB (R88). Integer subtract. -/
  | sub (f : GFields)
  /-- NEG (R88). Integer negate. -/
  | neg (f : GFields)
  /-- ABS (R88). Signed absolute value. -/
  | abs (f : GFields)
  /-- MUL (R88). Integer multiply, low half. -/
  | mul (f : GFields)
  /-- MULH (R88). High half of the exact 2w-bit product. -/
  | mulh (f : GFields)
  /-- MAD (R88). Integer multiply-add with one wrap or clamp. -/
  | mad (f : GFields)
  /-- DIV (R89). Integer division truncating toward zero, with defined results for zero and overflow. -/
  | div (f : GFields)
  /-- REM (R89). Integer remainder with the sign of the dividend. -/
  | rem (f : GFields)
  /-- MIN (R88). Smaller of two integers. -/
  | minI (f : GFields)
  /-- MAX (R88). Larger of two integers. -/
  | maxI (f : GFields)
  /-- CLAMP (R88). Clamps a between b and c. -/
  | clamp (f : GFields)
  /-- ABSD (R88). Absolute difference of two integers. -/
  | absd (f : GFields)
  /-- AVG (R88). Rounded-up average that never overflows. -/
  | avg (f : GFields)
  /-- ADDC (R91). Add with carry-in, delivering the sum and the carry-out. -/
  | addc (f : GFields)
  /-- SUBB (R91). Subtract with borrow-in, delivering the difference and the borrow-out. -/
  | subb (f : GFields)
  /-- DOT4 (R90). Four-byte dot product accumulated into 32-bit lanes. -/
  | dot4 (f : GFields)
  /-- SAD (R90). Sum of absolute byte differences accumulated into 64-bit lanes. -/
  | sad (f : GFields)
  /-- ADDP (R92). Adds to the address field of a fat pointer, keeping the upper bits. -/
  | addp (f : GFields)
  /-- SUBP (R92). Signed difference of two pointer address fields. -/
  | subp (f : GFields)
  /-- PTRF (R92). Replaces the path, format and block-length bits of a pointer. -/
  | ptrf (f : GFields)
  /-- PTRX (R92). Extracts a field of a fat pointer. -/
  | ptrx (f : GFields)
  /-- AND (R93). Bitwise AND. -/
  | andB (f : GFields)
  /-- OR (R93). Bitwise OR. -/
  | orB (f : GFields)
  /-- XOR (R93). Bitwise XOR. -/
  | xorB (f : GFields)
  /-- ANDN (R93). a AND NOT b. -/
  | andn (f : GFields)
  /-- ORN (R93). a OR NOT b. -/
  | orn (f : GFields)
  /-- NOT (R93). Bitwise NOT. -/
  | notB (f : GFields)
  /-- SHL (R94). Left shift, optionally saturating. -/
  | shl (f : GFields)
  /-- SHR (R94). Logical right shift. -/
  | shr (f : GFields)
  /-- SAR (R94). Arithmetic right shift. -/
  | sar (f : GFields)
  /-- ROL (R93). Rotate left by b mod w. -/
  | rol (f : GFields)
  /-- ROR (R93). Rotate right by b mod w. -/
  | ror (f : GFields)
  /-- POPC (R93). Counts the one bits. -/
  | popc (f : GFields)
  /-- CLZ (R93). Counts leading zeros. -/
  | clz (f : GFields)
  /-- CTZ (R93). Counts trailing zeros. -/
  | ctz (f : GFields)
  /-- BREV (R93). Reverses the bits of each lane. -/
  | brev (f : GFields)
  /-- BSWAP (R93). Reverses the bytes of each lane. -/
  | bswap (f : GFields)
  /-- BEXT (R95). Extracts a bit field. -/
  | bext (f : GFields)
  /-- BINS (R95). Inserts a bit field. -/
  | bins (f : GFields)
  /-- CEQ (R96). Compare equal, giving a predicate or a lane mask. -/
  | ceq (f : GFields)
  /-- CNE (R96). Compare not equal. -/
  | cne (f : GFields)
  /-- CLT (R96). Compare less than. -/
  | clt (f : GFields)
  /-- CLE (R96). Compare less or equal. -/
  | cle (f : GFields)
  /-- CGT (R96). Compare greater than. -/
  | cgt (f : GFields)
  /-- CGE (R96). Compare greater or equal. -/
  | cge (f : GFields)
  /-- CUO (R97). Unordered compare: true when an operand is NaN. -/
  | cuo (f : GFields)
  /-- TESTZ (R96). True when a AND b is zero. -/
  | testz (f : GFields)
  /-- TESTNZ (R96). True when a AND b is nonzero. -/
  | testnz (f : GFields)
  /-- PAND (R96). Predicate AND. -/
  | pand (f : GFields)
  /-- POR (R96). Predicate OR. -/
  | por (f : GFields)
  /-- PXOR (R96). Predicate XOR. -/
  | pxor (f : GFields)
  /-- PNOT (R96). Predicate NOT. -/
  | pnot (f : GFields)
  /-- ANYL (R98). Predicate that some lane is nonzero. -/
  | anyl (f : GFields)
  /-- ALLL (R98). Predicate that every lane is nonzero. -/
  | alll (f : GFields)
  /-- CMASK (R98). Builds a lane mask from bits of a or of the immediate. -/
  | cmask (f : GFields)
  /-- FADD (R99). Floating-point add rounded once. -/
  | fadd (f : GFields)
  /-- FSUB (R99). Floating-point subtract. -/
  | fsub (f : GFields)
  /-- FMUL (R99). Floating-point multiply. -/
  | fmul (f : GFields)
  /-- FDIV (R99). Floating-point divide, correctly rounded. -/
  | fdiv (f : GFields)
  /-- FMA (R99). Fused a*b+c. -/
  | fma (f : GFields)
  /-- FMS (R99). Fused a*b-c. -/
  | fms (f : GFields)
  /-- FNMA (R99). Fused -(a*b)+c. -/
  | fnma (f : GFields)
  /-- FNMS (R99). Fused -(a*b)-c. -/
  | fnms (f : GFields)
  /-- FMIN (R100). Floating-point minimum with its own NaN rule. -/
  | fmin (f : GFields)
  /-- FMAX (R100). Floating-point maximum with its own NaN rule. -/
  | fmax (f : GFields)
  /-- FABS (R100). Clears the sign bit. -/
  | fabs (f : GFields)
  /-- FNEG (R100). Inverts the sign bit. -/
  | fneg (f : GFields)
  /-- FSQRT (R99). Square root, correctly rounded. -/
  | fsqrt (f : GFields)
  /-- FCLASS (R100). Delivers a one-hot class of the value. -/
  | fclass (f : GFields)
  /-- FCPYS (R100). Magnitude of a with the sign of b. -/
  | fcpys (f : GFields)
  /-- FRCP (R101). Reciprocal rounded once. -/
  | frcp (f : GFields)
  /-- FRSQ (R101). Reciprocal square root rounded once. -/
  | frsq (f : GFields)
  /-- FEXP2 (R101). Power of two rounded once. -/
  | fexp2 (f : GFields)
  /-- FLOG2 (R101). Base-2 logarithm rounded once. -/
  | flog2 (f : GFields)
  /-- FSIN (R101). Sine with exact reduction. -/
  | fsin (f : GFields)
  /-- FCOS (R101). Cosine with exact reduction. -/
  | fcos (f : GFields)
  /-- FTANH (R101). Hyperbolic tangent. -/
  | ftanh (f : GFields)
  /-- FSIG (R101). Logistic sigmoid. -/
  | fsig (f : GFields)
  /-- FRND (R102). Rounds to an integral value in its own format. -/
  | frnd (f : GFields)
  /-- CVTF (R104). Converts between floating, FP8 and LNS6 formats. -/
  | cvtf (f : GFields)
  /-- CVTFI (R104). Converts floating point to integer. -/
  | cvtfi (f : GFields)
  /-- CVTIF (R104). Converts integer to floating point. -/
  | cvtif (f : GFields)
  /-- CVTI (R104). Converts between integer types. -/
  | cvti (f : GFields)
  /-- PACK8 (R106). Packs two BF16 tokens into one FP8 token. -/
  | pack8 (f : GFields)
  /-- UNPK8 (R106). Unpacks half of an FP8 token to BF16. -/
  | unpk8 (f : GFields)
  /-- PACKH (R106). Narrows two integer tokens into one at half width. -/
  | packh (f : GFields)
  /-- UNPKH (R106). Widens half of an integer token. -/
  | unpkh (f : GFields)
  /-- QL6 (R107). Quantises FP32 lanes into packed LNS6 blocks. -/
  | ql6 (f : GFields)
  /-- DQL6 (R107). Dequantises packed LNS6 elements to FP32. -/
  | dql6 (f : GFields)
  /-- L6MUL (R108). LNS6 product rounded back to LNS6. -/
  | l6mul (f : GFields)
  /-- SCALEX (R108). Multiplies by a power of two. -/
  | scalex (f : GFields)
  /-- SCALEA (R108). Adjusts the scale of every LNS6 block. -/
  | scalea (f : GFields)
  /-- HASH32 (R114). Seeded 32-bit hash of each lane. -/
  | hash32 (f : GFields)
  /-- HASH64 (R114). Seeded 64-bit hash of each lane. -/
  | hash64 (f : GFields)
  /-- HCOMB (R114). Combines a hash with a further key field. -/
  | hcomb (f : GFields)
  /-- BUCKET (R115). Range-reduces a hash to a bucket number. -/
  | bucket (f : GFields)
  /-- BKHIST (R115). Adds keys of a 16-bucket window to a histogram. -/
  | bkhist (f : GFields)
  /-- BKSCAT (R115). Assigns stable destination slots and advances cursors. -/
  | bkscat (f : GFields)
  /-- SLEN (R117). Advances a string length scan over one token. -/
  | slen (f : GFields)
  /-- SCMP (R117). Advances a bytewise string comparison over one token. -/
  | scmp (f : GFields)
  /-- SPFX (R117). Advances a prefix test over one token. -/
  | spfx (f : GFields)
  /-- SFIND (R117). Advances a byte search over one token. -/
  | sfind (f : GFields)
  /-- SHASH (R117). Advances a string hash over one token. -/
  | shash (f : GFields)
  /-- ISECT (R119). Merges two coordinate streams by key, one comparison per cycle, emitting matched pairs and stops. -/
  | isect (f : GFields)
  /-- MOV (R109). Copies a whole token. -/
  | mov (f : GFields)
  /-- SEL (R109). Selects between tokens by predicate or mask. -/
  | sel (f : GFields)
  /-- CONST (R111). Delivers the immediate, firing without operands. -/
  | constI (f : GFields)
  /-- CONSTH (R109). Shifts a in by 16 bits and appends the immediate. -/
  | consth (f : GFields)
  /-- NUL (R111). Delivers a null token. -/
  | nul (f : GFields)
  /-- LANE (R109). Extracts one lane as a scalar. -/
  | lane (f : GFields)
  /-- INSL (R109). Replaces one lane. -/
  | insl (f : GFields)
  /-- BCAST (R109). Broadcasts element 0 to every lane. -/
  | bcast (f : GFields)
  /-- PERM (R109). Permutes lanes by an index token. -/
  | perm (f : GFields)
  /-- LROT (R109). Rotates lanes. -/
  | lrot (f : GFields)
  /-- REDADD (R110). Pairwise integer sum of all lanes. -/
  | redadd (f : GFields)
  /-- REDMIN (R110). Pairwise minimum of all lanes. -/
  | redmin (f : GFields)
  /-- REDMAX (R110). Pairwise maximum of all lanes. -/
  | redmax (f : GFields)
  /-- FREDADD (R110). Pairwise floating sum of all lanes. -/
  | fredadd (f : GFields)
  /-- BR (R160). Exit to a block at an offset from the own block address. -/
  | br (f : BFields)
  /-- BR_LEAVE (R154). Leave exit of a pinned block, ending iterations at the leaving iteration. -/
  | brLeave (f : BFields)
  /-- BR_MCHK (R148). Muster-check exit that completes a muster at once with the members present. -/
  | brMchk (f : BFields)
  /-- BRI (R160). Exit to the address in slot a. -/
  | bri (f : BFields)
  /-- LD (R164). Loads bytes from memory per the thread's memory order. -/
  | ld (f : LFields)
  /-- LD_RC (R165). Consuming load that reserves a unit of a counted line, spent at commit. -/
  | ldRc (f : LFields)
  /-- ST (R166). Store entering the store buffer at commit. -/
  | st (f : LFields)
  /-- ST_CNT (R166). Count fill writing a 64-byte line and its reader count. -/
  | stCnt (f : LFields)
  /-- GATH (R167). Gathers lanes from indexed addresses. -/
  | gath (f : LFields)
  /-- SCAT (R167). Scatters lanes to indexed addresses at commit. -/
  | scat (f : LFields)
  /-- STM (R168). Masked store of selected lanes. -/
  | stm (f : LFields)
  /-- PREF (R169). Data prefetch hint into L1 or L2. -/
  | pref (f : LFields)
  /-- PREF_CODE (R132). Code prefetch hint filling a block image into the block cache. -/
  | prefCode (f : LFields)
  /-- LDS (R171). Stream load that fires once per pinning and starts emitting stream tokens. -/
  | lds (f : LFields)
  /-- STQ (R172). Posted write-with-enqueue of a 64-byte record to a ring. -/
  | stq (f : LFields)
  /-- SPAWN (R175). Reserves a free context and starts a thread there at commit. -/
  | spawn (f : GFields)
  /-- QUIT (R176). Retires the context at commit, to Free or Draining. -/
  | quit (f : GFields)
  /-- YIELD (R177). Gives up frame candidacy for a while. -/
  | yield (f : GFields)
  /-- REPART (R178). Requests a new context layout of the core. -/
  | repart (f : GFields)
  /-- BIND (R180). Binds a message class to the issuing context. -/
  | bind (f : GFields)
  /-- UNBIND (R180). Unbinds a message class held by the issuer. -/
  | unbind (f : GFields)
  /-- SEND (R181). Sends a 64-byte message at commit, or faults SEND-FULL. -/
  | send (f : GFields)
  /-- RECV (R183). Removes the oldest message of a class, polls, or parks. -/
  | recv (f : GFields)
  /-- MCAST (R181). Sends one copy to each core holding a member of a group. -/
  | mcast (f : GFields)
  /-- WAITA (R185). Reads a word at its home or arms a watch on it. -/
  | waita (f : GFields)
  /-- GETC (R186). Reads a control register. -/
  | getc (f : GFields)
  /-- SETC (R187). Writes a control register at commit; writes to registers without their own row. -/
  | setc (f : GFields)
  /-- TRAP (R188). Raises a software trap after its block commits. -/
  | trap (f : GFields)
  /-- RETT (R189). Resumes a stopped context at the issuer's commit. -/
  | rett (f : GFields)
  /-- SYNCB (R133). Invalidates the block cache and squashes younger blocks at commit. -/
  | syncb (f : GFields)
  /-- LAUNCH (R191). Publishes at die scope and places a launch record address in the die launch queue. -/
  | launch (f : GFields)
  /-- MCOPY (R232). Checks and queues a mortar copy job. -/
  | mcopy (f : LFields)
  /-- MPUT (R236). Queues a mortar job writing scratchpad to a fabric window. -/
  | mput (f : LFields)
  /-- MGET (R236). Queues a mortar job reading a fabric window into scratchpad. -/
  | mget (f : LFields)
  /-- MQUERY (R237). Delivers the state of a mortar queue. -/
  | mquery (f : LFields)
  /-- TASK (R238). Reads and checks a task card that enters the task queue at commit. -/
  | task (f : LFields)
  /-- TDONE (R239). Retires the issuing task and quits. -/
  | tdone (f : LFields)
  /-- GBAR (R240). Arrives at a group barrier after a PHASE of the group's scope. -/
  | gbar (f : LFields)
  /-- GMCAST (R241). Queues a job writing 64 bytes to scratchpad of every member core. -/
  | gmcast (f : LFields)
  /-- MMA (R249). Matrix multiply-accumulate command into an accumulator. -/
  | mma (f : XFields)
  /-- ACCINIT (R252). Arms or frees an accumulator and zeroes it. -/
  | accinit (f : XFields)
  /-- ACCOUT (R253). Converts an accumulator to a scratchpad tile and clears it. -/
  | accout (f : XFields)
  /-- ACCCLR (R252). Clears an accumulator, keeping N. -/
  | accclr (f : XFields)
  /-- ACCQ (R255). Waits for earlier commands of an accumulator and delivers its status. -/
  | accq (f : XFields)
  /-- AADD (R315). Atomic integer add at the point of coherence. -/
  | aadd (f : LFields)
  /-- AMIN (R315). Atomic integer minimum. -/
  | amin (f : LFields)
  /-- AMAX (R315). Atomic integer maximum. -/
  | amax (f : LFields)
  /-- AAND (R315). Atomic AND. -/
  | aand (f : LFields)
  /-- AOR (R315). Atomic OR. -/
  | aor (f : LFields)
  /-- AXOR (R315). Atomic XOR. -/
  | axor (f : LFields)
  /-- AXCHG (R315). Atomic exchange. -/
  | axchg (f : LFields)
  /-- ACAS (R315). Atomic compare-and-swap. -/
  | acas (f : LFields)
  /-- AFADD (R315). Atomic floating add, nearest-even. -/
  | afadd (f : LFields)
  /-- AFMIN (R315). Atomic floating minimum. -/
  | afmin (f : LFields)
  /-- AFMAX (R315). Atomic floating maximum. -/
  | afmax (f : LFields)
  /-- PHASE (R321). Publishes and acquires at a scope at commit. -/
  | phase (f : LFields)
  /-- RCDECL (R322). Declares a counted region. -/
  | rcdecl (f : LFields)
  /-- RCEND (R323). Requests the end of a counted region. -/
  | rcend (f : LFields)
  /-- RCQ (R324). Reads a line's count at its home. -/
  | rcq (f : LFields)
  /-- RWB (R325). Writes back dirty bytes of a range at commit. -/
  | rwb (f : LFields)
  /-- RINV (R325). Writes back and invalidates a range at commit. -/
  | rinv (f : LFields)
  /-- RDISC (R326). Discards a range without write-back. -/
  | rdisc (f : LFields)
  /-- THNEW (R304). Creates a tile handle from a descriptor. -/
  | thnew (f : LFields)
  /-- THFREE (R301). Retires a tile handle at commit. -/
  | thfree (f : LFields)
  /-- TACQ (R306). Requests READ, WRITE or REDUCE tenure on a handle. -/
  | tacq (f : LFields)
  /-- TREL (R307). Releases tenure at commit. -/
  | trel (f : LFields)
  /-- TSPLIT (R308). Splits a handle along a dimension. -/
  | tsplit (f : LFields)
  /-- TQUERY (R309). Reads a descriptor word or tenure summary at the home. -/
  | tquery (f : LFields)
  /-- TARENA (R338). Makes a search-tree arena. -/
  | tarena (f : LFields)
  /-- TARENA_DESTROY (R338). Destroys an idle arena and publishes its nodes. -/
  | tarenaDestroy (f : LFields)
  /-- TSELECT (R333). Descends the tree under virtual loss to a leaf. -/
  | tselect (f : LFields)
  /-- TBATCH (R340). Pops pending leaves from the batch queue. -/
  | tbatch (f : LFields)
  /-- TEXPAND (R341). Installs the children of a node. -/
  | texpand (f : LFields)
  /-- TBACKUP (R334). Backs a value up from a leaf to the root. -/
  | tbackup (f : LFields)
  /-- TREROOT (R343). Makes a node the root and frees the rest. -/
  | treroot (f : LFields)
  /-- TSTAT (R344). Reads node or arena statistics. -/
  | tstat (f : LFields)
  /-- WSET (R396). Writes a fabric window at commit. -/
  | wset (f : LFields)
  /-- WGET (R396). Reads a fabric window. -/
  | wget (f : LFields)
  /-- COLL (R397). Checks a collective descriptor and starts the collective at commit. -/
  | coll (f : LFields)
  /-- CWAIT (R398). Waits for a collective's STATUS word. -/
  | cwait (f : LFields)
  /-- FLINK (R399). Reads the state of a fabric port. -/
  | flink (f : LFields)
  /-- ROUND (R73). Write of ROUND, taking effect at commit and squashing younger blocks. -/
  | round (f : GFields)
  /-- SEED (R73). Write of SEED after the block's draws, squashing younger blocks. -/
  | seed (f : GFields)
  /-- FE_CTL (R126). Write of FE.CTL, squashing younger blocks. -/
  | feCtl (f : GFields)
  /-- CORE_ERR (R127). Write of CORE.ERR storing its value in both counters. -/
  | coreErr (f : GFields)
  /-- TLB_INV (R283). Removes translations partition-wide and holds the issuer until done. -/
  | tlbInv (f : GFields)
  /-- PT_ROOT (R285). Sets the page-table root, acting as a full TLB invalidation. -/
  | ptRoot (f : GFields)
  /-- RC_LOGCTL (R285). Write of CAP resetting COUNT and LOST of the under-read log. -/
  | rcLogctl (f : GFields)
  /-- SPILL_CTL (R207). Enlarging the spill area lets stopped spilling resume. -/
  | spillCtl (f : GFields)
  /-- PART_CFG (R365). Configures a partition rectangle, refused on overlap or residency. -/
  | partCfg (f : GFields)
  /-- DIST_KILL (R363). Ends the named launch. -/
  | distKill (f : GFields)
  /-- LAUNCH_WINDOW_WRITE (R349). Host write covering bytes 0x078-0x07F enqueues the window record or drops it. -/
  | launchWindowWrite (die : Nat) (offset : Nat) (access : BarAccess)
  /-- WIN_DROP (R365). Host write clearing the dropped-record count. -/
  | winDrop (die : Nat)
  /-- PART_WAKE (R361). Host arms or disarms partition wakes. -/
  | partWake (die : Nat) (mask : Word)
  /-- KILN_RECOVERY_REQUEST (R377). Request 0x1 checks the image in the recovery buffer and resumes boot. -/
  | kilnRecoveryRequest
  /-- KILN_FLASH_REWRITE (R377). Request 0x2 rewrites boot flash with an accepted image. -/
  | kilnFlashRewrite
  /-- MODULE_NUMBER_SET (R374). Host writes the module number through the kiln mailbox. -/
  | moduleNumberSet (m : Nat)
  /-- POWER_LIMIT_SET (R380). Host sets the module power limit through the kiln mailbox. -/
  | powerLimitSet (watts : Nat)
  /-- ATTESTATION_REPORT (R378). SPDM request yields a dual-signed attestation report. -/
  | attestationReport (nonce : List Byte)
  /-- FRAME_GRANT (R130). Barrel scheduler grants a frame to a candidate context. -/
  | frameGrant (c : CtxId) (predicted : Option Word)
  /-- BLOCK_MAP (R128). Header and chunks are mapped into the frame once fetched. -/
  | blockMap (c : CtxId)
  /-- BLOCK_FETCH_FILL (R128). Block-cache line fill from the home slice or host completes. -/
  | blockFetchFill (c : CtxId) (line : Fill)
  /-- TOKEN_ARRIVAL (R11). A token reaches an operand slot or write slot after network delay. -/
  | tokenArrival (c : CtxId) (frame : Nat) (n : Nat) (upset : Upset)
  /-- TOKEN_RESEND (R135). Refused token is resent in the next cycle. -/
  | tokenResend (c : CtxId) (frame : Nat) (n : Nat) (parityError : Bool)
  /-- BLOCK_COMMIT (R27). Oldest complete block commits its writes and effects indivisibly. -/
  | blockCommit (c : CtxId)
  /-- FAULT_TAKEN (R29). Recorded fault of the oldest block is taken and the context stops. -/
  | faultTaken (c : CtxId)
  /-- BLOCK_INCOMPLETE_TIMEOUT (R30). 256 cycles without progress fault BLOCK-INCOMPLETE. -/
  | blockIncompleteTimeout (c : CtxId)
  /-- CONTEXT_PARK (R122). 64 cycles waiting only on external events park the context. -/
  | contextPark (c : CtxId)
  /-- CONTEXT_UNPARK (R122). Set ready bit returns a parked context to Running. -/
  | contextUnpark (c : CtxId)
  /-- YIELD_EXPIRY (R177). Yielding context becomes a frame candidate again after 64 cycles. -/
  | yieldExpiry (c : CtxId)
  /-- BRICK_GATE (R134). Brick gates off after 1,024 idle cycles. -/
  | brickGate (core : Nat) (brick : Nat)
  /-- REPART_APPLY (R124). At quiescence the layout change is accepted or refused. -/
  | repartApply (core : Nat)
  /-- ITERATION_COMMIT (R153). Oldest open iteration of a pinned block commits. -/
  | iterationCommit (c : CtxId)
  /-- LDS_EMIT (R171). Stream load emits its next data or stop token. -/
  | ldsEmit (c : CtxId) (index : Nat)
  /-- MUSTER_COMPLETE (R147). All members arrive at a muster and re-form. -/
  | musterComplete (cluster : Nat) (address : Word)
  /-- MESSAGE_ARRIVAL (R182). Message enters a receive queue, setting the ready bit. -/
  | messageArrival (c : CtxId) (n : Nat)
  /-- TRAP_RECORD_DELIVERY (R197). Fault record enters the handler's queue. -/
  | trapRecordDelivery (c : CtxId)
  /-- POSTED_ACK (R200). Target acknowledgement frees a journal entry. -/
  | postedAck (core : Nat) (entry : Nat)
  /-- POSTED_REFUSAL (R201). Refusal returns to the journal as REMOTE-REFUSED. -/
  | postedRefusal (core : Nat) (entry : Nat) (cause : Nat)
  /-- PREEMPTION (R203). Core saves all contexts to its save record. -/
  | preemption (core : Nat)
  /-- CONTEXT_RESTORE (R209). Saved state is reloaded. -/
  | contextRestore (core : Nat) (cycles : Nat)
  /-- QUANTUM_END (R358). Pre-empts a resident launch when the rule applies. -/
  | quantumEnd (die : Nat) (part : Nat)
  /-- JOB_START (R222). Queued mortar job becomes Active. -/
  | jobStart (core : Nat) (seq : Nat)
  /-- JOB_LAND (R220). Last payload byte lands; follow-on enters. -/
  | jobLand (core : Nat) (seq : Nat)
  /-- JOB_COMPLETE (R220). Completion word written; job Done. -/
  | jobComplete (core : Nat) (seq : Nat)
  /-- JOB_FAULT (R222). Faulting job is Suspended and reports asynchronously. -/
  | jobFault (core : Nat) (seq : Nat)
  /-- CARD_DISPATCH (R225). Ready card placed on a qualifying core with fetch jobs. -/
  | cardDispatch (cluster : Nat)
  /-- TASK_START (R225). Reserved context Running once fetch jobs Done. -/
  | taskStart (c : CtxId)
  /-- MATRIX_COMMAND_START (R245). M brick starts the oldest eligible command. -/
  | matrixCommandStart (core : Nat) (brick : Nat)
  /-- MATRIX_COMMAND_FINISH (R251). Matrix command finishes. -/
  | matrixCommandFinish (core : Nat) (brick : Nat)
  /-- PHASE_COMPLETE (R264). Publication acknowledgements arrive and clean lines are invalidated. -/
  | phaseComplete (c : CtxId)
  /-- L1_EVICTION (R262). Dirty L1 line carried home early. -/
  | l1Eviction (core : Nat) (line : Nat)
  /-- TENURE_GRANT (R302). Waiting acquire reaches the head and is granted. -/
  | tenureGrant (die : Nat) (part : Nat)
  /-- LEASE_EXPIRY (R268). READ lease ends and copies are dropped. -/
  | leaseExpiry (die : Nat) (part : Nat) (handle : Nat) (holder : Nat)
  /-- REGION_END (R276). Counted region ends, writing back and logging live lines. -/
  | regionEnd (die : Nat) (part : Nat) (region : Nat)
  /-- PAGE_WALK (R281). Die walker completes a merged table walk. -/
  | pageWalk (die : Nat) (part : Nat) (va : Nat)
  /-- HOST_ATS_INVALIDATE (R282). Host ATS invalidation removes cached HOST translations. -/
  | hostAtsInvalidate (va : Nat) (bytes : Nat)
  /-- HOST_BACK_INVALIDATE (R257). Host back-invalidates a CXL-attached memory line. -/
  | hostBackInvalidate (line : Nat)
  /-- HOST_MEM_REQUEST (R370). Host CXL.mem request carried to the line's home die. -/
  | hostMemRequest (address : Nat) (write : HostMem)
  /-- REMOTE_ACCESS (R386). Remote fabric access performed or refused at the target. -/
  | remoteAccess (die : Nat) (part : Nat) (va : Nat) (write : Option (List Byte))
  /-- COLLECTIVE_COMPLETE (R393). Collective results and STATUS written. -/
  | collectiveComplete (c : CtxId) (n : Nat)
  /-- FLIT_RETRY (R383). Flit failing its CRC retried at the link. -/
  | flitRetry (port : Nat)
  /-- PORT_RETRAIN (R384). Port losing lanes retrains narrower or goes down. -/
  | portRetrain (port : Nat) (lanes : Nat)
  /-- LOADER_TAKE (R347). Loader checks a queued launch record. -/
  | loaderTake (die : Nat)
  /-- GANG_RESERVE (R352). Distributor reserves cores and footprint. -/
  | gangReserve (die : Nat) (part : Nat)
  /-- GANG_COMMIT (R352). Reserved gang's threads start. -/
  | gangCommit (die : Nat) (part : Nat)
  /-- LAUNCH_COMPLETE (R350). Launch publishes, ends, writes status, pushes successor. -/
  | launchComplete (die : Nat) (lid : Nat)
  /-- QUIESCENCE_SAMPLE (R360). Every 512 cycles a sample pair is judged for quiescence. -/
  | quiescenceSample (die : Nat) (part : Nat)
  /-- CLUSTER_POWER_DOWN (R380). Idle cluster powers down after 100 µs. -/
  | clusterPowerDown (cluster : Nat)
  /-- POWER_THROTTLE (R380). 1 ms average adjusts the arithmetic clock. -/
  | powerThrottle (averageMilliwatts : Nat)
  /-- LINK_RETRAIN (R366). Die-to-die link retrains after an error. -/
  | linkRetrain (die : Nat) (neighbour : Nat) (succeeds : Bool)
  /-- BOOT (R375). Kiln releases dies and runs the boot steps. -/
  | boot
  /-- EFFECTIVE_PRIORITY_AGING (R351). A waiting launch's effective priority rises by one each time its waiting time passes another DIST.AGE interval, which can change the served launch and withdraw a held reservation. -/
  | effectivePriorityAging (die : Nat) (lid : Nat)
  /-- NODE_CACHE_EVICTION (R329). The search-tree engine evicts a node line from its node cache and writes it to its home slice, making those node values visible to program loads. -/
  | nodeCacheEviction (die : Nat) (arena : Nat) (node : Nat)
  /-- L2_EVICTION (R272). An L2 slice replaces an unpinned line and writes its dirty data back to HBM, fixing what later dropped or discarded lines read from HBM. -/
  | l2Eviction (line : Nat)
  /-- HOST_PORT_RETRAIN (R370). A host port that loses lanes retrains at x8 or x4, and CAP.PKG reports the new width. -/
  | hostPortRetrain (port : Nat) (width : Nat)
  deriving DecidableEq, Repr

end Sys2Proof
end

