-- ==== Sys2Proof/Machine/Rules.lean ====
section
/-! DEFINITION. What each instruction's entry accepts: its opcode, its slots, its element types, its flags, its
immediate and offset fields, its result and its effect-map bit, with the cause code of R54 for a breach. -/

namespace Sys2Proof

/-- The four formats' fields, or none for a machine event or a host action, which has no encoding (R43, R46, R48, R49). -/
inductive Fields where
  | g (f : GFields)
  | l (f : LFields)
  | b (f : BFields)
  | x (f : XFields)
  | event
  deriving DecidableEq, Repr

/-- The fields an instruction carries. -/
def Instr.fields : Instr → Fields
  | .add f => .g f
  | .sub f => .g f
  | .neg f => .g f
  | .abs f => .g f
  | .mul f => .g f
  | .mulh f => .g f
  | .mad f => .g f
  | .div f => .g f
  | .rem f => .g f
  | .minI f => .g f
  | .maxI f => .g f
  | .clamp f => .g f
  | .absd f => .g f
  | .avg f => .g f
  | .addc f => .g f
  | .subb f => .g f
  | .dot4 f => .g f
  | .sad f => .g f
  | .addp f => .g f
  | .subp f => .g f
  | .ptrf f => .g f
  | .ptrx f => .g f
  | .andB f => .g f
  | .orB f => .g f
  | .xorB f => .g f
  | .andn f => .g f
  | .orn f => .g f
  | .notB f => .g f
  | .shl f => .g f
  | .shr f => .g f
  | .sar f => .g f
  | .rol f => .g f
  | .ror f => .g f
  | .popc f => .g f
  | .clz f => .g f
  | .ctz f => .g f
  | .brev f => .g f
  | .bswap f => .g f
  | .bext f => .g f
  | .bins f => .g f
  | .ceq f => .g f
  | .cne f => .g f
  | .clt f => .g f
  | .cle f => .g f
  | .cgt f => .g f
  | .cge f => .g f
  | .cuo f => .g f
  | .testz f => .g f
  | .testnz f => .g f
  | .pand f => .g f
  | .por f => .g f
  | .pxor f => .g f
  | .pnot f => .g f
  | .anyl f => .g f
  | .alll f => .g f
  | .cmask f => .g f
  | .fadd f => .g f
  | .fsub f => .g f
  | .fmul f => .g f
  | .fdiv f => .g f
  | .fma f => .g f
  | .fms f => .g f
  | .fnma f => .g f
  | .fnms f => .g f
  | .fmin f => .g f
  | .fmax f => .g f
  | .fabs f => .g f
  | .fneg f => .g f
  | .fsqrt f => .g f
  | .fclass f => .g f
  | .fcpys f => .g f
  | .frcp f => .g f
  | .frsq f => .g f
  | .fexp2 f => .g f
  | .flog2 f => .g f
  | .fsin f => .g f
  | .fcos f => .g f
  | .ftanh f => .g f
  | .fsig f => .g f
  | .frnd f => .g f
  | .cvtf f => .g f
  | .cvtfi f => .g f
  | .cvtif f => .g f
  | .cvti f => .g f
  | .pack8 f => .g f
  | .unpk8 f => .g f
  | .packh f => .g f
  | .unpkh f => .g f
  | .ql6 f => .g f
  | .dql6 f => .g f
  | .l6mul f => .g f
  | .scalex f => .g f
  | .scalea f => .g f
  | .hash32 f => .g f
  | .hash64 f => .g f
  | .hcomb f => .g f
  | .bucket f => .g f
  | .bkhist f => .g f
  | .bkscat f => .g f
  | .slen f => .g f
  | .scmp f => .g f
  | .spfx f => .g f
  | .sfind f => .g f
  | .shash f => .g f
  | .isect f => .g f
  | .mov f => .g f
  | .sel f => .g f
  | .constI f => .g f
  | .consth f => .g f
  | .nul f => .g f
  | .lane f => .g f
  | .insl f => .g f
  | .bcast f => .g f
  | .perm f => .g f
  | .lrot f => .g f
  | .redadd f => .g f
  | .redmin f => .g f
  | .redmax f => .g f
  | .fredadd f => .g f
  | .br f => .b f
  | .brLeave f => .b f
  | .brMchk f => .b f
  | .bri f => .b f
  | .ld f => .l f
  | .ldRc f => .l f
  | .st f => .l f
  | .stCnt f => .l f
  | .gath f => .l f
  | .scat f => .l f
  | .stm f => .l f
  | .pref f => .l f
  | .prefCode f => .l f
  | .lds f => .l f
  | .stq f => .l f
  | .spawn f => .g f
  | .quit f => .g f
  | .yield f => .g f
  | .repart f => .g f
  | .bind f => .g f
  | .unbind f => .g f
  | .send f => .g f
  | .recv f => .g f
  | .mcast f => .g f
  | .waita f => .g f
  | .getc f => .g f
  | .setc f => .g f
  | .trap f => .g f
  | .rett f => .g f
  | .syncb f => .g f
  | .launch f => .g f
  | .mcopy f => .l f
  | .mput f => .l f
  | .mget f => .l f
  | .mquery f => .l f
  | .task f => .l f
  | .tdone f => .l f
  | .gbar f => .l f
  | .gmcast f => .l f
  | .mma f => .x f
  | .accinit f => .x f
  | .accout f => .x f
  | .accclr f => .x f
  | .accq f => .x f
  | .aadd f => .l f
  | .amin f => .l f
  | .amax f => .l f
  | .aand f => .l f
  | .aor f => .l f
  | .axor f => .l f
  | .axchg f => .l f
  | .acas f => .l f
  | .afadd f => .l f
  | .afmin f => .l f
  | .afmax f => .l f
  | .phase f => .l f
  | .rcdecl f => .l f
  | .rcend f => .l f
  | .rcq f => .l f
  | .rwb f => .l f
  | .rinv f => .l f
  | .rdisc f => .l f
  | .thnew f => .l f
  | .thfree f => .l f
  | .tacq f => .l f
  | .trel f => .l f
  | .tsplit f => .l f
  | .tquery f => .l f
  | .tarena f => .l f
  | .tarenaDestroy f => .l f
  | .tselect f => .l f
  | .tbatch f => .l f
  | .texpand f => .l f
  | .tbackup f => .l f
  | .treroot f => .l f
  | .tstat f => .l f
  | .wset f => .l f
  | .wget f => .l f
  | .coll f => .l f
  | .cwait f => .l f
  | .flink f => .l f
  | .round f => .g f
  | .seed f => .g f
  | .feCtl f => .g f
  | .coreErr f => .g f
  | .tlbInv f => .g f
  | .ptRoot f => .g f
  | .rcLogctl f => .g f
  | .spillCtl f => .g f
  | .partCfg f => .g f
  | .distKill f => .g f
  | .launchWindowWrite _ _ _ => .event
  | .winDrop _ => .event
  | .partWake _ _ => .event
  | .kilnRecoveryRequest => .event
  | .kilnFlashRewrite => .event
  | .moduleNumberSet _ => .event
  | .powerLimitSet _ => .event
  | .attestationReport _ => .event
  | .frameGrant _ _ => .event
  | .blockMap _ => .event
  | .blockFetchFill _ _ => .event
  | .tokenArrival _ _ _ _ => .event
  | .tokenResend _ _ _ _ => .event
  | .blockCommit _ => .event
  | .faultTaken _ => .event
  | .blockIncompleteTimeout _ => .event
  | .contextPark _ => .event
  | .contextUnpark _ => .event
  | .yieldExpiry _ => .event
  | .brickGate _ _ => .event
  | .repartApply _ => .event
  | .iterationCommit _ => .event
  | .ldsEmit _ _ => .event
  | .musterComplete _ _ => .event
  | .messageArrival _ _ => .event
  | .trapRecordDelivery _ => .event
  | .postedAck _ _ => .event
  | .postedRefusal _ _ _ => .event
  | .preemption _ => .event
  | .contextRestore _ _ => .event
  | .quantumEnd _ _ => .event
  | .jobStart _ _ => .event
  | .jobLand _ _ => .event
  | .jobComplete _ _ => .event
  | .jobFault _ _ => .event
  | .cardDispatch _ => .event
  | .taskStart _ => .event
  | .matrixCommandStart _ _ => .event
  | .matrixCommandFinish _ _ => .event
  | .phaseComplete _ => .event
  | .l1Eviction _ _ => .event
  | .tenureGrant _ _ => .event
  | .leaseExpiry _ _ _ _ => .event
  | .regionEnd _ _ _ => .event
  | .pageWalk _ _ _ => .event
  | .hostAtsInvalidate _ _ => .event
  | .hostBackInvalidate _ => .event
  | .hostMemRequest _ _ => .event
  | .remoteAccess _ _ _ _ => .event
  | .collectiveComplete _ _ => .event
  | .flitRetry _ => .event
  | .portRetrain _ _ => .event
  | .loaderTake _ => .event
  | .gangReserve _ _ => .event
  | .gangCommit _ _ => .event
  | .launchComplete _ _ => .event
  | .quiescenceSample _ _ => .event
  | .clusterPowerDown _ => .event
  | .powerThrottle _ => .event
  | .linkRetrain _ _ _ => .event
  | .boot => .event
  | .effectivePriorityAging _ _ => .event
  | .nodeCacheEviction _ _ _ => .event
  | .l2Eviction _ => .event
  | .hostPortRetrain _ _ => .event

/-- The full opcode, class × 0x40 + low bits (R52); 0 for an event. A row that is a form of another row's
instruction has that row's opcode. -/
def Instr.opcode : Instr → Nat
  | .add _ => 0x1
  | .sub _ => 0x2
  | .neg _ => 0x3
  | .abs _ => 0x4
  | .mul _ => 0x5
  | .mulh _ => 0x6
  | .mad _ => 0x7
  | .div _ => 0x8
  | .rem _ => 0x9
  | .minI _ => 0xa
  | .maxI _ => 0xb
  | .clamp _ => 0xc
  | .absd _ => 0xd
  | .avg _ => 0xe
  | .addc _ => 0xf
  | .subb _ => 0x10
  | .dot4 _ => 0x11
  | .sad _ => 0x12
  | .addp _ => 0x13
  | .subp _ => 0x14
  | .ptrf _ => 0x15
  | .ptrx _ => 0x16
  | .andB _ => 0x40
  | .orB _ => 0x41
  | .xorB _ => 0x42
  | .andn _ => 0x43
  | .orn _ => 0x44
  | .notB _ => 0x45
  | .shl _ => 0x46
  | .shr _ => 0x47
  | .sar _ => 0x48
  | .rol _ => 0x49
  | .ror _ => 0x4a
  | .popc _ => 0x4b
  | .clz _ => 0x4c
  | .ctz _ => 0x4d
  | .brev _ => 0x4e
  | .bswap _ => 0x4f
  | .bext _ => 0x50
  | .bins _ => 0x51
  | .ceq _ => 0x80
  | .cne _ => 0x81
  | .clt _ => 0x82
  | .cle _ => 0x83
  | .cgt _ => 0x84
  | .cge _ => 0x85
  | .cuo _ => 0x86
  | .testz _ => 0x87
  | .testnz _ => 0x88
  | .pand _ => 0x89
  | .por _ => 0x8a
  | .pxor _ => 0x8b
  | .pnot _ => 0x8c
  | .anyl _ => 0x8d
  | .alll _ => 0x8e
  | .cmask _ => 0x8f
  | .fadd _ => 0xc0
  | .fsub _ => 0xc1
  | .fmul _ => 0xc2
  | .fdiv _ => 0xc3
  | .fma _ => 0xc4
  | .fms _ => 0xc5
  | .fnma _ => 0xc6
  | .fnms _ => 0xc7
  | .fmin _ => 0xc8
  | .fmax _ => 0xc9
  | .fabs _ => 0xca
  | .fneg _ => 0xcb
  | .fsqrt _ => 0xcc
  | .fclass _ => 0xcd
  | .fcpys _ => 0xce
  | .frcp _ => 0x100
  | .frsq _ => 0x101
  | .fexp2 _ => 0x102
  | .flog2 _ => 0x103
  | .fsin _ => 0x104
  | .fcos _ => 0x105
  | .ftanh _ => 0x106
  | .fsig _ => 0x107
  | .frnd _ => 0x108
  | .cvtf _ => 0x109
  | .cvtfi _ => 0x10a
  | .cvtif _ => 0x10b
  | .cvti _ => 0x10c
  | .pack8 _ => 0x140
  | .unpk8 _ => 0x141
  | .packh _ => 0x142
  | .unpkh _ => 0x143
  | .ql6 _ => 0x144
  | .dql6 _ => 0x145
  | .l6mul _ => 0x146
  | .scalex _ => 0x147
  | .scalea _ => 0x148
  | .hash32 _ => 0x180
  | .hash64 _ => 0x181
  | .hcomb _ => 0x182
  | .bucket _ => 0x183
  | .bkhist _ => 0x184
  | .bkscat _ => 0x185
  | .slen _ => 0x186
  | .scmp _ => 0x187
  | .spfx _ => 0x188
  | .sfind _ => 0x189
  | .shash _ => 0x18a
  | .isect _ => 0x18b
  | .mov _ => 0x1c0
  | .sel _ => 0x1c1
  | .constI _ => 0x1c2
  | .consth _ => 0x1c3
  | .nul _ => 0x1c4
  | .lane _ => 0x1c5
  | .insl _ => 0x1c6
  | .bcast _ => 0x1c7
  | .perm _ => 0x1c8
  | .lrot _ => 0x1c9
  | .redadd _ => 0x1ca
  | .redmin _ => 0x1cb
  | .redmax _ => 0x1cc
  | .fredadd _ => 0x1cd
  | .br _ => 0x200
  | .brLeave _ => 0x200
  | .brMchk _ => 0x200
  | .bri _ => 0x201
  | .ld _ => 0x240
  | .ldRc _ => 0x240
  | .st _ => 0x241
  | .stCnt _ => 0x241
  | .gath _ => 0x242
  | .scat _ => 0x243
  | .stm _ => 0x244
  | .pref _ => 0x245
  | .prefCode _ => 0x245
  | .lds _ => 0x246
  | .stq _ => 0x247
  | .spawn _ => 0x280
  | .quit _ => 0x281
  | .yield _ => 0x282
  | .repart _ => 0x283
  | .bind _ => 0x284
  | .unbind _ => 0x284
  | .send _ => 0x285
  | .recv _ => 0x286
  | .mcast _ => 0x287
  | .waita _ => 0x288
  | .getc _ => 0x289
  | .setc _ => 0x28a
  | .trap _ => 0x28b
  | .rett _ => 0x28c
  | .syncb _ => 0x28d
  | .launch _ => 0x28e
  | .mcopy _ => 0x2c0
  | .mput _ => 0x2c1
  | .mget _ => 0x2c2
  | .mquery _ => 0x2c3
  | .task _ => 0x2c4
  | .tdone _ => 0x2c5
  | .gbar _ => 0x2c6
  | .gmcast _ => 0x2c7
  | .mma _ => 0x300
  | .accinit _ => 0x301
  | .accout _ => 0x302
  | .accclr _ => 0x303
  | .accq _ => 0x304
  | .aadd _ => 0x340
  | .amin _ => 0x341
  | .amax _ => 0x342
  | .aand _ => 0x343
  | .aor _ => 0x344
  | .axor _ => 0x345
  | .axchg _ => 0x346
  | .acas _ => 0x347
  | .afadd _ => 0x348
  | .afmin _ => 0x349
  | .afmax _ => 0x34a
  | .phase _ => 0x34b
  | .rcdecl _ => 0x34c
  | .rcend _ => 0x34d
  | .rcq _ => 0x34e
  | .rwb _ => 0x34f
  | .rinv _ => 0x350
  | .rdisc _ => 0x351
  | .thnew _ => 0x380
  | .thfree _ => 0x381
  | .tacq _ => 0x382
  | .trel _ => 0x383
  | .tsplit _ => 0x384
  | .tquery _ => 0x385
  | .tarena _ => 0x390
  | .tarenaDestroy _ => 0x390
  | .tselect _ => 0x391
  | .tbatch _ => 0x392
  | .texpand _ => 0x393
  | .tbackup _ => 0x394
  | .treroot _ => 0x395
  | .tstat _ => 0x396
  | .wset _ => 0x3c0
  | .wget _ => 0x3c1
  | .coll _ => 0x3c2
  | .cwait _ => 0x3c3
  | .flink _ => 0x3c4
  | .round _ => 0x28a
  | .seed _ => 0x28a
  | .feCtl _ => 0x28a
  | .coreErr _ => 0x28a
  | .tlbInv _ => 0x28a
  | .ptRoot _ => 0x28a
  | .rcLogctl _ => 0x28a
  | .spillCtl _ => 0x28a
  | .partCfg _ => 0x28a
  | .distKill _ => 0x28a
  | .launchWindowWrite _ _ _ => 0
  | .winDrop _ => 0
  | .partWake _ _ => 0
  | .kilnRecoveryRequest => 0
  | .kilnFlashRewrite => 0
  | .moduleNumberSet _ => 0
  | .powerLimitSet _ => 0
  | .attestationReport _ => 0
  | .frameGrant _ _ => 0
  | .blockMap _ => 0
  | .blockFetchFill _ _ => 0
  | .tokenArrival _ _ _ _ => 0
  | .tokenResend _ _ _ _ => 0
  | .blockCommit _ => 0
  | .faultTaken _ => 0
  | .blockIncompleteTimeout _ => 0
  | .contextPark _ => 0
  | .contextUnpark _ => 0
  | .yieldExpiry _ => 0
  | .brickGate _ _ => 0
  | .repartApply _ => 0
  | .iterationCommit _ => 0
  | .ldsEmit _ _ => 0
  | .musterComplete _ _ => 0
  | .messageArrival _ _ => 0
  | .trapRecordDelivery _ => 0
  | .postedAck _ _ => 0
  | .postedRefusal _ _ _ => 0
  | .preemption _ => 0
  | .contextRestore _ _ => 0
  | .quantumEnd _ _ => 0
  | .jobStart _ _ => 0
  | .jobLand _ _ => 0
  | .jobComplete _ _ => 0
  | .jobFault _ _ => 0
  | .cardDispatch _ => 0
  | .taskStart _ => 0
  | .matrixCommandStart _ _ => 0
  | .matrixCommandFinish _ _ => 0
  | .phaseComplete _ => 0
  | .l1Eviction _ _ => 0
  | .tenureGrant _ _ => 0
  | .leaseExpiry _ _ _ _ => 0
  | .regionEnd _ _ _ => 0
  | .pageWalk _ _ _ => 0
  | .hostAtsInvalidate _ _ => 0
  | .hostBackInvalidate _ => 0
  | .hostMemRequest _ _ => 0
  | .remoteAccess _ _ _ _ => 0
  | .collectiveComplete _ _ => 0
  | .flitRetry _ => 0
  | .portRetrain _ _ => 0
  | .loaderTake _ => 0
  | .gangReserve _ _ => 0
  | .gangCommit _ _ => 0
  | .launchComplete _ _ => 0
  | .quiescenceSample _ _ => 0
  | .clusterPowerDown _ => 0
  | .powerThrottle _ => 0
  | .linkRetrain _ _ _ => 0
  | .boot => 0
  | .effectivePriorityAging _ _ => 0
  | .nodeCacheEviction _ _ _ => 0
  | .l2Eviction _ => 0
  | .hostPortRetrain _ _ => 0

/-- The code of an element type (R42). -/
def ElemType.code : ElemType → Nat
  | .i8 => 0 | .i16 => 1 | .i32 => 2 | .i64 => 3 | .n8 => 4 | .n16 => 5 | .n32 => 6 | .n64 => 7
  | .f64 => 8 | .f32 => 9 | .bf16 => 10 | .f16 => 11 | .e4m3 => 12 | .e5m2 => 13 | .l6 => 14 | .l6s => 15

/-- The type of a code, taken modulo 16 (R42). -/
def elemOfCode (n : Nat) : ElemType :=
  match n % 16 with
  | 0 => .i8 | 1 => .i16 | 2 => .i32 | 3 => .i64 | 4 => .n8 | 5 => .n16 | 6 => .n32 | 7 => .n64
  | 8 => .f64 | 9 => .f32 | 10 => .bf16 | 11 => .f16 | 12 => .e4m3 | 13 => .e5m2 | 14 => .l6 | _ => .l6s

/-- The lane width in bits (R63); a packed block has 32. -/
def ElemType.width : ElemType → Nat
  | .i8 | .n8 | .e4m3 | .e5m2 | .l6 => 8
  | .i16 | .n16 | .bf16 | .f16 => 16
  | .i32 | .n32 | .f32 | .l6s => 32
  | .i64 | .n64 | .f64 => 64

/-- Signed integer types (R42). -/
def ElemType.signed : ElemType → Bool
  | .i8 | .i16 | .i32 | .i64 => true
  | _ => false

end Sys2Proof

namespace Sys2Proof.Machine

open Sys2Proof

/-! ## Type groups and codes -/

/-- The sixteen element types in the order of their codes (R42). -/
def elemTypes : List ElemType :=
  [.i8, .i16, .i32, .i64, .n8, .n16, .n32, .n64, .f64, .f32, .bf16, .f16, .e4m3, .e5m2, .l6, .l6s]

def tSInt : List ElemType := [.i8, .i16, .i32, .i64]
def tUInt : List ElemType := [.n8, .n16, .n32, .n64]
def tInt : List ElemType := tSInt ++ tUInt
def tFP : List ElemType := [.f64, .f32, .bf16, .f16]
def tFP8 : List ElemType := [.e4m3, .e5m2]
def tNone : List ElemType := [.i8]
def tNarrowFP : List ElemType := [.f32, .bf16, .f16]
def tLane : List ElemType := tInt ++ tFP ++ tFP8 ++ [.l6]

/-! ## Format G -/

/-- How an entry reads imm16 (R43, R45): as the immediate of the immediate form; as a lane
index, whatever the element type; as a field under a mask, whatever the flag; as CONST reads it; or by a check of its own. -/
inductive ImmUse where
  | plain
  | index
  | ptrf
  | mask (m : Nat)
  | below (n : Nat)
  | const_
  | convert (src : List ElemType)
  deriving DecidableEq, Repr

/-- What the entry of a format G instruction accepts. `slots`: the data slots in the register form. -/
structure GRule where
  slots   : List Slot
  types   : List ElemType
  sat     : Bool := false
  rnd     : Bool := false
  imm     : Bool := false
  wide    : Bool := false
  use     : ImmUse := .plain
  results : Nat := 2
  irrev   : Bool := false
  deriving DecidableEq, Repr

/-- The rows of R88, R93, R96, R99, R101 to R103, R105, R109 (chapter 4), R113, R115, R117, R118 (chapter 5)
and R174 (chapter 8). -/
def gRule : Instr → Option GRule
  | .add _ | .sub _ | .mul _ | .div _ => some { slots := [.a, .b], types := tInt, sat := true, imm := true, wide := true }
  | .neg _ => some { slots := [.a], types := tInt, sat := true, wide := true }
  | .abs _ => some { slots := [.a], types := tSInt, sat := true, wide := true }
  | .mulh _ | .rem _ | .minI _ | .maxI _ | .avg _ => some { slots := [.a, .b], types := tInt, imm := true, wide := true }
  | .mad _ => some { slots := [.a, .b, .c], types := tInt, sat := true, imm := true, wide := true }
  | .clamp _ => some { slots := [.a, .b, .c], types := tInt, imm := true, wide := true }
  | .absd _ => some { slots := [.a, .b], types := tInt, sat := true, wide := true }
  | .addc _ | .subb _ => some { slots := [.a, .b, .c], types := tUInt, imm := true, wide := true }
  | .dot4 _ => some { slots := [.a, .b, .c], types := [.i8, .n8], sat := true, wide := true }
  | .sad _ => some { slots := [.a, .b, .c], types := [.n8], wide := true }
  | .addp _ => some { slots := [.a, .b], types := tNone, imm := true }
  | .subp _ => some { slots := [.a, .b], types := tNone }
  | .ptrf _ => some { slots := [.a, .b], types := tNone, imm := true, use := .ptrf }
  | .ptrx _ => some { slots := [.a], types := tNone, use := .below 3 }
  | .andB _ | .orB _ | .xorB _ | .andn _ | .orn _ | .shr _ | .sar _ | .rol _ | .ror _ | .bext _ =>
      some { slots := [.a, .b], types := tInt, imm := true, wide := true }
  | .shl _ => some { slots := [.a, .b], types := tInt, sat := true, imm := true, wide := true }
  | .notB _ | .popc _ | .clz _ | .ctz _ | .brev _ | .bswap _ => some { slots := [.a], types := tInt, wide := true }
  | .bins _ => some { slots := [.a, .b, .c], types := tInt, imm := true, wide := true }
  | .ceq _ | .cne _ | .clt _ | .cle _ | .cgt _ | .cge _ =>
      some { slots := [.a, .b], types := tInt ++ tFP, imm := true, wide := true }
  | .cuo _ => some { slots := [.a, .b], types := tFP, imm := true, wide := true }
  | .testz _ | .testnz _ => some { slots := [.a, .b], types := tInt, imm := true, wide := true }
  | .pand _ | .por _ | .pxor _ => some { slots := [.a, .b], types := tNone, wide := true }
  | .pnot _ => some { slots := [.a], types := tNone, wide := true }
  | .anyl _ | .alll _ => some { slots := [.a], types := tInt }
  | .cmask _ => some { slots := [.a], types := tInt, imm := true }
  | .fadd _ | .fsub _ | .fmul _ | .fdiv _ =>
      some { slots := [.a, .b], types := tFP, sat := true, rnd := true, imm := true, wide := true }
  | .fma _ | .fms _ | .fnma _ | .fnms _ =>
      some { slots := [.a, .b, .c], types := tFP, sat := true, rnd := true, imm := true, wide := true }
  | .fmin _ | .fmax _ | .fcpys _ => some { slots := [.a, .b], types := tFP, imm := true, wide := true }
  | .fabs _ | .fneg _ | .fclass _ => some { slots := [.a], types := tFP, wide := true }
  | .fsqrt _ | .frcp _ | .frsq _ => some { slots := [.a], types := tFP, sat := true, rnd := true, wide := true }
  | .fexp2 _ | .flog2 _ | .fsin _ | .fcos _ | .ftanh _ | .fsig _ =>
      some { slots := [.a], types := tNarrowFP, sat := true, rnd := true, wide := true }
  | .frnd _ => some { slots := [.a], types := tFP, rnd := true, wide := true }
  | .cvtf _ => some { slots := [.a], types := tFP ++ tFP8 ++ [.l6], sat := true, rnd := true, wide := true,
                      use := .convert (tFP ++ tFP8 ++ [.l6]) }
  | .cvtfi _ => some { slots := [.a], types := tInt, sat := true, rnd := true, wide := true, use := .convert tFP }
  | .cvtif _ => some { slots := [.a], types := tFP, sat := true, rnd := true, wide := true, use := .convert tInt }
  | .cvti _ => some { slots := [.a], types := tInt, sat := true, wide := true, use := .convert tInt }
  | .pack8 _ => some { slots := [.a, .b], types := tFP8, sat := true, rnd := true }
  | .unpk8 _ => some { slots := [.a], types := tFP8, use := .mask 1 }
  | .packh _ => some { slots := [.a, .b], types := [.i16, .i32, .i64, .n16, .n32, .n64], sat := true }
  | .unpkh _ => some { slots := [.a], types := [.i8, .i16, .i32, .n8, .n16, .n32], use := .mask 1 }
  | .ql6 _ => some { slots := [.a, .b], types := [.l6s], sat := true, rnd := true, use := .mask 3 }
  | .dql6 _ => some { slots := [.a], types := [.l6s], sat := true, rnd := true, use := .mask 3 }
  | .l6mul _ => some { slots := [.a, .b], types := [.l6], sat := true, rnd := true, imm := true, wide := true }
  | .scalex _ => some { slots := [.a, .b], types := tFP, sat := true, rnd := true, imm := true, wide := true }
  | .scalea _ => some { slots := [.a, .b], types := [.l6s], sat := true }
  | .hash32 _ => some { slots := [.a, .b], types := [.n32], imm := true, wide := true }
  | .hash64 _ => some { slots := [.a, .b], types := [.n64], imm := true, wide := true }
  | .hcomb _ | .bucket _ => some { slots := [.a, .b], types := [.n32, .n64], imm := true, wide := true }
  | .bkhist _ => some { slots := [.a, .b, .c], types := [.n32], sat := true, imm := true }
  | .bkscat _ => some { slots := [.a, .b, .c], types := [.n32], imm := true }
  | .slen _ | .shash _ => some { slots := [.a, .c], types := [.n8], use := .mask 0x1FF }
  | .scmp _ | .spfx _ | .sfind _ => some { slots := [.a, .b, .c], types := [.n8], use := .mask 0x1FF }
  | .isect _ => some { slots := [.a, .b], types := tNone }
  | .mov _ => some { slots := [.a], types := tNone }
  | .sel _ => some { slots := [.a, .b, .c], types := tNone, wide := true }
  | .constI _ => some { slots := [], types := tLane, wide := true, use := .const_ }
  | .consth _ => some { slots := [.a], types := tNone, use := .mask 0xFFFF }
  | .nul _ => some { slots := [], types := tNone }
  | .lane _ => some { slots := [.a, .b], types := tLane, imm := true, use := .index }
  | .insl _ => some { slots := [.a, .b, .c], types := tLane, imm := true, use := .index }
  | .bcast _ => some { slots := [.a], types := tLane }
  | .perm _ => some { slots := [.a, .b], types := tLane }
  | .lrot _ => some { slots := [.a, .b], types := tLane, imm := true, use := .index }
  | .redadd _ => some { slots := [.a], types := tInt, sat := true }
  | .redmin _ | .redmax _ => some { slots := [.a], types := tInt ++ tFP }
  | .fredadd _ => some { slots := [.a], types := tFP, sat := true, rnd := true }
  | .spawn _ => some { slots := [.a, .b, .c], types := tNone }
  | .quit _ | .yield _ | .syncb _ => some { slots := [], types := tNone, results := 0 }
  | .repart _ | .launch _ => some { slots := [.a], types := tNone, results := 0 }
  | .bind _ | .unbind _ => some { slots := [], types := tNone, use := .mask 0x11F, irrev := true }
  | .send _ | .mcast _ => some { slots := [.a, .b], types := tNone, use := .mask 1, results := 0 }
  | .recv _ => some { slots := [], types := tNone, use := .mask 0x11F, irrev := true }
  | .waita _ => some { slots := [.a, .b], types := tNone, irrev := true }
  | .getc _ => some { slots := [], types := tNone, use := .mask 0xFFF }
  | .setc _ | .round _ | .seed _ | .feCtl _ | .coreErr _ | .tlbInv _ | .ptRoot _ | .rcLogctl _ | .spillCtl _
  | .partCfg _ | .distKill _ => some { slots := [.a], types := tNone, use := .mask 0xFFF }
  | .trap _ => some { slots := [.a], types := tNone, use := .mask 0xFF, results := 0 }
  | .rett _ => some { slots := [.a], types := tNone, irrev := true }
  | _ => none

/-- imm16 of a `.l6` immediate: bits [7:6] and [15:14] are reserved (R45). -/
def l6ImmOk (ty : ElemType) (imm : Nat) : Bool :=
  ty != .l6 || (imm / 64 % 4 == 0 && imm / 16384 % 4 == 0)

/-- The cause of a bad imm16 (R43, R45, R92, R103, R106, R107, R116, R174). `acc`: the instruction is a running
accumulator, whose imm16 is its release field (R156); PTRX refuses the values above 2 there too (R92; DEDUCED, log entry
68). DESIGN CHOICE (log entry 101): a reserved bit of a `.l6` immediate (R45) gets 0x0C. -/
def immCauses (u : ImmUse) (f : GFields) (acc : Bool) : List Nat :=
  let v := f.imm16.toNat
  match u with
  | .plain =>
      if f.imm then (if f.ty != .l6s && l6ImmOk f.ty v then [] else [0x0C])
      else if v == 0 || acc then [] else [0x0C]
  | .index => if f.imm || v == 0 then [] else [0x0C]
  | .ptrf => if f.imm then (if v < 1024 then [] else [0x0C]) else if v == 0 || acc then [] else [0x0C]
  | .mask m => if v &&& m == v then [] else [0x0C]
  | .below n => if v < n then [] else [0x0C]
  | .const_ => if l6ImmOk f.ty v then [] else [0x0C]
  | .convert src =>
      let st := elemOfCode v
      let p := v / 16 % 8
      let ws := st.width
      let wd := f.ty.width
      let h := max ws wd / min ws wd
      (if src.contains st then [] else [0x0D])
        ++ (if v < 128 && p < h && (f.wide || p == 0) then [] else [0x0C])

/-- The causes that the fields of a format G instruction raise by themselves (R44, R84, R112, R118, R174). -/
def gCauses (r : GRule) (f : GFields) (acc isStream : Bool) : List Nat :=
  (if r.types.contains f.ty then [] else [0x0D])
    ++ (if (f.sat && !r.sat) || (f.rnd != .context && !r.rnd) || (f.imm && !r.imm) || (f.wide && !r.wide)
        then [0x0C] else [])
    ++ immCauses r.use f acc
    ++ (if r.results == 0 && (f.t0 != .none || f.t1 != .none) then [0x06] else [])
    ++ (if (f.t0 == .none && f.tag0 != .same) || (f.t1 == .none && f.tag1 != .same) then [0x06] else [])
    ++ (if isStream && f.pm != .always then [0x07] else [])

/-- The data slots an instruction in format G uses, its immediate form considered (R14, R98). -/
def gSlots (i : Instr) (r : GRule) (f : GFields) : List Slot :=
  if f.imm then
    match i with
    | .cmask _ => []
    | _ => r.slots.filter (· != .b)
  else r.slots

/-! ## Format L -/

/-- The effect-map bit an entry states (R21). -/
inductive MapUse where
  | set | clear
  deriving DecidableEq, Repr

/-- What the entry of a format L instruction accepts. `mc`: the memory-control bits accepted, as a mask;
`off`: the offset bits accepted, as a mask; `plain`: cache policy and path hint must be zero. -/
structure LRule where
  slots   : List Slot
  types   : List ElemType := tNone
  mc      : Nat := 0
  off     : Nat := 0
  cache   : Bool := false
  hint    : Bool := false
  result  : Bool := false
  map     : MapUse := .set
  irrev   : Bool := false
  deriving DecidableEq, Repr

def offAny : Nat := 0xFFFFFF

def tAtomic : List ElemType := [.i32, .n32, .i64, .n64]

/-- The rows of R162 to R172 (chapter 8), R231 (chapter 11), R303 (chapter 13), R312 (chapter 14), R337
(chapter 15) and R395 (chapter 18). -/
def lRule : Instr → Option LRule
  | .ld _ => some { slots := [.a], types := elemTypes, off := offAny, cache := true, hint := true, result := true, map := .clear }
  | .ldRc _ => some { slots := [.a], types := elemTypes, mc := 8, off := offAny, cache := true, hint := true, result := true }
  | .st _ => some { slots := [.a, .b], types := elemTypes, off := offAny, cache := true, hint := true }
  | .stCnt _ => some { slots := [.a, .b, .c], types := [.l6s], mc := 4, off := offAny, cache := true, hint := true }
  | .gath _ => some { slots := [.a, .b], types := [.i32, .n32, .f32, .i64, .n64, .f64], off := offAny, cache := true,
                      hint := true, result := true, map := .clear }
  | .scat _ => some { slots := [.a, .b, .c], types := [.i32, .n32, .f32, .i64, .n64, .f64], off := offAny,
                      cache := true, hint := true }
  | .stm _ => some { slots := [.a, .b, .c], types := tInt ++ tFP ++ tFP8, off := offAny, cache := true, hint := true }
  | .pref _ | .prefCode _ => some { slots := [.a], types := elemTypes, off := offAny, cache := true, hint := true, map := .clear }
  | .lds _ => some { slots := [.a, .b], types := elemTypes, off := offAny, cache := true, hint := true, result := true, map := .clear }
  | .stq _ => some { slots := [.a, .b], types := [.l6s], off := offAny, cache := true, hint := true }
  | .mcopy _ | .mput _ | .mget _ => some { slots := [.a, .b], off := offAny, cache := true, hint := true }
  | .mquery _ => some { slots := [], off := 0xF, result := true, map := .clear }
  | .task _ => some { slots := [.a], off := offAny, cache := true, hint := true }
  | .tdone _ => some { slots := [] }
  | .gbar _ => some { slots := [], off := 0xFF, result := true, irrev := true }
  | .gmcast _ => some { slots := [.a, .b], off := 0xFF }
  | .aadd f | .amin f | .amax f | .aand f | .aor f | .axor f | .axchg f =>
      some { slots := if f.mc.getLsbD 0 then [.a, .b, .c] else [.a, .b], types := tAtomic, mc := 15, off := offAny,
             hint := true, result := f.mc.getLsbD 3, irrev := true }
  | .acas f => some { slots := [.a, .b, .c], types := tAtomic, mc := 14, off := offAny, hint := true,
                      result := f.mc.getLsbD 3, irrev := true }
  | .afadd f | .afmin f | .afmax f =>
      some { slots := [.a, .b], types := [.f32, .f64], mc := 14, off := offAny, hint := true,
             result := f.mc.getLsbD 3, irrev := true }
  | .phase _ => some { slots := [], off := 3, hint := true }
  | .rcdecl _ => some { slots := [.a, .b], hint := true, result := true, irrev := true }
  | .rcend _ => some { slots := [.a], hint := true, result := true, irrev := true }
  | .rcq _ => some { slots := [.a], off := offAny, hint := true, result := true, map := .clear }
  | .rwb _ | .rinv _ => some { slots := [.a, .b], off := offAny, hint := true }
  | .rdisc _ => some { slots := [.a, .b], off := offAny, hint := true, irrev := true }
  | .thnew _ => some { slots := [.a], result := true, irrev := true }
  | .thfree _ | .trel _ => some { slots := [.a] }
  | .tacq _ => some { slots := [.a], off := 0xFF, result := true, irrev := true }
  | .tsplit _ => some { slots := [.a], off := 0xFFFF03, result := true, irrev := true }
  | .tquery _ => some { slots := [.a], off := 0xF, result := true, map := .clear }
  | .tarena _ | .tarenaDestroy _ => some { slots := [.a, .b], off := 1, result := true, irrev := true }
  | .tselect _ | .treroot _ => some { slots := [.a], result := true, irrev := true }
  | .tbatch _ => some { slots := [.a, .b], off := 0x7F, result := true, irrev := true }
  | .texpand _ => some { slots := [.a, .b, .c], result := true, irrev := true }
  | .tbackup _ => some { slots := [.a, .b], result := true, irrev := true }
  | .tstat _ => some { slots := [.a], off := 7, result := true, map := .clear }
  | .wset _ => some { slots := [.a], off := 0x3F }
  | .wget _ => some { slots := [], off := 0x3F, result := true, map := .clear }
  | .coll _ => some { slots := [.a], off := offAny }
  | .cwait _ => some { slots := [.a], off := offAny, result := true, irrev := true }
  | .flink _ => some { slots := [], off := 0xF, result := true, map := .clear }
  | _ => none

/-- The checks of an entry on its offset field beyond the mask (R306, R309, R337). -/
def offsetOk (i : Instr) (f : LFields) : Bool :=
  let v := f.off.toNat
  match i with
  | .tacq _ =>
      let kind := v % 4
      let op := v / 4 % 4
      let fmt := v / 16 % 16
      if kind == 0 then false
      else if kind == 3 then op != 3 && [9, 2, 6, 3, 7].contains fmt
      else op == 0 && fmt == 0
  | .tquery _ => v ≤ 8
  | .tbatch _ => 1 ≤ v && v ≤ 64
  | .tstat _ => v ≤ 6
  | _ => true

/-- The causes that the fields of a format L instruction raise by themselves (R46, R47, R166, R170, R231, R303,
R306, R309, R313, R337, R395). -/
def lCauses (i : Instr) (r : LRule) (f : LFields) : List Nat :=
  (if r.types.contains f.ty then [] else [0x0D])
    ++ (if f.mc.toNat &&& r.mc == f.mc.toNat then [] else [0x0C])
    ++ (if f.off.toNat &&& r.off == f.off.toNat && offsetOk i f then [] else [0x0C])
    ++ (if (f.cache != 0 && !r.cache) || (f.hint != 0 && !r.hint) then [0x0C] else [])
    ++ (if r.irrev && r.mc &&& 8 != 0 && f.mc.getLsbD 2 && !f.mc.getLsbD 3 then [0x0C] else [])
    ++ (if !r.result && f.t0 != .none then [0x06] else [])
    ++ (match i with
        | .lds _ => if f.pm != .always then [0x07] else []
        | _ => [])

/-! ## Formats B and X -/

/-- The causes that the fields of an exit raise by themselves (R48). -/
def bCauses (i : Instr) (f : BFields) : List Nat :=
  let set := [f.call, f.ret, f.leave, f.mchk].filter id
  match i with
  | .bri _ => if set.length ≤ 1 && f.off == 0 then [] else [0x0A]
  | _ => if set.length ≤ 1 && !f.ret then [] else [0x0A]

/-- The type pairs MMA accepts (R246). -/
def mmaPairOk (a b : ElemType) : Bool :=
  (([.l6, .l6s] : List ElemType).contains a && ([.l6, .l6s] : List ElemType).contains b)
    || (tFP8.contains a && tFP8.contains b) || (a == .bf16 && b == .bf16) || (a == .f16 && b == .f16)

/-- The data slots a format X instruction uses (R242). -/
def xSlots : Instr → List Slot
  | .mma _ | .accout _ => [.a, .b]
  | _ => []

/-- The causes that the fields of a format X instruction raise by themselves (R242). -/
def xCauses (i : Instr) (f : XFields) : List Nat :=
  let sh := f.shape.toNat
  let fl := f.flags.toNat
  let plain := f.ta == .i8 && f.tb == .i8
  match i with
  | .mma _ =>
      (if mmaPairOk f.ta f.tb then [] else [0x0D])
        ++ (if sh % 16 == 0 && fl ≤ 1 && (fl == 1 || (sh / 1024 ≤ 56 && sh / 16 % 64 ≤ 56)) then [] else [0x0C])
        ++ (if f.t0 == .none then [] else [0x06])
  | .accinit _ => (if plain then [] else [0x0D]) ++ (if fl == 0 then [] else [0x0C])
        ++ (if f.t0 == .none then [] else [0x06])
  | .accout _ =>
      (if ([.f32, .bf16, .f16, .e4m3, .e5m2, .l6s] : List ElemType).contains f.ta && f.tb == .i8 then [] else [0x0D])
        ++ (if fl % 8 == 0 && sh / 4096 ≤ 8 && (f.ta != .l6s || (sh % 64 + 1) % 4 == 0) then [] else [0x0C])
        ++ (if f.t0 == .none then [] else [0x06])
  | .accclr _ => (if plain then [] else [0x0D]) ++ (if fl == 0 && sh == 0 then [] else [0x0C])
        ++ (if f.t0 == .none then [] else [0x06])
  | .accq _ => (if plain then [] else [0x0D]) ++ (if fl == 0 && sh == 0 then [] else [0x0C])
  | _ => []

/-! ## Common questions about an instruction -/

/-- The causes an instruction raises by its own fields; `acc` as in `immCauses`. -/
def ownCauses (i : Instr) (acc : Bool) : List Nat :=
  match i.fields with
  | .g f =>
    match gRule i with
    | some r => gCauses r f acc (match i with | .isect _ => true | _ => false)
    | none => [0x04]
  | .l f =>
    match lRule i with
    | some r => lCauses i r f
    | none => [0x04]
  | .b f => bCauses i f
  | .x f => xCauses i f
  | .event => []

/-- The data slots an instruction uses (R14). -/
def dataSlots (i : Instr) : List Slot :=
  match i.fields with
  | .g f => ((gRule i).map (gSlots i · f)).getD []
  | .l _ => ((lRule i).map (·.slots)).getD []
  | .b _ =>
    match i with
    | .bri _ => [.a]
    | _ => []
  | .x _ => xSlots i
  | .event => []

/-- The predicate mode of an instruction (R43, R46, R48, R49). -/
def predMode (i : Instr) : PredMode :=
  match i.fields with
  | .g f => f.pm
  | .l f => f.pm
  | .b f => f.pm
  | .x f => f.pm
  | .event => .always

/-- Every slot an instruction uses: its data slots, and p exactly when it is predicated (R14). -/
def usedSlots (i : Instr) : List Slot :=
  dataSlots i ++ (if predMode i == .always then [] else [.p])

/-- The entry states that the instruction is always irrevocable (R26, R35). -/
def alwaysIrrevocable (i : Instr) : Bool :=
  match i.fields with
  | .g _ => ((gRule i).map (·.irrev)).getD false
  | .l _ => ((lRule i).map (·.irrev)).getD false
  | .x _ =>
    match i with
    | .accq _ => true
    | _ => false
  | _ => false

/-- The LSID of a format L instruction (R46). -/
def lsidOf (i : Instr) : Option Nat :=
  match i.fields with
  | .l f => some f.lsid.toNat
  | _ => none

/-- The instruction's LSID bit in the effect map must be set (R21). -/
def hasEffect (i : Instr) : Bool :=
  match lRule i with
  | some r => r.map == .set
  | none => false

/-- The targets an instruction names with their tag arithmetic (R40, R41). -/
def targetsOf (i : Instr) : List (Target × TagArith) :=
  match i.fields with
  | .g f => [(f.t0, f.tag0), (f.t1, f.tag1)]
  | .l f => [(f.t0, .same)]
  | .x f => [(f.t0, .same)]
  | _ => []

end Sys2Proof.Machine
end

