-- ==== Sys2Proof/WellFormed.lean ====
section
/-! DEFINITION. When an instruction is well-formed by itself: its constructor is the one its distinguishing bits
give it, and its fields raise no cause of R54. What depends on the block around it is in Machine/Validate.lean. -/

namespace Sys2Proof

open Sys2Proof.Machine

/-- The SETC registers that have a row of their own in the opcode table. -/
def ownRowRegister (n : Nat) : Bool :=
  n == 0x004 || n == 0x006 || n == 0x008 || n == 0x009 || n == 0x013 || n == 0x023 || n == 0x024 || n == 0x025
    || n == 0x035 || (0x038 ≤ n && n ≤ 0x03F)

/-- The constructor agrees with the bits that tell it from the other rows of its opcode. -/
def Instr.canonical : Instr → Bool
  | .br f => !f.leave && !f.mchk
  | .brLeave f => f.leave
  | .brMchk f => f.mchk && !f.leave
  | .ld f => !f.mc.getLsbD 3
  | .ldRc f => f.mc.getLsbD 3
  | .st f => !f.mc.getLsbD 2
  | .stCnt f => f.mc.getLsbD 2
  | .pref f => f.cache != 3
  | .prefCode f => f.cache == 3
  | .bind f => !f.imm16.getLsbD 8
  | .unbind f => f.imm16.getLsbD 8
  | .tarena f => !f.off.getLsbD 0
  | .tarenaDestroy f => f.off.getLsbD 0
  | .round f => f.imm16.toNat % 4096 == 0x008
  | .seed f => f.imm16.toNat % 4096 == 0x009
  | .feCtl f => f.imm16.toNat % 4096 == 0x004
  | .coreErr f => f.imm16.toNat % 4096 == 0x006
  | .tlbInv f => f.imm16.toNat % 4096 == 0x024
  | .ptRoot f => f.imm16.toNat % 4096 == 0x025
  | .rcLogctl f => f.imm16.toNat % 4096 == 0x023
  | .spillCtl f => f.imm16.toNat % 4096 == 0x013
  | .partCfg f => 0x038 ≤ f.imm16.toNat % 4096 && f.imm16.toNat % 4096 ≤ 0x03F
  | .distKill f => f.imm16.toNat % 4096 == 0x035
  | .setc f => !ownRowRegister (f.imm16.toNat % 4096)
  | _ => true

/-- The form of a running accumulator (R156), its own index aside: class 0x0, 0x1 or 0x3, no immediate, target 1 a
slot a with tag arithmetic next, imm16 nonzero. -/
def Instr.accForm (i : Instr) : Bool :=
  match i.fields with
  | .g f =>
      let c := i.opcode / 64
      (c == 0 || c == 1 || c == 3) && !f.imm && f.imm16 != 0 && f.tag1 == .next
        && (match f.t1 with
            | .operand .a _ => true
            | _ => false)
  | _ => false

/-- An instruction a block may hold, as far as its own word says (R54): no event or host action. -/
def Instr.wf (i : Instr) : Bool :=
  i.canonical && i.fields != .event && (ownCauses i i.accForm).isEmpty

end Sys2Proof
end

