-- ==== Sys2Proof/Decode.lean ====
section
/-! DEFINITION. Decoding a 64-bit instruction word (R40 to R53), total and rejecting by name, and the encoder. -/

namespace Sys2Proof

open Sys2Proof.Machine

/-- Why a word is no instruction. -/
inductive DecodeError where
  /-- The empty encoding (R50). -/
  | empty
  /-- Cause 0x04: an unassigned opcode, or opcode 0x000 with other bits set (R50, R53). -/
  | unassigned
  /-- Cause 0x03: a reserved field is nonzero (R3). -/
  | reserved
  /-- Cause 0x06: a target field or a tag-arithmetic field is in error (R40, R41). -/
  | target
  /-- Cause 0x07: predicate mode 11 (R43). -/
  | predicate
  deriving DecidableEq, Repr

/-- The cause code of R54; the empty encoding is no fault by itself. -/
def DecodeError.cause : DecodeError → Nat
  | .empty => 0x00
  | .unassigned => 0x04
  | .reserved => 0x03
  | .target => 0x06
  | .predicate => 0x07

/-- Bits [lo+n-1:lo] of a word. -/
def bitsAt (w : Word) (lo n : Nat) : BitVec n := (w >>> lo).setWidth n

/-- One bit of a word. -/
def bitAt (w : Word) (k : Nat) : Bool := w.getLsbD k

/-! ## Field codes -/

def PredMode.code : PredMode → BitVec 2
  | .always => 0
  | .onTrue => 1
  | .onFalse => 2

/-- A predicate mode (R43); 11 is an error and is read as none. -/
def predOfCode (c : BitVec 2) : PredMode :=
  if c == 1 then .onTrue else if c == 2 then .onFalse else .always

def Slot.code : Slot → BitVec 2
  | .a => 0
  | .b => 1
  | .c => 2
  | .p => 3

def slotOfCode (c : BitVec 2) : Slot :=
  if c == 0 then .a else if c == 1 then .b else if c == 2 then .c else .p

/-- The eleven bits of a target field (R40). -/
def Target.code : Target → BitVec 11
  | .none => 0
  | .operand s n => (1#2) ++ s.code ++ n
  | .write w => (2#2) ++ (0#4) ++ w

/-- A target field (R40); a field in error is read as none. -/
def targetOfCode (c : BitVec 11) : Target :=
  if c.extractLsb' 9 2 == 1 then .operand (slotOfCode (c.extractLsb' 7 2)) (c.extractLsb' 0 7)
  else if c.extractLsb' 9 2 == 2 then .write (c.extractLsb' 0 5)
  else .none

/-- The errors of a target field: kind 11, and nonzero reserved bits of kinds 00 and 10 (R40). -/
def targetErrors (c : BitVec 11) : List DecodeError :=
  if c.extractLsb' 9 2 == 3 then [.target]
  else if c.extractLsb' 9 2 == 0 && c != 0 then [.reserved]
  else if c.extractLsb' 9 2 == 2 && c.extractLsb' 5 4 != 0 then [.reserved]
  else []

def TagArith.code : TagArith → BitVec 2
  | .same => 0
  | .next => 1
  | .out => 2

def tagOfCode (c : BitVec 2) : TagArith :=
  if c == 1 then .next else if c == 2 then .out else .same

def RoundOvr.code : RoundOvr → BitVec 2
  | .context => 0
  | .nearest => 1
  | .zero => 2
  | .stochastic => 3

def roundOfCode (c : BitVec 2) : RoundOvr :=
  if c == 0 then .context else if c == 1 then .nearest else if c == 2 then .zero else .stochastic

def predErrors (c : BitVec 2) : List DecodeError := if c == 3 then [.predicate] else []

def tagErrors (c : BitVec 2) : List DecodeError := if c == 3 then [.target] else []

/-! ## The four formats -/

/-- Format G (R43, R44). -/
def gOfWord (w : Word) : GFields where
  ty := elemOfCode (bitsAt w 50 4).toNat
  pm := predOfCode (bitsAt w 48 2)
  t0 := targetOfCode (bitsAt w 37 11)
  t1 := targetOfCode (bitsAt w 26 11)
  tag0 := tagOfCode (bitsAt w 24 2)
  tag1 := tagOfCode (bitsAt w 22 2)
  uniform := bitAt w 21
  sat := bitAt w 20
  rnd := roundOfCode (bitsAt w 18 2)
  imm := bitAt w 17
  wide := bitAt w 16
  imm16 := bitsAt w 0 16

def gErrors (w : Word) : List DecodeError :=
  predErrors (bitsAt w 48 2) ++ targetErrors (bitsAt w 37 11) ++ targetErrors (bitsAt w 26 11)
    ++ tagErrors (bitsAt w 24 2) ++ tagErrors (bitsAt w 22 2)

/-- Format L (R46). -/
def lOfWord (w : Word) : LFields where
  ty := elemOfCode (bitsAt w 50 4).toNat
  pm := predOfCode (bitsAt w 48 2)
  t0 := targetOfCode (bitsAt w 37 11)
  lsid := bitsAt w 32 5
  cache := bitsAt w 30 2
  hint := bitsAt w 28 2
  mc := bitsAt w 24 4
  off := bitsAt w 0 24

def lErrors (w : Word) : List DecodeError :=
  predErrors (bitsAt w 48 2) ++ targetErrors (bitsAt w 37 11)

/-- Format B (R48). -/
def bOfWord (w : Word) : BFields where
  pm := predOfCode (bitsAt w 48 2)
  exit := bitsAt w 45 3
  call := bitAt w 44
  ret := bitAt w 43
  leave := bitAt w 42
  mchk := bitAt w 41
  off := bitsAt w 8 32

def bErrors (w : Word) : List DecodeError :=
  predErrors (bitsAt w 48 2)
    ++ (if bitsAt w 50 4 != 0 || bitAt w 40 || bitsAt w 0 8 != 0 then [.reserved] else [])

/-- Format X (R49). -/
def xOfWord (w : Word) : XFields where
  ta := elemOfCode (bitsAt w 50 4).toNat
  tb := elemOfCode (bitsAt w 46 4).toNat
  acc := bitsAt w 43 3
  t0 := targetOfCode (bitsAt w 32 11)
  shape := bitsAt w 16 16
  pm := predOfCode (bitsAt w 14 2)
  uniform := bitAt w 13
  flags := bitsAt w 8 5

def xErrors (w : Word) : List DecodeError :=
  predErrors (bitsAt w 14 2) ++ targetErrors (bitsAt w 32 11)
    ++ (if bitsAt w 0 8 != 0 then [.reserved] else [])

/-! ## Rows that share an opcode -/

/-- BR and its leave and muster-check forms (R48). -/
def decodeBr (f : BFields) : Instr :=
  if f.leave then .brLeave f else if f.mchk then .brMchk f else .br f

/-- LD and its consuming form (R47). -/
def decodeLd (f : LFields) : Instr := if f.mc.getLsbD 3 then .ldRc f else .ld f

/-- ST and its count-filling form (R47). -/
def decodeSt (f : LFields) : Instr := if f.mc.getLsbD 2 then .stCnt f else .st f

/-- PREF and its code form (R169). -/
def decodePref (f : LFields) : Instr := if f.cache == 3 then .prefCode f else .pref f

/-- BIND and its UNBIND form (R174). -/
def decodeBind (f : GFields) : Instr := if f.imm16.getLsbD 8 then .unbind f else .bind f

/-- TARENA and its DESTROY form (R337). -/
def decodeTarena (f : LFields) : Instr := if f.off.getLsbD 0 then .tarenaDestroy f else .tarena f

/-- SETC by register number (R187): the registers with a row of their own, or any other. -/
def decodeSetc (f : GFields) : Instr :=
  let n := f.imm16.toNat % 4096
  if n == 0x008 then .round f
  else if n == 0x009 then .seed f
  else if n == 0x004 then .feCtl f
  else if n == 0x006 then .coreErr f
  else if n == 0x024 then .tlbInv f
  else if n == 0x025 then .ptRoot f
  else if n == 0x023 then .rcLogctl f
  else if n == 0x013 then .spillCtl f
  else if 0x038 ≤ n && n ≤ 0x03F then .partCfg f
  else if n == 0x035 then .distKill f
  else .setc f

/-! ## The opcode map (R52) -/

/-- Class 0x0 of the opcode map (R52). -/
def class0 : List (Nat × (GFields → Instr)) :=
  [(0x01, .add), (0x02, .sub), (0x03, .neg), (0x04, .abs),
   (0x05, .mul), (0x06, .mulh), (0x07, .mad), (0x08, .div),
   (0x09, .rem), (0x0A, .minI), (0x0B, .maxI), (0x0C, .clamp),
   (0x0D, .absd), (0x0E, .avg), (0x0F, .addc), (0x10, .subb),
   (0x11, .dot4), (0x12, .sad), (0x13, .addp), (0x14, .subp),
   (0x15, .ptrf), (0x16, .ptrx)]

/-- Class 0x1 of the opcode map (R52). -/
def class1 : List (Nat × (GFields → Instr)) :=
  [(0x00, .andB), (0x01, .orB), (0x02, .xorB), (0x03, .andn),
   (0x04, .orn), (0x05, .notB), (0x06, .shl), (0x07, .shr),
   (0x08, .sar), (0x09, .rol), (0x0A, .ror), (0x0B, .popc),
   (0x0C, .clz), (0x0D, .ctz), (0x0E, .brev), (0x0F, .bswap),
   (0x10, .bext), (0x11, .bins)]

/-- Class 0x2 of the opcode map (R52). -/
def class2 : List (Nat × (GFields → Instr)) :=
  [(0x00, .ceq), (0x01, .cne), (0x02, .clt), (0x03, .cle),
   (0x04, .cgt), (0x05, .cge), (0x06, .cuo), (0x07, .testz),
   (0x08, .testnz), (0x09, .pand), (0x0A, .por), (0x0B, .pxor),
   (0x0C, .pnot), (0x0D, .anyl), (0x0E, .alll), (0x0F, .cmask)]

/-- Class 0x3 of the opcode map (R52). -/
def class3 : List (Nat × (GFields → Instr)) :=
  [(0x00, .fadd), (0x01, .fsub), (0x02, .fmul), (0x03, .fdiv),
   (0x04, .fma), (0x05, .fms), (0x06, .fnma), (0x07, .fnms),
   (0x08, .fmin), (0x09, .fmax), (0x0A, .fabs), (0x0B, .fneg),
   (0x0C, .fsqrt), (0x0D, .fclass), (0x0E, .fcpys)]

/-- Class 0x4 of the opcode map (R52). -/
def class4 : List (Nat × (GFields → Instr)) :=
  [(0x00, .frcp), (0x01, .frsq), (0x02, .fexp2), (0x03, .flog2),
   (0x04, .fsin), (0x05, .fcos), (0x06, .ftanh), (0x07, .fsig),
   (0x08, .frnd), (0x09, .cvtf), (0x0A, .cvtfi), (0x0B, .cvtif),
   (0x0C, .cvti)]

/-- Class 0x5 of the opcode map (R52). -/
def class5 : List (Nat × (GFields → Instr)) :=
  [(0x00, .pack8), (0x01, .unpk8), (0x02, .packh), (0x03, .unpkh),
   (0x04, .ql6), (0x05, .dql6), (0x06, .l6mul), (0x07, .scalex),
   (0x08, .scalea)]

/-- Class 0x6 of the opcode map (R52). -/
def class6 : List (Nat × (GFields → Instr)) :=
  [(0x00, .hash32), (0x01, .hash64), (0x02, .hcomb), (0x03, .bucket),
   (0x04, .bkhist), (0x05, .bkscat), (0x06, .slen), (0x07, .scmp),
   (0x08, .spfx), (0x09, .sfind), (0x0A, .shash), (0x0B, .isect)]

/-- Class 0x7 of the opcode map (R52). -/
def class7 : List (Nat × (GFields → Instr)) :=
  [(0x00, .mov), (0x01, .sel), (0x02, .constI), (0x03, .consth),
   (0x04, .nul), (0x05, .lane), (0x06, .insl), (0x07, .bcast),
   (0x08, .perm), (0x09, .lrot), (0x0A, .redadd), (0x0B, .redmin),
   (0x0C, .redmax), (0x0D, .fredadd)]

/-- Class 0x8 of the opcode map (R52). -/
def class8 : List (Nat × (BFields → Instr)) :=
  [(0x00, decodeBr), (0x01, .bri)]

/-- Class 0x9 of the opcode map (R52). -/
def class9 : List (Nat × (LFields → Instr)) :=
  [(0x00, decodeLd), (0x01, decodeSt), (0x02, .gath), (0x03, .scat),
   (0x04, .stm), (0x05, decodePref), (0x06, .lds), (0x07, .stq)]

/-- Class 0xA of the opcode map (R52). -/
def classA : List (Nat × (GFields → Instr)) :=
  [(0x00, .spawn), (0x01, .quit), (0x02, .yield), (0x03, .repart),
   (0x04, decodeBind), (0x05, .send), (0x06, .recv), (0x07, .mcast),
   (0x08, .waita), (0x09, .getc), (0x0A, decodeSetc), (0x0B, .trap),
   (0x0C, .rett), (0x0D, .syncb), (0x0E, .launch)]

/-- Class 0xB of the opcode map (R52). -/
def classB : List (Nat × (LFields → Instr)) :=
  [(0x00, .mcopy), (0x01, .mput), (0x02, .mget), (0x03, .mquery),
   (0x04, .task), (0x05, .tdone), (0x06, .gbar), (0x07, .gmcast)]

/-- Class 0xC of the opcode map (R52). -/
def classC : List (Nat × (XFields → Instr)) :=
  [(0x00, .mma), (0x01, .accinit), (0x02, .accout), (0x03, .accclr),
   (0x04, .accq)]

/-- Class 0xD of the opcode map (R52). -/
def classD : List (Nat × (LFields → Instr)) :=
  [(0x00, .aadd), (0x01, .amin), (0x02, .amax), (0x03, .aand),
   (0x04, .aor), (0x05, .axor), (0x06, .axchg), (0x07, .acas),
   (0x08, .afadd), (0x09, .afmin), (0x0A, .afmax), (0x0B, .phase),
   (0x0C, .rcdecl), (0x0D, .rcend), (0x0E, .rcq), (0x0F, .rwb),
   (0x10, .rinv), (0x11, .rdisc)]

/-- Class 0xE of the opcode map (R52). -/
def classE : List (Nat × (LFields → Instr)) :=
  [(0x00, .thnew), (0x01, .thfree), (0x02, .tacq), (0x03, .trel),
   (0x04, .tsplit), (0x05, .tquery), (0x10, decodeTarena), (0x11, .tselect),
   (0x12, .tbatch), (0x13, .texpand), (0x14, .tbackup), (0x15, .treroot),
   (0x16, .tstat)]

/-- Class 0xF of the opcode map (R52). -/
def classF : List (Nat × (LFields → Instr)) :=
  [(0x00, .wset), (0x01, .wget), (0x02, .coll), (0x03, .cwait),
   (0x04, .flink)]


/-- The entry of a class table for given low bits. -/
def lookupLow {α : Type} (t : List (Nat × α)) (low : Nat) : Option α :=
  (t.find? (fun e => e.1 == low)).map (·.2)

def gClass (cls low : Nat) : Option (GFields → Instr) :=
  match cls with
  | 0x0 => lookupLow class0 low
  | 0x1 => lookupLow class1 low
  | 0x2 => lookupLow class2 low
  | 0x3 => lookupLow class3 low
  | 0x4 => lookupLow class4 low
  | 0x5 => lookupLow class5 low
  | 0x6 => lookupLow class6 low
  | 0x7 => lookupLow class7 low
  | 0xA => lookupLow classA low
  | _ => none

def lClass (cls low : Nat) : Option (LFields → Instr) :=
  match cls with
  | 0x9 => lookupLow class9 low
  | 0xB => lookupLow classB low
  | 0xD => lookupLow classD low
  | 0xE => lookupLow classE low
  | 0xF => lookupLow classF low
  | _ => none

/-- The instruction of a word, its fields read leniently, and the errors of its fields; none where the opcode is
unassigned (R51, R53). -/
def decodeLenient (w : Word) : Option (Instr × List DecodeError) :=
  let cls := (bitsAt w 60 4).toNat
  let low := (bitsAt w 54 6).toNat
  match gClass cls low with
  | some mk => some (mk (gOfWord w), gErrors w)
  | none =>
    match lClass cls low with
    | some mk => some (mk (lOfWord w), lErrors w)
    | none =>
      if cls == 0x8 then (lookupLow class8 low).map (fun mk => (mk (bOfWord w), bErrors w))
      else if cls == 0xC then (lookupLow classC low).map (fun mk => (mk (xOfWord w), xErrors w))
      else none

/-- Decoding: total, and a word that is no instruction is rejected by name. -/
def decode (w : Word) : Except DecodeError Instr :=
  if w == 0 then .error .empty
  else
    match decodeLenient w with
    | none => .error .unassigned
    | some (i, []) => .ok i
    | some (_, e :: _) => .error e

/-- Every cause of R54 that a word raises by itself; the empty encoding raises none. -/
def wordCauses (w : Word) : List Nat :=
  if w == 0 then []
  else
    match decodeLenient w with
    | none => [0x04]
    | some (i, errs) => errs.map DecodeError.cause ++ ownCauses i i.accForm

/-! ## The encoder -/

def boolBit (b : Bool) : BitVec 1 := if b then 1 else 0

def encodeG (op : Nat) (f : GFields) : Word :=
  BitVec.ofNat 10 op ++ BitVec.ofNat 4 f.ty.code ++ f.pm.code ++ f.t0.code ++ f.t1.code ++ f.tag0.code
    ++ f.tag1.code ++ boolBit f.uniform ++ boolBit f.sat ++ f.rnd.code ++ boolBit f.imm ++ boolBit f.wide ++ f.imm16

def encodeL (op : Nat) (f : LFields) : Word :=
  BitVec.ofNat 10 op ++ BitVec.ofNat 4 f.ty.code ++ f.pm.code ++ f.t0.code ++ f.lsid ++ f.cache ++ f.hint ++ f.mc
    ++ f.off

def encodeB (op : Nat) (f : BFields) : Word :=
  BitVec.ofNat 10 op ++ (0#4) ++ f.pm.code ++ f.exit ++ boolBit f.call ++ boolBit f.ret ++ boolBit f.leave
    ++ boolBit f.mchk ++ (0#1) ++ f.off ++ (0#8)

def encodeX (op : Nat) (f : XFields) : Word :=
  BitVec.ofNat 10 op ++ BitVec.ofNat 4 f.ta.code ++ BitVec.ofNat 4 f.tb.code ++ f.acc ++ f.t0.code ++ f.shape
    ++ f.pm.code ++ boolBit f.uniform ++ f.flags ++ (0#8)

/-- The word of an instruction (R43, R46, R48, R49); an event or a host action has none and gives zero. -/
def encode (i : Instr) : Word :=
  match i.fields with
  | .g f => encodeG i.opcode f
  | .l f => encodeL i.opcode f
  | .b f => encodeB i.opcode f
  | .x f => encodeX i.opcode f
  | .event => 0

/-- What the decoder reads from an opcode-table word: an instruction is one 64-bit word (R33). -/
def decodeTableWord (_nbits w : Nat) : Option Instr :=
  match decode (BitVec.ofNat 64 w) with
  | .ok i => some i
  | .error _ => none

end Sys2Proof
end

