-- ==== Sys2Proof/Machine/State.lean ====
section
/-! DEFINITION. The state of one Jararrad J4 module as plain data, from the token in a frame to the ports of
the package, the reasons a step can stop, and the state after reset. Sparse tables default to the value
their field's comment names. -/

namespace Sys2Proof.Machine

open Sys2Proof

/-- Why the machine stops with a fault. Every access to an address the manual says does not exist is a precise
fault of the architecture (PAGE-FAULT, PATH-RESERVED) and is taken as one: a next state, not a stop. -/
inductive Fault where
  /-- A die has stopped because a die-to-die link failed to retrain (R366: every die stops). Raised by any
  event or instruction that names a die after that. Safe. -/
  | packageFailed
  deriving DecidableEq, Repr

/-- Why a step answers no meaning. -/
inductive Refusal where
  /-- The instruction has no meaning in the model yet. Safe. -/
  | notModelled (mnemonic : String)
  /-- The word fetched at the focus is no instruction. The step never meets it, for a block is validated when
  it is mapped (R54). Safe. -/
  | noInstruction
  deriving DecidableEq, Repr

/-! ## Tokens and frames (chapters 1 and 7) -/

/-- An iteration tag: a non-pinned block uses `iter 0` only (R12, R150); `final` marks final tokens (R152);
`persist` marks a read token that a slot holds for every iteration and the final phase (R151). -/
inductive Tag where
  | iter (t : Nat)
  | final
  | persist
  deriving DecidableEq, Repr

/-- A token (R12): a value, a null flag, and for stream tokens a coordinate or a stop level (R155). -/
structure Token where
  value : Wide
  null  : Bool
  stop  : Option Nat
  coord : Option (BitVec 32)
  deriving DecidableEq, Repr

/-- A token on the operand network on its way to a target (R11, R135). -/
structure Flight where
  dst      : Target
  tag      : Tag
  tok      : Token
  src      : Option Nat     -- iteration that produced it; none for a read entry
  refusals : Nat
  refused  : Bool
  deriving DecidableEq, Repr

/-- A token standing in an operand slot (R14, R150). -/
structure Operand where
  idx  : Nat
  slot : Slot
  tag  : Tag
  tok  : Token
  src  : Option Nat     -- iteration that produced it; none for a read entry
  deriving DecidableEq, Repr

/-- A location of a byte at its point of coherence (R259). A GEN byte carries the virtual address it was reached
by, which tenure is judged on (R298); a CONST byte carries 2^54, which lies in no span. -/
inductive Loc where
  | pa (a va : Nat)              -- HBM, GEN and CONST
  | spad (core : Nat) (o : Nat)  -- a scratchpad byte
  | host (va : Nat)              -- host memory
  | dev (a : Nat)                -- device space
  | fab (w0 w1 : Word) (o : Nat) -- an offset of a fabric window, as it stood at the firing (R386)
  deriving DecidableEq, Repr

/-- A fault as recorded against a place of a block (R29, R194). `wslot` says that `idx` is a W number. -/
structure FaultRec where
  cls   : Nat
  cause : Nat
  idx   : Nat
  wslot : Bool
  tag   : Tag
  addr  : Word
  arg   : Word
  deriving DecidableEq, Repr

/-- One entry of a replay log (R198): the tokens for target 0 (none for null) and bits [63:0] of target 1. -/
structure LogEntry where
  idx : Nat
  tag : Tag
  t0  : Option Wide
  t1  : Word
  deriving DecidableEq, Repr

/-- A mortar job as its descriptor gives it (R219, R232). A GMCAST job carries its writes in `payload` (R241). -/
structure JobDesc where
  kind    : Nat                        -- 0 MCOPY, 1 MPUT, 2 MGET, 3 GMCAST
  src     : Word                       -- source fat pointer, the offset field added
  handle  : Option Word                -- tile handle of a SRCH source
  dest    : Word
  count   : Nat
  rot     : Nat
  n0      : Nat
  n1      : Nat
  n2      : Nat
  s1      : Word
  s2      : Word
  d1      : Word
  d2      : Word
  policy  : Nat                        -- cache policy of its GEN or HOST side (R234)
  wins    : Tab (Word × Word)          -- the windows of its context, as they stood at the firing (R386)
  cw      : Option (Word × Word)       -- completion word: SPAD address bits, value
  follow  : Option (Word × Word × Word) -- FINSN, address word, geometry word
  payload : List (Nat × Wide)          -- GMCAST: (core, data) at offset `dest`
  deriving DecidableEq, Repr

/-- A command of an M brick (R242 to R254). -/
inductive MCmd where
  | mmaToken (ta tb : ElemType) (row col : Nat) (a b : Wide)
  | mmaTile (ta tb : ElemType) (row col : Nat) (addr geom : Word)
  | accInit (n : Nat)
  | accOut (ty : ElemType) (rot rows cols : Nat) (sat rz : Bool) (addr cw : Word)
  | accClr
  | void
  deriving DecidableEq, Repr

/-- A commit-time effect of a block (R26, R27). -/
inductive Effect where
  | store (loc : List (Loc × Byte)) (ptr : Word) (kind policy : Nat)
  | countFill (line : Loc) (ptr : Word) (data : Wide) (n : Nat)
  | consume (line : Loc) (ptr : Word)
  | stq (desc : Word) (payload : Wide) (wins : Tab (Word × Word))
  | phase (scope : Nat)
  | rangeWb (lines : List Nat) (invalidate : Bool)
  | job (j : JobDesc)
  | task (card : List Word)
  | taskDone
  | trel (handle : Word)
  | thfree (handle : Word)
  | wset (w : Nat) (w0 w1 : Word)
  | coll (desc : Word) (words : List Word) (members : List Word)
  | send (dsts : List (Nat × Nat)) (payload : Wide) (wait : Bool)
  | spawn (target : CtxId) (addr : Word) (args : Wide) (rank : Nat)
  | quit
  | yield_
  | repart (v : Word)
  | setc (number : Nat) (value : Word)
  | trap (code : Nat) (arg : Word)
  | rett (target : CtxId)
  | syncb
  | launch (ptr : Word)
  | matrix (acc : Nat) (cmd : MCmd)
  deriving DecidableEq, Repr

/-- A pending effect with its place: instruction index, LSID (none in formats G and X) and tag. -/
structure Pending where
  idx  : Nat
  lsid : Option Nat
  tag  : Tag
  eff  : Effect
  deriving DecidableEq, Repr

/-- A fired load (R23, R24, R264): where it read and the bytes it found, for the tests against a store that resolves
later and against what a PHASE acquires. -/
structure LoadRec where
  idx  : Nat
  lsid : Nat
  tag  : Tag
  locs : List Loc
  bytes : List Byte
  deriving DecidableEq, Repr

/-- A running accumulator (R156) as it stands before iteration `tag`: firings since the reduction began and the
retained initial value. -/
structure RunAcc where
  idx   : Nat
  tag   : Nat
  count : Nat
  init  : Token
  deriving DecidableEq, Repr

/-- A stream load before emission `k` (R171): segment, element index and start of the segment. -/
structure Stream where
  idx   : Nat
  base  : Word
  desc  : Wide
  k     : Nat
  seg   : Nat
  elem  : Nat
  start : Nat
  done  : Bool
  deriving DecidableEq, Repr

/-- An ISECT before emission `k` (R118 to R120): tokens consumed of the streams in slots a and b, and whether it
has ended. -/
structure Isect where
  idx  : Nat
  k    : Nat
  na   : Nat
  nb   : Nat
  done : Bool
  deriving DecidableEq, Repr

/-- The exit a block (or an iteration) has fired (R20, R154). -/
structure ExitRec where
  target : Word
  tag    : Tag
  leave  : Bool
  mchk   : Bool
  deriving DecidableEq, Repr

/-- A block frame (R121, R128): the image it was mapped with and everything the block has produced. -/
structure Frame where
  addr     : Word
  image    : List Word              -- 16 header words, then 16 words per chunk (R33)
  mapped   : Bool                   -- every chunk mapped and validated
  member   : Nat                    -- bond: the member core (0-7) it is mapped on (R138)
  follows  : Bool                   -- mapped by a follower: its uniform instructions are its leader's (R145)
  pos      : Nat                    -- position of the block in its thread
  reads    : List Nat               -- read entries whose value has not been delivered yet
  shared   : List (Nat × Wide)      -- shared-bank values seen at map (R18)
  ops      : List Operand
  flight   : List Flight
  fired    : List (Nat × Tag)       -- (index, tag) of the firings made
  against  : List (Nat × Tag)       -- decided against firing (R15)
  wslots   : List (Nat × Token)     -- write slots that hold their token
  kept     : List Flight            -- kept final tokens of committed iterations (R152)
  outs     : List (Nat × Flight)    -- final tokens of open iterations, with the producing iteration
  effects  : List Pending
  faults   : List FaultRec
  flags    : List (Tag × BitVec 6)  -- FPSTAT flags raised by firings (R74)
  exits    : List ExitRec
  loads    : List LoadRec
  reserved : List (Tag × Loc)       -- units of counted lines reserved (R165)
  waiting  : List (Nat × Tag)       -- irrevocable instructions whose request is outstanding
  refire   : List Nat               -- loads that a later store overlapped: they wait for lower stores (R24)
  utaken   : List Flight            -- uniform tokens of its leader that have reached it (R145)
  iter     : Nat                    -- pinned: the oldest open iteration (R150)
  finalPh  : Bool                   -- pinned: the final phase has begun (R152)
  accs     : List RunAcc
  streams  : List Stream
  isects   : List Isect
  before   : Word × Word × Word     -- ROUND, SEED and FPSTAT as committed before the block (R186)
  deriving DecidableEq, Repr

/-! ## Contexts and cores (chapters 6, 8, 9, 10, 11) -/

/-- Context states (R122, R127). -/
inductive CtxState where
  | free | running | parked | draining | saved
  deriving DecidableEq, Repr

/-- The state of a course member (R149). -/
inductive CourseState where
  | solo | leader | follower | waiting (addr : Word) | quit
  deriving DecidableEq, Repr

/-- A message in a receive queue (R179): payload, header, and its arrival number (R206). -/
structure QMsg where
  payload : Wide
  header  : Word
  seq     : Nat
  deriving DecidableEq, Repr

/-- An entry of a send queue, or a notification held at a point of coherence: the (core, class) pairs not yet reached. -/
structure SendEntry where
  dsts    : List (Nat × Nat)
  payload : Wide
  header  : Word
  deriving DecidableEq, Repr

/-- The address watch of a context (R185): the word's location, the instruction that armed it. -/
structure Watch where
  loc : Loc
  idx : Nat
  tag : Tag
  deriving DecidableEq, Repr

/-- A collective a context has committed (R391 to R394). -/
structure Coll where
  desc    : Word          -- descriptor fat pointer
  words   : List Word     -- descriptor words 0 to 7 as read
  members : List Word     -- member entries as read
  data    : List Byte     -- SRC as read at the commit
  seq     : Nat
  done    : Bool
  status  : Word
  deriving DecidableEq, Repr

/-- A fault record on its way to its handler (R194, R197): eight words, the partition whose routing table routes it, and
whether its context stopped for it (R189). -/
structure Record where
  words : List Word
  part  : Nat
  stops : Bool
  deriving DecidableEq, Repr

/-- A node of an arena (R328). -/
structure Node where
  w        : BitVec 32
  n        : BitVec 32
  first    : BitVec 32
  vl       : BitVec 16
  p        : BitVec 16
  parent   : BitVec 32
  action   : BitVec 16
  count    : BitVec 16
  holders  : BitVec 16
  free     : Bool
  queued   : Bool
  pending  : Bool
  terminal : Bool
  expanded : Bool
  deriving DecidableEq, Repr

/-- Where an operation of the search engine stands between two of its steps (R335): a descent is to read a node, or has read
it and some of its children; a backup is to update a node. -/
inductive Stage where
  | read (node depth : Nat)
  | score (node depth : Nat) (seen : Node) (next : Nat) (best : Option (Nat × Nat)) -- the best child so far and its score
  | backup (node m v leaf : Nat)
  deriving DecidableEq, Repr

/-- An operation of the search engine that has begun and not delivered: the instruction, the arena, and where it stands. -/
structure Walk where
  idx   : Nat
  tag   : Tag
  arena : Nat
  stage : Stage
  deriving DecidableEq, Repr

/-- Everything a context holds. -/
structure Ctx where
  st        : CtxState
  prior     : CtxState          -- state to return to from Saved (R209)
  stopped   : Bool              -- R192
  ready     : Bool              -- R122
  readyHeld : Bool              -- ready event remembered while stopped (R192)
  rank      : Nat
  next      : Word              -- committed next block address
  pos       : Nat               -- blocks committed by the thread
  round     : Word
  seed      : Word
  fpstat    : Word
  feCtl     : Word
  log       : List LogEntry     -- replay log of the oldest block
  pinned    : Option Frame      -- saved pinned state (R157)
  frames    : List Frame        -- oldest first
  sendq     : List SendEntry
  notifs    : List SendEntry    -- notifications of its atomics held at a point of coherence (R318)
  watch     : Option Watch
  rcLog     : Word
  rcLogctl  : Word
  spillBase : Word
  spillCap  : Nat               -- SPILL.CTL.CAP (R207)
  spillAt   : List (Nat × Nat × Word) -- the spill records held: arrival number, class, address, oldest first (R206)
  spillStop : Bool              -- spilling stopped by SPILL-FAULT (R207)
  windows   : Tab (Word × Word) -- default (0, 0)
  launch    : Option (Nat × Nat) -- (die, LID) of its launch
  gang      : Nat
  part      : Nat               -- partition number within the die
  phases    : List Nat          -- scopes of committed PHASEs not yet complete
  late      : List (Nat × Word × Pending) -- committed effects that follow them in their block's order: core, block, effect (R264)
  devOwn    : Tab (Option Byte) -- DEV bytes the thread has stored (R23, R267), default none
  phaseBlk  : Word              -- block that committed the latest publication (R298)
  slot      : List Record       -- delivery slot (R197)
  asyncs    : List Record       -- asynchronous records that stop it at the next commit boundary (R202)
  yielding  : Bool
  rettHold  : Option CtxId      -- issuer of a RETT that holds it (R189)
  handlers  : List CtxId        -- the contexts to which the records that stopped it were routed (R189)
  course    : CourseState
  lead      : Nat               -- leader or follower: the core of its course's leader (R137)
  fwd       : List (Nat × Word × List Word) -- forwarded images: position, address, image (R142)
  lexits    : List (Nat × ExitRec)          -- exits the leader's blocks fired, by position
  utoks     : List (Nat × Flight)           -- uniform tokens received, by position (R145)
  colls     : List Coll
  task      : Option Nat        -- task card number it runs (R225)
  reserved  : Bool              -- reserved by SPAWN or the task queue
  spawnArgs : Option (Wide × Word × Nat)
  tenWait   : Option (Nat × Nat × Tag) -- queued TACQ: handle, index, tag
  gbarWait  : Option (Nat × Nat × Tag) -- barrier arrival: group, index, tag
  accWait   : List (Nat × Nat × Nat × Nat × Tag) -- ACCQs outstanding: core, accumulator, tickets entered before it, index, tag
  cwait     : Option (Nat × Nat × Tag) -- CWAIT outstanding: its collective, index, tag
  walk      : Option Walk       -- its operation of the search engine that is under way (R335)
  passed    : Bool              -- the muster at its next block address has completed for it (R147)
  fetchStop : Option (Nat × Word) -- where a speculative fetch faulted: position and address (R132)
  discWait  : List Nat          -- the lines of a range whose reservations its RDISC waits for (R284, R326)
  deriving DecidableEq, Repr

/-- Mortar job states (R222). -/
inductive JobState where
  | queued | active | completing | done | suspended | abandoned
  deriving DecidableEq, Repr

/-- A job in a core's mortar queue (R218). -/
structure Job where
  seq      : Nat
  desc     : JobDesc
  owner    : Nat              -- owning context
  ownerOf  : Nat              -- core of the owning context
  st       : JobState
  progress : Nat              -- element to resume at (R222)
  resumed  : Bool             -- its owner was resumed while 32 jobs were Active (R218)
  landed   : Bool
  entered  : Bool             -- follow-on entered
  held     : Bool             -- holds READ tenure of its source
  ticket   : Option Nat       -- count order of its follow-on (R244)
  card     : Option Nat       -- task card it fetches for
  deriving DecidableEq, Repr

/-- A command in an M brick's queue (R244, R245). -/
structure QCmd where
  acc     : Nat
  ticket  : Nat
  cmd     : MCmd
  owner   : CtxId
  job     : Option Nat
  entered : Bool
  started : Bool
  deriving DecidableEq, Repr

/-- An accumulator (R243): 64 × 64 FP32 values at key 64·row + column (default +0), and its counts. -/
structure Acc where
  vals   : Tab (BitVec 32)
  n      : Nat
  c      : Nat
  e      : Nat
  round  : Nat
  ticket : Nat   -- next ticket to be counted
  enter  : Nat   -- next ticket to enter the queue
  deriving DecidableEq, Repr

/-- A posted-store journal entry (R200, R213). -/
structure JEntry where
  slot  : Nat
  ctx   : Nat
  state : Nat      -- 1 posted, 2 refused awaiting delivery
  cause : Nat
  kind  : Nat      -- 0 ST, 1 SCAT or STM, 2 STQ
  ptr   : Word
  bytes : List (Loc × Byte)
  stq   : Option (Word × Wide × Tab (Word × Word)) -- descriptor, payload, the windows as at the firing
  launch : Option (Nat × Nat)     -- the launch of the context that posted it (R350)
  deriving DecidableEq, Repr

/-- A dirty byte of an L1: its value, the context that stored it and the virtual address it stored to. -/
structure DirtyByte where
  val : Byte
  by_ : CtxId
  va  : Nat
  deriving DecidableEq, Repr

/-- A core (R121). Keys of `clean` and `dirty`: physical byte address for GEN and CONST, 2^60 + host address for HOST. -/
structure Core where
  contexts : Nat                  -- CORE.LAYOUT.CONTEXTS
  pend     : Bool
  refused  : Bool
  repartBy : Option (Nat × Nat)   -- repartition in progress: requester, new count
  noGate   : Bool
  gated    : BitVec 16
  secded   : Nat
  refusals : Nat
  regs     : Tab Wide             -- private file, 512 entries, default 0
  shared   : Tab Wide             -- s0 to s127, default 0
  ctxs     : Tab Ctx              -- default `Ctx.blank`
  spad     : Tab Byte             -- scratchpad, default 0
  spadCnt  : Tab (Nat × Nat)      -- counts (n, v) of SPAD lines, default (0, 0)
  bcache   : List (Nat × List Word) -- block cache: where a line is fetched from, 16 words, oldest first
  clean    : Tab Wide             -- clean L1 lines by line number
  dirty    : Tab DirtyByte        -- dirty L1 bytes
  queues   : Tab (List QMsg)      -- receive queues by class, default []
  arrived  : Nat                  -- arrival number of the next message (R206)
  bound    : List (Nat × Nat)     -- (class, context)
  journal  : List JEntry
  jobs     : List Job
  jobSeq   : Nat
  accs     : Tab Acc              -- a0 to a7
  mq       : List QCmd            -- commands of both M bricks, in order of entry
  saveBase : Word
  srcost   : Nat
  lastGrant : Nat
  rotation : Nat
  kind     : Nat                  -- CORE.COMPOSE.KIND: 0 none, 1 bond, 2 course
  set      : BitVec 8             -- CORE.COMPOSE.SET
  foot     : Nat                  -- scratchpad footprint in 4 KiB units
  saving   : Bool                 -- pre-empted and not restored
  gang     : Option (Nat × Nat)   -- the gang it belongs to: LID, gang number (R352)
  deriving DecidableEq, Repr

/-! ## Clusters, partitions and dies (chapters 10, 12 to 16) -/

/-- A card of a task queue (R223 to R226). `st`: 0 Waiting, 1 Ready, 2 Fetching, 3 Running. -/
structure Card where
  num    : Nat
  words  : List Word
  owner  : CtxId
  rank   : Nat
  edges  : List Nat
  st     : Nat
  target : Option CtxId
  jobs   : List Nat
  deriving DecidableEq, Repr

/-- A cluster (R214 to R230). -/
structure Cluster where
  fused   : Bool
  powered : Bool
  cards   : List Card
  cardSeq : Nat
  deriving DecidableEq, Repr

/-- A group of a partition (R227, R228): members as {CLUSTER, CORE, CTX} numbers. -/
structure Group where
  num     : Nat
  members : List Nat
  gen     : Nat
  arrived : List Nat
  left    : List Nat
  deriving DecidableEq, Repr

/-- A tenure (R290): holder number, kind 1 READ 2 WRITE 3 REDUCE, operation, format, lease end, partial image. -/
structure Tenure where
  holder  : Nat
  kind    : Nat
  op      : Nat
  fmt     : Nat
  lapsed  : Bool
  leaseAt : Nat                  -- READ: end of the lease, as an offset from the base of its home slice (R268)
  partials : Tab (Option Byte)   -- REDUCE: bytes of the span stored, default none
  deriving DecidableEq, Repr

/-- A tile handle (R286 to R300). `st`: 0 free, 1 live, 2 retiring. -/
structure Handle where
  idx    : Nat
  gen    : Nat
  desc   : List Word
  lo     : Nat
  hi     : Nat
  die    : Nat
  slice  : Nat
  st     : Nat
  tens   : List Tenure
  base0  : Tab Byte              -- partial 0 of the REDUCE round (R295)
  lodged : List Tenure
  freeBy : Option (CtxId × Nat)  -- retiring: the context and position of the block that retires it (R301)
  due    : Bool                  -- its mirror has still to be written (R287)
  deriving DecidableEq, Repr

/-- A waiting acquire (R292): of an instruction of a context, or of a mortar job (core and sequence number). -/
structure Acquire where
  handle : Nat
  holder : Nat
  ctx    : CtxId
  kind   : Nat
  op     : Nat
  fmt    : Nat
  idx    : Nat
  tag    : Tag
  lsid   : Nat
  job    : Option (Nat × Nat)
  deriving DecidableEq, Repr

/-- A counted region (R271): GEN bytes [lo, lo+len) by virtual address, or a core's scratchpad. -/
structure Region where
  num    : Nat
  spad   : Option Nat
  lo     : Nat
  len    : Nat
  ending : Bool
  by_    : CtxId
  rcLog    : Word
  rcLogctl : Word
  waiter : Option (CtxId × Nat × Tag)
  lid    : Option (Nat × Nat)    -- (die, LID) of the declarer's launch
  deriving DecidableEq, Repr

/-- A cached translation (R281): page base, page size, physical base, permissions. -/
structure TlbEntry where
  va   : Nat
  size : Nat
  pa   : Nat
  w    : Bool
  x    : Bool
  priv : Bool
  deriving DecidableEq, Repr

/-- A gang of a launch (R352). -/
structure Gang where
  num   : Nat
  cores : List Nat
  saved : Bool
  deriving DecidableEq, Repr

/-- An accepted launch (R346 to R355). `st`: 0 Waiting, 1 Placing, 2 Running, 3 Completing. -/
structure Launch where
  lid      : Nat
  words    : List Word
  part     : Nat
  st       : Nat
  aged     : Nat           -- aging intervals waited (R351)
  order    : Nat           -- order of arrival
  nextGang : Nat
  gangs    : List Gang
  placedAt : Nat           -- order of its last commit
  reported : Bool          -- DEADLOCK reported since the last commit (R361)
  quiesced : Bool          -- quiescent completion (R361)
  killed   : Bool
  groups   : List Group         -- group table copied by the loader (R227)
  route    : Tab (BitVec 32)    -- routing image copied by the loader (R196)
  deriving DecidableEq, Repr

/-- A reservation (R352): launch, gang number, cores. -/
structure Reservation where
  lid   : Nat
  gang  : Nat
  cores : List Nat
  deriving DecidableEq, Repr

/-- One quiescence sample (R359, R360). -/
structure Sample where
  idle     : Bool
  sent     : Nat
  received : Nat
  deriving DecidableEq, Repr

/-- A partition (R356). -/
structure Part where
  cfg       : Word
  ptRoot    : Word
  lease     : Nat
  quantum   : Nat
  pmax      : Nat
  trapImg   : Word
  route     : Tab (BitVec 32)    -- routing store, entry 32·row + class, default 0
  groups    : List Group
  thBase    : Word
  thCap     : Nat
  handles   : List Handle        -- live handles
  gens      : Tab Nat            -- generation of each index, default 1
  acquires  : List Acquire
  regions   : List Region
  fabAccept : Word
  tlb       : List TlbEntry
  quiet     : Bool
  sample    : Option Sample
  sent      : Nat
  received  : Nat
  launches  : List Launch
  reserve   : Option Reservation
  saves     : List (Nat × Core)  -- saved cores whose place another gang has taken (R203, R204)
  collEnded : List (Nat × Nat)   -- (CID, number) of collectives whose member's launch has ended (R394)
  deriving DecidableEq, Repr

/-- A live arena (R327). -/
structure Arena where
  id     : Nat
  gen    : Nat
  part   : Nat
  lid    : Option (Nat × Nat)
  base   : Word
  area   : List (Nat × Nat)      -- physical pieces of the node area, in order, as translated when it was made (R338)
  cap    : Nat
  cexp   : BitVec 32
  vloss  : BitVec 32
  fpv    : BitVec 32
  twopl  : Bool
  trapen : Bool
  root   : Nat
  pslots : Nat
  queue  : List Nat
  nodes  : Tab Node              -- default: a free node
  deriving DecidableEq, Repr

/-- An entry of a die's launch queue (R349): the 16 words of a window record, or a pointer with the submitter. -/
inductive LaunchEntry where
  | window (words : List Word)
  | pointer (ptr : Word) (part : Nat) (rank : Nat)
  deriving DecidableEq, Repr

/-- A die (R257, R327, R349, R364, R382). -/
structure Die where
  coreMask : BitVec 256
  parts    : Tab Part             -- partitions 0 to 7
  lqueue   : List LaunchEntry
  window   : Tab Byte             -- launch window bytes 0x000 to 0x07F
  winDrop  : Nat
  wake     : BitVec 8
  age      : Nat
  refused  : Nat
  nextLid  : Nat
  order    : Nat
  arenas   : List Arena
  arenaGen : Tab Nat              -- default 1
  leaseBase : Tab Nat             -- base time of each slice's leases, in units of 256 cycles (R268), default 0
  leaseNow : Tab Nat              -- time that is known to have passed at each slice (R268), default 0
  hbmUe    : Nat
  hbmCe    : Nat
  linkErr  : Bool
  mgmtErr  : Bool
  mclass   : Nat
  mgmt     : List (CtxId × Record) -- records delivered to the management core
  firmware : List Byte             -- the firmware its management core runs (R375)
  deriving DecidableEq, Repr

/-! ## Memory, host, fabric and package (chapters 12, 17, 18) -/

/-- A line an L2 slice holds (R257, R272): data, dirty, count n, reserved units v, and its retention (R46, R169, R234): 1 lowest, 2
normal, 3 raised, 0 where none was asked for. A line that is neither dirty nor counted stands here where its retention was asked
for; its data are those of memory. -/
structure L2Line where
  data  : Wide
  dirty : Bool
  n     : Nat
  v     : Nat
  keep  : Nat
  deriving DecidableEq, Repr

/-- A page of the host IOMMU (R282). -/
structure HostPage where
  va   : Nat
  size : Nat
  w    : Bool
  deriving DecidableEq, Repr

/-- A page of another module's partition. -/
structure RemotePage where
  va   : Nat
  size : Nat
  w    : Bool
  priv : Bool
  deriving DecidableEq, Repr

/-- A partition of another module that windows can name (R385, R386): what it accepts, its pages, the spans that it refuses to
have written for tenure or a live node area, its memory, and its part in collectives. -/
structure Remote where
  node   : Nat
  die    : Nat
  part   : Nat
  accept : Word
  pages  : List RemotePage
  held   : List (Nat × Nat)
  mem    : Tab Byte
  ended  : List (Nat × Nat)        -- (CID, number) of collectives whose member's launch has ended (R394)
  colls  : List (Nat × Nat × List Word × List Word × List Byte) -- (context, CID, descriptor, members, contribution), oldest first
  deriving DecidableEq, Repr

/-- A fabric port (R384, R399). -/
structure Port where
  peer    : Nat
  retries : Nat
  lanes   : Nat
  deriving DecidableEq, Repr

/-- Kiln (R373, R375 to R378). -/
structure Kiln where
  bootStep : Nat                   -- step of R375 at which boot stands: 0 not begun, 1 to 4 stopped there, 5 READY
  status   : Word
  request  : Word
  recovery : List Byte
  flash    : List Byte
  digest   : List Byte
  svn      : Nat
  report   : List Byte             -- the last attestation report
  cert     : List Byte             -- the identity certificate that the host has obtained with it (R378)
  given    : List Byte             -- what the host's last read of BAR0 was given (R373)
  deriving DecidableEq, Repr

/-- Package registers (R382, R401). -/
structure Package where
  mod     : Nat
  dies    : BitVec 4
  p0w     : Nat
  p1w     : Nat
  save    : Nat
  limit   : Nat
  clock   : Nat                    -- arithmetic clock in units of 0.5 MHz (R380)
  throt   : Bool
  node    : Nat
  routes  : Tab (List Nat)         -- ports towards a node, in the order of the routing table (R383, R384), default none
  ports   : Tab Port               -- 16 ports, default down
  failed  : Bool
  deriving DecidableEq, Repr

/-- A consuming load that waits at the home of its line, in order of arrival (R274). -/
structure RcWait where
  line : Loc
  c    : CtxId
  pos  : Nat
  idx  : Nat
  tag  : Tag
  deriving DecidableEq, Repr

/-- The instruction being fired: context, frame (0 the oldest), index and tag. -/
structure Site where
  c     : CtxId
  frame : Nat
  idx   : Nat
  tag   : Tag
  deriving DecidableEq, Repr

/-- What an agenda names: an event of the machine or an action of the host, or the firing of the instruction at a site. -/
inductive Move where
  | happens (i : Instr)
  | fires (t : Site)
  deriving DecidableEq, Repr

/-- The state of the module. -/
structure State where
  cores     : Tab Core             -- default `Core.blank`; 1024 + die is a management core
  clusters  : Tab Cluster          -- by die × 32 + physical cluster
  dies      : Tab Die
  hbm       : Tab Byte             -- HBM by physical address, default 0
  l2        : Tab L2Line           -- L2 lines by line number
  poison    : List Nat             -- poisoned lines
  hostMem   : Tab Byte             -- host memory by host virtual address, default 0
  iommu     : List HostPage
  ats       : List HostPage        -- translations cached in the device
  remotes   : List Remote
  rcQueue   : List RcWait          -- consuming loads that wait for a unit, oldest first
  devWrites : List (Nat × Byte)    -- device writes, in the order in which they reach DEV
  kiln      : Kiln
  pkg       : Package
  agenda    : List Move            -- what happens next in the module and outside it, oldest first
  focus     : Site
  freeCounter : Nat                -- the model's own: numbers the uses of free values
  deriving DecidableEq, Repr

/-! ## Reset -/

/-- A token with value 0. -/
def Token.zero : Token := ⟨0, false, none, none⟩

/-- A frame as granted, before its block is mapped. -/
def blankFrame : Frame where
  addr := 0
  image := []
  mapped := false
  member := 0
  follows := false
  pos := 0
  reads := []
  shared := []
  ops := []
  flight := []
  fired := []
  against := []
  wslots := []
  kept := []
  outs := []
  effects := []
  faults := []
  flags := []
  exits := []
  loads := []
  reserved := []
  waiting := []
  refire := []
  utaken := []
  iter := 0
  finalPh := false
  accs := []
  streams := []
  isects := []
  before := (0, 1, 0)

/-- A context as created (R73, R122, R385). DESIGN CHOICE (log entry 1): FPSTAT is 0, for R73's table gives it no value. -/
def Ctx.blank : Ctx where
  st := .free
  prior := .free
  stopped := false
  ready := false
  readyHeld := false
  rank := 0
  next := 0
  pos := 0
  round := 0
  seed := 1
  fpstat := 0
  feCtl := 0
  log := []
  pinned := none
  frames := []
  sendq := []
  notifs := []
  watch := none
  rcLog := 0
  rcLogctl := 0
  spillBase := 0
  spillCap := 0
  spillAt := []
  spillStop := false
  windows := []
  launch := none
  gang := 0
  part := 0
  phases := []
  late := []
  devOwn := []
  phaseBlk := 0
  slot := []
  asyncs := []
  yielding := false
  rettHold := none
  handlers := []
  course := .solo
  lead := 0
  fwd := []
  lexits := []
  utoks := []
  colls := []
  task := none
  reserved := false
  spawnArgs := none
  tenWait := none
  gbarWait := none
  accWait := []
  cwait := none
  walk := none
  passed := false
  fetchStop := none
  discWait := []

/-- An accumulator at gang placement (R243). -/
def Acc.blank : Acc := ⟨[], 0, 0, 0, 0, 0, 0⟩

/-- A core after die reset: one context, nothing mapped (R123). -/
def Core.blank : Core where
  contexts := 1
  pend := false
  refused := false
  repartBy := none
  noGate := false
  gated := 0
  secded := 0
  refusals := 0
  regs := []
  shared := []
  ctxs := []
  spad := []
  spadCnt := []
  bcache := []
  clean := []
  dirty := []
  queues := []
  arrived := 0
  bound := []
  journal := []
  jobs := []
  jobSeq := 0
  accs := []
  mq := []
  saveBase := 0
  srcost := 0
  lastGrant := 0
  rotation := 0
  kind := 0
  set := 0
  foot := 0
  saving := false
  gang := none

/-- A cluster after die reset. -/
def Cluster.blank : Cluster := ⟨false, true, [], 0⟩

/-- A partition after die reset: LEASE as at launch (R269), QUANTUM 1,221 (R365), FAB.ACCEPT 0 (log entry 1). -/
def Part.blank : Part where
  cfg := 0
  ptRoot := 0
  lease := 16
  quantum := 1221
  pmax := 0
  trapImg := 0
  route := []
  groups := []
  thBase := 0
  thCap := 0
  handles := []
  gens := []
  acquires := []
  regions := []
  fabAccept := 0
  tlb := []
  quiet := false
  sample := none
  sent := 0
  received := 0
  launches := []
  reserve := none
  saves := []
  collEnded := []

/-- A free node (R328): every field zero except FREE. -/
def Node.freeNode : Node := ⟨0, 0, 0, 0, 0, 0, 0, 0, 0, true, false, false, false, false⟩

/-- A die after reset: DIST.AGE 10,000 (R365), every arena entry empty with generation 1 (R327). -/
def Die.blank : Die where
  coreMask := BitVec.allOnes 256
  parts := []
  lqueue := []
  window := []
  winDrop := 0
  wake := 0
  age := 10000
  refused := 0
  nextLid := 0
  order := 0
  arenas := []
  arenaGen := []
  leaseBase := []
  leaseNow := []
  hbmUe := 0
  hbmCe := 0
  linkErr := false
  mgmtErr := false
  mclass := 0
  mgmt := []
  firmware := []

/-- A fabric port before bring-up: down (R384). -/
def Port.blank : Port := ⟨0, 0, 0⟩

/-- The module right after reset: memories list nothing, every context is Free, kiln has not begun to boot. -/
def State.reset : State where
  cores := []
  clusters := []
  dies := []
  hbm := []
  l2 := []
  poison := []
  hostMem := []
  iommu := []
  ats := []
  remotes := []
  rcQueue := []
  devWrites := []
  kiln := ⟨0, 0, 0, [], [], [], 0, [], [], []⟩
  pkg := { mod := 0, dies := 0, p0w := 0, p1w := 0, save := 1, limit := 3200, clock := 2500,
           throt := false, node := 0, routes := [], ports := [], failed := false }
  agenda := []
  focus := ⟨⟨0, 0⟩, 0, 0, .iter 0⟩
  freeCounter := 0

end Sys2Proof.Machine
end

