-- ==== Sys2Proof/Machine/Sites.lean ====
section
/-! DEFINITION. What every operation stands on: sparse tables, the places of the machine, registers, block headers, operand
slots and LSIDs, the readiness of an instruction (R14 to R16, R28, R131, R155), its firing, and counted lines. -/

namespace Sys2Proof.Machine

open Sys2Proof

/-- What a step and every meaning answer. -/
abbrev Result := Host.Outcome State Fault Refusal

/-- An outcome differs from staying where one is. -/
def moves (r : Result) (s : State) : Bool :=
  match r with
  | .next t => t ≠ s
  | _ => true

/-! ## Sparse tables -/

/-- The value of a key; `d` where the table lists none. -/
def tabGet {α : Type} (d : α) : Tab α → Nat → α
  | [], _ => d
  | (k', v) :: t, k => if k' = k then v else tabGet d t k

/-- Lists a value at its place in the rising order of keys. -/
def tabPut {α : Type} (k : Nat) (v : α) : Tab α → Tab α
  | [] => [(k, v)]
  | (k', v') :: t =>
    if k < k' then (k, v) :: (k', v') :: t
    else if k' = k then (k, v) :: t
    else (k', v') :: tabPut k v t

/-- Removes a key. -/
def tabDel {α : Type} (k : Nat) (t : Tab α) : Tab α := t.filter (fun e => e.1 ≠ k)

/-- Writes a key, keeping the canonical form: the default value is not listed. -/
def tabSet {α : Type} [DecidableEq α] (d : α) (t : Tab α) (k : Nat) (v : α) : Tab α :=
  if v = d then tabDel k t else tabPut k v t

/-- The canonical form: keys strictly rising, no value equal to the default. -/
def tabCanon {α : Type} [DecidableEq α] (d : α) : Tab α → Bool
  | [] => true
  | [(_, v)] => v ≠ d
  | (k, v) :: (k', v') :: t => v ≠ d && k < k' && tabCanon d ((k', v') :: t)

/-! ## Small helpers on words and tokens -/

/-- Bits [lo+n-1:lo] of a natural number. -/
def field (v lo n : Nat) : Nat := v / 2 ^ lo % 2 ^ n

/-- Word n of a token. -/
def word (v : Wide) (n : Nat) : Word := v.extractLsb' (64 * n) 64

/-- A token value made of 64-bit words, word 0 first. -/
def ofWords (ws : List Word) : Wide :=
  ws.foldr (fun w acc => (acc <<< 64) ||| w.setWidth 512) 0

/-- Byte n of a token. -/
def byteOf (v : Wide) (n : Nat) : Byte := v.extractLsb' (8 * n) 8

/-- A number made of bytes, least significant first (R2). -/
def ofBytes (bs : List Byte) : Nat := bs.foldr (fun b acc => acc * 256 + b.toNat) 0

/-- The low n bytes of a number, least significant first (R2). -/
def toBytes (n : Nat) (v : Nat) : List Byte := (List.range n).map (fun k => BitVec.ofNat 8 (v / 256 ^ k))

/-- A scalar token: bits [63:0], the rest zero (R12). -/
def scalar (w : Word) : Token := ⟨w.setWidth 512, false, none, none⟩

/-- A token with a 512-bit value. -/
def wideTok (v : Wide) : Token := ⟨v, false, none, none⟩

/-- A null token. -/
def nullTok : Token := ⟨0, true, none, none⟩

/-- A stop token of a level (R155). -/
def stopTok (k : Nat) : Token := ⟨0, false, some k, none⟩

/-- A predicate token (R12). -/
def predTok (b : Bool) : Token := wideTok (if b then 1 else 0)

/-- The list with its element n replaced. -/
def listSet {α : Type} (l : List α) (n : Nat) (f : α → α) : List α := l.modify n f

/-! ## The places of the machine -/

def coreAt (s : State) (n : Nat) : Core := tabGet Core.blank s.cores n
def setCore (s : State) (n : Nat) (c : Core) : State := { s with cores := tabSet Core.blank s.cores n c }
def modCore (s : State) (n : Nat) (f : Core → Core) : State := setCore s n (f (coreAt s n))

def ctxIn (c : Core) (n : Nat) : Ctx := tabGet Ctx.blank c.ctxs n
def ctxAt (s : State) (c : CtxId) : Ctx := ctxIn (coreAt s c.core) c.ctx
def setCtx (s : State) (c : CtxId) (x : Ctx) : State :=
  modCore s c.core (fun k => { k with ctxs := tabSet Ctx.blank k.ctxs c.ctx x })
def modCtx (s : State) (c : CtxId) (f : Ctx → Ctx) : State := setCtx s c (f (ctxAt s c))

def frameAt (s : State) (c : CtxId) (n : Nat) : Option Frame := (ctxAt s c).frames[n]?
def modFrame (s : State) (c : CtxId) (n : Nat) (f : Frame → Frame) : State :=
  modCtx s c (fun x => { x with frames := listSet x.frames n f })

def dieAt (s : State) (n : Nat) : Die := tabGet Die.blank s.dies n
def modDie (s : State) (n : Nat) (f : Die → Die) : State :=
  { s with dies := tabSet Die.blank s.dies n (f (dieAt s n)) }

def partIn (d : Die) (n : Nat) : Part := tabGet Part.blank d.parts n
def partAt (s : State) (d p : Nat) : Part := partIn (dieAt s d) p
def modPart (s : State) (d p : Nat) (f : Part → Part) : State :=
  modDie s d (fun k => { k with parts := tabSet Part.blank k.parts p (f (partIn k p)) })

def clusterAt (s : State) (n : Nat) : Cluster := tabGet Cluster.blank s.clusters n
def modCluster (s : State) (n : Nat) (f : Cluster → Cluster) : State :=
  { s with clusters := tabSet Cluster.blank s.clusters n (f (clusterAt s n)) }

/-- The cores that hold anything but what a reset leaves. -/
def coreNums (s : State) : List Nat := s.cores.map (·.1)

/-- The die of a core number. -/
def dieOf (core : Nat) : Nat := if 1024 ≤ core then core - 1024 else core / 256

/-- A core number is that of a die's management core (R363). -/
def isMgmt (core : Nat) : Bool := 1024 ≤ core

/-- What stands for the partition of a management core, which is in none (R363; log entry 51). -/
def noPart : Nat := 8

/-- The cluster of a core, by die × 32 + physical cluster. -/
def clusterOf (core : Nat) : Nat := core / 8

/-- The physical cluster of a core on its die. -/
def pclusterOf (core : Nat) : Nat := core / 8 % 32

/-- The partition of a context's launch. -/
def partOf (s : State) (c : CtxId) : Part := partAt s (dieOf c.core) (ctxAt s c).part
def modPartOf (s : State) (c : CtxId) (f : Part → Part) : State :=
  modPart s (dieOf c.core) (ctxAt s c).part f

/-! ## Partition rectangles (R356, R365) -/

def cfgValid (cfg : Word) : Bool := cfg.getLsbD 15
def cfgRow (cfg : Word) : Nat := field cfg.toNat 13 2
def cfgCol (cfg : Word) : Nat := field cfg.toNat 10 3
def cfgW (cfg : Word) : Nat := field cfg.toNat 7 3 + 1
def cfgH (cfg : Word) : Nat := field cfg.toNat 5 2 + 1

/-- Clusters of a partition. -/
def cfgSize (cfg : Word) : Nat := if cfgValid cfg then cfgW cfg * cfgH cfg else 0

/-- The physical cluster of a partition-relative cluster (R356). -/
def relToPhys (cfg : Word) (c : Nat) : Nat := 8 * (cfgRow cfg + c / cfgW cfg) + (cfgCol cfg + c % cfgW cfg)

/-- The physical clusters of a rectangle. -/
def cfgClusters (cfg : Word) : List Nat := (List.range (cfgSize cfg)).map (relToPhys cfg)

/-- The partition-relative number of a physical cluster; 0 where it lies in no rectangle. -/
def physToRel (cfg : Word) (p : Nat) : Nat := ((cfgClusters cfg).findIdx? (· == p)).getD 0

/-- A core named by partition-relative cluster and core number (R357). -/
def coreNamed (s : State) (c : CtxId) (cl k : Nat) : Nat :=
  256 * dieOf c.core + 8 * relToPhys (partOf s c).cfg cl + k

/-- {CLUSTER, CORE} of a core, relative to a partition. DESIGN CHOICE (log entry 57): the management core, which is in no
partition (R363), reads as 0. -/
def relName (s : State) (die part core : Nat) : Nat × Nat :=
  if isMgmt core then (0, 0) else (physToRel (partAt s die part).cfg (pclusterOf core), core % 8)

/-- The partition a cluster stands in. -/
def partHolding (s : State) (core : Nat) : Nat :=
  if isMgmt core then noPart
  else ((List.range 8).find? (fun p => (cfgClusters (partAt s (dieOf core) p).cfg).contains (pclusterOf core))).getD 0

/-- A core is reserved for a gang (R352). -/
def coreReserved (s : State) (core : Nat) : Bool :=
  (dieAt s (dieOf core)).parts.any (fun p => p.2.reserve.any (·.cores.contains core))

/-! ## What stands aside (R203, R204) -/

/-- A thread by its context, and where it stands: in its place, or in one of the saved cores that stand aside in a partition
because another gang has taken their place. -/
structure Thread where
  c     : CtxId
  part  : Nat
  aside : Option Nat
  deriving DecidableEq, Repr

/-- The core that holds a thread. -/
def threadCore (s : State) (t : Thread) : Core :=
  match t.aside with
  | none => coreAt s t.c.core
  | some n => (((partAt s (dieOf t.c.core) t.part).saves[n]?).map (·.2)).getD Core.blank

def modThreadCore (s : State) (t : Thread) (f : Core → Core) : State :=
  match t.aside with
  | none => modCore s t.c.core f
  | some n => modPart s (dieOf t.c.core) t.part (fun p => { p with saves := listSet p.saves n (fun e => (e.1, f e.2)) })

def threadAt (s : State) (t : Thread) : Ctx := ctxIn (threadCore s t) t.c.ctx
def modThread (s : State) (t : Thread) (f : Ctx → Ctx) : State :=
  modThreadCore s t (fun k => { k with ctxs := tabSet Ctx.blank k.ctxs t.c.ctx (f (ctxIn k t.c.ctx)) })

/-- The thread of a context that satisfies a test: in its place, else where it stands aside. -/
def threadWhere (s : State) (part : Nat) (c : CtxId) (test : Ctx → Bool) : Thread :=
  ⟨c, part, if test (ctxAt s c) then none
    else (partAt s (dieOf c.core) part).saves.findIdx? (fun e => e.1 = c.core && test (ctxIn e.2 c.ctx))⟩

/-- The threads of a context: in its place, and those that stand aside for it. -/
def threadsOf (s : State) (c : CtxId) : List Thread :=
  ⟨c, (ctxAt s c).part, none⟩ :: (List.range 8).flatMap (fun p =>
    (List.range (partAt s (dieOf c.core) p).saves.length).filterMap (fun n =>
      if ((partAt s (dieOf c.core) p).saves[n]?).any (fun e => e.1 = c.core) then some ⟨c, p, some n⟩ else none))

/-- The thread of a member core of a context's gang (R147). -/
def mate (s : State) (c : CtxId) (k : Nat) : Thread :=
  let x := ctxAt s c
  threadWhere s x.part ⟨k, 0⟩ (fun y => y.launch == x.launch && y.gang == x.gang)

def mateAt (s : State) (c : CtxId) (k : Nat) : Ctx := threadAt s (mate s c k)
def modMate (s : State) (c : CtxId) (k : Nat) (f : Ctx → Ctx) : State := modThread s (mate s c k) f

/-! ## Receive queues (R179, R180, R206) -/

/-- The context of a core that a class is bound to (R180). -/
def binderIn (k : Core) (cls : Nat) : Option Nat := (k.bound.find? (·.1 = cls)).map (·.2)

/-- The context of a core into whose spill area a message for a class goes: one whose records of the class remain, else the
one the class is bound to where it is Saved or any of its records remain (R206, R209). -/
def areaIn (k : Core) (cls : Nat) : Option Nat :=
  match k.ctxs.find? (fun e => e.2.spillAt.any (·.2.1 = cls)) with
  | some e => some e.1
  | none => (binderIn k cls).filter (fun n => (ctxIn k n).st == .saved || !(ctxIn k n).spillAt.isEmpty)

/-- Where a core stands that holds a launch's contexts: in its place, else where it stands aside. -/
def coreWhere (s : State) (part : Nat) (launch : Option (Nat × Nat)) (core : Nat) : Thread :=
  let holds := fun (k : Core) => k.ctxs.any (fun e => e.2.st != .free && e.2.launch == launch)
  ⟨⟨core, 0⟩, part, if holds (coreAt s core) then none
    else (partAt s (dieOf core) part).saves.findIdx? (fun e => e.1 = core && holds e.2)⟩

/-- The queue of a class of a core, or the spill area that takes its messages, is full. -/
def queueFull (k : Core) (cls : Nat) : Bool :=
  match areaIn k cls with
  | some n => (ctxIn k n).spillStop || (ctxIn k n).spillCap ≤ (ctxIn k n).spillAt.length
  | none => 16 ≤ (tabGet [] k.queues cls).length

/-- Messages of a context are on their way and no full queue holds them back: the oldest enters its queue next. -/
def sendMoves (s : State) (c : CtxId) : Bool :=
  let x := ctxAt s c
  match x.sendq.head?.bind (·.dsts.head?) with
  | none => false
  | some d => !queueFull (threadCore s (coreWhere s x.part x.launch d.1)) d.2

/-! ## Layout and registers (R18, R39, R121, R123, R139) -/

/-- Private registers per context of a layout (R123). -/
def regsPerCtx (contexts : Nat) : Nat := min 128 (512 / contexts)

/-- Frame quota of a layout (R123). -/
def quotaOf (contexts : Nat) : Nat := max 1 (8 / contexts)

/-- The cores of a mask, ascending. -/
def maskCores (m : BitVec 8) : List Nat := (List.range 8).filter (fun k => m.getLsbD k)

/-- The members of a bond, by core number; the core itself where it is in no bond. -/
def bondMembers (s : State) (core : Nat) : List Nat :=
  let k := coreAt s core
  if k.kind = 1 then (maskCores k.set).map (fun m => 8 * (core / 8) + m) else [core]

/-- Where private register i of a context stands: core and entry (R123, R139). -/
def privEntry (s : State) (c : CtxId) (i : Nat) : Nat × Nat :=
  let ms := bondMembers s c.core
  if ms.length ≤ 1 then (c.core, regsPerCtx (coreAt s c.core).contexts * c.ctx + i)
  else (ms.getD (i % ms.length) c.core, i / ms.length)

/-- A register named by a register operand field (R39). -/
def readReg (s : State) (c : CtxId) (r : Nat) : Wide :=
  if r < 128 then
    let e := privEntry s c r
    tabGet 0 (coreAt s e.1).regs e.2
  else tabGet 0 (coreAt s c.core).shared (r - 128)

def writeReg (s : State) (c : CtxId) (r : Nat) (v : Wide) : State :=
  if r < 128 then
    let e := privEntry s c r
    modCore s e.1 (fun k => { k with regs := tabSet 0 k.regs e.2 v })
  else modCore s c.core (fun k => { k with shared := tabSet 0 k.shared (r - 128) v })

/-! ## Block headers (R34 to R38) -/

def hdr (fr : Frame) (n : Nat) : Nat := (fr.image.getD n 0).toNat
def chunkCount (fr : Frame) : Nat := field (hdr fr 0) 52 4
def exitCount (fr : Frame) : Nat := field (hdr fr 0) 49 3 + 1
def readCount (fr : Frame) : Nat := field (hdr fr 0) 28 5
def writeCount (fr : Frame) : Nat := field (hdr fr 0) 23 5
def isPinned (fr : Frame) : Bool := (hdr fr 0).testBit 48
def isMuster (fr : Frame) : Bool := (hdr fr 0).testBit 47
def uniformDefault (fr : Frame) : Bool := (hdr fr 0).testBit 44
def noSpeculate (fr : Frame) : Bool := (hdr fr 0).testBit 42
def lsidCount (fr : Frame) : Nat := field (hdr fr 1) 32 6
def effectMap (fr : Frame) : Nat := field (hdr fr 1) 0 32
def iterLimit (fr : Frame) : Nat := field (hdr fr 2) 0 32

/-- Byte n of a header. -/
def hdrByte (fr : Frame) (n : Nat) : Nat := field (hdr fr (n / 8)) (8 * (n % 8)) 8

/-- Read entry j as a 32-bit number (R37). -/
def readEntry (fr : Frame) (j : Nat) : Nat := ofBytes ((List.range 4).map (fun k => BitVec.ofNat 8 (hdrByte fr (24 + 4 * j + k))))

/-- The register of read entry j. -/
def readSource (fr : Frame) (j : Nat) : Nat := field (readEntry fr j) 24 8

/-- The targets of read entry j. -/
def readTargets (fr : Frame) (j : Nat) : List Target :=
  [targetOfCode (BitVec.ofNat 11 (field (readEntry fr j) 13 11)), targetOfCode (BitVec.ofNat 11 (field (readEntry fr j) 2 11))]

/-- The register of write slot n (R38). -/
def writeDest (fr : Frame) (n : Nat) : Nat := hdrByte fr (104 + n)

/-- The word at an instruction index (R33). -/
def instrWord (fr : Frame) (idx : Nat) : Word := fr.image.getD (16 + idx) 0

/-- The instruction at an index; none where the position is empty. -/
def instrAt (fr : Frame) (idx : Nat) : Option Instr :=
  match decode (instrWord fr idx) with
  | .ok i => some i
  | .error _ => none

/-- Indices of the instructions of a block, ascending. -/
def indices (fr : Frame) : List Nat := (List.range (16 * chunkCount fr)).filter (fun n => instrWord fr n ≠ 0)

/-- Every instruction of a block with its index. -/
def instrs (fr : Frame) : List (Nat × Instr) :=
  (indices fr).filterMap (fun n => (instrAt fr n).map (fun i => (n, i)))

/-- The W slots in use. -/
def wSlots (fr : Frame) : List Nat := List.range (writeCount fr)

/-! ## Pinned blocks: which slots and instructions are special (R150 to R156) -/

/-- Some instruction has a target with the given tag arithmetic at a destination. -/
def namedBy (fr : Frame) (ar : TagArith) (d : Target) : Bool :=
  (instrs fr).any (fun e => (targetsOf e.2).any (fun t => t.1 == d && t.2 == ar))

/-- A final instruction: one that a final token reaches (R152). -/
def isFinal (fr : Frame) (idx : Nat) : Bool :=
  [Slot.a, .b, .c, .p].any (fun sl => namedBy fr .out (.operand sl (BitVec.ofNat 7 idx)))

/-- A running accumulator at an index (R156). -/
def isAccum (fr : Frame) (i : Instr) (idx : Nat) : Bool :=
  isPinned fr && i.accForm
    && (match i.fields with
        | .g f => f.t1 == .operand .a (BitVec.ofNat 7 idx)
        | _ => false)

/-- The iteration of a tag as a producer; none for the final phase. -/
def iterOf : Tag → Option Nat
  | .iter t => some t
  | _ => none

/-- A tag of an iteration, not of the final phase or of a read token. -/
def isIter : Tag → Bool
  | .iter _ => true
  | _ => false

/-- An iteration is open (R150). -/
def isOpen (fr : Frame) (t : Nat) : Bool := fr.iter ≤ t && t < fr.iter + 8

/-- A tag may be fired for and received now. -/
def tagOpen (fr : Frame) : Tag → Bool
  | .iter t => if isPinned fr then isOpen fr t && !fr.finalPh else t == 0
  | .final => fr.finalPh
  | .persist => true

/-! ## Operand slots and LSIDs -/

/-- The token that a slot holds for a tag; a persistent read token serves every tag (R151). -/
def slotToken (fr : Frame) (idx : Nat) (sl : Slot) (tag : Tag) : Option Token :=
  (fr.ops.find? (fun o => o.idx == idx && o.slot == sl && (o.tag == tag || o.tag == .persist))).map (·.tok)

/-- The indices holding an LSID. -/
def lsidHolders (fr : Frame) (k : Nat) : List Nat :=
  ((instrs fr).filter (fun e => lsidOf e.2 == some k)).map (·.1)

def hasFired (fr : Frame) (idx : Nat) (tag : Tag) : Bool := fr.fired.contains (idx, tag)
def isAgainst (fr : Frame) (idx : Nat) (tag : Tag) : Bool := fr.against.contains (idx, tag)

/-- A stream load before its next emission. -/
def streamNow (fr : Frame) (idx : Nat) : Option Stream :=
  (fr.streams.filter (·.idx = idx)).foldl (fun b q => match b with
    | none => some q
    | some p => if p.k ≤ q.k then some q else some p) none

/-- The ISECT before its next emission. -/
def isectNow (fr : Frame) (idx : Nat) : Isect :=
  (fr.isects.filter (fun q => q.idx == idx)).foldl (fun best q => if best.k ≤ q.k then q else best) ⟨idx, 0, 0, 0, false⟩

/-- An ISECT holds its next stream token of a slot (R118). -/
def headHeld (fr : Frame) (idx : Nat) (sl : Slot) : Bool :=
  let q := isectNow fr idx
  fr.ops.any (fun o => o.idx == idx && o.slot == sl && o.tag == .iter (if sl == .a then q.na else q.nb))

/-- An instruction may still receive for a tag every token it uses: it holds one, one is on its way, or an instruction of
the list that has not fired sends one. A stream load that has fired needs none. -/
def feedable (fr : Frame) (tag : Tag) (live : List (Nat × Instr)) (e : Nat × Instr) : Bool :=
  (match e.2 with
    | .lds _ => (streamNow fr e.1).isSome
    | _ => false)
  || (usedSlots e.2).all (fun sl =>
    let d : Target := .operand sl (BitVec.ofNat 7 e.1)
    (match e.2 with
      | .isect _ => headHeld fr e.1 sl || fr.flight.any (·.dst == d)
      | _ => (slotToken fr e.1 sl tag).isSome || fr.flight.any (fun f => f.dst == d && (f.tag == tag || f.tag == .persist)))
      || fr.reads.any (fun j => (readTargets fr j).contains d)
      || live.any (fun q => (targetsOf q.2).any (fun t => t.1 == d && t.2 == .same)))

/-- Instructions that lack a token for good leave a list, until none does. -/
def prune (fr : Frame) (tag : Tag) : Nat → List (Nat × Instr) → List (Nat × Instr)
  | 0, live => live
  | n + 1, live =>
    let l := live.filter (feedable fr tag live)
    if l.length = live.length then l else prune fr tag n l

/-- An instruction may still act for a tag: it has neither fired nor been decided against; a stream load that has fired, and an
ISECT, have their emission for the iteration before them (R120, R171). -/
def pending (fr : Frame) (tag : Tag) (e : Nat × Instr) : Bool :=
  let owes := fun (done : Bool) (k : Nat) => !done && (iterOf tag).any (k ≤ ·)
  match e.2, streamNow fr e.1 with
  | .lds _, some q => owes q.done q.k
  | .isect _, _ => owes (isectNow fr e.1).done (isectNow fr e.1).k
  | _, _ => !hasFired fr e.1 tag && !isAgainst fr e.1 tag

/-- The instructions of a block that may still fire for a tag, those apart that need a token of the instruction at an
index. -/
def alive (fr : Frame) (tag : Tag) (but : Option Nat) : List (Nat × Instr) :=
  let is := (instrs fr).filter (fun e => some e.1 != but && pending fr tag e
    && (!isPinned fr || isFinal fr e.1 == (tag == .final)))
  prune fr tag is.length is

/-- A holder of an LSID does nothing more for a tag: decided against, or a final instruction that lacks a token in a
used slot for good, which resolves its LSID as a null token would (R152). -/
def holderPast (fr : Frame) (tag : Tag) (idx : Nat) : Bool :=
  isAgainst fr idx tag || (tag == .final && fr.finalPh && !hasFired fr idx tag
    && !(alive fr tag none).any (·.1 = idx))

/-- An LSID has been resolved for a tag (R22). -/
def lsidResolved (fr : Frame) (k : Nat) (tag : Tag) : Bool :=
  let hs := lsidHolders fr k
  hs.any (hasFired fr · tag) || (!hs.isEmpty && hs.all (holderPast fr tag))

/-- The LSIDs of the effect map that a tag must settle: those held by final instructions in the final phase, the
others, those of no instruction among them, in each iteration (R22, R152, R153). -/
def effectLsids (fr : Frame) (tag : Tag) : List Nat :=
  (List.range 32).filter (fun k => (effectMap fr).testBit k
    && (!isPinned fr || (tag != .final && (lsidHolders fr k).isEmpty)
      || (lsidHolders fr k).any (fun h => isFinal fr h == (tag == .final))))

/-- Every effect-map LSID below k is resolved for a tag (R28). -/
def lowerResolved (fr : Frame) (k : Nat) (tag : Tag) : Bool :=
  ((effectLsids fr tag).filter (· < k)).all (lsidResolved fr · tag)

/-- Every effect-map LSID is resolved for a tag. -/
def allResolved (fr : Frame) (tag : Tag) : Bool := (effectLsids fr tag).all (lsidResolved fr · tag)

/-- A PHASE of a context is not finished, or an effect of its block waits behind one (R264). -/
def phasing (x : Ctx) : Bool := !x.phases.isEmpty || !x.late.isEmpty

/-- What ends a thread, and waits behind a PHASE of its block (R176, R239). -/
def isEnd (e : Effect) : Bool :=
  match e with
  | .quit | .taskDone => true
  | _ => false

/-- A PHASE of a context is not finished, or an effect other than the end of its thread waits behind one (R264). -/
def settling (x : Ctx) : Bool := !x.phases.isEmpty || x.late.any (fun q => !isEnd q.2.2.eff)

/-- Every effect that waits behind a PHASE of its block, with the core it acts on (R264). -/
def lateEffects (s : State) : List (Nat × Effect) :=
  s.cores.flatMap (fun k => k.2.ctxs.flatMap (fun e => e.2.late.map (fun q => (q.1, q.2.2.eff))))

/-- The replay-log entry of an instruction (R198). -/
def logged (x : Ctx) (idx : Nat) (tag : Tag) : Option LogEntry :=
  x.log.find? (fun e => e.idx == idx && e.tag == tag)

/-! ## Readiness (R14 to R16, R28, R155, R199) -/

/-- What stands between an instruction and its effect. -/
inductive Ready where
  | wait                     -- an operand, an order or an answer is missing
  | against                  -- decided against firing by its p token (R15)
  | dup                      -- a second exit or a second resolution of an LSID (R13)
  | logged (e : LogEntry)    -- its result stands in the replay log (R199)
  | stop (level : Nat)       -- a stop token in a used slot (R155)
  | null                     -- a null token in a data slot (R16)
  | full                     -- the load-store queue has no entry for the oldest block (R131)
  | go (a b c : Token)       -- its own effect
  deriving DecidableEq, Repr

/-- The uniform flag in effect (R35, R145). -/
def uniformFlag (fr : Frame) (i : Instr) : Bool :=
  match i with
  | .quit _ | .yield _ | .repart _ | .bind _ | .unbind _ | .recv _ | .waita _ | .trap _ | .rett _ | .syncb _
  | .setc _ | .round _ | .seed _ | .feCtl _ | .coreErr _ | .tlbInv _ | .ptRoot _ | .rcLogctl _ | .spillCtl _
  | .partCfg _ | .distKill _ => false
  | _ =>
    match i.fields with
    | .g f => f.uniform != uniformDefault fr
    | .x f => f.uniform != uniformDefault fr
    | _ => false

/-- A uniform instruction of a block that a follower mapped is its leader's to fire (R145). -/
def followsAt (fr : Frame) (i : Instr) : Bool := fr.follows && uniformFlag fr i

/-- A p token decides for firing (R15). -/
def predMatches (m : PredMode) (t : Token) : Bool :=
  match m with
  | .always => true
  | .onTrue => !t.null && t.value.getLsbD 0
  | .onFalse => !t.null && !t.value.getLsbD 0

/-- The block of a frame is the oldest of its thread and the tag its oldest open iteration (R28, R153). -/
def isOldest (fr : Frame) (n : Nat) (tag : Tag) : Bool :=
  n == 0 && (!isPinned fr || tag == .final || tag == .iter fr.iter)

/-- A load that reads the point of coherence in program order (R265): a consuming load, or one with policy `.byp`. -/
def isSyncLoad (i : Instr) : Bool :=
  match i with
  | .ldRc _ => true
  | .ld f | .gath f => f.cache = 3
  | _ => false

/-- A consuming load. -/
def isConsuming (i : Instr) : Bool :=
  match i with
  | .ldRc _ => true
  | _ => false

/-- Loads of a kind that stand below an LSID and may still fire, those apart that need a token of the instruction at an
index. -/
def loadsBelow (kind : Instr → Bool) (fr : Frame) (k idx : Nat) (tag : Tag) : Bool :=
  (alive fr tag (some idx)).any (fun e => kind e.2 && (lsidOf e.2).any (· < k))

/-- The instructions of a block that tokens of some of them reach, through one another. -/
def reached (fr : Frame) : Nat → List Nat → List Nat
  | 0, xs => xs
  | n + 1, xs =>
    let new := ((instrs fr).filter (fun e => xs.contains e.1)).flatMap (fun e => (targetsOf e.2).filterMap (fun t => match t.1 with
      | .operand _ m => some m.toNat
      | _ => none))
    let ys := new.foldl (fun ys m => if ys.contains m then ys else ys ++ [m]) xs
    if ys.length = xs.length then xs else reached fr n ys

/-- An instruction whose effect may be irrevocable: by its entry, or as a load of a distant path (R26, R163). -/
def mayBeIrrevocable (i : Instr) : Bool := alwaysIrrevocable i || (match i with
  | .ld _ => true
  | _ => false)

/-- A load on whose token an irrevocable instruction depends waits for the stores of its block before it, those apart that
need its own token: what an irrevocable instruction has done is not undone (R23, R24, R199). -/
def holdEarly (fr : Frame) (idx lsid : Nat) (tag : Tag) : Bool :=
  !lowerResolved fr lsid tag
    && (alive fr tag (some idx)).any (fun e => hasEffect e.2 && (lsidOf e.2).any (· < lsid))
    && ((reached fr (instrs fr).length [idx]).filter (· ≠ idx)).any (fun m => (instrAt fr m).any mayBeIrrevocable)

/-- The order an irrevocable instruction waits for (R28), and an atomic or a declaration the synchronising loads before
it (R265). -/
def irrevocableMay (fr : Frame) (n idx : Nat) (i : Instr) (tag : Tag) : Bool :=
  isOldest fr n tag && (match lsidOf i with
    | some k => lowerResolved fr k tag && !loadsBelow isSyncLoad fr k idx tag
    | none => true)

/-- An exit of the block has fired for a tag. -/
def exitFired (fr : Frame) (tag : Tag) : Bool := fr.exits.any (·.tag == tag)

/-- Another holder of the instruction's effect LSID has fired for the tag (R13). -/
def lsidTaken (fr : Frame) (i : Instr) (tag : Tag) : Bool :=
  hasEffect i && (match lsidOf i with
    | some k => (lsidHolders fr k).any (hasFired fr · tag)
    | none => false)

/-- An instruction is an exit. -/
def isExit (i : Instr) : Bool :=
  match i.fields with
  | .b _ => true
  | _ => false

/-- Stop levels among the tokens of the used slots. -/
def stopLevels (fr : Frame) (i : Instr) (idx : Nat) (tag : Tag) : List Nat :=
  (usedSlots i).filterMap (fun sl => (slotToken fr idx sl tag).bind (·.stop))

/-- A wait that nobody answers: the instruction looks again (R284). -/
def retries (i : Instr) : Bool :=
  match i with
  | .rdisc _ => true
  | _ => false

/-- The readiness of an instruction at a place of a mapped frame. -/
def readyAt (x : Ctx) (fr : Frame) (n idx : Nat) (tag : Tag) (i : Instr) : Ready :=
  let tok := fun sl => slotToken fr idx sl tag
  let pt := tok .p
  let pstop := (pt.bind (·.stop)).isSome
  if x.st != .running || !fr.mapped || !tagOpen fr tag || hasFired fr idx tag || isAgainst fr idx tag
      || followsAt fr i || (isPinned fr && isFinal fr idx != (tag == .final)) then .wait
  else if predMode i != .always && pt.isNone then .wait
  else if predMode i != .always && !pstop && !(pt.any (predMatches (predMode i))) then .against
  else if isExit i && predMode i != .always && pstop && !(pt.any (fun t => t.stop == some 3)) then .against
  else if (dataSlots i).any (fun sl => (tok sl).isNone) then .wait
  else
    match (if n = 0 then logged x idx tag else none) with
    | some e => .logged e
    | none =>
      if lsidTaken fr i tag then .dup
      else if fr.waiting.contains (idx, tag) && !retries i then .wait
      else if !isExit i && !(stopLevels fr i idx tag).isEmpty then .stop ((stopLevels fr i idx tag).foldl max 0)
      else if (dataSlots i).any (fun sl => (tok sl).any (fun t => t.null || t.stop.isSome)) then .null
      else if isExit i && exitFired fr tag then .dup
      else if alwaysIrrevocable i && (phasing x || !irrevocableMay fr n idx i tag) then .wait
      else .go ((tok .a).getD nullTok) ((tok .b).getD nullTok) ((tok .c).getD nullTok)

/-- Load-store queue entries in use beside a frame: the L-brick instructions fired by the frames of the core that are
mapped on the same member (R131, R140). L bricks are 0 and 8 (R9). -/
def lsqUsed (s : State) (core : Nat) (fr : Frame) : Nat :=
  ((coreAt s core).ctxs.map (fun e => ((e.2.frames.filter (·.member == fr.member)).map
    (fun g => (g.fired.filter (fun q => q.1 % 8 = 0)).length)).sum)).sum

/-- The readiness of an instruction at the site being fired. -/
def readiness (i : Instr) (s : State) : Ready :=
  match frameAt s s.focus.c s.focus.frame with
  | none => .wait
  | some fr =>
    match readyAt (ctxAt s s.focus.c) fr s.focus.frame s.focus.idx s.focus.tag i with
    | .wait => .wait
    | .against => .against
    | r =>
      if (lsidOf i).isNone then r
      else if !isOldest fr s.focus.frame s.focus.tag && 48 < lsqUsed s s.focus.c.core fr then .wait
      else if 64 ≤ lsqUsed s s.focus.c.core fr then .full
      else r

/-! ## Fault classes -/

/-- Fault class codes (R193). -/
def clsTrap : Nat := 0x00
def clsBlockInvalid : Nat := 0x01
def clsBlockIncomplete : Nat := 0x02
def clsTokenParity : Nat := 0x03
def clsPageFault : Nat := 0x04
def clsPathReserved : Nat := 0x05
def clsSendFull : Nat := 0x06
def clsPartitionBorder : Nat := 0x07
def clsOverRead : Nat := 0x08
def clsNotCounted : Nat := 0x09
def clsCountCapacity : Nat := 0x0A
def clsTenureConflict : Nat := 0x0B
def clsStaleHandle : Nat := 0x0C
def clsEarlyRelease : Nat := 0x0D
def clsAccOverrun : Nat := 0x0E
def clsArenaFull : Nat := 0x0F
def clsDeadlock : Nat := 0x10
def clsRemoteRefused : Nat := 0x11
def clsSpillFault : Nat := 0x12

/-- The locator of a run-time duplicate: kind 11 and the instruction index, or kind 10 and the W number (R54). -/
def dupLocator (wslot : Bool) (n : Nat) : Word := BitVec.ofNat 64 ((if wslot then 0x200 else 0x300) + n)

/-! ## Firing -/

/-- What a firing produces: tokens for targets 0 and 1, FPSTAT flags and commit-time effects. -/
structure Firing where
  r0    : Option Token := none
  r1    : Option Token := none
  flags : BitVec 6 := 0
  effs  : List Effect := []
  pass  : Option Bool := none   -- a stop token at a running accumulator: its value goes on, released or not (R156)
  deriving DecidableEq, Repr

/-- The tag a token carries (R41, R151); the final phase keeps its own. -/
def sentTag (ar : TagArith) (tag : Tag) : Tag :=
  match tag with
  | .iter t =>
    match ar with
    | .same => .iter t
    | .next => .iter (t + 1)
    | .out => .final
  | g => g

/-- The flight of a token to a target; none where the target is of kind none. -/
def flightTo (t : Target × TagArith) (tag : Tag) (tok : Token) : List Flight :=
  if t.1 == .none then [] else [⟨t.1, sentTag t.2 tag, tok, iterOf tag, 0, false⟩]

/-- The flights of a firing: target 0 and target 1. -/
def flightsOf (i : Instr) (tag : Tag) (r0 r1 : Option Token) : List Flight :=
  ((targetsOf i).zip [r0, r1]).flatMap (fun e =>
    match e.2 with
    | some tok => flightTo e.1 tag tok
    | none => [])

/-- Tokens of a pinned block on their way to the final outputs (R152). -/
def isOut (tag : Tag) (f : Flight) : Bool := f.tag == .final && tag != .final

/-- The running-accumulator routing of a result (R156): counted release to target 0 with a restart, or target 1. -/
def accRoute (i : Instr) (fr : Frame) (idx t : Nat) (a : Token) (res : Token) (counts : Bool) (release : Bool) :
    List Flight × RunAcc :=
  let r := (fr.accs.find? (fun r => r.idx == idx && r.tag == t)).getD ⟨idx, t, 0, a⟩
  let limit := match i.fields with
    | .g f => f.imm16.toNat % 8192
    | _ => 0
  let n := if counts then r.count + 1 else r.count
  if release || (counts && limit != 0 && n == limit) then
    (flightsOf i (.iter t) (some res) (some r.init), ⟨idx, t + 1, 0, r.init⟩)
  else (flightsOf i (.iter t) none (some res), ⟨idx, t + 1, n, r.init⟩)

/-- The tokens of a firing, and the running accumulators after it. A null result of an accumulator counts and goes where a
result would (R16, R156; DESIGN CHOICE, log entry 110). -/
def routed (i : Instr) (idx : Nat) (tag : Tag) (r : Firing) (fr : Frame) : List Flight × List RunAcc :=
  let acc := fun (t : Nat) (a res : Token) (counts release : Bool) =>
    let (fl, rec) := accRoute i fr idx t a res counts release
    (fl, fr.accs.filter (fun q => !(q.idx == idx && q.tag == t + 1)) ++ [rec])
  match isAccum fr i idx, tag, r.pass, r.r0 with
  | true, .iter t, some release, _ =>
    let a := (slotToken fr idx .a tag).getD nullTok
    acc t a a false release
  | true, .iter t, none, some res => acc t ((slotToken fr idx .a tag).getD nullTok) res true false
  | _, _, _, _ => (flightsOf i tag r.r0 r.r1, fr.accs)

/-- A duplicate token (R13). -/
def dupFault (wslot : Bool) (idx : Nat) (tag : Tag) : FaultRec :=
  ⟨clsBlockInvalid, 0x0E, idx, wslot, tag, 0, dupLocator wslot idx⟩

/-- The duplicate fault of a destination. -/
def dupAt (tag : Tag) : Target → List FaultRec
  | .write w => [dupFault true w.toNat tag]
  | .operand _ n => [dupFault false n.toNat tag]
  | .none => []

/-- A final token joins those of its iteration: a second one for a destination is a duplicate (R13, R150, R152). -/
def addOut (t : Nat) (fr : Frame) (f : Flight) : Frame :=
  if fr.outs.any (fun o => o.1 == t && o.2.dst == f.dst) then { fr with faults := fr.faults ++ dupAt (.iter t) f.dst }
  else { fr with outs := fr.outs ++ [(t, f)] }

/-- The frame after an instruction of it has fired. -/
def frameFired (i : Instr) (idx : Nat) (tag : Tag) (r : Firing) (fr : Frame) : Frame :=
  let (fl, accs) := routed i idx tag r fr
  let fr := match tag with
    | .iter t => (fl.filter (isOut tag)).foldl (addOut t) fr
    | _ => fr
  { fr with
    fired := fr.fired ++ [(idx, tag)]
    waiting := fr.waiting.filter (· != (idx, tag))
    flight := fr.flight ++ fl.filter (fun f => !isOut tag f)
    flags := if r.flags = 0 then fr.flags else fr.flags ++ [(tag, r.flags)]
    accs := accs
    effects := fr.effects ++ r.effs.map (fun e => ⟨idx, lsidOf i, tag, e⟩) }

/-- The other cores of the SET of a member's core (R137). -/
def mates (s : State) (c : CtxId) : List Nat :=
  ((maskCores (coreAt s c.core).set).map (fun m => 8 * (c.core / 8) + m)).filter (· != c.core)

/-- The followers of the course that a core leads: the cores of its SET that follow it (R137, R145). A SET may hold two
courses after a muster check (R148). -/
def followersOf (s : State) (core : Nat) : List Nat :=
  (mates s ⟨core, 0⟩).filter (fun k => (mateAt s ⟨core, 0⟩ k).course == .follower && (mateAt s ⟨core, 0⟩ k).lead == core)

/-- A uniform token reaches the same slot in every follower's block at the same position (R145). -/
def broadcast (i : Instr) (s : State) (fls : List Flight) : State :=
  match frameAt s s.focus.c s.focus.frame with
  | none => s
  | some fr =>
    if uniformFlag fr i && (ctxAt s s.focus.c).course == .leader then
      (followersOf s s.focus.c.core).foldl
        (fun s k => modMate s s.focus.c k (fun x =>
          if x.pos ≤ fr.pos then { x with utoks := x.utoks ++ fls.map (fun f => (fr.pos, f)) } else x)) s
    else s

/-- The firing of an instruction at the site: its tokens leave, its effects wait for the commit step. -/
def fired (i : Instr) (r : Firing) (s : State) : State :=
  let sent := ((frameAt s s.focus.c s.focus.frame).map (fun fr => (routed i s.focus.idx s.focus.tag r fr).1)).getD []
  broadcast i (modFrame s s.focus.c s.focus.frame (frameFired i s.focus.idx s.focus.tag r)) sent

/-- The instruction at the site is decided against firing (R15). -/
def decideAgainst (s : State) : State :=
  modFrame s s.focus.c s.focus.frame (fun fr => { fr with against := fr.against ++ [(s.focus.idx, s.focus.tag)] })

/-- A fault is recorded against the block; the instruction delivers no token (R29). -/
def faulted (cls cause : Nat) (addr arg : Word) (s : State) : State :=
  modFrame s s.focus.c s.focus.frame (fun fr =>
    { fr with fired := fr.fired ++ [(s.focus.idx, s.focus.tag)]
              waiting := fr.waiting.filter (· != (s.focus.idx, s.focus.tag))
              faults := fr.faults ++ [⟨cls, cause, s.focus.idx, false, s.focus.tag, addr, arg⟩] })

/-- The result of an irrevocable instruction: it is logged and delivered (R198). -/
def answered (i : Instr) (t0 : Option Wide) (t1 : Word) (s : State) : State :=
  let idx := s.focus.idx
  let tag := s.focus.tag
  let s := modCtx s s.focus.c (fun x => { x with log := x.log ++ [⟨idx, tag, t0, t1⟩] })
  fired i { r0 := some (match t0 with | some v => wideTok v | none => nullTok), r1 := some (scalar t1) } s

/-- The request of an irrevocable instruction is outstanding: it waits for an answer (R30). -/
def awaiting (s : State) : State :=
  modFrame s s.focus.c s.focus.frame (fun fr =>
    if fr.waiting.contains (s.focus.idx, s.focus.tag) then fr
    else { fr with waiting := fr.waiting ++ [(s.focus.idx, s.focus.tag)] })

/-- An answer for a waiting instruction of a context: the log entry from which it will deliver; the ready bit is
set, or remembered while the context is stopped (R122, R192). -/
def answerLater (c : CtxId) (idx : Nat) (tag : Tag) (t0 : Option Wide) (t1 : Word) (s : State) : State :=
  modCtx s c (fun x =>
    { x with log := x.log ++ [⟨idx, tag, t0, t1⟩]
             ready := x.ready || !x.stopped
             readyHeld := x.readyHeld || x.stopped })

/-- A stop token reaches an ordinary instruction (R155): it delivers a stop to every target; a running accumulator
releases or passes its value (R156). -/
def fireStop (i : Instr) (level : Nat) (s : State) : State :=
  let acc := (frameAt s s.focus.c s.focus.frame).any (fun fr => isAccum fr i s.focus.idx) && isIter s.focus.tag
  let (open_, least) := match i.fields with
    | .g f => (f.imm16.getLsbD 15, field f.imm16.toNat 13 2)
    | _ => (false, 0)
  if acc then fired i { pass := some (open_ && least ≤ level) } s
  else fired i { r0 := some (stopTok level), r1 := some (stopTok level) } s

/-- A null token in a data slot (R16): null to every target, no access, no flag. -/
def fireNull (i : Instr) (s : State) : State :=
  fired i { r0 := some nullTok, r1 := some nullTok } s

/-- A logged instruction delivers its logged tokens and issues no request (R199). -/
def fireLogged (i : Instr) (e : LogEntry) (s : State) : State :=
  fired i { r0 := some (match e.t0 with | some v => wideTok v | none => nullTok), r1 := some (scalar e.t1) } s

/-! ## Counted lines at their homes (R272) -/

def blankLine : L2Line := ⟨0, false, 0, 0, 0⟩
def l2At (s : State) (line : Nat) : L2Line := tabGet blankLine s.l2 line
def modL2 (s : State) (line : Nat) (f : L2Line → L2Line) : State :=
  { s with l2 := tabSet blankLine s.l2 line (f (l2At s line)) }

/-- The (n, v) of a counted line. -/
def countAt (s : State) : Loc → Nat × Nat
  | .pa a _ => let l := l2At s (a / 64); (l.n, l.v)
  | .spad k o => tabGet (0, 0) (coreAt s k).spadCnt (o / 64)
  | _ => (0, 0)

/-- Changes v of a counted line. -/
def setReserved (s : State) (loc : Loc) (f : Nat → Nat) : State :=
  match loc with
  | .pa a _ => modL2 s (a / 64) (fun l => { l with v := f l.v })
  | .spad k o => modCore s k (fun c => { c with spadCnt :=
      (let e := tabGet (0, 0) c.spadCnt (o / 64); tabSet (0, 0) c.spadCnt (o / 64) (e.1, f e.2)) })
  | _ => s

end Sys2Proof.Machine
end

