-- ==== Sys2Proof/Machine/Operands.lean ====
section
/-! DEFINITION. Operand forms of format G: lanes, the scalar and the wide form (R62, R63, R85), and the reading of
the immediate (R45). Lane values are natural numbers below 2^w. -/

namespace Sys2Proof.Machine

open Sys2Proof

/-- Lane i of a token as an unsigned number. -/
def laneN (w : Nat) (v : Wide) (i : Nat) : Nat := v.toNat / 2 ^ (w * i) % 2 ^ w

/-- A number below 2^w read as signed. -/
def toSigned (w n : Nat) : Int := if n % 2 ^ w < 2 ^ (w - 1) then (n % 2 ^ w : Nat) else (n % 2 ^ w : Nat) - (2 ^ w : Nat)

/-- Lane i of a token in an element type: bits [7:6] of a `.l6` lane are ignored (R63). -/
def dataLane (ty : ElemType) (v : Wide) (i : Nat) : Nat := laneN ty.width v i % (if ty = .l6 then 64 else 2 ^ ty.width)

/-- An integer taken modulo 2^w. -/
def wrapTo (w : Nat) (x : Int) : Nat := (x % (2 ^ w : Nat)).toNat

/-- A lane read in an integer type (R62). -/
def readInt (ty : ElemType) (n : Nat) : Int := if ty.signed then toSigned ty.width n else (n % 2 ^ ty.width : Nat)

/-- Least and greatest value of an integer type. -/
def minOf (ty : ElemType) : Int := if ty.signed then -(2 ^ (ty.width - 1) : Nat) else 0
def maxOf (ty : ElemType) : Int := if ty.signed then (2 ^ (ty.width - 1) : Nat) - 1 else (2 ^ ty.width : Nat) - 1

/-- Lanes of a width in a token (R63). -/
def laneCount (w : Nat) : Nat := 512 / w

/-- A token from n lanes of width w. -/
def fromLanes (w n : Nat) (f : Nat → Nat) : Wide :=
  BitVec.ofNat 512 ((List.range n).foldl (fun acc i => acc + f i % 2 ^ w * 2 ^ (w * i)) 0)

/-- A scalar result of an element type, extended to 64 bits (R62). -/
def scalarOf (ty : ElemType) (n : Nat) : Wide :=
  if ty.signed then (BitVec.ofInt 64 (toSigned ty.width n)).setWidth 512 else BitVec.ofNat 512 (n % 2 ^ ty.width)

/-- A scalar result of a width, signed or not. -/
def scalarW (w : Nat) (signed : Bool) (n : Nat) : Wide :=
  if signed then (BitVec.ofInt 64 (toSigned w n)).setWidth 512 else BitVec.ofNat 512 (n % 2 ^ w)

/-- A 64-bit value as a scalar token value. -/
def scalar64 (n : Nat) : Wide := BitVec.ofNat 512 (n % 2 ^ 64)

/-- One lane's result with the flags it raises. -/
abbrev LaneRes := Nat × BitVec 6

/-- The flags of several lanes. -/
def orFlags (l : List (BitVec 6)) : BitVec 6 := l.foldl (· ||| ·) 0

/-- The scalar form on element 0, or the wide form on every lane (R85). -/
def perLane (ty : ElemType) (wide : Bool) (f : Nat → LaneRes) : Wide × BitVec 6 :=
  if wide then
    let rs := (List.range (laneCount ty.width)).map f
    (fromLanes ty.width (laneCount ty.width) (fun i => (rs.getD i (0, 0)).1), orFlags (rs.map (·.2)))
  else
    let r := f 0
    (scalarOf ty r.1, r.2)

/-- The immediate in lane i, read in the element type (R45). -/
def immLane (ty : ElemType) (imm : Nat) (i : Nat) : Nat :=
  match ty with
  | .i8 | .i16 | .i32 | .i64 => wrapTo ty.width (toSigned 16 imm)
  | .n8 | .n16 | .n32 | .n64 => imm % 2 ^ ty.width
  | .bf16 | .f16 => imm
  | .f32 => imm * 2 ^ 16
  | .f64 =>
    -- a BF16 value widened exactly: the value, not the bits
    let s := imm / 2 ^ 15
    let e := imm / 2 ^ 7 % 2 ^ 8
    let m := imm % 2 ^ 7
    s * 2 ^ 63 +
      (if e == 255 then 0x7FF * 2 ^ 52 + m * 2 ^ 45
       else if e != 0 then (e + 896) * 2 ^ 52 + m * 2 ^ 45
       else if m == 0 then 0
       else (Nat.log2 m + 890) * 2 ^ 52 + (m * 2 ^ (52 - Nat.log2 m) - 2 ^ 52))
  | .e4m3 | .e5m2 => if i % 2 == 0 then imm % 256 else imm / 256
  | .l6 => if i % 2 == 0 then imm % 64 else imm / 256 % 64
  | .l6s => 0

/-- Lane i of operand b: slot b, or the immediate in its place (R44). -/
def bLane (f : GFields) (b : Wide) (i : Nat) : Nat :=
  if f.imm then immLane f.ty f.imm16.toNat i else laneN f.ty.width b i

/-- An element-wise instruction on lanes of its type. -/
def elementwise (f : GFields) (a b c : Wide) (op : Nat → Nat → Nat → LaneRes) : Wide × BitVec 6 :=
  perLane f.ty f.wide (fun i => op (laneN f.ty.width a i) (bLane f b i) (laneN f.ty.width c i))

/-- A result without flags. -/
def plain (v : Wide) : Wide × BitVec 6 := (v, 0)

/-- imm16 as a number. -/
def immN (f : GFields) : Nat := f.imm16.toNat

end Sys2Proof.Machine
end

