-- ==== Sys2Proof/Machine/Flags.lean ====
section
/-! DEFINITION. The FPSTAT flags (R73), the rounding mode in force (R72), and the draws of stochastic rounding
(R75 to R77). -/

namespace Sys2Proof.Machine

open Sys2Proof

def fInvalid : BitVec 6 := 0x01
def fDivZero : BitVec 6 := 0x02
def fOverflow : BitVec 6 := 0x04
def fUnderflow : BitVec 6 := 0x08
def fInexact : BitVec 6 := 0x10
def fSaturated : BitVec 6 := 0x20

/-- A flag raised under a condition. -/
def flagIf (b : Bool) (f : BitVec 6) : BitVec 6 := if b then f else 0

/-- Rounding modes (R72). -/
inductive Mode where
  | nearest | zero | up | down | stochastic
  deriving DecidableEq, Repr

/-- The mode of a ROUND value (R73). -/
def modeOfRound (r : Word) : Mode :=
  match r.toNat % 8 with
  | 1 => .zero
  | 2 => .up
  | 3 => .down
  | 4 => .stochastic
  | _ => .nearest

/-- The value ROUND stores for a written value: 101 to 111 are stored as 000, reserved bits are ignored (R73). -/
def roundStored (v : Word) : Word := if v.toNat % 8 ≤ 4 then BitVec.ofNat 64 (v.toNat % 8) else 0

/-- The value SEED stores: a write of 0 stores 1 (R73). -/
def seedStored (v : Word) : Word := if v.toNat % 2 ^ 32 = 0 then 1 else BitVec.ofNat 64 (v.toNat % 2 ^ 32)

/-- The value FPSTAT stores (R73). -/
def fpstatStored (v : Word) : Word := BitVec.ofNat 64 (v.toNat % 64)

/-- The mode of an instruction: its override, or ROUND (R44, R72). -/
def modeOf (o : RoundOvr) (round : Word) : Mode :=
  match o with
  | .context => modeOfRound round
  | .nearest => .nearest
  | .zero => .zero
  | .stochastic => .stochastic

/-- One step of the Galois LFSR (R76). -/
def lfsrStep (s : BitVec 32) : BitVec 32 := if s.getLsbD 0 then (s >>> 1) ^^^ 0x80200003#32 else s >>> 1

def lfsrSteps : Nat → BitVec 32 → BitVec 32
  | 0, s => s
  | n + 1, s => lfsrSteps n (lfsrStep s)

/-- The state after n draws: 32 steps each (R76). -/
def afterDraws (n : Nat) (s : BitVec 32) : BitVec 32 := lfsrSteps (32 * n) s

/-- Draw number n of a seed: bits [23:0] of the state it advances to (R76). -/
def drawAt (seed : BitVec 32) (n : Nat) : Nat := (afterDraws (n + 1) seed).toNat % 2 ^ 24

/-- The instruction rounds (R77): its entry accepts a rounding override. -/
def rounds (i : Instr) : Bool := ((gRule i).map (·.rnd)).getD false

/-- The draws that a stochastic position owns (R77). -/
def drawsOwned (i : Instr) : Nat :=
  match i, i.fields with
  | .pack8 _, _ => 64
  | .dql6 _, _ => 16
  | .ql6 _, _ => 16
  | .fredadd f, _ => laneCount f.ty.width - 1
  | .cvtf f, _ | .cvtfi f, _ | .cvtif f, _ =>
    if f.wide then 512 / max (elemOfCode (immN f)).width f.ty.width else 1
  | _, .g f => if f.wide then laneCount f.ty.width else 1
  | _, _ => 0

/-- A position of a block whose mode is stochastic (R77). -/
def isStochastic (round : Word) (i : Instr) : Bool :=
  rounds i && (match i.fields with
    | .g f => modeOf f.rnd round == .stochastic
    | _ => false)

/-- The draws owned by the positions below an index (R77). -/
def drawsBelow (fr : Frame) (round : Word) (idx : Nat) : Nat :=
  (((instrs fr).filter (fun e => e.1 < idx && isStochastic round e.2)).map (fun e => drawsOwned e.2)).sum

/-- The draws of the whole block, or of one iteration of a pinned one (R77). Final instructions of a pinned block own
theirs in the final phase. -/
def drawsOf (fr : Frame) (round : Word) : Nat := drawsBelow fr round 128

/-- The ROUND value a block reads for its whole execution (R73). -/
def blockRound (x : Ctx) (fr : Frame) : Word := if isPinned fr then fr.before.1 else x.round

/-- What a rounding instruction at the site uses: its mode, and its draws by number. -/
structure Rounding where
  mode : Mode
  seed : BitVec 32

/-- Draw number k of a position. -/
def Rounding.draw (r : Rounding) (k : Nat) : Nat := if r.mode = .stochastic then drawAt r.seed k else 0

/-- The rounding of an instruction at the site (R72, R77). In a course a uniform instruction fires in the leader
only, with the leader's draws. -/
def roundingAt (s : State) (i : Instr) (o : RoundOvr) : Rounding :=
  let x := ctxAt s s.focus.c
  match frameAt s s.focus.c s.focus.frame with
  | none => ⟨modeOf o x.round, 1⟩
  | some fr =>
    let round := blockRound x fr
    let mode := modeOf o round
    if mode = .stochastic && rounds i then
      ⟨mode, afterDraws (drawsBelow fr round s.focus.idx) (x.seed.setWidth 32)⟩
    else ⟨mode, 1⟩

end Sys2Proof.Machine
end

