-- ==== Sys2Proof/Machine/Float.lean ====
section
/-! DEFINITION. Binary floating point (R64, R65), exact results, and their one rounding with overflow, underflow and
saturation (R72, R75, R78). -/

namespace Sys2Proof.Machine

open Sys2Proof

/-! ## Formats (R64) -/

def expBits : ElemType → Nat
  | .f64 => 11 | .f32 => 8 | .bf16 => 8 | .f16 => 5 | .e5m2 => 5 | .e4m3 => 4 | _ => 0

def fracBits : ElemType → Nat
  | .f64 => 52 | .f32 => 23 | .bf16 => 7 | .f16 => 10 | .e5m2 => 2 | .e4m3 => 3 | _ => 0

def bias (ty : ElemType) : Nat := 2 ^ (expBits ty - 1) - 1

/-- E4M3 alone has no infinity. -/
def hasInf (ty : ElemType) : Bool := ty != .e4m3

/-- The canonical NaN pattern. -/
def nanOf : ElemType → Nat
  | .f64 => 0x7FF8000000000000
  | .f32 => 0x7FC00000
  | .bf16 => 0x7FC0
  | .f16 => 0x7E00
  | .e5m2 => 0x7E
  | .e4m3 => 0x7F
  | _ => 0x30

/-- The infinity pattern, positive. -/
def infOf (ty : ElemType) : Nat := (2 ^ expBits ty - 1) * 2 ^ fracBits ty

/-- The pattern of the largest finite magnitude. -/
def maxFinite (ty : ElemType) : Nat := if ty = .e4m3 then 0x7E else infOf ty - 1

/-- The sign bit's weight. -/
def signBit (ty : ElemType) : Nat := 2 ^ (ty.width - 1)

/-- The exponent of the smallest subnormal. -/
def minExp (ty : ElemType) : Int := 1 - (bias ty : Int) - (fracBits ty : Int)

/-! ## Values -/

/-- The value of a floating-point pattern: NaN, an infinity, or (−1)^neg × m × 2^e; a zero keeps its sign. -/
inductive FVal where
  | nan
  | inf (neg : Bool)
  | fin (neg : Bool) (m : Nat) (e : Int)
  deriving DecidableEq, Repr

/-- Reading a pattern (R64, R65): every NaN is quiet, subnormals are read. -/
def readF (ty : ElemType) (bits : Nat) : FVal :=
  let b := bits % 2 ^ ty.width
  let neg := signBit ty ≤ b
  let ef := b / 2 ^ fracBits ty % 2 ^ expBits ty
  let fr := b % 2 ^ fracBits ty
  if ty = .e4m3 && b % 128 = 127 then .nan
  else if hasInf ty && ef = 2 ^ expBits ty - 1 then (if fr = 0 then .inf neg else .nan)
  else if ef = 0 then .fin neg fr (minExp ty)
  else .fin neg (2 ^ fracBits ty + fr) (minExp ty + (ef : Int) - 1)

/-- An exact result before rounding: `num` has magnitude (m + θ) × 2^e with θ in [0, 1), and θ > 0 exactly when
`more` is set. `opInf`: an infinite result that is no overflow; `dz`: it came from a division by zero. -/
inductive Exact where
  | nan (invalid : Bool)
  | opInf (neg dz : Bool)
  | num (neg : Bool) (m : Nat) (e : Int) (more : Bool)
  deriving DecidableEq, Repr

/-- A value as an exact result. -/
def FVal.exact : FVal → Exact
  | .nan => .nan false
  | .inf n => .opInf n false
  | .fin n m e => .num n m e false

/-! ## Rounding -/

/-- Rounds a magnitude to a multiple of 2^q: the multiple, and whether it differs from the exact value (R72, R75). -/
def roundAt (mode : Mode) (neg : Bool) (draw m : Nat) (e : Int) (more : Bool) (q : Int) : Nat × Bool :=
  if q ≤ e then (m * 2 ^ (e - q).toNat, more)
  else
    let k := (q - e).toNat
    if Nat.log2 m + 64 < k then
      let inexact := m ≠ 0 || more
      let up := (mode = .up && !neg) || (mode = .down && neg)
      (if inexact && up then 1 else 0, inexact)
    else
      let t := m / 2 ^ k
      let rem := m % 2 ^ k
      let half := 2 ^ (k - 1)
      let inexact := rem ≠ 0 || more
      let inc := match mode with
        | .nearest => half < rem || (rem = half && (more || t % 2 = 1))
        | .zero => false
        | .up => inexact && !neg
        | .down => inexact && neg
        | .stochastic => draw < rem * 2 ^ 24 / 2 ^ k
      (if inc then t + 1 else t, inexact)

/-- Overflow in a mode gives an infinity rather than the largest finite value (R78). -/
def overflowsToInf (mode : Mode) (neg : Bool) : Bool :=
  match mode with
  | .nearest | .stochastic => true
  | .zero => false
  | .up => !neg
  | .down => neg

/-- The pattern delivered for an overflow or an infinite result, with Saturated where saturate changed it (R78). -/
def overflowTo (ty : ElemType) (mode : Mode) (sat neg : Bool) : LaneRes :=
  let sgn := if neg then signBit ty else 0
  if overflowsToInf mode neg then
    if sat then (sgn + maxFinite ty, fSaturated)
    else if hasInf ty then (sgn + infOf ty, 0) else (nanOf ty, 0)
  else (sgn + maxFinite ty, 0)

/-- An infinite result of infinite operands or of a division by zero, in a format with or without infinity (R78). In a format
with infinity, and with saturate clear, it is infinity in every mode (R72, R101; DEDUCED, log entry 108). -/
def infiniteTo (ty : ElemType) (mode : Mode) (sat neg : Bool) : LaneRes :=
  let sgn := if neg then signBit ty else 0
  if hasInf ty then
    if sat then (sgn + maxFinite ty, fSaturated) else (sgn + infOf ty, 0)
  else overflowTo ty mode sat neg

/-- One rounding of a finite nonzero or zero exact value to a binary format (R72, R73, R78). Two points are the model's
choice, because the spec does not state them: underflow's `tiny after rounding` is judged on the value rounded with the
exponent range unbounded below (DESIGN CHOICE, log entry 85); a zero that a nonzero negative value rounds to keeps its
sign (DESIGN CHOICE, log entry 86). -/
def roundNum (ty : ElemType) (mode : Mode) (sat : Bool) (draw : Nat) (neg : Bool) (m : Nat) (e : Int) (more : Bool) :
    LaneRes :=
  let sgn := if neg then signBit ty else 0
  if m = 0 && !more then (sgn, 0)
  else
    let fb := fracBits ty
    let top : Int := (Nat.log2 m : Int) + e
    let qmin := minExp ty
    let qfull : Int := top - (fb : Int)
    let q := max qfull qmin
    let (t, inexact) := roundAt mode neg draw m e more q
    let pattern : Int := (q - qmin) * (2 ^ fb : Nat) + (t : Int)
    if (maxFinite ty : Int) < pattern then
      let r := overflowTo ty mode sat neg
      (r.1, r.2 ||| fOverflow ||| fInexact)
    else
      let emin := qmin + (fb : Int)
      let (tf, _) := roundAt mode neg draw m e more qfull
      let tiny := top < emin && !(top + 1 = emin && 2 ^ (fb + 1) ≤ tf)
      (sgn + pattern.toNat, flagIf inexact fInexact ||| flagIf (inexact && tiny) fUnderflow)

/-- Delivers an exact result in a binary format. -/
def deliverF (ty : ElemType) (mode : Mode) (sat : Bool) (draw : Nat) (x : Exact) : LaneRes :=
  match x with
  | .nan inv => (nanOf ty, flagIf inv fInvalid)
  | .opInf neg dz =>
    let r := infiniteTo ty mode sat neg
    (r.1, r.2 ||| flagIf dz fDivZero)
  | .num neg m e more => roundNum ty mode sat draw neg m e more

/-! ## Exact arithmetic -/

def flipSign : FVal → FVal
  | .nan => .nan
  | .inf n => .inf (!n)
  | .fin n m e => .fin (!n) m e

/-- A signed sum of two magnitudes at a common exponent; an exact zero of opposite signs takes the mode's sign (R65). -/
def exactSum (down : Bool) (n1 : Bool) (m1 : Nat) (e1 : Int) (n2 : Bool) (m2 : Nat) (e2 : Int) : Exact :=
  if m1 = 0 && m2 = 0 then .num (if n1 = n2 then n1 else down) 0 0 false
  else if m1 = 0 then .num n2 m2 e2 false
  else if m2 = 0 then .num n1 m1 e1 false
  else
    let e := min e1 e2
    let x : Int := (if n1 then -1 else 1) * ((m1 * 2 ^ (e1 - e).toNat : Nat) : Int)
    let y : Int := (if n2 then -1 else 1) * ((m2 * 2 ^ (e2 - e).toNat : Nat) : Int)
    let z := x + y
    if z = 0 then .num down 0 0 false else .num (z < 0) z.natAbs e false

def exactAdd (down : Bool) (x y : FVal) : Exact :=
  match x, y with
  | .nan, _ | _, .nan => .nan false
  | .inf a, .inf b => if a = b then .opInf a false else .nan true
  | .inf a, _ => .opInf a false
  | _, .inf b => .opInf b false
  | .fin n1 m1 e1, .fin n2 m2 e2 => exactSum down n1 m1 e1 n2 m2 e2

/-- The exact product as a value; an invalid product is none. -/
def exactProd (x y : FVal) : Option FVal :=
  match x, y with
  | .nan, _ | _, .nan => some .nan
  | .inf a, .inf b => some (.inf (a != b))
  | .inf a, .fin b m _ => if m = 0 then none else some (.inf (a != b))
  | .fin a m _, .inf b => if m = 0 then none else some (.inf (a != b))
  | .fin a m1 e1, .fin b m2 e2 => some (.fin (a != b) (m1 * m2) (e1 + e2))

def exactMul (x y : FVal) : Exact :=
  match exactProd x y with
  | none => .nan true
  | some p => p.exact

/-- x × y + z, the product unrounded; zero times infinity is invalid even when z is NaN (R99). -/
def exactFma (down : Bool) (x y z : FVal) : Exact :=
  match exactProd x y with
  | none => .nan true
  | some p => exactAdd down p z

/-- x / y (R99). DESIGN CHOICE (log entry 77): infinity divided by infinity, which no rule lists, is invalid. -/
def exactDiv (x y : FVal) : Exact :=
  match x, y with
  | .nan, _ | _, .nan => .nan false
  | .inf _, .inf _ => .nan true
  | .inf a, .fin b _ _ => .opInf (a != b) false
  | .fin a _ _, .inf b => .num (a != b) 0 0 false
  | .fin a m1 e1, .fin b m2 e2 =>
    if m2 = 0 then (if m1 = 0 then .nan true else .opInf (a != b) true)
    else if m1 = 0 then .num (a != b) 0 0 false
    else
      let k := 130 + Nat.log2 m2
      let n := m1 * 2 ^ k
      .num (a != b) (n / m2) (e1 - e2 - (k : Int)) (n % m2 ≠ 0)

/-- Newton's iteration for the integer square root, from above. -/
def sqrtFrom : Nat → Nat → Nat → Nat
  | 0, _, x => x
  | k + 1, n, x => let y := (x + n / x) / 2; if y < x then sqrtFrom k n y else x

/-- floor(√n). -/
def isqrt (n : Nat) : Nat := if n = 0 then 0 else sqrtFrom 2048 n (2 ^ (Nat.log2 n / 2 + 1))

def exactSqrt (x : FVal) : Exact :=
  match x with
  | .nan => .nan false
  | .inf false => .opInf false false
  | .inf true => .nan true
  | .fin neg m e =>
    if m = 0 then .num neg 0 0 false
    else if neg then .nan true
    else
      let odd := e % 2 ≠ 0
      let m' := if odd then 2 * m else m
      let e' := if odd then e - 1 else e
      let n := m' * 2 ^ 260
      let r := isqrt n
      .num false r (e' / 2 - 130) (r * r ≠ n)

/-- 1/x (R101). -/
def exactRcp (x : FVal) : Exact := exactDiv (.fin false 1 0) x

/-- 1/√x (R101). -/
def exactRsq (x : FVal) : Exact :=
  match x with
  | .nan => .nan false
  | .inf false => .num false 0 0 false
  | .inf true => .nan true
  | .fin neg m e =>
    if m = 0 then .opInf neg true
    else if neg then .nan true
    else
      let odd := e % 2 ≠ 0
      let m' := if odd then 2 * m else m
      let e' := if odd then e - 1 else e
      let k := 130 + Nat.log2 m'
      let r := isqrt (2 ^ (2 * k) / m')
      .num false r (-(e' / 2) - (k : Int)) (r * r * m' ≠ 2 ^ (2 * k))

/-! ## Comparison -/

/-- The order of two values that are no NaN: −1, 0 or 1 (R97). -/
def cmpF (x y : FVal) : Int :=
  let key := fun (v : FVal) => match v with
    | .nan => ((0 : Int), (0 : Nat), (0 : Int))
    | .inf n => ((if n then -2 else 2 : Int), 0, 0)
    | .fin n m e => ((if m = 0 then 0 else if n then -1 else 1 : Int), m, e)
  let (a, m1, e1) := key x
  let (b, m2, e2) := key y
  if a < b then -1 else if b < a then 1
  else if a = 0 || a = 2 || a = -2 then 0
  else
    let e := min e1 e2
    let p := m1 * 2 ^ (e1 - e).toNat
    let q := m2 * 2 ^ (e2 - e).toNat
    if p = q then 0 else if (p < q) = (a = 1) then -1 else 1

def isNaN (v : FVal) : Bool := v = .nan

/-- A relation on two floating-point lanes; `nanGives` is its value when an operand is NaN. -/
def relF (ty : ElemType) (x y : Nat) (nanGives : Bool) (r : Int → Bool) : Bool :=
  let a := readF ty x
  let b := readF ty y
  if isNaN a || isNaN b then nanGives else r (cmpF a b)

/-- FMIN and FMAX of two patterns (R100): `less` selects the minimum. −0 counts as smaller than +0. -/
def minMaxF (ty : ElemType) (less : Bool) (x y : Nat) : Nat :=
  let a := readF ty x
  let b := readF ty y
  if isNaN a && isNaN b then nanOf ty
  else if isNaN a then y
  else if isNaN b then x
  else
    let c := cmpF a b
    let xs := signBit ty ≤ x
    let first := if c = 0 then (if less then xs else !xs) else (if less then c < 0 else 0 < c)
    if first then x else y

/-! ## Integers -/

/-- Rounds a finite value to an integer (R102, R104): its value and whether it differs. -/
def roundInt (mode : Mode) (draw : Nat) (neg : Bool) (m : Nat) (e : Int) : Int × Bool :=
  let (t, inexact) := roundAt mode neg draw m e false 0
  (if neg then -(t : Int) else (t : Int), inexact)

/-- An exact rational integer as an exact result. -/
def exactInt (x : Int) : Exact := .num (x < 0) x.natAbs 0 false

end Sys2Proof.Machine
end

