-- ==== Sys2Proof/Machine/Walk.lean ====
section
/-! DEFINITION. The descent and the backup of the search-tree engine, one step at a time (R331 to R335), and the end of one
that is under way. -/

namespace Sys2Proof.Machine

open Sys2Proof

/-! ## Nodes (R328) -/

def nodeAt (a : Arena) (n : Nat) : Node := tabGet Node.freeNode a.nodes n
def setNode (a : Arena) (n : Nat) (x : Node) : Arena := { a with nodes := tabSet Node.freeNode a.nodes n x }
def modNode (a : Arena) (n : Nat) (f : Node → Node) : Arena := setNode a n (f (nodeAt a n))

def modArena (s : State) (die id : Nat) (f : Arena → Arena) : State :=
  modDie s die (fun d => { d with arenas := d.arenas.map (fun a => if a.id = id then f a else a) })

/-! ## FP32 as the engine computes it (R331) -/

/-- An exact result rounded once to FP32. -/
def engRound (x : Exact) : Nat := (deliverF .f32 .nearest false 0 x).1
def engAdd (x y : Nat) : Nat := engRound (exactAdd false (readF .f32 x) (readF .f32 y))
def engSub (x y : Nat) : Nat := engRound (exactAdd false (readF .f32 x) (flipSign (readF .f32 y)))
def engMul (x y : Nat) : Nat := engRound (exactMul (readF .f32 x) (readF .f32 y))
def engDiv (x y : Nat) : Nat := engRound (exactDiv (readF .f32 x) (readF .f32 y))
def engSqrt (x : Nat) : Nat := engRound (exactSqrt (readF .f32 x))
def engCvt (n : Nat) : Nat := engRound (exactInt (n : Int))
/-- Exact negation. -/
def engNeg (x : Nat) : Nat := x ^^^ 2 ^ 31

/-- The score of child y of x (R331). -/
def score (a : Arena) (x y : Node) : Nat :=
  let sp := engSqrt (engCvt x.n.toNat)
  let nv := y.n.toNat + y.vl.toNat
  let u := engDiv (engMul (engMul a.cexp.toNat (y.p.toNat * 2 ^ 16)) sp) (engCvt (1 + nv))
  let q := if nv = 0 then a.fpv.toNat
    else engDiv (engSub y.w.toNat (engMul (engCvt y.vl.toNat) a.vloss.toNat)) (engCvt nv)
  engAdd q u

/-- The indices of a node's children (R328). -/
def childrenOf (x : Node) : List Nat := (List.range x.count.toNat).map (fun k => x.first.toNat + k)

/-! ## Descent and backup, one step at a time (R333 to R335) -/

/-- What a step of an engine operation leaves: where the operation now stands, or its result: the status, the depth or m, and
the node. -/
abbrev Walked := Stage ⊕ (Nat × Nat × Nat)

/-- TSELECT's first step on an arena (R333). -/
def selectStart (a : Arena) : Arena × Walked :=
  let r := nodeAt a a.root
  if r.vl = 65535 then (a, .inr (3, 0, a.root))
  else if a.pslots = 64 then (a, .inr (4, 0, a.root))
  else (modNode { a with pslots := a.pslots + 1 } a.root (fun q => { q with vl := q.vl + 1 }), .inl (.read a.root 0))

/-- A descent reads a node: it ends there, in one update of that node, or goes on to read its children (R333, R335). -/
def readNode (a : Arena) (x depth : Nat) : Arena × Walked :=
  let nd := nodeAt a x
  if nd.terminal then ({ a with pslots := a.pslots - 1 }, .inr (2, depth, x))
  else if !nd.expanded then
    if nd.pending then
      (modNode { a with pslots := a.pslots - 1 } x (fun q => { q with holders := q.holders + 1 }), .inr (1, depth, x))
    else
      (modNode { a with queue := a.queue ++ [x] } x (fun q => { q with pending := true, queued := true, holders := 1 }),
        .inr (0, depth, x))
  else (a, .inl (.score x depth nd 0 none))

/-- The better of the best child so far and a child read after it, by their scores (R332). -/
def betterChild (best : Option (Nat × Nat)) (k v : Nat) : Nat × Nat :=
  match best with
  | none => (k, v)
  | some b =>
    let x := readF .f32 v
    let y := readF .f32 b.2
    if !isNaN x && (isNaN y || 0 < cmpF x y) then (k, v) else b

/-- The one update of a node by a backup (R334). -/
def backedUp (m v : Nat) (q : Node) : Node :=
  { q with n := BitVec.ofNat 32 (min (q.n.toNat + m) (2 ^ 32 - 1))
           w := BitVec.ofNat 32 (engAdd q.w.toNat (engMul (engCvt m) v))
           vl := q.vl - BitVec.ofNat 16 m }

/-- What a backup does after its update of a node: it ends at the root, or goes on to the parent (R334). -/
def backupOn (a : Arena) (x m v leaf : Nat) : Arena × Walked :=
  (a, if x = a.root then .inr (0, m, leaf)
      else .inl (.backup (nodeAt a x).parent.toNat m (if a.twopl then engNeg v else v) leaf))

/-- TBACKUP's first step on an arena: the test and the leaf's update are one (R334). -/
def backupStart (a : Arena) (x v : Nat) : Arena × Walked :=
  let nd := nodeAt a x
  if nd.pending then
    let m := nd.holders.toNat
    let a := modNode a x (fun q => { backedUp m v q with pending := false, queued := false, holders := 0 })
    backupOn { a with pslots := a.pslots - 1, queue := a.queue.filter (· ≠ x) } x m v x
  else if nd.terminal && nd.vl ≠ 0 then backupOn (modNode a x (backedUp 1 v)) x 1 v x
  else if nd.terminal then (a, .inr (1, 0, x))
  else (a, .inr (2, 0, x))

/-- The next step of an engine operation on its arena (R335): each node is read, and updated, at a point of its own. -/
def walkStep (a : Arena) (st : Stage) : Arena × Walked :=
  match st with
  | .read x depth => readNode a x depth
  | .score x depth seen n best =>
    let k := seen.first.toNat + n
    if n < seen.count.toNat then
      (a, .inl (.score x depth seen (n + 1) (some (betterChild best k (score a seen (nodeAt a k))))))
    else
      let y := (best.map (·.1)).getD 0
      (modNode a y (fun q => { q with vl := q.vl + 1 }), .inl (.read y (min (depth + 1) 65535)))
  | .backup x m v leaf => backupOn (modNode a x (backedUp m v)) x m v leaf

/-- The remaining steps of an engine operation, none of another's between them. -/
def walkOut : Nat → Arena → Stage → Arena × Nat × Nat × Nat
  | 0, a, _ => (a, 2, 0, 0)
  | fuel + 1, a, st =>
    match walkStep a st with
    | (a, .inl st) => walkOut fuel a st
    | (a, .inr r) => (a, r)

/-- A bound on the steps that an operation still has: two for each level, and one for each child read. -/
def walkFuel (a : Arena) : Nat := 2 * a.cap + (a.nodes.map (fun e => e.2.count.toNat)).sum + 4

/-- The result word of TSELECT and of TBACKUP (R339, R342). -/
def walkWord (r : Nat × Nat × Nat) : Word := BitVec.ofNat 64 (r.1 * 2 ^ 56 + r.2.1 * 2 ^ 40 + r.2.2)

/-- The operation that a context has under way finishes and is logged, for the engine serves it without waiting on any party
(R203, R335). -/
def finishWalk (s : State) (c : CtxId) : State :=
  match (ctxAt s c).walk with
  | none => s
  | some w =>
    let s := modCtx s c (fun x => { x with walk := none })
    match (dieAt s (dieOf c.core)).arenas.find? (·.id = w.arena) with
    | none => s
    | some a =>
      let r := walkOut (walkFuel a) a w.stage
      let v := walkWord r.2
      modCtx (modArena s (dieOf c.core) w.arena (fun _ => r.1)) c (fun x =>
        { x with log := x.log ++ [⟨w.idx, w.tag, some (v.setWidth 512), v⟩] })

end Sys2Proof.Machine
end

