-- ==== Sys2Proof/Machine/Ops.lean ====
section
/-! DEFINITION. The named operations over a machine that other meanings share: squashing (R32, R157), the frame of a meaning,
the routing of fault records (R194 to R197), TAKING A FAULT, and the return from it (R189, R192). -/

namespace Sys2Proof.Machine

open Sys2Proof

/-! ## Squashing (R32, R157) -/

/-- Returns what the firings of some tags of a block had reserved: counted units, contexts reserved by SPAWN, a place in
the queue of a counted line, a watch, an ending region, a handle that its THFREE has made retiring (R301). -/
def releaseTags (s : State) (c : CtxId) (fr : Frame) (sel : Tag → Bool) : State :=
  let s := if s.rcQueue.isEmpty then s
    else { s with rcQueue := s.rcQueue.filter (fun q => !(q.c == c && q.pos = fr.pos && sel q.tag)) }
  let s := (fr.reserved.filter (fun r => sel r.1)).foldl (fun s r => setReserved s r.2 (· - 1)) s
  let s := (fr.effects.filter (fun p => sel p.tag)).foldl (fun s p =>
    match p.eff with
    | .spawn t _ _ _ => modCtx s t (fun x => { x with reserved := false })
    | _ => s) s
  let waits := fun (idx : Nat) (tag : Tag) => sel tag && fr.waiting.contains (idx, tag)
  let freed := (fr.effects.filter (fun p => sel p.tag)).filterMap (fun p => match p.eff with
    | .thfree h => some (h.toNat / 256)
    | _ => none)
  let mine := fun (h : Handle) => h.freeBy == some (c, fr.pos) && freed.contains h.idx
  let live := fun (h : Handle) => if mine h then { h with st := 1, freeBy := none, due := true } else h
  let s := if (partOf s c).handles.any mine then
      modPartOf s c (fun p => { p with handles := p.handles.map live })
    else s
  let s := modCtx s c (fun x =>
    match x.watch with
    | some w => if waits w.idx w.tag then { x with watch := none } else x
    | none => x)
  modPartOf s c (fun p => { p with regions := p.regions.map (fun r =>
    match r.waiter with
    | some (w, idx, tag) => if w == c && waits idx tag then { r with ending := false, waiter := none } else r
    | none => r) })

/-- Returns all that a block had reserved. -/
def releaseFrame (s : State) (c : CtxId) (fr : Frame) : State := releaseTags s c fr (fun _ => true)

/-- A slot whose tokens are stream heads of an ISECT (R118). -/
def isHead (fr : Frame) (idx : Nat) : Bool :=
  match instrAt fr idx with
  | some (.isect _) => true
  | _ => false

/-- The emission of a stream at which a resumed block goes on when iteration c is its oldest open one: that iteration's, or
behind what the ISECTs that it feeds have consumed by then. `n` bounds the chain of ISECTs. -/
def baseIn (fr : Frame) (c : Nat) : Nat → Nat → Nat
  | 0, _ => c
  | n + 1, idx =>
    (((instrAt fr idx).map targetsOf).getD []).foldl (fun b t =>
      match t.1 with
      | .operand sl m =>
        if isHead fr m.toNat && sl != .p then
          let k := baseIn fr c n m.toNat
          max b (((fr.isects.filter (fun q => q.idx == m.toNat && q.k ≤ k)).getLast?.map (fun q =>
            if sl == .a then q.na else q.nb)).getD 0)
        else b
      | _ => b) c

def streamBase (fr : Frame) (c idx : Nat) : Nat :=
  baseIn fr c (((instrs fr).filter (fun e => isHead fr e.1)).length + 1) idx

/-- A token that a stream sent to a destination stays with a block that goes on at iteration c: the stream does not send it
again. -/
def streamKept (fr : Frame) (c : Nat) (d : Target) (src : Option Nat) : Bool :=
  src.any (fun k => (instrs fr).any (fun e => (match e.2 with
    | .lds _ | .isect _ => true
    | _ => false) && (targetsOf e.2).any (·.1 == d) && k < streamBase fr c e.1))

/-- The frame with the iterations from t on discarded: what older iterations delivered to them stays (R131, R154,
R157). -/
def discardFrom (t : Nat) (fr : Frame) : Frame :=
  let old := fun (g : Tag) => match g with
    | .iter k => decide (k < t)
    | _ => true
  let srcOld := fun (s : Option Nat) => match s with
    | some k => decide (k < t)
    | none => true
  { fr with
    ops := fr.ops.filter (fun o => (srcOld o.src && (old o.tag || !isHead fr o.idx))
      || streamKept fr t (.operand o.slot (BitVec.ofNat 7 o.idx)) o.src)
    flight := fr.flight.filter (fun f => srcOld f.src || streamKept fr t f.dst f.src)
    utaken := fr.utaken.filter (fun f => srcOld f.src)
    fired := fr.fired.filter (fun e => old e.2)
    against := fr.against.filter (fun e => old e.2)
    outs := fr.outs.filter (fun e => decide (e.1 < t) || streamKept fr t e.2.dst (some e.1))
    effects := fr.effects.filter (fun e => old e.tag)
    faults := fr.faults.filter (fun e => old e.tag)
    flags := fr.flags.filter (fun e => old e.1)
    exits := fr.exits.filter (fun e => old e.tag)
    loads := fr.loads.filter (fun e => old e.tag)
    reserved := fr.reserved.filter (fun e => old e.1)
    waiting := fr.waiting.filter (fun e => old e.2)
    accs := fr.accs.filter (fun q => decide (q.tag ≤ t))
    isects := fr.isects.filter (fun q => decide (q.k ≤ streamBase fr t q.idx))
    streams := fr.streams.filter (fun q => decide (q.k ≤ streamBase fr t q.idx)) }

/-- Uniform tokens that a block of a follower has taken and no longer holds wait for it again (R145). -/
def giveBack (s : State) (c : CtxId) (pos : Nat) (fls : List Flight) : State :=
  if fls.isEmpty then s else modCtx s c (fun x => { x with utoks := x.utoks ++ fls.map (fun f => (pos, f)) })

/-- A token was sent by an iteration from t on. -/
def sentFrom (t : Nat) (f : Flight) : Bool := f.src.any (t ≤ ·)

/-- The iterations of a frame from t on are discarded, with what they had reserved. -/
def discardOwn (s : State) (c : CtxId) (n t : Nat) : State :=
  match frameAt s c n with
  | none => s
  | some fr =>
    let s := releaseTags s c fr (fun g => match g with
      | .iter k => decide (t ≤ k)
      | _ => false)
    giveBack (modFrame s c n (discardFrom t)) c fr.pos (fr.utaken.filter (sentFrom t))

/-- A follower's block at a position loses what its leader's discarded iterations sent it, with its own iterations from there
on (R144, R145). -/
def discardMate (c : CtxId) (pos t : Nat) (s : State) (k : Nat) : State :=
  let d : CtxId := ⟨k, 0⟩
  let s := match (ctxAt s d).frames.findIdx? (·.pos = pos) with
    | some n => discardOwn s d n (max t (((frameAt s d n).map (·.iter)).getD 0))
    | none => s
  modMate s c k (fun y => { y with utoks := y.utoks.filter (fun u => !(u.1 = pos && sentFrom t u.2)) })

/-- The iterations of a block from t on are discarded, and with them in its followers what they sent there. -/
def discardIters (s : State) (c : CtxId) (n t : Nat) : State :=
  match frameAt s c n with
  | none => s
  | some fr =>
    let s' := discardOwn s c n t
    if (ctxAt s c).course == .leader then (followersOf s c.core).foldl (discardMate c fr.pos t) s' else s'

/-- The pinned state a squash saves with the context (R157): what committed iterations have left. The final phase, if
it had begun, begins again from its kept tokens. -/
def pinnedState (fr : Frame) : Option Frame :=
  if isPinned fr && fr.mapped then
    let d := discardFrom fr.iter fr
    some { d with
      ops := d.ops.filter (fun o => o.src.isSome && isIter o.tag)
      flight := d.flight.filter (fun f => f.src.isSome && isIter f.tag)
      fired := d.fired.filter (fun e => isIter e.2)
      against := d.against.filter (fun e => isIter e.2)
      effects := d.effects.filter (fun e => isIter e.tag)
      flags := d.flags.filter (fun e => isIter e.1)
      loads := d.loads.filter (fun e => isIter e.tag)
      reserved := d.reserved.filter (fun e => isIter e.1)
      waiting := d.waiting.filter (fun e => isIter e.2)
      wslots := []
      faults := []
      mapped := false
      reads := [] }
  else none

/-- A block that begins to fire: its read entries are to be delivered, and in a final phase its kept tokens (R128,
R152). -/
def begun (fr : Frame) : Frame :=
  { fr with mapped := true
            reads := List.range (readCount fr)
            flight := fr.flight ++ (if fr.finalPh then fr.kept else []) }

/-- The uniform tokens that a squashed block gives back: a pinned one keeps those of its committed iterations. -/
def givenBack (fr : Frame) : List Flight :=
  if (pinnedState fr).isSome then fr.utaken.filter (sentFrom fr.iter) else fr.utaken

/-- A block that fires again from its beginning, or a pinned one from its oldest open iteration (R24, R131). -/
def restarted (fr : Frame) : Frame :=
  match pinnedState fr with
  | some p => begun p
  | none => begun { blankFrame with addr := fr.addr, image := fr.image, member := fr.member, pos := fr.pos,
                                    follows := fr.follows, shared := fr.shared, refire := fr.refire, before := fr.before }

/-- Squashes the frames of a context from the n-th on. A squashed oldest block leaves its pinned state, and an operation of the
search engine that it has under way finishes (R335). -/
def squashFrom (s : State) (c : CtxId) (n : Nat) : State :=
  let s := if n = 0 then finishWalk s c else s
  let x := ctxAt s c
  let s := (x.frames.drop n).foldl (fun s fr => releaseFrame s c fr) s
  let keep := if n = 0 then (match x.frames with
    | fr :: _ => (match pinnedState fr with
      | some p => some p
      | none => x.pinned)
    | [] => x.pinned) else x.pinned
  let back := ((x.frames.drop n).zipIdx n).flatMap (fun (fr, k) =>
    (if k = 0 then givenBack fr else fr.utaken).map (fun f => (fr.pos, f)))
  modCtx s c (fun x => { x with frames := x.frames.take n, pinned := keep, utoks := x.utoks ++ back })

/-- A member of a context's course loses its blocks from a position on, and what it has heard of them (R144); `old` says which
of the tokens sent to it for that position stay. -/
def dropMember (c : CtxId) (pos : Nat) (old : Option Nat → Bool) (s : State) (k : Nat) : State :=
  let keep := ((ctxAt s ⟨k, 0⟩).frames.takeWhile (fun f => f.pos < pos)).length
  let s := if (mate s c k).aside.isNone then squashFrom s ⟨k, 0⟩ keep else s
  modMate s c k (fun y =>
    { y with fwd := y.fwd.filter (fun e => e.1 < pos)
             lexits := y.lexits.filter (fun e => e.1 < pos || (e.1 = pos && old (iterOf e.2.tag)))
             utoks := y.utoks.filter (fun e => e.1 < pos || (e.1 = pos && old e.2.src)) })

/-- Nothing of that position stays. -/
def dropFrom (c : CtxId) (pos : Nat) (s : State) (k : Nat) : State := dropMember c pos (fun _ => false) s k

/-- A squash of a leader's blocks squashes the same positions in its followers (R144). -/
def squashCourse (s : State) (c : CtxId) (n : Nat) : State :=
  let x := ctxAt s c
  let s' := squashFrom s c n
  match x.course, x.frames[n]? with
  | .leader, some fr => (followersOf s c.core).foldl (dropFrom c fr.pos) s'
  | _, _ => s'

/-- Every block younger than the oldest of a context is squashed. -/
def squashYounger (s : State) (c : CtxId) : State := squashCourse s c 1

/-- What follows the oldest block of a context in order is squashed: the younger blocks, and of a pinned block the iterations
after its oldest (R153, R221). -/
def squashLater (s : State) (c : CtxId) : State :=
  let s := squashYounger s c
  match frameAt s c 0 with
  | some fr => if isPinned fr && !fr.finalPh then discardIters s c 0 (fr.iter + 1) else s
  | none => s

/-- An image is forwarded anew to a follower whose blocks from a position on have been dropped (R142, R144). -/
def forwardAgain (c : CtxId) (pos : Nat) (addr : Word) (image : List Word) (s : State) (k : Nat) : State :=
  if pos < (mateAt s c k).pos then s else modMate s c k (fun y => { y with fwd := y.fwd ++ [(pos, addr, image)] })

/-- An image forwarded to a follower for a position that it has not committed (R142). What it holds of that position
stays where the address is the same. -/
def forwardTo (c : CtxId) (pos : Nat) (addr : Word) (image : List Word) (s : State) (k : Nat) : State :=
  let y := mateAt s c k
  if pos < y.pos || y.fwd.any (fun e => e.1 = pos && e.2.1 = addr) then s
  else modMate (dropFrom c pos s k) c k (fun y => { y with fwd := y.fwd ++ [(pos, addr, image)] })

/-- What the committed iterations of a pinned block have sent to its followers stays with them when it fires again from its
oldest open one (R145, R158). -/
def sentBefore (fr : Frame) (src : Option Nat) : Bool := isPinned fr && src.any (· < fr.iter)

/-- The block of a frame and everything younger of its context fires again; `held` names loads that now wait for
lower stores (R24). A leader's followers map the block again (R144). -/
def restartAt (s : State) (c : CtxId) (n : Nat) (held : List Nat) : State :=
  let s := if n = 0 then finishWalk s c else s
  match frameAt s c n with
  | none => s
  | some fr =>
    let s := squashCourse s c (n + 1)
    let s := releaseFrame s c fr
    let s := giveBack (modFrame s c n (fun fr => restarted { fr with refire := fr.refire ++ held })) c fr.pos (givenBack fr)
    if (ctxAt s c).course != .leader then s
    else (followersOf s c.core).foldl (fun s k =>
      forwardAgain c fr.pos fr.addr fr.image (dropMember c fr.pos (sentBefore fr) s k) k) s

/-- Squashes the oldest block of a context as parking does (R130): requests that wait at a home stay outstanding. -/
def squashParked (s : State) (c : CtxId) : State :=
  let w := (ctxAt s c).watch
  modCtx (squashCourse s c 0) c (fun y => { y with watch := w })

/-- A frame that holds load-store queue entries of a member. -/
def holdsEntries (member : Nat) (fr : Frame) : Bool := fr.member == member && fr.fired.any (fun q => q.1 % 8 = 0)

/-- The youngest open iteration of a pinned frame, its oldest excepted, that holds entries of a member. -/
def yieldingIter (member : Nat) (fr : Frame) : Option Nat :=
  if isPinned fr && fr.member == member then
    ((List.range 7).map (fun n => fr.iter + 7 - n)).find? (fun t => fr.fired.any (fun q => q.1 % 8 = 0 && q.2 == .iter t))
  else none

/-- The place in a context of its youngest block that holds entries, is not its oldest and has no pinned block at or
behind it (R130, R131). -/
def yieldingBlock (member : Nat) (x : Ctx) : Option Nat :=
  ((List.range x.frames.length).filter (fun n =>
    0 < n && (x.frames[n]?).any (holdsEntries member) && !(x.frames.drop n).any isPinned)).getLast?

/-- The contexts of a core that may yield entries, the best victim last: by frames held, then by number. -/
def yieldingBlocks (member : Nat) (k : Core) : Option (Nat × Nat) :=
  (k.ctxs.foldl (fun (best : Option (Nat × Nat × Nat)) e =>
    match yieldingBlock member e.2 with
    | none => best
    | some n =>
      match best with
      | some (_, _, len) => if len ≤ e.2.frames.length then some (e.1, n, e.2.frames.length) else best
      | none => some (e.1, n, e.2.frames.length)) none).map (fun b => (b.1, b.2.1))

/-- The last block of a context from the n-th on whose younger open iterations hold entries of a member, with the iteration
that yields (R131). -/
def yieldingPinned (member n : Nat) (x : Ctx) : Option (Nat × Nat) :=
  ((List.range x.frames.length).filterMap (fun m =>
    if m < n then none else ((x.frames[m]?).bind (yieldingIter member)).map (fun t => (m, t)))).getLast?

/-- The core frees load-store queue entries for the instruction at the focus (R131): of the own younger iterations where
a pinned block asks; of the youngest block that is not the oldest of its context; of the younger iterations of a pinned
block that is not the oldest of its context; of another context's oldest block, which stays Running; of another oldest
pinned block's younger iterations. With no holder that can yield nothing changes. DESIGN CHOICE (log entry 83): that order,
and the highest-numbered context first. -/
def reclaimLsq (s : State) : State :=
  let c := s.focus.c
  let k := coreAt s c.core
  match frameAt s c s.focus.frame with
  | none => s
  | some fr =>
    match yieldingIter fr.member fr with
    | some t => discardIters s c s.focus.frame t
    | none =>
      match yieldingBlocks fr.member k with
      | some (x, n) => squashCourse s ⟨c.core, x⟩ n
      | none =>
        match (k.ctxs.filterMap (fun e => (yieldingPinned fr.member 1 e.2).map (fun q => (e.1, q)))).getLast? with
        | some (x, m, t) => discardIters s ⟨c.core, x⟩ m t
        | none =>
        let others := k.ctxs.filter (fun e => e.1 != c.ctx)
        match (others.filter (fun e => (e.2.frames.head?).any (fun g => holdsEntries fr.member g && !isPinned g))).getLast? with
        | some (x, _) => squashParked s ⟨c.core, x⟩
        | none =>
          match (others.filterMap (fun e => (e.2.frames.head?).bind (fun g => (yieldingIter fr.member g).map (fun t => (e.1, t))))).getLast? with
          | some (x, t) => discardIters s ⟨c.core, x⟩ 0 t
          | none => s

/-! ## The frame of a meaning -/

/-- The frame of every instruction's meaning: what readiness decides, and its own effect where it fires. -/
def fire (i : Instr) (s : State) (body : Token → Token → Token → State → State) : Result :=
  match readiness i s with
  | .wait => .next s
  | .against => .next (decideAgainst s)
  | .dup => .next (faulted clsBlockInvalid 0x0E 0 (dupLocator false s.focus.idx) s)
  | .logged e => .next (fireLogged i e s)
  | .stop k => .next (fireStop i k s)
  | .null => .next (fireNull i s)
  | .full => .next (reclaimLsq s)
  | .go a b c => .next (body a b c s)

/-- The meaning of an instruction whose effect is a function of its operands' values: one result, to both targets
when it names two (R12), and flags (R74). -/
def compute (i : Instr) (s : State) (f : State → Wide → Wide → Wide → Wide × BitVec 6) : Result :=
  fire i s (fun a b c s =>
    let r := f s a.value b.value c.value
    fired i { r0 := some (wideTok r.1), r1 := some (wideTok r.1), flags := r.2 } s)

/-! ## Routing of fault records (R194 to R197) -/

/-- The header of a message from a context of a partition (R183). -/
def headerFrom (s : State) (sender : CtxId) (part cls : Nat) : Word :=
  let (cl, co) := relName s (dieOf sender.core) part sender.core
  BitVec.ofNat 64 (cls * 2 ^ 13 + cl * 2 ^ 8 + co * 2 ^ 5 + sender.ctx * 2 + 1)

def msgHeader (s : State) (sender : CtxId) (cls : Nat) : Word := headerFrom s sender (ctxAt s sender).part cls

/-- Entry c of row r of a routing store (R195). -/
def routeEntry (p : Part) (rank cls : Nat) : Nat := (tabGet 0 p.route (32 * rank + cls)).toNat

/-- A context that can take the records of an entry of a routing store: it holds a thread of the rank the entry names. -/
def handles (e : Nat) (y : Ctx) : Bool := y.st != .free && y.rank = field e 28 3

/-- Where a record of a rank and class of a partition goes (R197): none is the management core. A handler whose core
stands aside is Saved, not Free. -/
def routeFor (s : State) (die part rank cls : Nat) : Option (Thread × Nat) :=
  let e := routeEntry (partAt s die part) rank cls
  if !e.testBit 31 || e.testBit 10 then none
  else
    let t := threadWhere s part
      ⟨256 * die + 8 * relToPhys (partAt s die part).cfg (field e 18 5) + field e 15 3, field e 11 4⟩ (handles e)
    if handles e (threadAt s t) then some (t, field e 23 5) else none

/-- Where a record of a class from a context goes now. -/
def routeTo (s : State) (c : CtxId) (cls : Nat) : Option (Thread × Nat) :=
  routeFor s (dieOf c.core) (ctxAt s c).part (ctxAt s c).rank cls

/-- A record goes to the management core although its row did not name it (R197). -/
def misrouted (s : State) (die part rank cls : Nat) : Bool :=
  (routeFor s die part rank cls).isNone
    && !((routeEntry (partAt s die part) rank cls).testBit 31 && (routeEntry (partAt s die part) rank cls).testBit 10)

/-- What distinguishes one fault record from another (R194). -/
structure RecordArgs where
  cls    : Nat
  cause  : Nat
  idx    : Nat := 0
  wslot  : Bool := false
  async  : Bool := false
  pinned : Bool := false
  quit   : Bool := false
  job    : Bool := false
  phys   : Bool := false
  block  : Word := 0
  addr   : Word := 0
  where_ : Word := 0
  arg    : Word := 0
  deriving DecidableEq, Repr

def bit (b : Bool) (n : Nat) : Nat := if b then 2 ^ n else 0

/-- The eight words of a fault record (R194). MISROUTE is set where the record is delivered (R197). -/
def recordOf (x : Ctx) (r : RecordArgs) : List Word :=
  let logn := if r.cls = 0 then 0 else x.log.length
  [ BitVec.ofNat 64 (r.cls * 2 ^ 56 + r.cause * 2 ^ 48 + r.idx * 2 ^ 41 + bit r.wslot 40 + bit r.async 39
      + bit r.pinned 38 + bit (logn != 0) 37 + bit r.quit 36 + x.rank * 2 ^ 32 + bit r.job 31 + bit r.phys 30),
    r.block, r.addr, r.where_, r.arg, BitVec.ofNat 64 logn, 0, 0 ]

def recordWords (s : State) (c : CtxId) (r : RecordArgs) : List Word := recordOf (ctxAt s c) r

/-- Messages of a context's partition that have been sent, and that have entered a queue (R359). -/
def countSent (s : State) (c : CtxId) (n : Nat) : State := modPartOf s c (fun p => { p with sent := p.sent + n })
def countReceived (s : State) (c : CtxId) : State := modPartOf s c (fun p => { p with received := p.received + 1 })

/-- The class of a record (R194). -/
def recordClass (r : Record) : Nat := (r.words.getD 0 0).toNat / 2 ^ 56

/-- Records enter the delivery slot of their context. Those of the management core itself set the die error status instead
(R197). -/
def slotRecords (s : State) (c : CtxId) (rs : List Record) : State :=
  if isMgmt c.core then
    rs.foldl (fun s r => modDie s (dieOf c.core) (fun d => { d with mgmtErr := true, mclass := recordClass r })) s
  else countSent (modCtx s c (fun x => { x with slot := x.slot ++ rs })) c rs.length

/-- A record enters the delivery slot of its context (R197); `stops` says that the context stops for it. -/
def sendRecord (s : State) (c : CtxId) (stops : Bool) (r : RecordArgs) : State :=
  slotRecords s c [⟨recordWords s c r, (ctxAt s c).part, stops⟩]

/-- An asynchronous record as it stands when its context stops for it (R194, R202): the committed next block address and
the replay log of the block that is stopped. -/
def atStop (x : Ctx) (r : Record) : Record :=
  let w0 := (r.words.getD 0 0).toNat
  let w0 := BitVec.ofNat 64 (w0 / 2 ^ 38 * 2 ^ 38 + bit (!x.log.isEmpty) 37 + w0 % 2 ^ 37)
  { r with words := ((r.words.set 0 w0).set 1 x.next).set 5 (BitVec.ofNat 64 x.log.length) }

/-- The asynchronous records that a context stops for enter its delivery slot (R202). -/
def releaseAsyncs (s : State) (c : CtxId) : State :=
  let x := ctxAt s c
  slotRecords (modCtx s c (fun x => { x with asyncs := [] })) c (x.asyncs.map (atStop x))

/-! ## Taking a fault, and returning from it -/

/-- The exit of a block as far as the front end knows it (R20, R154). -/
def exitKnown (fr : Frame) : Option ExitRec := if isPinned fr && !fr.finalPh then none else fr.exits.head?

/-- The front end follows an exit: younger blocks at another address are squashed (R32). A follower's younger blocks
are its leader's to squash (R143, R144). -/
def followExit (s : State) (c : CtxId) (n : Nat) (target : Word) : State :=
  if (ctxAt s c).course == .follower then s
  else
    match frameAt s c (n + 1) with
    | none => s
    | some fr => if fr.addr = target then s else squashCourse s c (n + 1)

/-- What followers know of their leader's exits when a new leader takes over (R146): the old leader's up to the block
the new one stands at, then the new one's. -/
def inheritExits (lead : Nat) (y : Ctx) (s : State) (k : Nat) : State :=
  let new := y.frames.filterMap (fun fr => (exitKnown fr).map (fun e => (fr.pos, e)))
  modMate s ⟨lead, 0⟩ k (fun x => { x with lead := lead, lexits := x.lexits.filter (fun e => e.1 < y.pos) ++ new })

/-- A member of a context's course goes on without the leader it had (R146): as the new leader of some followers, or Solo
where there is none. It keeps the mapped blocks it holds, and its own front end follows their exits. -/
def takeLead (s : State) (d : CtxId) (k : Nat) (fs : List Nat) : State :=
  let out := fun (s : State) => modMate s d k (fun y =>
    { y with course := if fs.isEmpty then .solo else .leader, lead := if fs.isEmpty then 0 else k, fwd := [], lexits := [] })
  if (mate s d k).aside.isSome then fs.foldl (fun s f => modMate s d f (fun x => { x with lead := k })) (out s)
  else
    let c : CtxId := ⟨k, 0⟩
    let s := out (squashFrom s c ((ctxAt s c).frames.takeWhile (fun f => f.mapped || !f.faults.isEmpty)).length)
    let y := ctxAt s c
    let s := fs.foldl (inheritExits k y) s
    (List.range y.frames.length).foldl (fun s n => match (frameAt s c n).bind exitKnown with
      | some e => followExit s c n e.target
      | none => s) s

/-- A kept final token gives way to that of a higher iteration (R152). -/
def keepFinal (fr : Frame) (f : Flight) : Frame :=
  if fr.kept.any (fun g => g.dst == f.dst && f.src.getD 0 < g.src.getD 0) then fr
  else { fr with kept := fr.kept.filter (fun g => g.dst != f.dst) ++ [f] }

/-- A token is for a head of an ISECT, which takes its stream by number, whatever the tag (R118). -/
def toHead (fr : Frame) (f : Flight) : Bool :=
  match f.dst with
  | .operand sl n => isHead fr n.toNat && sl != .p
  | _ => false

/-- A follower of a pinned block that leaves its course keeps what its leader has sent for iterations that it has committed
(R159). -/
def keepUniform (x : Ctx) : Ctx :=
  { x with pinned := x.pinned.map (fun p =>
      (x.utoks.filter (fun u => u.1 = p.pos && !p.finalPh && u.2.src.any (· < p.iter))).foldl (fun p u =>
        match u.2.tag with
        | .iter k => if (p.iter ≤ k || toHead p u.2) && !p.utaken.any (fun g => g.dst == u.2.dst && g.tag == u.2.tag && g.src == u.2.src) then
            { p with flight := p.flight ++ [{ u.2 with refused := false, refusals := 0 }] } else p
        | .final => keepFinal p u.2
        | .persist => p) p) }

/-- A member leaves its course (R146). The lowest follower becomes leader; a lone member becomes Solo. -/
def leaveCourse (s : State) (c : CtxId) (into : CourseState) : State :=
  let x := ctxAt s c
  let out := fun (s : State) => modCtx s c (fun x => { keepUniform x with course := into, lead := 0, fwd := [], lexits := [], utoks := [] })
  match x.course with
  | .leader =>
    match followersOf s c.core with
    | [] => out s
    | k :: rest => takeLead (out s) c k rest
  | .follower =>
    let s := out s
    if (mates s c).any (fun k => (mateAt s c k).course == .follower && (mateAt s c k).lead == x.lead) then s
    else modMate s c x.lead (fun y => { y with course := .solo, lead := 0 })
  | .solo => modCtx s c (fun x => { x with course := into })
  | _ => s

/-- A context whose blocks are squashed becomes Parked and stopped with the asynchronous records it stops for, and a
member leaves its course (R146, R192, R202). -/
def haltContext (s : State) (c : CtxId) : State :=
  let s := modCtx (releaseAsyncs s c) c (fun x =>
    { x with st := .parked, stopped := true, readyHeld := x.readyHeld || x.ready, ready := false })
  leaveCourse s c .solo

/-- TAKING AN EXCEPTION (R192): every mapped block of the context is squashed, the replay log is kept, the record goes
to the delivery slot, and the context becomes Parked and stopped. -/
def stopContext (s : State) (c : CtxId) (r : RecordArgs) : State :=
  haltContext (sendRecord (squashCourse s c 0) c true r) c

/-- The place a record names: instructions in ascending index, then write slots (R29). -/
def firstFault (fs : List FaultRec) : Option FaultRec :=
  fs.foldl (fun best f =>
    match best with
    | none => some f
    | some b =>
      if (f.wslot, f.idx) = (b.wslot, b.idx) then some b
      else if (b.wslot && !f.wslot) || (f.wslot == b.wslot && f.idx < b.idx) then some f else some b) none

/-- The recorded faults of a block that may be taken now: of a pinned block those of the oldest open iteration or
of no iteration (R157). -/
def dueFaults (fr : Frame) : List FaultRec :=
  fr.faults.filter (fun f => !isPinned fr || f.tag == .iter fr.iter || f.tag == .final || f.tag == .persist)

/-- The record of a fault of the oldest block (R194). -/
def faultArgs (fr : Frame) (f : FaultRec) : RecordArgs :=
  { cls := f.cls, cause := f.cause, idx := f.idx, wslot := f.wslot, pinned := isPinned fr && fr.mapped,
    block := fr.addr, addr := f.addr,
    where_ := if isPinned fr && fr.mapped then BitVec.ofNat 64 fr.iter else 0, arg := f.arg }

/-- A context whose thread has ended or is ending (R210, R222). -/
def ctxGone (x : Ctx) : Bool := x.st == .draining || x.st == .free || (x.st == .saved && x.prior == .draining)

/-- Active jobs of a core's cluster (R218). -/
def activeJobs (s : State) (core : Nat) : Nat :=
  ((List.range 8).map (fun k => ((coreAt s (8 * (core / 8) + k)).jobs.filter (·.st == .active)).length)).sum

/-- The owner of a job is saved and not yet restored: a restored one that still waits for its jobs is back (R205, R209). -/
def ownerAway (s : State) (j : Job) : Bool :=
  (ctxAt s ⟨j.ownerOf, j.owner⟩).st == .saved && (coreAt s j.ownerOf).saving

/-- A Suspended job becomes Active; where its cluster has 32 Active jobs it waits for one to end, and where its owner is
Saved for the restore (R205, R218, R222). -/
def resumeJob (core : Nat) (s : State) (j : Job) : State :=
  let later := 32 ≤ activeJobs s core || ownerAway s j
  modCore s core (fun k => { k with jobs := k.jobs.map (fun q =>
    if q.seq ≠ j.seq then q else if later then { q with resumed := true } else { q with st := .active }) })

/-- The Suspended jobs of a context resume (R222). -/
def resumeJobs (s : State) (c : CtxId) : State :=
  (coreNums s).foldl (fun s k =>
    ((coreAt s k).jobs.filter (fun j => j.owner == c.ctx && j.ownerOf == c.core && j.st == .suspended)).foldl (resumeJob k) s) s

/-- A context that is resumed (R189, R192): no longer stopped, it runs, or if Saved runs after its restore; a ready event
remembered while it was stopped sets its ready bit. -/
def resumedCtx (x : Ctx) : Ctx :=
  { x with stopped := false
           st := if x.st == .parked then .running else x.st
           prior := if x.st == .saved && x.prior == .parked then .running else x.prior
           ready := x.ready || x.readyHeld
           readyHeld := false
           rettHold := none
           handlers := []
           spillStop := false }

/-- RETURNING FROM IT (R189, R192): the context is no longer stopped, and its Suspended jobs resume. -/
def resumeContext (s : State) (c : CtxId) : State := resumeJobs (modCtx s c resumedCtx) c

/-- The same for a thread that may stand aside: its Suspended jobs, in the queues of its gang's cores, go on after the restore
(R205, R211). -/
def resumeThread (s : State) (t : Thread) : State :=
  match t.aside with
  | none => resumeContext s t.c
  | some _ =>
    let gang := (threadCore s t).gang
    let mine := fun (j : Job) => j.owner = t.c.ctx && j.ownerOf = t.c.core && j.st == .suspended
    let s := modThread s t resumedCtx
    ((List.range 8).flatMap (fun m => threadsOf s ⟨8 * (t.c.core / 8) + m, 0⟩)).foldl (fun s q =>
      if (threadCore s q).gang = gang && (threadCore s q).jobs.any mine then
        modThreadCore s q (fun k => { k with jobs := k.jobs.map (fun j => if mine j then { j with resumed := true } else j) })
      else s) s

end Sys2Proof.Machine
end

