-- ==== Sys2Proof/Machine/Memory.lean ====
section
/-! DEFINITION. Memory: fat pointers and paths (R56 to R58, R161), translation (R279 to R282), homes (R257, R367,
R368), the L1s, tenure's part in loads and publications (R293, R294, R298), the journal of posted stores, and the
publication and acquisition of a PHASE (R264). -/

namespace Sys2Proof.Machine

open Sys2Proof

/-! ## Fat pointers -/

def ptrPath (p : Word) : Nat := p.toNat / 2 ^ 61
def ptrFormat (p : Word) : Nat := field p.toNat 57 4
def ptrBlock (p : Word) : Nat := field p.toNat 54 3
def ptrAddr (p : Word) : Nat := p.toNat % 2 ^ 54

def pathGEN : Nat := 0
def pathSPAD : Nat := 1
def pathCONST : Nat := 2
def pathHOST : Nat := 3
def pathDEV : Nat := 4
def pathFAB : Nat := 5

/-- Address generation (R58). -/
def addrOf (p : Word) (off : Int) : Word :=
  BitVec.ofNat 64 (p.toNat / 2 ^ 54 * 2 ^ 54 + wrapTo 54 ((ptrAddr p : Int) + off))

/-- The offset field as a signed number (R46). -/
def offsetOf (f : LFields) : Int := f.off.toInt

/-- A pointer with another address field. -/
def withAddr (p : Word) (a : Nat) : Word := BitVec.ofNat 64 (p.toNat / 2 ^ 54 * 2 ^ 54 + a % 2 ^ 54)

/-- A fault of an access: class, cause, the address and the argument of its record. -/
structure AccFault where
  cls   : Nat
  cause : Nat
  addr  : Word
  arg   : Word := 0
  deriving DecidableEq, Repr

/-- Checks 1 to 3 of R161, which every instruction that forms an address makes first. -/
def basicCheck (p : Word) : Option AccFault :=
  if 6 ≤ ptrPath p then some ⟨clsPathReserved, 0x01, p, 0⟩
  else if ptrBlock p ≠ 0 && ptrBlock p ≠ 2 then some ⟨clsPathReserved, 0x03, p, 0⟩
  else if ptrPath p = pathSPAD && 2 ^ 23 ≤ ptrAddr p then some ⟨clsPathReserved, 0x02, p, 0⟩
  else none

/-- Check 4 of R161: the format code against the element type. -/
def formatCheck (ty : ElemType) (p : Word) : Option AccFault :=
  if ptrFormat p ≠ 0 && ty ≠ .l6s && ptrFormat p ≠ ty.code then some ⟨clsPathReserved, 0x06, p, 0⟩ else none

/-- Check 5 of R161: a cause for each path an instruction does not serve. -/
def pathCheck (serves : Nat → Option Nat) (p : Word) : Option AccFault :=
  (serves (ptrPath p)).map (fun cause => ⟨clsPathReserved, cause, p, 0⟩)

/-! ## Who accesses -/

/-- The party of an access: the context, the core whose scratchpad and L1 it uses, its partition and privilege. -/
structure Who where
  c    : CtxId
  core : Nat
  die  : Nat
  part : Nat
  priv : Bool
  deriving DecidableEq, Repr

/-- The member core a frame is mapped on (R138). -/
def execCore (c : CtxId) (fr : Frame) (s : State) : Nat :=
  if (coreAt s c.core).kind = 1 then 8 * (c.core / 8) + fr.member else c.core

/-- A context as a party. -/
def whoOf (s : State) (c : CtxId) : Who :=
  let x := ctxAt s c
  let core := match x.frames with
    | fr :: _ => execCore c fr s
    | [] => c.core
  ⟨c, core, dieOf c.core, x.part, 1 ≤ x.rank⟩

/-- The party of the instruction at the site. -/
def whoAt (s : State) : Who :=
  let c := s.focus.c
  let core := match frameAt s c s.focus.frame with
    | some fr => execCore c fr s
    | none => c.core
  { whoOf s c with core := core }

/-- The holder number of a context (R290). -/
def holderOf (s : State) (w : Who) : Nat :=
  let (cl, co) := relName s w.die w.part w.c.core
  1 + cl * 128 + co * 16 + w.c.ctx

/-! ## Physical memory: ranges and homes (R257, R367, R368) -/

/-- The physical address is the module's own HBM, or a peer module's window. -/
def paExists (s : State) (pa : Nat) : Bool :=
  pa < 2 ^ 39 || (2 ^ 40 ≤ pa && pa < 2 ^ 40 + 16 * 2 ^ 40 && (pa - 2 ^ 40) / 2 ^ 40 ≠ s.pkg.mod)

/-- The die of the host port serving a peer module's window (R370, R374). -/
def portDie (s : State) (m : Nat) : Nat :=
  if s.pkg.p0w = 0 then 3 else if s.pkg.p1w = 0 then 0 else if m % 2 = 0 then 0 else 3

/-- The home die of a physical address (R367, R368). -/
def homeDie (s : State) (pa : Nat) : Nat :=
  if pa < 2 ^ 39 then (field pa 8 3 ^^^ field pa 20 3) / 2 else portDie s ((pa - 2 ^ 40) / 2 ^ 40)

/-- The home slice and set within the die (R257). -/
def homeSlice (pa : Nat) : Nat := (field pa 6 16 ^^^ field pa 22 16 ^^^ field pa 38 10) % 192
def homeSet (pa : Nat) : Nat := field pa 6 9 ^^^ field pa 15 9

/-- A byte as its home holds it. -/
def homeByte (s : State) (pa : Nat) : Byte :=
  let l := l2At s (pa / 64)
  if l.dirty || l.n ≠ 0 then byteOf l.data (pa % 64) else tabGet 0 s.hbm pa

/-- A line as its home holds it. -/
def homeLine (s : State) (line : Nat) : Wide :=
  let l := l2At s line
  if l.dirty || l.n ≠ 0 then l.data
  else BitVec.ofNat 512 (ofBytes ((List.range 64).map (fun k => tabGet 0 s.hbm (64 * line + k))))

/-- A token with byte n replaced. -/
def setByte (v : Wide) (n : Nat) (b : Byte) : Wide :=
  (v &&& ~~~((0xFF : Wide) <<< (8 * n))) ||| (b.setWidth 512 <<< (8 * n))

/-- A slice holds a line, as far as the machine says so: dirty, counted, or with a retention of its own. -/
def l2Holds (s : State) (line : Nat) : Bool := l2At s line ≠ blankLine

/-- An L2 eviction: dirty data are written back to HBM, and the line leaves its slice. A counted line is pinned: it is never
evicted (R272). -/
def writeBack (s : State) (line : Nat) : State :=
  let l := l2At s line
  if l.n ≠ 0 then s
  else if l.dirty then
    let s := { s with hbm := (List.range 64).foldl (fun t k => tabSet 0 t (64 * line + k) (byteOf l.data k)) s.hbm }
    modL2 s line (fun _ => blankLine)
  else if l2Holds s line then modL2 s line (fun _ => blankLine)
  else s

/-- The other lines that a slice holds in the set of a line (R257). -/
def setMates (s : State) (line : Nat) : List (Nat × L2Line) :=
  s.l2.filter (fun e => e.1 ≠ line && homeDie s (64 * e.1) = homeDie s (64 * line)
    && homeSlice (64 * e.1) = homeSlice (64 * line) && homeSet (64 * e.1) = homeSet (64 * line))

/-- The retentions from the lowest up: the lowest, the normal one (asked for or not), the raised one. -/
def retentions : List (List Nat) := [[1], [0, 2], [3]]

/-- A way of its set for a line (R257, R272): where other lines fill all sixteen, the lowest line that is not pinned is
evicted, of those of the lowest retention (R234). DESIGN CHOICE (log entry 58): the victim. -/
def makeWay (s : State) (line : Nat) : State :=
  let ms := setMates s line
  if ms.length < 16 then s
  else
    let free := ms.filter (fun e => e.2.n = 0)
    match retentions.findSome? (fun ks => free.find? (fun e => ks.contains e.2.keep)) with
    | some e => writeBack s e.1
    | none => s

/-- Lines whose count fill has been reserved and waits behind a PHASE of its block (R264, R273). -/
def lateLines (s : State) : List Nat :=
  ((lateEffects s).filterMap (fun e => match e.2 with
    | .countFill (.pa a _) _ _ _ => some (a / 64)
    | _ => none)).eraseDups

/-- The other lines that are pinned in the set of a line, those of reserved fills among them (R272, R273). -/
def pinnedMates (s : State) (line : Nat) : Nat :=
  ((setMates s line).filter (fun e => e.2.n ≠ 0)).length
    + ((lateLines s).filter (fun l => l ≠ line && (l2At s l).n = 0 && homeDie s (64 * l) = homeDie s (64 * line)
        && homeSlice (64 * l) = homeSlice (64 * line) && homeSet (64 * l) = homeSet (64 * line))).length

/-- Sixteen other lines of its set are pinned (R272, R273). -/
def setPinned (s : State) (line : Nat) : Bool := 16 ≤ pinnedMates s line

/-- Lines that were written whole are no longer poisoned (R369). -/
def heal (s : State) (lines : List Nat) : State :=
  if s.poison.isEmpty then s else { s with poison := s.poison.filter (fun l => !lines.contains l) }

/-- Some addressed bytes are all 64 of a line. -/
def wholeLine (bs : List (Nat × Byte)) : Bool := (List.range 64).all (fun k => bs.any (fun e => e.1 % 64 = k))

/-- Writes of bytes at one home line: the slice holds the line dirty, or where it has no way for it the bytes go to HBM
(R272); a write of all 64 bytes clears its poison (R369). -/
def homeWriteLine (s : State) (line : Nat) (bs : List (Nat × Byte)) : State :=
  let d := bs.foldl (fun v e => setByte v (e.1 % 64) e.2) (homeLine s line)
  let held := l2Holds s line
  let s := modL2 (if held then s else makeWay s line) line (fun l => { l with data := d, dirty := true })
  let s := if !held && setPinned s line then writeBack s line else s
  if wholeLine bs then heal s [line] else s

/-- The lines that a list of addressed bytes touches, each once, in order of first touch. -/
def linesOf (bs : List (Nat × Byte)) : List Nat :=
  bs.foldl (fun ls e => if ls.contains (e.1 / 64) then ls else ls ++ [e.1 / 64]) []

/-- Writes of bytes by physical address at their homes. -/
def homeWrite (s : State) (bs : List (Nat × Byte)) : State :=
  (linesOf bs).foldl (fun s l => homeWriteLine s l (bs.filter (fun e => e.1 / 64 = l))) s

/-- The retention with which a cache policy allocates a line (R46, R234). -/
def retention (policy : Nat) : Nat := if policy = 2 then 3 else if policy = 1 then 1 else 2

/-- A line is to stand in its slice with a retention (R46, R169): it enters where a way is free, and one that stands there has
its retention raised, not lowered. DESIGN CHOICE (log entry 58): a set without a free way takes none. -/
def retain (r : Nat) (s : State) (line : Nat) : State :=
  if l2Holds s line then (if r = 3 then modL2 s line (fun l => { l with keep := 3 }) else s)
  else if 16 ≤ (setMates s line).length then s
  else modL2 s line (fun l => { l with keep := r })

/-- The lines that locations on GEN and CONST touch. -/
def genLines (ls : List Loc) : List Nat :=
  (ls.filterMap (fun l => match l with
    | .pa a _ => some (a / 64)
    | _ => none)).eraseDups

/-- Writes of bytes at their homes under a cache policy (R46, R234): `.byp` writes a line that its slice holds in place and
any other in HBM; `.nt` gives a line that the slice allocates its retention, and `.keep` every line; a write of all 64 bytes
clears the poison of its line. -/
def homeWriteBy (s : State) (policy : Nat) (bs : List (Nat × Byte)) : State :=
  (linesOf bs).foldl (fun s line =>
    let mine := bs.filter (fun e => e.1 / 64 = line)
    let held := l2Holds s line
    if policy ≠ 3 then
      let s := homeWriteLine s line mine
      if (held && policy ≠ 2) || !(l2At s line).dirty || policy = 0 then s
      else modL2 s line (fun l => { l with keep := retention policy })
    else if held then homeWriteLine s line mine
    else
      let s := { s with hbm := mine.foldl (fun t e => tabSet 0 t e.1 e.2) s.hbm }
      if wholeLine mine then heal s [line] else s) s

/-- Eight bytes at a home, as a number. -/
def homeWord (s : State) (pa : Nat) : Nat := ofBytes ((List.range 8).map (fun k => homeByte s (pa + k)))

/-! ## Translation (R279 to R282) -/

/-- What an access wants of a page. -/
inductive Want where
  | read | write | fetch
  deriving DecidableEq, Repr

/-- The size of a page and the bit where its index begins, by level. -/
def levelShift : Nat → Nat
  | 3 => 39 | 2 => 30 | 1 => 21 | _ => 16
def levelBits : Nat → Nat
  | 3 => 15 | 2 => 9 | 1 => 9 | _ => 5

/-- A table entry's reserved bits are zero, and a leaf's address bits below its page are (R280). -/
def entryClean (e lvl : Nat) (leaf : Bool) : Bool :=
  field e 52 12 = 0 && field e 5 3 = 0 && (!leaf || e / 2 ^ 8 * 2 ^ 8 % 2 ^ levelShift lvl = 0)

/-- The walk from a table at a level (R279): the page, or none for a fault with cause 0x01. -/
def walkFrom (s : State) : Nat → Nat → Nat → Option TlbEntry
  | 0, table, va =>
    let e := homeWord s (table + 8 * field va 16 5)
    if e.testBit 0 && e.testBit 1 && entryClean e 0 true then
      some ⟨va / 2 ^ 16 * 2 ^ 16, 2 ^ 16, field e 8 44 * 2 ^ 8, e.testBit 2, e.testBit 3, e.testBit 4⟩
    else none
  | lvl + 1, table, va =>
    let sh := levelShift (lvl + 1)
    let e := homeWord s (table + 8 * field va sh (levelBits (lvl + 1)))
    if !e.testBit 0 then none
    else if e.testBit 1 then
      if lvl + 1 ≤ 2 && entryClean e (lvl + 1) true then
        some ⟨va / 2 ^ sh * 2 ^ sh, 2 ^ sh, field e 8 44 * 2 ^ 8, e.testBit 2, e.testBit 3, e.testBit 4⟩
      else none
    else if entryClean e (lvl + 1) false then walkFrom s lvl (field e 8 44 * 2 ^ 8) va
    else none

/-- The page of a virtual address: a cached translation, or a walk of the partition's table (R281). -/
def findPage (s : State) (die part va : Nat) : Option TlbEntry :=
  let p := partAt s die part
  match p.tlb.find? (fun e => e.va ≤ va && va < e.va + e.size) with
  | some e => some e
  | none => walkFrom s 3 (field p.ptRoot.toNat 18 34 * 2 ^ 18) va

/-- The physical address of a GEN or CONST byte, or the PAGE-FAULT cause (R280). -/
def translate (s : State) (die part va : Nat) (priv : Bool) (want : Want) (isConst : Bool) : Except Nat Nat :=
  match findPage s die part va with
  | none => .error 0x01
  | some e =>
    let pa := e.pa + (va - e.va)
    if e.priv && !priv then .error 0x01
    else if want = .write && (!e.w || isConst) then .error 0x02
    else if want = .fetch && !e.x then .error 0x03
    else if !paExists s pa then .error 0x01
    else .ok pa

/-- The host page of an address: a cached translation of the device, else the host IOMMU's (R282). -/
def hostPage (s : State) (va : Nat) : Option HostPage :=
  let covers := fun (p : HostPage) => p.va ≤ va && va < p.va + p.size
  match s.ats.find? covers with
  | some p => some p
  | none => s.iommu.find? covers

/-- The device keeps the translations of the host addresses it accesses (R282). -/
def cacheHost (s : State) (va : Nat) : State :=
  if s.ats.any (fun p => p.va ≤ va && va < p.va + p.size) then s
  else
    match hostPage s va with
    | some p => { s with ats := s.ats ++ [p] }
    | none => s

/-- The cause with which a HOST access fails, if it does. -/
def hostCheck (s : State) (va : Nat) (want : Want) : Option Nat :=
  match hostPage s va with
  | none => some 0x04
  | some p => if want = .write && !p.w then some 0x02 else none

/-! ## Locating the bytes of an access -/

/-- The save staging area of a scratchpad (R204). -/
def isStaging (o : Nat) : Bool := 0x7C000 ≤ o

/-- The scratchpad byte of an address (R57). -/
def spadLoc (w : Who) (a : Nat) : Nat × Nat :=
  (if a / 2 ^ 22 % 2 = 1 then w.core else 8 * (w.core / 8) + field a 19 3, a % 2 ^ 19)

/-- A fabric window of a context (R385). -/
def windowIn (x : Ctx) (n : Nat) : Word × Word := tabGet (0, 0) x.windows n

def windowOf (s : State) (c : CtxId) (n : Nat) : Word × Word := windowIn (ctxAt s c) n

/-- One byte of an access: its location, or the fault. A window is checked at firing (R386). -/
def locateByte (s : State) (w : Who) (want : Want) (p : Word) (k : Nat) : Except AccFault Loc :=
  let a := (ptrAddr p + k) % 2 ^ 54
  match ptrPath p with
  | 0 =>
    match translate s w.die w.part a w.priv want false with
    | .ok pa => .ok (.pa pa a)
    | .error cause => .error ⟨clsPageFault, cause, withAddr p a, 0⟩
  | 1 =>
    if 2 ^ 23 ≤ a then .error ⟨clsPathReserved, 0x02, p, 0⟩
    else
      let (c, o) := spadLoc w a
      if isStaging o then .error ⟨clsPathReserved, 0x0D, p, 0⟩ else .ok (.spad c o)
  | 2 =>
    match translate s w.die w.part a w.priv want true with
    | .ok pa => .ok (.pa pa (2 ^ 54))
    | .error cause => .error ⟨clsPageFault, cause, withAddr p a, 0⟩
  | 3 =>
    match hostCheck s a want with
    | none => .ok (.host a)
    | some cause => .error ⟨clsPageFault, cause, withAddr p a, 0⟩
  | 4 => .ok (.dev a)
  | 5 =>
    let w0 := (windowOf s w.c (a / 2 ^ 48)).1.toNat
    if !w0.testBit 41 || (want = .write && !w0.testBit 40) then .error ⟨clsPathReserved, 0x18, p, 0⟩
    else .ok (.fab (windowOf s w.c (a / 2 ^ 48)).1 (windowOf s w.c (a / 2 ^ 48)).2 (a % 2 ^ 48))
  | _ => .error ⟨clsPathReserved, 0x01, p, 0⟩

/-- The locations of n successive bytes, or the fault of the lowest byte that fails (R161, check 6). -/
def locateFrom (s : State) (w : Who) (want : Want) (p : Word) : Nat → Nat → Except AccFault (List Loc)
  | 0, _ => .ok []
  | n + 1, k =>
    match locateByte s w want p k with
    | .error e => .error e
    | .ok l =>
      match locateFrom s w want p n (k + 1) with
      | .error e => .error e
      | .ok ls => .ok (l :: ls)

def locate (s : State) (w : Who) (want : Want) (p : Word) (n : Nat) : Except AccFault (List Loc) :=
  locateFrom s w want p n 0

/-- Two locations are one byte. -/
def sameByte (x y : Loc) : Bool :=
  match x, y with
  | .pa a _, .pa b _ => a == b
  | x, y => x == y

/-- The translations of the host bytes of an access are cached. -/
def cacheHosts (s : State) (ls : List Loc) : State :=
  ls.foldl (fun s l => match l with
    | .host va => cacheHost s va
    | _ => s) s

/-! ## Tenure in loads and stores (R293, R294, R298) -/

/-- Handles of a partition whose span holds a virtual address. -/
def handlesAt (p : Part) (va : Nat) : List Handle := p.handles.filter (fun h => h.st ≠ 0 && h.lo ≤ va && va < h.hi)

/-- The tenure of a holder on a handle. -/
def tenureOf (h : Handle) (holder : Nat) : Option Tenure := h.tens.find? (·.holder == holder)

/-- Bytes of an element of a tile (R287). -/
def elemBytes (h : Handle) : Nat := 2 ^ field ((h.desc.getD 4 0).toNat) 8 4

/-- Extents and strides in use, dimension 0 first (R287). -/
def tileDims (h : Handle) : List (Nat × Int) :=
  let w1 := (h.desc.getD 1 0).toNat
  let w2 := (h.desc.getD 2 0).toNat
  let w3 := (h.desc.getD 3 0).toNat
  let n := field ((h.desc.getD 4 0).toNat) 0 2 + 1
  [(field w1 0 16, toSigned 32 (field w2 0 32)), (field w1 16 16, toSigned 32 (field w2 32 32)),
   (field w1 32 16, toSigned 32 (field w3 0 32)), (field w1 48 16, toSigned 32 (field w3 32 32))].take n

/-- Offsets, in elements, that the dimensions reach. -/
def tileOffsets : List (Nat × Int) → List Int
  | [] => [0]
  | (e, st) :: t => (tileOffsets t).flatMap (fun o => (List.range e).map (fun (i : Nat) => o + st * (i : Int)))

/-- Some element offset of the dimensions equals a number: the outermost dimension is tried first. -/
def reaches : List (Nat × Int) → Int → Bool
  | [], o => o = 0
  | (e, st) :: t, o => (List.range e).any (fun i => reaches t (o - st * (i : Int)))

/-- The first byte of element 0 as a virtual address. -/
def tileBase (h : Handle) : Nat := ptrAddr (h.desc.getD 0 0)

/-- The first byte of the element that holds a byte of a span, if one does. -/
def elementAt (h : Handle) (va : Nat) : Option Nat :=
  let b := elemBytes h
  (List.range b).findSome? (fun (k : Nat) =>
    let d : Int := (va : Int) - (k : Int) - (tileBase h : Int)
    if d % (b : Int) = 0 && reaches (tileDims h) (d / (b : Int)) then some (Nat.sub va k) else none)

/-- The identity of a REDUCE operation as a pattern (R294). -/
def identityOf (op : Nat) (ty : ElemType) : Nat :=
  match op with
  | 0 => 0
  | 1 => if ty = .f32 then 0x7F800000 else (maxOf ty).toNat
  | _ => if ty = .f32 then 0xFF800000 else wrapTo ty.width (minOf ty)

/-- The REDUCE tenure of a holder that covers an element byte, with its handle and the byte's place. -/
def reduceAt (p : Part) (holder va : Nat) : Option (Handle × Tenure × Nat) :=
  (handlesAt p va).findSome? (fun h =>
    match tenureOf h holder, elementAt h va with
    | some t, some e => if t.kind = 3 then some (h, t, va - e) else none
    | _, _ => none)

/-- A published byte of a holder is refused (R298): another party holds unlapsed tenure there, or the publisher READ. -/
def refusesByte (p : Part) (holder va : Nat) : Bool :=
  (handlesAt p va).any (fun h =>
    h.tens.any (fun t => if t.holder == holder then t.kind = 1 else !(t.kind = 1 && t.lapsed)))

/-- A lapsed READ tenure of the holder covers the byte: it is read at its home (R293). -/
def lapsedAt (p : Part) (holder va : Nat) : Bool :=
  (handlesAt p va).any (fun h => h.tens.any (fun t => t.holder == holder && t.kind = 1 && t.lapsed))

/-- The tenure records of a home slice that are taken (R292). -/
def recordsAt (s : State) (die slice : Nat) : Nat :=
  (s.dies.map (fun d => (d.2.parts.map (fun p =>
    ((p.2.handles.filter (fun h => h.die = die && h.slice = slice)).map (·.tens.length)).sum)).sum)).sum

/-- A home has a free tenure record (R292): how many there are is not stated, and at least one is taken to be. Log entry 65. -/
def tenureRoom (s : State) (h : Handle) : Bool := recordsAt s h.die h.slice ≤ Config.tenureRecords h.die h.slice

/-! ## The fabric (R385 to R388) -/

/-- Physical pieces of a virtual range, page by page. -/
def pieces (s : State) (die part va len : Nat) : List (Nat × Nat) :=
  let starts := 0 :: (((List.range (len / 2 ^ 16 + 1)).map (fun k => (k + 1) * 2 ^ 16 - va % 2 ^ 16)).filter (· < len))
  starts.filterMap (fun k =>
    match translate s die part (va + k) true .read false with
    | .ok pa => some (pa, min len ((va + k) / 2 ^ 16 * 2 ^ 16 + 2 ^ 16 - va) - k)
    | .error _ => none)

/-- A byte lies in the node area of a live arena (R327, R328), whatever die or partition owns it and by whatever address it is
reached. -/
def inNodeArea (s : State) (pa : Nat) : Bool :=
  s.dies.any (fun d => d.2.arenas.any (fun a => a.area.any (fun q => q.1 ≤ pa && pa < q.1 + q.2)))

/-- The virtual address at the target of a window offset (R386). -/
def fabVa (win : Word × Word) (o : Nat) : Nat := (win.2.toNat + o) % 2 ^ 54

def winNode (w0 : Word) : Nat := w0.toNat / 2 ^ 47
def winDie (w0 : Word) : Nat := field w0.toNat 45 2
def winPart (w0 : Word) : Nat := field w0.toNat 42 3

/-- A destination can be reached: some port of its routes is up (R384). -/
def reachable (s : State) (node : Nat) : Bool :=
  (tabGet [] s.pkg.routes node).any (fun p => (tabGet Port.blank s.pkg.ports p).lanes ≠ 0)

/-- The partition of another module by node, die and number, where it can be reached. -/
def remoteOf (s : State) (node die part : Nat) : Option Remote :=
  s.remotes.find? (fun r => r.node = node && r.die = die && r.part = part && reachable s node)

/-- The partition of another module that a window names. -/
def remoteAt (s : State) (w0 : Word) : Option Remote := remoteOf s (winNode w0) (winDie w0) (winPart w0)

/-- Why a target on this module refuses a remote access to a byte (R386). -/
def ownRefusal (s : State) (die part : Nat) (write : Bool) (va : Nat) : Option Nat :=
  let p := partAt s die part
  if !p.fabAccept.getLsbD 0 || (write && !p.fabAccept.getLsbD 1) then some 0x02
  else
    match translate s die part va false (if write then .write else .read) false with
    | .error c => some c
    | .ok pa => if write && (refusesByte p 0 va || inNodeArea s pa) then some 0x07 else none

/-- Why a target on another module refuses it: what the model holds of that module. -/
def farRefusal (r : Remote) (write : Bool) (va : Nat) : Option Nat :=
  if !r.accept.getLsbD 0 || (write && !r.accept.getLsbD 1) then some 0x02
  else
    match r.pages.find? (fun p => p.va ≤ va && va < p.va + p.size) with
    | none => some 0x01
    | some p =>
      if p.priv then some 0x01
      else if write && !p.w then some 0x02
      else if write && r.held.any (fun h => h.1 ≤ va && va < h.2) then some 0x07 else none

/-- The REMOTE-REFUSED cause with which an access to bytes through a window ends, if it does. -/
def fabRefusal (s : State) (w0 : Word) (write : Bool) (vas : List Nat) : Option Nat :=
  if winNode w0 = s.pkg.node then vas.findSome? (ownRefusal s (winDie w0) (winPart w0) write)
  else
    match remoteAt s w0 with
    | none => some 0x05
    | some r => vas.findSome? (farRefusal r write)

/-- A byte at the target's point of coherence. -/
def fabByte (s : State) (w0 : Word) (va : Nat) : Byte :=
  if winNode w0 = s.pkg.node then
    match translate s (winDie w0) (winPart w0) va false .read false with
    | .ok pa => homeByte s pa
    | .error _ => 0
  else
    match remoteAt s w0 with
    | some r => tabGet 0 r.mem va
    | none => 0

/-! ## L1 lines -/

/-- Host lines stand in the L1 tables above every physical address, and above them the committed stores of a core to
scratchpads that have not reached their banks (R229, R264). -/
def hostBase : Nat := 2 ^ 60
def spadBase : Nat := 2 ^ 61

/-- The key of a pending scratchpad store. -/
def spadKey (core o : Nat) : Nat := spadBase + 2 ^ 19 * core + o

/-- The lines that an L1 holds, each once (R217, R259). -/
def l1Lines (k : Core) : List Nat :=
  k.dirty.foldl (fun ls e => if spadBase ≤ e.1 || ls.contains (e.1 / 64) then ls else ls ++ [e.1 / 64]) (k.clean.map (·.1))

/-- The lines of an L1: 64 KiB each, the eight of a fused cluster together 512 KiB (R1, R217). -/
def l1Ways : Nat := 1024

/-- A line has dirty bytes in an L1. -/
def dirtyIn (k : Core) (line : Nat) : Bool := k.dirty.any (fun e => e.1 / 64 = line)

/-- How many lines too many an L1 would hold with some more. -/
def l1Over (k : Core) (lines : List Nat) : Nat :=
  (l1Lines k).length + (lines.filter (fun l => !(l1Lines k).contains l)).length - l1Ways

/-- The lines, apart from some, that an L1 can drop as they stand: clean, with no dirty byte. -/
def spareLines (k : Core) (lines : List Nat) : List Nat :=
  (k.clean.map (·.1)).filter (fun l => !lines.contains l && !dirtyIn k l)

/-- An L1 gives lines room by dropping its lowest spare ones. DESIGN CHOICE (log entry 58): the victims. -/
def l1Room (k : Core) (lines : List Nat) : Core :=
  let out := (spareLines k lines).take (l1Over k lines)
  if out.isEmpty then k else { k with clean := k.clean.filter (fun e => !out.contains e.1) }

/-- An L1 has too few spare lines to drop for some lines. -/
def l1Full (k : Core) (lines : List Nat) : Bool := (spareLines k lines).length < l1Over k lines

/-- A clean line enters an L1; one without room for it takes none. -/
def cacheClean (line : Nat) (v : Wide) (k : Core) : Core :=
  if l1Full k [line] then k else { l1Room k [line] with clean := tabPut line v (l1Room k [line]).clean }

/-- The core whose L1 holds a line for a core: its own, or in a fused cluster by address (R217), which for a line of HOST is the
virtual one (DESIGN CHOICE, log entry 113). Pending scratchpad stores stand at the core itself. -/
def l1Core (s : State) (core key : Nat) : Nat :=
  if (clusterAt s (clusterOf core)).fused && key < spadBase then 8 * (core / 8) + (field key 6 3 ^^^ field key 15 3) else core

/-- The dirty L1 byte at a key. -/
def dirtyAt (s : State) (core key : Nat) : Option DirtyByte :=
  ((coreAt s (l1Core s core key)).dirty.find? (fun e => e.1 = key)).map (·.2)

/-- The L1s that hold the lines of a context's thread for a key: its core's, or one for each member of its bond (R140). -/
def threadL1s (s : State) (c : CtxId) (key : Nat) : List Nat :=
  ((bondMembers s c.core).map (l1Core s · key)).eraseDups

/-- A committed byte of a context's own that is not yet at its point of coherence, on whichever member it stands (R23,
R140). -/
def ownDirty (s : State) (c : CtxId) (key : Nat) : Option DirtyByte :=
  (threadL1s s c key).findSome? (fun k =>
    ((coreAt s k).dirty.find? (fun e => e.1 = key && e.2.by_ == c)).map (·.2))

/-- The clean L1 line of a key. -/
def cleanAt (s : State) (core key : Nat) : Option Wide :=
  ((coreAt s (l1Core s core key)).clean.find? (fun e => e.1 = key / 64)).map (·.2)

/-! ## Leases (R268) -/

/-- The core of a holder of a partition. -/
def holderCore (s : State) (die part holder : Nat) : Nat :=
  let m := holder - 1
  256 * die + 8 * relToPhys (partAt s die part).cfg (m / 128) + field m 4 3

/-- The clean copies of a span leave the L1s of a core, and of the other members of its bond (R140). -/
def dropSpan (s : State) (die part core lo hi : Nat) : State :=
  (List.range ((hi - lo / 64 * 64 + 63) / 64)).foldl (fun s k =>
    match translate s die part (lo / 64 * 64 + 64 * k) true .read false with
    | .ok pa => (bondMembers s core).foldl (fun s m => modCore s (l1Core s m pa) (fun q => { q with clean := tabDel (pa / 64) q.clean })) s
    | .error _ => s) s

/-- A lease whose offset falls below zero by a move of its base. -/
def endsBelow (excess : Nat) (t : Tenure) : Bool := t.kind = 1 && t.leaseAt < excess

/-- The leases of a slice on the handles of one partition, as offsets from its new base: an offset that would fall below zero
is 0 and its lease ends, and with it its holder's copies of the tile go. -/
def rebasePart (slice home excess die part : Nat) (s : State) : State :=
  let hs := (partAt s die part).handles.filter (fun h => h.die = home && h.slice = slice)
  let s := modPart s die part (fun p => { p with handles := p.handles.map (fun h =>
    if h.die = home && h.slice = slice then
      { h with tens := h.tens.map (fun t => if t.kind ≠ 1 then t
          else { t with leaseAt := t.leaseAt - excess, lapsed := t.lapsed || t.leaseAt < excess }) }
    else h) })
  hs.foldl (fun s h => (h.tens.filter (endsBelow excess)).foldl (fun s t =>
    if t.holder < 2 ^ 20 then dropSpan s die part (holderCore s die part t.holder) h.lo h.hi else s) s) s

/-- The leases of a slice are counted from its new base. -/
def rebaseLeases (s : State) (die slice excess : Nat) : State :=
  s.dies.foldl (fun s d => d.2.parts.foldl (fun s p => rebasePart slice die excess d.1 p.1 s) s) s

/-- A lease of a length at a slice: its offset, and the base moved where the offset would not fit in 16 bits. Time passes only
where a lease is seen to end (log entry 47). -/
def newLease (s : State) (die slice len : Nat) : State × Nat :=
  let d := dieAt s die
  let base := tabGet 0 d.leaseBase slice
  let ends := tabGet 0 d.leaseNow slice + len
  let excess := ends - (base + 65535)
  let s := if excess = 0 then s
    else rebaseLeases (modDie s die (fun d => { d with leaseBase := tabSet 0 d.leaseBase slice (base + excess) })) die slice excess
  (s, ends - (base + excess))

/-- Posted bytes of a context that its own loads see before they are acknowledged (R23). -/
def postedByte (s : State) (c : CtxId) (l : Loc) : Option Byte :=
  ((coreAt s c.core).journal.filter (fun j => j.ctx = c.ctx && j.state = 1)).foldl
    (fun r j => match (j.bytes.filter (fun b => sameByte b.1 l)).getLast? with
      | some b => some b.2
      | none => r) none

/-- A core's scratchpad answers a party (R215): its own, or that of a core holding a context of the partition's
launches, as every member of a bond holds its thread (R136); another core's reads as zero and discards writes. -/
def windowOpen (s : State) (w : Who) (core : Nat) : Bool :=
  core = w.core || (core :: bondMembers s core).any (fun k =>
    (coreAt s k).ctxs.any (fun e => e.2.st != .free && e.2.part = w.part && e.2.launch.isSome))

/-- A byte as an ordinary load of a context finds it in memory; `coherent` reads the point of coherence (R265). What another
context has stored and not published is seen by none but itself (R262, R298; DESIGN CHOICE, log entry 104). -/
def memByte (s : State) (w : Who) (coherent : Bool) (l : Loc) : Byte :=
  match l with
  | .pa a va =>
    let p := partAt s w.die w.part
    match reduceAt p (holderOf s w) va with
    | some (_, t, k) =>
      match tabGet none t.partials va with
      | some b => b
      | none => BitVec.ofNat 8 (identityOf t.op (elemOfCode t.fmt) / 256 ^ k)
    | none =>
      match ownDirty s w.c a with
      | some d => d.val
      | none =>
        if coherent || (l2At s (a / 64)).n ≠ 0 || lapsedAt p (holderOf s w) va then homeByte s a
        else ((cleanAt s w.core a).map (byteOf · (a % 64))).getD (homeByte s a)
  | .spad c o => if windowOpen s w c then ((ownDirty s w.c (spadKey c o)).map (·.val)).getD (tabGet 0 (coreAt s c).spad o) else 0
  | .host va =>
    match postedByte s w.c l with
    | some b => b
    | none =>
      match cleanAt s w.core (hostBase + va) with
      | some line => if coherent then tabGet 0 s.hostMem va else byteOf line (va % 64)
      | none => tabGet 0 s.hostMem va
  | .dev a => (tabGet none (ctxAt s w.c).devOwn a).getD (Config.devRead s.freeCounter a 0)
  | .fab w0 w1 o =>
    match postedByte s w.c l with
    | some b => b
    | none => fabByte s w0 (fabVa (w0, w1) o)

/-- The clean copies of a line leave the L1s of a context's thread. -/
def dropOwnClean (s : State) (c : CtxId) (key : Nat) : State :=
  (threadL1s s c key).foldl (fun s k =>
    if (coreAt s k).clean.any (fun e => e.1 = key / 64) then modCore s k (fun q => { q with clean := tabDel (key / 64) q.clean })
    else s) s

/-- The key of a byte in an L1. -/
def keyOf : Loc → Option Nat
  | .pa a _ => some a
  | .host va => some (hostBase + va)
  | _ => none

/-- A load that misses its own L1 finds a line as it stands beyond it: no older copy stays in another L1 of the thread (R140,
R263). -/
def dropMissed (s : State) (w : Who) (ls : List Loc) : State :=
  ls.foldl (fun s l => match keyOf l with
    | some key => if (cleanAt s w.core key).isSome then s else dropOwnClean s w.c key
    | none => s) s

/-- The lines an ordinary load leaves clean in the L1 (R259): not counted lines, not lapsed spans. A load that finds no
line to replace allocates none. -/
def fillLines (s : State) (w : Who) (ls : List Loc) : State :=
  ls.foldl (fun s l =>
    match l with
    | .pa a va =>
      if (l2At s (a / 64)).n ≠ 0 || lapsedAt (partAt s w.die w.part) (holderOf s w) va || (cleanAt s w.core a).isSome then s
      else modCore s (l1Core s w.core a) (cacheClean (a / 64) (homeLine s (a / 64)))
    | .host va =>
      let key := hostBase + va
      if (cleanAt s w.core key).isSome then s
      else
        let line : Wide := BitVec.ofNat 512 (ofBytes ((List.range 64).map (fun i => tabGet 0 s.hostMem (va / 64 * 64 + i))))
        modCore s (l1Core s w.core key) (cacheClean (key / 64) line)
    | _ => s) s

/-- Poisoned lines met at their homes by an access (R369): where it `reaches` its homes whatever its L1s hold, none of its own
copies shields it but the bytes that the thread itself has stored. -/
def poisonAt (s : State) (w : Who) (reaches : Bool) (ls : List Loc) : Option Loc :=
  if s.poison.isEmpty then none
  else ls.find? (fun l =>
    match l with
    | .pa a _ => s.poison.contains (a / 64) && (reaches || (cleanAt s w.core a).isNone) && (ownDirty s w.c a).isNone
    | _ => false)

/-- The same of an access that is performed at its homes, the thread's own stores carried there first. -/
def poisonHome (s : State) (ls : List Loc) : Option Loc :=
  ls.find? (fun l => match l with
    | .pa a _ => s.poison.contains (a / 64)
    | _ => false)

/-! ## Committed stores -/

/-- A byte enters the L1 of a core as a context's own: it stands nowhere else of the thread's L1s (R140). -/
def putDirty (s : State) (w : Who) (key va : Nat) (b : Byte) : State :=
  let s := (threadL1s s w.c key).foldl (fun s k =>
    if (coreAt s k).dirty.any (fun e => e.1 = key && e.2.by_ == w.c) then
      modCore s k (fun q => { q with dirty := q.dirty.filter (fun e => !(e.1 = key && e.2.by_ == w.c)) })
    else s) s
  modCore s (l1Core s w.core key) (fun k => { k with dirty := tabPut key ⟨b, w.c, va⟩ k.dirty })

/-- A byte at its point of coherence, as a synchronising read of a party finds it (R185, R215). -/
def coherentByte (s : State) (w : Who) : Loc → Byte
  | .pa a _ => homeByte s a
  | .spad c o => if windowOpen s w c then tabGet 0 (coreAt s c).spad o else 0
  | _ => 0

/-- A write to a word wakes the watches armed on it (R185): the waiting WAITA receives the word as the home holds it.
What follows the WAITA's block, or its iteration, loads again (R221). -/
def wakeWatches (s : State) (touched : List Loc) : State :=
  (coreNums s).foldl (fun s k =>
    let core := coreAt s k
    if core.ctxs.any (fun e => e.2.watch.isSome) then
      core.ctxs.foldl (fun s e =>
        match (ctxAt s ⟨k, e.1⟩).watch with
        | none => s
        | some wt =>
          let word := (List.range 8).map (fun i => match wt.loc with
            | .pa a va => Loc.pa (a + i) (va + i)
            | .spad c o => Loc.spad c (o + i)
            | l => l)
          if word.any (fun l => touched.any (sameByte l)) then
            let v := ofBytes (word.map (coherentByte s (whoOf s ⟨k, e.1⟩)))
            answerLater ⟨k, e.1⟩ wt.idx wt.tag (some (BitVec.ofNat 512 v)) (BitVec.ofNat 64 v)
              (squashLater (modCtx s ⟨k, e.1⟩ (fun x => { x with watch := none })) ⟨k, e.1⟩)
          else s) s
    else s) s

/-- Bytes written at the target of a window, as writes at the point of coherence (R388). -/
def fabWrite (s : State) (w0 : Word) (bs : List (Nat × Byte)) : State :=
  if winNode w0 = s.pkg.node then
    let locs := bs.filterMap (fun e =>
      match translate s (winDie w0) (winPart w0) e.1 false .write false with
      | .ok pa => some (pa, e)
      | .error _ => none)
    wakeWatches (homeWrite s (locs.map (fun e => (e.1, e.2.2)))) (locs.map (fun e => Loc.pa e.1 e.2.1))
  else
    { s with remotes := s.remotes.map (fun r =>
        if r.node = winNode w0 && r.die = winDie w0 && r.part = winPart w0 then
          { r with mem := bs.foldl (fun t e => tabSet 0 t e.1 e.2) r.mem }
        else r) }

/-- The bytes, of some, that go through a window of word 0 `w0`. -/
def fabPart (w0 : Word) (bs : List (Loc × Byte)) : List (Nat × Byte) :=
  bs.filterMap (fun b => match b.1 with
    | .fab v w1 o => if v = w0 then some (fabVa (v, w1) o, b.2) else none
    | _ => none)

/-- The windows, by word 0, that some bytes go through. -/
def fabWindows (bs : List (Loc × Byte)) : List Word :=
  (bs.filterMap (fun b => match b.1 with
    | .fab w0 _ _ => some w0
    | _ => none)).eraseDups

/-! ## Publication and acquisition (R261, R264, R265, R298) -/

/-- Scopes by number: 0 cluster, 1 die, 2 package, 3 system (R261). The L1s a context's lines stand in. -/
def l1Group (s : State) (core : Nat) : List Nat :=
  if (clusterAt s (clusterOf core)).fused then (List.range 8).map (fun k => 8 * (core / 8) + k) else [core]

/-- The party a dirty byte belongs to. -/
def ownerOf (s : State) (d : DirtyByte) : Who := whoOf s d.by_

/-- The TENURE-CONFLICT cause with which a published byte is refused (R298, R329): a live node area, or tenure. -/
def pubCause (s : State) (w : Who) (pa va : Nat) : Option Nat :=
  if inNodeArea s pa then some 0x07
  else if refusesByte (partAt s w.die w.part) (holderOf s w) va then some 0x01 else none

/-- A byte that a context has carried to its point of coherence stands in the thread's clean copies of the line too
(R23, R263). -/
def mergeClean (s : State) (c : CtxId) (key : Nat) (b : Byte) : State :=
  (threadL1s s c key).foldl (fun s k =>
    match tabGet none ((coreAt s k).clean.map (fun e => (e.1, some e.2))) (key / 64) with
    | some line => modCore s k (fun q => { q with clean := tabPut (key / 64) (setByte line (key % 64) b) q.clean })
    | none => s) s

/-- A pending scratchpad store reaches its bank (R264 step 1); a core that answers its writer no longer discards it. -/
def drainByte (s : State) (e : Nat × DirtyByte) : State :=
  let k := (e.1 - spadBase) / 2 ^ 19
  if windowOpen s (ownerOf s e.2) k then modCore s k (fun q => { q with spad := tabSet 0 q.spad (e.1 % 2 ^ 19) e.2.val }) else s

/-- The pending scratchpad stores of a core that `sel` selects reach their banks. -/
def drainSpad (s : State) (core : Nat) (sel : DirtyByte → Bool) : State :=
  let all := (coreAt s core).dirty.filter (fun e => spadBase ≤ e.1 && sel e.2)
  if all.isEmpty then s
  else
    let s := modCore s core (fun k => { k with dirty := k.dirty.filter (fun e => !(spadBase ≤ e.1 && sel e.2)) })
    wakeWatches (all.foldl drainByte s) (all.map (fun e => Loc.spad ((e.1 - spadBase) / 2 ^ 19) (e.1 % 2 ^ 19)))

/-- The pending scratchpad stores of a context reach their banks (R264 step 1). -/
def drainOwn (s : State) (c : CtxId) : State := (bondMembers s c.core).foldl (fun s k => drainSpad s k (·.by_ == c)) s

/-- A byte that a die management core stores in control space reaches the shared register it names, if it names one (R125,
R363). Two writes of one register never fall in one step (log entry 64). -/
def controlWrite (w : Who) (a : Nat) (b : Byte) (s : State) : State :=
  if !isMgmt w.c.core then s
  else match Config.controlShared a with
    | some (k, r, n) => modCore s (256 * dieOf w.c.core + k % 256) (fun q =>
        { q with shared := tabSet 0 q.shared (r % 128) (setByte (tabGet 0 q.shared (r % 128)) (n % 64) b) })
    | none => s

/-- A committed ordinary store of one byte (R262, R264, R294): a dirty L1 byte, a scratchpad byte on its way to its bank (a
bond's all stand at its first member, so that they reach one bank in commit order, R267), a REDUCE partial, or a device
write. -/
def commitByte (w : Who) (s : State) (e : Loc × Byte) : State :=
  match e.1 with
  | .pa a va =>
    match reduceAt (partAt s w.die w.part) (holderOf s w) va with
    | some (h, _, _) =>
      modPart s w.die w.part (fun p => { p with handles := p.handles.map (fun q =>
        if q.idx = h.idx then
          { q with tens := q.tens.map (fun t =>
              if t.holder = holderOf s w then { t with partials := tabSet none t.partials va (some e.2) } else t) }
        else q) })
    | none => putDirty s w a va e.2
  | .spad c o =>
    if !windowOpen s w c then s
    else
      let first := { w with core := w.c.core }
      match dirtyAt s w.c.core (spadKey c o) with
      | some d => putDirty (if d.by_ == w.c then s else drainSpad s w.c.core (·.by_ == d.by_)) first (spadKey c o) 0 e.2
      | none => putDirty s first (spadKey c o) 0 e.2
  | .host va => { s with hostMem := tabSet 0 s.hostMem va e.2 }
  | .dev a =>
    controlWrite w a e.2
      (modCtx { s with devWrites := s.devWrites ++ [(a, e.2)] } w.c (fun x => { x with devOwn := tabSet none x.devOwn a (some e.2) }))
  | .fab _ _ _ => s

def commitBytes (w : Who) (s : State) (bs : List (Loc × Byte)) : State := bs.foldl (commitByte w) s

/-- The pending scratchpad stores of a cluster reach their banks: stores go no further than their cluster (R215). -/
def drainCluster (s : State) (core : Nat) : State :=
  (List.range 8).foldl (fun s k => drainSpad s (8 * (core / 8) + k) (fun _ => true)) s

/-- One byte of a synchronising write, elsewhere than on GEN. -/
def coherentPut (w : Who) (s : State) (e : Loc × Byte) : State :=
  match e.1 with
  | .spad c o => if windowOpen s w c then modCore s c (fun k => { k with spad := tabSet 0 k.spad o e.2 }) else s
  | _ => commitByte w s e

/-- A synchronising write of bytes at their points of coherence (R265), and the watches it wakes (R185). In a scratchpad
it comes after the stores its cluster has committed. -/
def coherentWrite (s : State) (w : Who) (bs : List (Loc × Byte)) : State :=
  let gen := bs.filterMap (fun b => match b.1 with
    | .pa a _ => some (a, b.2)
    | _ => none)
  let rest := bs.filter (fun b => match b.1 with
    | .pa _ _ => false
    | _ => true)
  let s := ((rest.filterMap (fun b => match b.1 with
    | .spad c _ => some c
    | _ => none)).eraseDups).foldl drainCluster s
  wakeWatches (rest.foldl (coherentPut w) (homeWrite s gen)) (bs.map (·.1))

/-- Bytes that an L1 writes back reach their homes; those of a counted line reach HBM too, where they outlast the drop of
the line (R273, R274). DEDUCED (log entry 63). -/
def homeMerge (s : State) (policy : Nat) (bs : List (Nat × Byte)) : State :=
  let s := homeWriteBy s policy bs
  { s with hbm := (bs.filter (fun e => (l2At s (e.1 / 64)).n ≠ 0)).foldl (fun t e => tabSet 0 t e.1 e.2) s.hbm }

/-- Carries dirty bytes of one L1 home, those that `sel` selects (R264, R298): refused bytes are discarded, and each
context with refused bytes receives one asynchronous record for each cause. `pub` is the publisher with its block; `policy`
is that of a store that passes its L1 (R46). -/
def carryHomeBy (policy : Nat) (s : State) (core : Nat) (sel : Nat → CtxId → Bool) (pub : Option (CtxId × Word)) :
    State × List (CtxId × RecordArgs) :=
  let all := (coreAt s core).dirty.filter (fun e => e.1 < spadBase && sel e.1 e.2.by_)
  let judged := all.map (fun e => (pubCause s (ownerOf s e.2) e.1 e.2.va, e))
  let good := (judged.filter (fun e => e.1.isNone)).map (·.2)
  let bad := judged.filterMap (fun e => e.1.map (fun c => (c, e.2)))
  let s := modCore s core (fun k => { k with dirty := k.dirty.filter (fun e => !(e.1 < spadBase && sel e.1 e.2.by_)) })
  let s := homeMerge s policy (good.map (fun e => (e.1, e.2.val)))
  let s := good.foldl (fun s e => mergeClean s e.2.by_ e.1 e.2.val) s
  let s := bad.foldl (fun s e => dropOwnClean s e.2.2.by_ e.2.1) s
  let s := wakeWatches s (good.map (fun e => Loc.pa e.1 e.2.va))
  let losers := bad.foldl (fun (l : List (CtxId × Nat)) e =>
    if l.contains (e.2.2.by_, e.1) then l else l ++ [(e.2.2.by_, e.1)]) []
  (s, losers.map (fun q =>
    let line := ((bad.filter (fun e => e.2.2.by_ == q.1 && e.1 = q.2)).map (fun e => e.2.1 / 64)).foldl min (2 ^ 60)
    (q.1, { cls := clsTenureConflict, cause := q.2, async := true, phys := true, addr := BitVec.ofNat 64 (64 * line),
            arg := match pub with
              | some (p, blk) => if p == q.1 then blk else 0
              | none => 0 })))

def carryHome (s : State) (core : Nat) (sel : Nat → Bool) (pub : Option (CtxId × Word)) :
    State × List (CtxId × RecordArgs) := carryHomeBy 0 s core (fun k _ => sel k) pub

/-- An asynchronous record of a thread that stands aside (R202): it is delivered, and the saved state is marked stopped. -/
def asideRecord (s : State) (t : Thread) (r : RecordArgs) : State :=
  let x := threadAt s t
  let gone := ctxGone x
  let r := { r with async := true, block := x.next, quit := gone }
  let s := modThread s t (fun x =>
    { x with slot := x.slot ++ [⟨recordOf x r, t.part, !gone && !x.stopped⟩], stopped := x.stopped || !gone })
  modPart s (dieOf t.c.core) t.part (fun p => { p with sent := p.sent + 1 })

/-- An asynchronous record reaches its context (R202): it stops a running one at the next commit boundary, marks a saved
one stopped, and is delivered with QUIT to one that has quit. -/
def asyncRecord (s : State) (c : CtxId) (r : RecordArgs) : State :=
  let x := ctxAt s c
  let gone := ctxGone x
  let r := { r with async := true, block := x.next, quit := gone }
  if gone || x.stopped then sendRecord s c false r
  else if x.st == .saved then modCtx (sendRecord s c true r) c (fun x => { x with stopped := true })
  else modCtx s c (fun x => { x with asyncs := x.asyncs ++ [⟨recordWords s c r, x.part, true⟩] })

def asyncRecords (s : State) (rs : List (CtxId × RecordArgs)) : State := rs.foldl (fun s e => asyncRecord s e.1 e.2) s

/-- One record for each context and cause of a publication, with the lowest line refused (R298). -/
def onceEach (rs : List (CtxId × RecordArgs)) : List (CtxId × RecordArgs) :=
  rs.foldl (fun (l : List (CtxId × RecordArgs)) e =>
    if l.any (fun q => q.1 == e.1 && q.2.cause = e.2.cause) then
      l.map (fun q => if q.1 == e.1 && q.2.cause = e.2.cause && e.2.addr.toNat < q.2.addr.toNat then e else q)
    else l ++ [e]) []

/-- The write-back of a publication of scope S for a context (R264 steps 1 and 2). Cluster scope in a fused cluster goes no
further than the L1; the dirty lines go home then too, as if they were evicted there, for only so do the cluster's other
contexts see them (R262, R266; DESIGN CHOICE, log entry 104). -/
def publish (s : State) (c : CtxId) (scope : Nat) (blk : Word) : State :=
  let s := drainOwn s c
  let evicted := scope = 0 && 1 < (l1Group s c.core).length
  let members := ((bondMembers s c.core).flatMap (l1Group s)).eraseDups
  let r := members.foldl (fun (acc : State × List (CtxId × RecordArgs)) k =>
    let q := carryHome acc.1 k (fun _ => true) (if evicted then none else some (c, blk))
    (q.1, acc.2 ++ q.2)) (s, [])
  asyncRecords r.1 (onceEach r.2)

/-- Lines leave a full L1 to make room for some lines (R262, R298): dirty ones go home where the spare ones are too few. DESIGN
CHOICE (log entry 58): the lowest lines go. -/
def roomAt (s : State) (home : Nat) (lines : List Nat) : State :=
  let k := coreAt s home
  let out := ((l1Lines k).filter (fun l => !lines.contains l && dirtyIn k l)).take (l1Over k lines - (spareLines k lines).length)
  let s := if out.isEmpty then s
    else
      let r := carryHome s home (fun key => out.contains (key / 64)) none
      modCore (asyncRecords r.1 (onceEach r.2)) home (fun k => { k with clean := k.clean.filter (fun e => !out.contains e.1) })
  modCore s home (fun k => l1Room k lines)

/-- Room in the L1s of a party for the lines of a store. -/
def storeRoom (s : State) (w : Who) (lines : List Nat) : State :=
  ((lines.map (fun l => l1Core s w.core (64 * l))).eraseDups).foldl (fun s home =>
    roomAt s home (lines.filter (fun l => l1Core s w.core (64 * l) = home))) s

/-- The invalidation of clean lines below the level of a scope (R264 step 4, R265). -/
def acquire (s : State) (c : CtxId) (scope : Nat) : State :=
  if scope = 0 && 1 < (l1Group s c.core).length then s
  else ((bondMembers s c.core).flatMap (l1Group s)).foldl (fun s k => modCore s k (fun q => { q with clean := [] })) s

/-- Posted accesses of a context that are not yet acknowledged or refused (R261, system scope). -/
def postedLeft (s : State) (c : CtxId) : Bool := (coreAt s c.core).journal.any (fun j => j.ctx = c.ctx && j.state = 1)

/-! ## Bytes the context has yet to commit (R23) -/

/-- The bytes an effect will write. -/
def effectBytes (e : Effect) : List (Loc × Byte) :=
  match e with
  | .store bs _ _ _ => bs
  | .countFill l _ data _ => (List.range 64).map (fun k => (match l with
      | .pa a va => Loc.pa (a + k) (va + k)
      | .spad c o => Loc.spad c (o + k)
      | x => x, byteOf data k))
  | _ => []

/-- An effect precedes a load at (tag, LSID) of its block. -/
def precedes (p : Pending) (tag : Tag) (lsid : Nat) : Bool :=
  match p.tag, tag with
  | .iter a, .iter b => a < b || (a = b && (p.lsid.getD 0) < lsid)
  | .iter _, .final => true
  | .final, .final => (p.lsid.getD 0) < lsid
  | _, _ => false

/-- Rank of an effect among those of its block: iteration, then LSID. -/
def effectRank (p : Pending) : Nat :=
  (match p.tag with
    | .iter t => t
    | _ => 2 ^ 40) * 64 + p.lsid.getD 0

/-- The last write to a byte among a block's pending effects that satisfy a test. -/
def lastWrite (fr : Frame) (sel : Pending → Bool) (l : Loc) : Option Byte :=
  (fr.effects.filter sel).foldl (fun (best : Option (Nat × Byte)) p =>
    match ((effectBytes p.eff).filter (fun b => sameByte b.1 l)).getLast? with
    | some b =>
      match best with
      | some (r, _) => if r ≤ effectRank p then some (effectRank p, b.2) else best
      | none => some (effectRank p, b.2)
    | none => best) none |>.map (·.2)

/-- The latest uncommitted write to a byte that precedes a load: its own block's lower LSIDs, then older blocks,
youngest first. -/
def pendingByte (x : Ctx) (n : Nat) (tag : Tag) (lsid : Nat) (l : Loc) : Option Byte :=
  match x.frames[n]? with
  | none => none
  | some fr =>
    match lastWrite fr (fun p => precedes p tag lsid) l with
    | some b => some b
    | none => (x.frames.take n).reverse.findSome? (fun fr => lastWrite fr (fun _ => true) l)

/-- The bytes a load delivers (R23). -/
def loadBytes (s : State) (w : Who) (n : Nat) (tag : Tag) (lsid : Nat) (coherent : Bool) (ls : List Loc) : List Byte :=
  ls.map (fun l => (pendingByte (ctxAt s w.c) n tag lsid l).getD (memByte s w coherent l))

end Sys2Proof.Machine
end

