-- ==== Sys2Proof/Machine/MemAccess.lean ====
section
/-! DEFINITION. Class 0x9, loads and stores (R161 to R172): the checks of an access, ordinary and consuming loads, stores
and count fills, gathers, scatters, masked stores, prefetches, stream loads and the write-with-enqueue. -/

namespace Sys2Proof.Machine

open Sys2Proof

/-! ## What the accesses share -/

/-- Bytes of an access (R162). -/
def accessSize (ty : ElemType) : Nat := if ty = .l6s then 64 else ty.width / 8

/-- The token a load delivers (R162). -/
def loadToken (ty : ElemType) (bs : List Byte) : Token :=
  if ty = .l6s then wideTok (BitVec.ofNat 512 (ofBytes bs))
  else if ty = .l6 then wideTok (BitVec.ofNat 512 (ofBytes bs % 64))
  else wideTok (scalarOf ty (ofBytes bs))

/-- The bytes a store writes (R162). -/
def storeBytes (ty : ElemType) (v : Wide) : List Byte :=
  if ty = .l6 then toBytes 1 (v.toNat % 64) else toBytes (accessSize ty) v.toNat

/-- Records the fault of an access. -/
def faultAcc (e : AccFault) (s : State) : State := faulted e.cls e.cause e.addr e.arg s

/-- The checks of R161 on an access of n bytes, in their order, and the bytes' locations. -/
def checkAccess (ty : ElemType) (serves : Nat → Option Nat) (want : Want) (n : Nat) (s : State) (p : Word) :
    Except AccFault (List Loc) :=
  match basicCheck p with
  | some e => .error e
  | none =>
    match formatCheck ty p with
    | some e => .error e
    | none =>
      match pathCheck serves p with
      | some e => .error e
      | none => locate s (whoAt s) want p n

/-- The paths of R163, by the cause an instruction gives a path it does not serve. -/
def servesAll (_ : Nat) : Option Nat := none
def servesStore (path : Nat) : Option Nat := if path = pathCONST then some 0x05 else none
def servesLanes (path : Nat) : Option Nat := if path = pathDEV || path = pathFAB then some 0x07 else none
def servesScatter (path : Nat) : Option Nat :=
  if path = pathCONST then some 0x05 else if path = pathDEV || path = pathFAB then some 0x07 else none
def servesFill (path : Nat) : Option Nat :=
  if path = pathCONST then some 0x05 else if 2 < path then some 0x07 else none
def servesStq (path : Nat) : Option Nat := if path = pathHOST || path = pathFAB then none else some 0x09

/-- Some effect that precedes a load in order is unresolved: a lower LSID of its block, or any of an older block. -/
def olderUnresolved (x : Ctx) (fr : Frame) (n : Nat) (tag : Tag) (lsid : Nat) : Bool :=
  !lowerResolved fr lsid tag || !((x.frames.take n).all (fun g =>
    allResolved g (if isPinned g then .final else .iter 0)))

/-- Instructions that synchronise (R265): the ordinary loads of policy `.byp`, consuming loads, and what fires only under
R28. -/
def isSync (i : Instr) : Bool := isSyncLoad i || alwaysIrrevocable i

/-- Instructions that synchronise at their block's commit (R265): count fills, releases of tenure, messages. -/
def syncsLate (i : Instr) : Bool :=
  match i with
  | .stCnt _ | .trel _ | .send _ | .mcast _ => true
  | _ => false

/-- The same of an effect that waits for the commit step. -/
def lateSync (e : Effect) : Bool :=
  match e with
  | .countFill _ _ _ _ | .trel _ | .send _ _ _ => true
  | _ => false

/-- A synchronising load waits for the synchronising operations before it in program order (R265): of older blocks, of
older iterations, and of lower LSIDs of its own block that do not need its token; and for the messages of committed blocks to
arrive, one with policy `.byp` not for those that a full queue holds back (DEDUCED, log entry 103). Consuming loads of one
block may reach their homes in any order (R274). DEDUCED (log entry 59): what its own block performs at its commit comes after
it, for the commit waits for it. -/
def syncHeld (s : State) (fr : Frame) (i : Instr) : Bool :=
  let n := s.focus.frame
  let tag := s.focus.tag
  isSyncLoad i
    && ((if isConsuming i then !(ctxAt s s.focus.c).sendq.isEmpty else sendMoves s s.focus.c)
      || ((ctxAt s s.focus.c).frames.take n).any (fun g => g.effects.any (fun p => lateSync p.eff)
          || (instrs g).any (fun e => (isSync e.2 || syncsLate e.2) && (isPinned g || (alive g (.iter 0) none).any (·.1 = e.1))))
      || (isPinned fr && isIter tag && tag != .iter fr.iter)
      || (lsidOf i).any (fun k => loadsBelow (fun q => isSync q && !(isConsuming i && isConsuming q)) fr k s.focus.idx tag))

/-- The synchronising operations of a context wait until its PHASEs have published (R264). -/
def phasePending (s : State) : Bool := phasing (ctxAt s s.focus.c)

/-- The other synchronising operations wait for the context's messages too, which come before them in its program order
(R265, R267). -/
def syncPending (s : State) : Bool := phasePending s || !(ctxAt s s.focus.c).sendq.isEmpty

/-- What waits for another party, or reads what one has just written, waits for the messages before it only while they may
arrive (R265; DEDUCED, log entry 103). -/
def readPending (s : State) : Bool := phasePending s || sendMoves s s.focus.c

/-- A load of an instruction waits: a PHASE of its context is not finished (R264), a store overlapped it before, or an
irrevocable instruction depends on it (R24). -/
def loadHeld (x : Ctx) (fr : Frame) (n idx lsid : Nat) (tag : Tag) : Bool :=
  phasing x || holdEarly fr idx lsid tag || (fr.refire.contains idx && olderUnresolved x fr n tag lsid)

/-- The load at the focus waits. -/
def holdLoad (s : State) (fr : Frame) (lsid : Nat) : Bool :=
  loadHeld (ctxAt s s.focus.c) fr s.focus.frame s.focus.idx lsid s.focus.tag

/-- A lapsed READ lease is renewed by the holder's load when nothing conflicting is held or waiting (R293). -/
def renewLeases (s : State) (w : Who) (ls : List Loc) : State :=
  let p := partAt s w.die w.part
  let holder := holderOf s w
  if !p.handles.any (fun h => h.tens.any (fun t => t.holder = holder && t.kind = 1 && t.lapsed)) then s
  else
    let touched := fun (h : Handle) => ls.any (fun l => match l with
      | .pa _ va => h.lo ≤ va && va < h.hi
      | _ => false)
    let conflict := fun (h : Handle) =>
      p.handles.any (fun g => h.lo < g.hi && g.lo < h.hi
        && (g.tens.any (fun t => t.holder ≠ holder && t.kind ≠ 1)
          || p.acquires.any (fun a => a.handle = g.idx && a.kind ≠ 1)))
    (p.handles.filter (fun h => touched h && !conflict h && (tenureOf h holder).any (fun t => t.kind = 1 && t.lapsed))).foldl (fun s h =>
      let (s, o) := newLease s h.die h.slice p.lease
      modPart s w.die w.part (fun p => { p with handles := p.handles.map (fun q =>
        if q.idx = h.idx then
          { q with tens := q.tens.map (fun t => if t.holder = holder then { t with lapsed := false, leaseAt := o } else t) }
        else q) })) s

/-- An L1 copy is allocated by the cache policy (R46, R265). -/
def allocates (f : LFields) : Bool := f.cache = 0 || f.cache = 2

/-- The pointers of n successive bytes (R58). -/
def bytePtrs (p : Word) (n : Nat) : List Word := (List.range n).map (fun (k : Nat) => addrOf p k)

/-- The line of the first byte that an access meets poisoned, as the context formed its address (R194, R369). -/
def firstPoisoned (s : State) (meets : Loc → Bool) (ls : List (Loc × Word)) : Option Word :=
  if s.poison.isEmpty then none
  else (ls.find? (fun e => meets e.1)).map (fun e => withAddr e.2 (ptrAddr e.2 / 64 * 64))

/-- The same of a load; `reaches`: it reads its homes whatever its L1s hold. -/
def poisonedLine (s : State) (w : Who) (reaches : Bool) (ls : List (Loc × Word)) : Option Word :=
  firstPoisoned s (fun l => (poisonAt s w reaches [l]).isSome) ls

/-- The same of an access that is performed at its homes. -/
def poisonedHome (s : State) (ls : List (Loc × Word)) : Option Word := firstPoisoned s (fun l => (poisonHome s [l]).isSome) ls

/-! ## Loads that fired too early (R24, R263) -/

/-- A place (tag, LSID) of a block precedes a load of it. -/
def placeBefore (tag : Tag) (lsid : Nat) (r : LoadRec) : Bool :=
  match tag, r.tag with
  | .iter a, .iter b => a < b || (a = b && lsid < r.lsid)
  | .iter _, .final => true
  | .final, .final => lsid < r.lsid
  | _, _ => false

/-- Of the loads that follow a place of a block in order and fired before it, those that a test, given their frame, selects:
the first frame that holds one, and their instructions there. -/
def laterLoads (x : Ctx) (n : Nat) (tag : Tag) (lsid : Nat) (hit : Nat → LoadRec → Bool) : Option (Nat × List Nat) :=
  (List.range x.frames.length).findSome? (fun m =>
    match x.frames[m]? with
    | none => none
    | some fr =>
      let ls := if m < n then []
        else if m = n then fr.loads.filter (fun r => placeBefore tag lsid r && hit m r)
        else fr.loads.filter (hit m)
      if ls.isEmpty then none else some (m, ls.map (·.idx)))

/-- A write of the thread has resolved: loads that it overlaps and that fired too early fire again. -/
def resolveWrite (s : State) (bs : List Loc) (lsid : Nat) : State :=
  match laterLoads (ctxAt s s.focus.c) s.focus.frame s.focus.tag lsid (fun _ r => r.locs.any (fun l => bs.any (sameByte l))) with
  | none => s
  | some (n, held) => restartAt s s.focus.c n held

/-- A later load found for a byte of memory neither what an earlier load has now found for it nor what stands at its point of
coherence: its value may be older (R263). -/
def mayBeOlder (s : State) (w : Who) (ls : List (Loc × Byte)) (m : Nat) (r : LoadRec) : Bool :=
  (r.locs.zip r.bytes).any (fun q => ls.any (fun e => sameByte e.1 q.1 && e.2 != q.2)
    && (pendingByte (ctxAt s w.c) m r.tag r.lsid q.1).isNone && memByte s w true q.1 != q.2)

/-- A later load would find something else now. -/
def wouldDiffer (s : State) (w : Who) (m : Nat) (r : LoadRec) : Bool := loadBytes s w m r.tag r.lsid false r.locs != r.bytes

/-- A load has found some bytes: successive loads never find older values, so later ones that may have fire again (R263). Behind
a synchronising load, which may have observed others' writes, so do all that would find something else (R221, R393). -/
def keepOrder (s : State) (w : Who) (n : Nat) (tag : Tag) (lsid : Nat) (sync : Bool) (ls : List (Loc × Byte)) : State :=
  match laterLoads (ctxAt s w.c) n tag lsid (fun m r => if sync then wouldDiffer s w m r else mayBeOlder s w ls m r) with
  | none => s
  | some (m, _) => restartAt s w.c m []

/-- A load that reads the point of coherence leaves no older clean copy behind in the thread's L1s (R263). -/
def dropOlder (s : State) (w : Who) (ls : List Loc) : State :=
  ls.foldl (fun s l => match l with
    | .pa a _ => dropOwnClean s w.c a
    | .host va => dropOwnClean s w.c (hostBase + va)
    | _ => s) s

/-- What an ordinary load leaves of the lines that it read in its L1s and their slices (R46, R140, R259, R263, R265). -/
def leaveLines (f : LFields) (s : State) (w : Who) (ls : List Loc) : State :=
  if f.cache = 3 then dropOlder s w ls
  else
    let s := dropMissed s w ls
    let s := if allocates f then fillLines s w ls else s
    if f.cache = 2 then (genLines ls).foldl (retain 3) s else s

/-- A load reads the point of coherence of some byte: its policy is `.byp`, on a path that caches (R46, R265). -/
def bypasses (f : LFields) (ls : List Loc) : Bool := f.cache = 3 && ls.any (fun l => (keyOf l).isSome)

/-- The load of some bytes, each with its pointer, as an ordinary access: recorded for the test against later stores
(R24). -/
def loadDone (i : Instr) (f : LFields) (s : State) (at_ : List (Loc × Word)) (tok : List Byte → Token) : State :=
  let w := whoAt s
  let ls := at_.map (·.1)
  match poisonedLine s w (f.cache = 3) at_ with
  | some line => faulted clsTokenParity 0x04 line 0 s
  | none =>
    let bytes := loadBytes s w s.focus.frame s.focus.tag f.lsid.toNat (f.cache = 3) ls
    let s := leaveLines f (cacheHosts s ls) w ls
    let s := modFrame (renewLeases s w ls) s.focus.c s.focus.frame (fun fr =>
      { fr with loads := fr.loads ++ [⟨s.focus.idx, f.lsid.toNat, s.focus.tag, ls, bytes⟩] })
    let n := s.focus.frame
    let tag := s.focus.tag
    keepOrder (fired i { r0 := some (tok bytes) } s) w n tag f.lsid.toNat (bypasses f ls) (ls.zip bytes)

/-- Loads of DEV and FAB are performed in order with the context's other accesses there, and with its synchronising operations
(R163, R264, R267): PHASEs, what waits behind them, messages and posted FAB accesses come first, and lower LSIDs that may still
turn out to be such loads. -/
def farHeld (s : State) (fr : Frame) (i : Instr) : Bool :=
  syncPending s || (coreAt s s.focus.c.core).journal.any (fun j => j.ctx = s.focus.c.ctx && j.state = 1 && ptrPath j.ptr = pathFAB)
    || (lsidOf i).any (fun k => loadsBelow (fun q => match q with
        | .ld _ => true
        | _ => false) fr k s.focus.idx s.focus.tag)

/-- A load that is irrevocable because of its path (R163, R387). Bytes that the thread itself has stored are as it stored
them (R23, R267): those of lower LSIDs of the own block too, which reach the target at the commit, after the load
(log entry 56). -/
def loadFar (i : Instr) (f : LFields) (s : State) (p : Word) (ls : List Loc) : State :=
  match frameAt s s.focus.c s.focus.frame with
  | none => s
  | some fr =>
    if !irrevocableMay fr s.focus.frame s.focus.idx i s.focus.tag || farHeld s fr i then s
    else
      let w := whoAt s
      let win := windowOf s w.c (ptrAddr p / 2 ^ 48)
      let vas := (List.range ls.length).map (fun k => fabVa win (ptrAddr p % 2 ^ 48 + k))
      match (if ptrPath p = pathFAB then fabRefusal s win.1 false vas else none) with
      | some cause => faulted clsRemoteRefused cause p 0 s
      | none =>
        let bytes := loadBytes s w s.focus.frame s.focus.tag f.lsid.toNat true ls
        let s := if ptrPath p = pathDEV then { s with freeCounter := s.freeCounter + 1 } else s
        answered i (some (loadToken f.ty bytes).value) 0 s

/-- LD at an address (R164). -/
def loadAt (i : Instr) (f : LFields) (s : State) (p : Word) : State :=
  match frameAt s s.focus.c s.focus.frame with
  | none => s
  | some fr =>
    match checkAccess f.ty servesAll .read (accessSize f.ty) s p with
    | .error e => faultAcc e s
    | .ok ls =>
      if ptrPath p = pathDEV || ptrPath p = pathFAB then loadFar i f s p ls
      else if holdLoad s fr f.lsid.toNat || (bypasses f ls && syncHeld s fr i) then s
      else loadDone i f s (ls.zip (bytePtrs p ls.length)) (loadToken f.ty)

/-! ## Stores -/

/-- The firing of a store with its bytes: the effect waits for the commit step. -/
def storeDone (i : Instr) (f : LFields) (s : State) (bs : List (Loc × Byte)) (p : Word) (kind : Nat) : State :=
  let s := fired i { effs := [.store bs p kind f.cache.toNat] } (cacheHosts s (bs.map (·.1)))
  resolveWrite s (bs.map (·.1)) f.lsid.toNat

/-! ## Lanes (R167, R168) -/

/-- Checks of the lanes in ascending order: every lane's locations, or the fault of the lowest faulting lane, which the
record names in ARG (R167). DEDUCED (log entry 60): the place of the lane in the record. -/
def checkLanes (ty : ElemType) (serves : Nat → Option Nat) (want : Want) (s : State) :
    List (Nat × Word) → Except AccFault (List (Nat × List Loc))
  | [] => .ok []
  | (k, p) :: t =>
    match checkAccess ty serves want (accessSize ty) s p with
    | .error e => .error { e with arg := BitVec.ofNat 64 k }
    | .ok ls =>
      match checkLanes ty serves want s t with
      | .error e => .error e
      | .ok r => .ok ((k, ls) :: r)

/-- The active lanes of an index token with their addresses (R167). -/
def indexedLanes (f : LFields) (a b : Wide) : List (Nat × Word) :=
  let w := f.ty.width
  (List.range (laneCount w)).filterMap (fun k =>
    let x := toSigned w (laneN w b k)
    if x = -(2 ^ (w - 1) : Nat) then none else some (k, addrOf (word a 0) (offsetOf f + x * (w / 8 : Nat))))

/-- The lanes a mask selects with their addresses (R168). -/
def maskedLanes (f : LFields) (a c : Wide) : List (Nat × Word) :=
  let w := f.ty.width
  (List.range (laneCount w)).filterMap (fun k =>
    if laneN w c k % 2 = 1 then some (k, addrOf (word a 0) (offsetOf f + (k * (w / 8) : Nat))) else none)

/-- A store of lanes of a data token. -/
def storeLanes (i : Instr) (f : LFields) (s : State) (lanes : List (Nat × Word)) (data : Wide) : State :=
  match checkLanes f.ty servesScatter .write s lanes with
  | .error e => faultAcc e s
  | .ok r =>
    let bs := r.flatMap (fun e => e.2.zip (toBytes (accessSize f.ty) (laneN f.ty.width data e.1)))
    storeDone i f s bs ((lanes.head?.map (·.2)).getD 0) 1

/-! ## Counted lines (R165, R166, R271 to R275) -/

/-- The counted region that holds a location. -/
def regionAt (p : Part) (l : Loc) : Option Region :=
  p.regions.find? (fun r =>
    match l with
    | .pa _ va => r.spad.isNone && r.lo ≤ va && va < r.lo + r.len
    | .spad c o => r.spad = some c && r.lo ≤ o && o < r.lo + r.len
    | _ => false)

/-- Why a line is not counted: outside every region, or in an Ending one (R278). -/
def notCounted (p : Part) (l : Loc) (ptr : Word) : Option AccFault :=
  match regionAt p l with
  | none => some ⟨clsNotCounted, 0x01, ptr, 0⟩
  | some r => if r.ending then some ⟨clsNotCounted, 0x02, ptr, BitVec.ofNat 64 r.num⟩ else none

/-- The location where a list of bytes begins. -/
def firstLoc (ls : List Loc) : Loc := ls.headD (.dev 0)

/-- Two locations lie in one line. -/
def sameLine (x y : Loc) : Bool :=
  match x, y with
  | .pa a _, .pa b _ => a / 64 == b / 64
  | .spad c o, .spad d q => c == d && o / 64 == q / 64
  | x, y => x == y

/-- Consuming loads that arrived at a line before the one at the focus and still wait there (R274). -/
def aheadAt (s : State) (fr : Frame) (line : Loc) : Nat :=
  ((s.rcQueue.takeWhile (fun q => !(q.c == s.focus.c && q.pos = fr.pos && q.idx = s.focus.idx && q.tag == s.focus.tag))).filter
    (fun q => sameLine q.line line)).length

/-- A count fill of a line has been reserved and waits behind a PHASE of its block: a consuming load that arrives now comes after
it (R264, R273). -/
def fillDue (s : State) (line : Loc) : Bool :=
  (lateEffects s).any (fun e => match e.2 with
    | .countFill l _ _ _ => sameLine l line
    | _ => false)

/-- The load at the focus waits at the home of its line, in order of arrival (R165, R274). -/
def rcWait (s : State) (fr : Frame) (line : Loc) : State :=
  let q : RcWait := ⟨line, s.focus.c, fr.pos, s.focus.idx, s.focus.tag⟩
  if s.rcQueue.contains q then s else { s with rcQueue := s.rcQueue ++ [q] }

/-- The load at the focus no longer waits. -/
def rcServed (s : State) (fr : Frame) : State :=
  if s.rcQueue.isEmpty then s
  else { s with rcQueue := s.rcQueue.filter (fun q =>
    !(q.c == s.focus.c && q.pos = fr.pos && q.idx = s.focus.idx && q.tag == s.focus.tag)) }

/-- LD.rc with its bytes located (R165, R274): reservations are served in order of arrival. -/
def consumeAt (i : Instr) (f : LFields) (s : State) (p : Word) (ls : List Loc) : State :=
  match frameAt s s.focus.c s.focus.frame with
  | none => s
  | some fr =>
    let w := whoAt s
    let part := partAt s w.die w.part
    let line := firstLoc ls
    let oldest := isOldest fr s.focus.frame s.focus.tag
    match notCounted part line p with
    | some e => if oldest then faultAcc e (rcServed s fr) else s
    | none =>
      let (n, v) := countAt s line
      if fillDue s line then rcWait s fr line
      else if n ≤ v then
        if oldest then
          faulted clsOverRead 0x01 p (BitVec.ofNat 64 (((regionAt part line).map (·.num)).getD 0 * 256 + n)) (rcServed s fr)
        else rcWait s fr line
      else if n - v ≤ aheadAt s fr line then rcWait s fr line
      else
        match poisonedLine s w true (ls.zip (bytePtrs p ls.length)) with
        | some at_ => faulted clsTokenParity 0x04 at_ 0 (rcServed s fr)
        | none =>
          let bytes := loadBytes s w s.focus.frame s.focus.tag f.lsid.toNat true ls
          let s := renewLeases (setReserved (rcServed s fr) line (· + 1)) w ls
          let s := modFrame s s.focus.c s.focus.frame (fun fr =>
            { fr with reserved := fr.reserved ++ [(s.focus.tag, line)]
                      loads := fr.loads ++ [⟨s.focus.idx, f.lsid.toNat, s.focus.tag, ls, bytes⟩] })
          let n := s.focus.frame
          let tag := s.focus.tag
          keepOrder (fired i { r0 := some (loadToken f.ty bytes), effs := [.consume line p] } s) w n tag f.lsid.toNat true (ls.zip bytes)

/-! ## Streams (R170, R171) -/

/-- A stream descriptor is in error (R170). -/
def streamBad (d : Wide) : Bool :=
  let w3 := (word d 3).toNat
  let w4 := (word d 4).toNat
  w3 % 2 ^ 32 = 0 || w3 / 2 ^ 32 = 0 || w4 % 2 ^ 32 = 0 || w4 / 2 ^ 32 ≠ 0 || word d 5 ≠ 0 || word d 6 ≠ 0 || word d 7 ≠ 0

/-! ## Block images (R128, R132) -/

/-- The address of a block or line with the bits that fetch ignores cleared (R160). -/
def fetchKey (p : Word) : Word := BitVec.ofNat 64 (ptrPath p * 2 ^ 61 + ptrAddr p)

/-- Where a 128-byte line of an image is fetched from: its physical address, or a host address above every physical one;
or the demand-fetch fault (R128, R132). A misaligned address is reported (0x0C) before a path that holds no code (0x04):
DESIGN CHOICE, log entry 88. -/
def fetchPlace (s : State) (w : Who) (p : Word) : Except AccFault Nat :=
  if ptrAddr p % 128 ≠ 0 then .error ⟨clsPathReserved, 0x0C, p, 0⟩
  else
    match ptrPath p with
    | 0 | 2 =>
      match translate s w.die w.part (ptrAddr p) w.priv .fetch (ptrPath p = pathCONST) with
      | .error cause => .error ⟨clsPageFault, cause, p, 0⟩
      | .ok pa => .ok pa
    | 3 =>
      match hostCheck s (ptrAddr p) .fetch with
      | some cause => .error ⟨clsPageFault, cause, p, 0⟩
      | none => .ok (hostBase + ptrAddr p)
    | _ => .error ⟨clsPathReserved, 0x04, p, 0⟩

/-- The words of a line at its point of coherence. -/
def placeWords (s : State) (key : Nat) : List Word :=
  let read := fun (k : Nat) => if hostBase ≤ key then tabGet 0 s.hostMem (key - hostBase + k) else homeByte s (key + k)
  (List.range 16).map (fun k => BitVec.ofNat 64 (ofBytes ((List.range 8).map (fun b => read (8 * k + b)))))

/-- The first 64-byte line of an image line that is poisoned, as its offset (R369). -/
def poisonedHalf (s : State) (key : Nat) : Option Nat :=
  if hostBase ≤ key then none else [0, 1].find? (fun k => s.poison.contains (key / 64 + k))

/-- A line of an image read at its point of coherence, or the demand-fetch fault (R132, R369). -/
def fetchLine (s : State) (w : Who) (p : Word) : Except AccFault (List Word) :=
  match fetchPlace s w p with
  | .error e => .error e
  | .ok key =>
    match poisonedHalf s key with
    | some k => .error ⟨clsTokenParity, 0x04, addrOf p (64 * k : Nat), 0⟩
    | none => .ok (placeWords s key)

/-- A line in the block cache of a party's core, found by where it is fetched from. -/
def cachedLine (s : State) (w : Who) (p : Word) : Option (List Word) :=
  match fetchPlace s w p with
  | .error _ => none
  | .ok key => ((coreAt s w.core).bcache.find? (fun e => e.1 = key)).map (·.2)

/-- The lines of a block cache: 32 KiB of 128 bytes (R121). -/
def bcacheLines : Nat := 256

/-- A line enters a block cache; a full one replaces its oldest line. DESIGN CHOICE (log entry 58): the victim. -/
def cacheLine (s : State) (w : Who) (p : Word) (ws : List Word) : State :=
  match fetchPlace s w p with
  | .error _ => s
  | .ok key => modCore s w.core (fun k =>
      let others := k.bcache.filter (fun e => e.1 ≠ key)
      { k with bcache := others.drop (others.length + 1 - bcacheLines) ++ [(key, ws)] })

/-- A translation stands in a TLB (R132). DESIGN CHOICE (log entry 105): the cached translations of a partition are one set. -/
def tlbHit (s : State) (w : Who) (p : Word) : Bool :=
  if ptrPath p = pathHOST then s.ats.any (fun e => e.va ≤ ptrAddr p && ptrAddr p < e.va + e.size)
  else (partAt s w.die w.part).tlb.any (fun e => e.va ≤ ptrAddr p && ptrAddr p < e.va + e.size)

/-- Fills one line of an image where it can be fetched by a cached translation and is not cached (R132). -/
def fillImageLine (s : State) (w : Who) (q : Word) : State :=
  match cachedLine s w q, fetchLine s w q with
  | none, .ok ws => if tlbHit s w q then cacheLine s w q ws else s
  | _, _ => s

/-- Fills successive lines of an image while they can be fetched. -/
def fillImage (s : State) (w : Who) (p : Word) (n : Nat) : State :=
  (List.range n).foldl (fun s k => fillImageLine s w (addrOf p (128 * k : Nat))) s

/-- The code form of PREF (R132): the lines of the image at an address enter the block cache, or the hint is dropped. -/
def prefetchCode (s : State) (w : Who) (p : Word) : State :=
  let x := ctxAt s w.c
  if (basicCheck p).isSome || x.feCtl.getLsbD 1 || !tlbHit s w p then s
  else
    match fetchLine s w p with
    | .error _ => s
    | .ok ws => fillImage s w p (1 + min 8 (field (ws.getD 0 0).toNat 52 4))

/-! ## Meanings -/

/-- LD (R164). -/
def execLd (f : LFields) (s : State) : Result :=
  fire (.ld f) s (fun a _ _ s => loadAt (.ld f) f s (addrOf (word a.value 0) (offsetOf f)))

/-- LD.rc (R165). -/
def execLdRc (f : LFields) (s : State) : Result :=
  fire (.ldRc f) s (fun a _ _ s =>
    let p := addrOf (word a.value 0) (offsetOf f)
    match basicCheck p with
    | some e => faultAcc e s
    | none =>
      match formatCheck f.ty p with
      | some e => faultAcc e s
      | none =>
        if ptrPath p ≠ pathGEN && ptrPath p ≠ pathSPAD then faulted clsNotCounted 0x01 p 0 s
        else
          match locate s (whoAt s) .write p (accessSize f.ty) with
          | .error e => faultAcc e s
          | .ok ls =>
            if 64 < ptrAddr p % 64 + accessSize f.ty then faulted clsPathReserved 0x08 p 0 s
            else if (frameAt s s.focus.c s.focus.frame).any (fun fr => holdLoad s fr f.lsid.toNat || syncHeld s fr (.ldRc f)) then s
            else consumeAt (.ldRc f) f s p ls)

/-- ST (R166). -/
def execSt (f : LFields) (s : State) : Result :=
  fire (.st f) s (fun a b _ s =>
    let p := addrOf (word a.value 0) (offsetOf f)
    match checkAccess f.ty servesStore .write (accessSize f.ty) s p with
    | .error e => faultAcc e s
    | .ok ls => storeDone (.st f) f s (ls.zip (storeBytes f.ty b.value)) p 0)

/-- ST.cnt (R166, R273). -/
def execStCnt (f : LFields) (s : State) : Result :=
  fire (.stCnt f) s (fun a b c s =>
    let p := addrOf (word a.value 0) (offsetOf f)
    match checkAccess f.ty servesFill .write 64 s p with
    | .error e => faultAcc e s
    | .ok ls =>
      let n := (word c.value 0).toNat
      let w := whoAt s
      let oldest := (frameAt s s.focus.c s.focus.frame).any (fun fr => isOldest fr s.focus.frame s.focus.tag)
      if ptrAddr p % 64 ≠ 0 || n = 0 || 255 ≤ n then faulted clsPathReserved 0x08 p 0 s
      else
        match notCounted (partAt s w.die w.part) (firstLoc ls) p with
        | some e => if oldest then faultAcc e s else s
        | none =>
          resolveWrite (fired (.stCnt f) { effs := [.countFill (firstLoc ls) p b.value n] } s) ls f.lsid.toNat)

/-- GATH (R167): 0 in an inactive lane. -/
def execGath (f : LFields) (s : State) : Result :=
  fire (.gath f) s (fun a b _ s =>
    match frameAt s s.focus.c s.focus.frame with
    | none => s
    | some fr =>
      match checkLanes f.ty servesLanes .read s (indexedLanes f a.value b.value) with
      | .error e => faultAcc e s
      | .ok r =>
        if holdLoad s fr f.lsid.toNat || (bypasses f (r.flatMap (·.2)) && syncHeld s fr (.gath f)) then s
        else
          let sz := accessSize f.ty
          let lanes := indexedLanes f a.value b.value
          let at_ := r.flatMap (fun e => e.2.zip (bytePtrs (((lanes.find? (·.1 = e.1)).map (·.2)).getD 0) sz))
          loadDone (.gath f) f s at_ (fun bytes =>
            wideTok (fromLanes f.ty.width (laneCount f.ty.width) (fun k =>
              match r.findIdx? (·.1 == k) with
              | some m => ofBytes ((bytes.drop (sz * m)).take sz)
              | none => 0))))

/-- SCAT (R167): a higher lane wins where lanes overlap. -/
def execScat (f : LFields) (s : State) : Result :=
  fire (.scat f) s (fun a b c s => storeLanes (.scat f) f s (indexedLanes f a.value b.value) c.value)

/-- STM (R168). -/
def execStm (f : LFields) (s : State) : Result :=
  fire (.stm f) s (fun a b c s => storeLanes (.stm f) f s (maskedLanes f a.value c.value) b.value)

/-- The lines that a data prefetch fills, by its policy field (R169): of the L1, or of their slices alone, with normal or with
raised retention. HOST lines stand in no slice (R257). -/
def prefetchLines (f : LFields) (s : State) (w : Who) (ls : List Loc) : State :=
  if f.cache = 0 then fillLines (dropMissed s w ls) w ls
  else (genLines ls).foldl (retain (if f.cache = 2 then 3 else 2)) s

/-- PREF in its data forms (R169): a hint that never faults. -/
def execPref (f : LFields) (s : State) : Result :=
  fire (.pref f) s (fun a _ _ s =>
    let p := addrOf (word a.value 0) (offsetOf f)
    let w := whoAt s
    let s' := fired (.pref f) {} s
    if ptrPath p = pathDEV || ptrPath p = pathFAB then s'
    else
      match checkAccess f.ty servesAll .read (accessSize f.ty) s p with
      | .error _ => s'
      | .ok ls => if (poisonAt s w false ls).isNone then prefetchLines f s' w ls else s')

/-- PREF.code (R132, R169). -/
def execPrefCode (f : LFields) (s : State) : Result :=
  fire (.prefCode f) s (fun a _ _ s =>
    prefetchCode (fired (.prefCode f) {} s) (whoAt s) (addrOf (word a.value 0) (offsetOf f)))

/-- LDS (R170, R171): fires once per pinning; its emissions follow one by one. -/
def execLds (f : LFields) (s : State) : Result :=
  fire (.lds f) s (fun a b _ s =>
    match frameAt s s.focus.c s.focus.frame with
    | none => s
    | some fr =>
      if fr.streams.any (·.idx == s.focus.idx) || fr.faults.any (·.idx == s.focus.idx) then s
      else if streamBad b.value then faulted clsPathReserved 0x0A 0 0 s
      else
        modFrame (fired (.lds f) {} s) s.focus.c s.focus.frame (fun fr =>
          { fr with streams := fr.streams ++
              [⟨s.focus.idx, addrOf (word a.value 0) (offsetOf f), b.value, 0, 0, 0, 0, false⟩] }))

/-- STQ (R172): posted at the commit, performed at its target. -/
def execStq (f : LFields) (s : State) : Result :=
  fire (.stq f) s (fun a b _ s =>
    let p := addrOf (word a.value 0) (offsetOf f)
    match checkAccess f.ty servesStq .write 32 s p with
    | .error e => faultAcc e s
    | .ok _ => fired (.stq f) { effs := [.stq p b.value (ctxAt s s.focus.c).windows] } s)

end Sys2Proof.Machine
end

