-- ==== Sys2Proof/Machine/CtrlRegs.lean ====
section
/-! DEFINITION. The control registers (R73, R126, R127, R137, R184, R212, R213, R230, R260, R285, R311, R364, R365, R381,
R382, R401): who may read and write each, its value, and what a committed write does. -/

namespace Sys2Proof.Machine

open Sys2Proof

/-- Least rank that may read and that may write a register (none: no write); none for a reserved number. -/
def regRule (n : Nat) : Option (Nat × Option Nat) :=
  if n ≤ 0x003 || n = 0x007 || n = 0x00B then some (0, none)
  else if n = 0x004 || (0x008 ≤ n && n ≤ 0x00A) then some (0, some 0)
  else if n = 0x005 || n = 0x006 || n = 0x012 || n = 0x013 || n = 0x091 || (0x021 ≤ n && n ≤ 0x024) then some (0, some 1)
  else if n = 0x010 || n = 0x014 || n = 0x015 || n = 0x018 || n = 0x019 || n = 0x020 || n = 0x090 then some (0, none)
  else if (0x028 ≤ n && n ≤ 0x02A) || (0x032 ≤ n && n ≤ 0x034) || (0x080 ≤ n && n ≤ 0x086) then some (0, none)
  else if n = 0x011 || (0x040 ≤ n && n ≤ 0x07F) then some (1, none)
  else if n = 0x025 then some (1, some 6)
  else if n = 0x030 then some (0, some 6)
  else if n = 0x031 || n = 0x035 || (0x038 ≤ n && n ≤ 0x03F) || n = 0x087 then some (0, some 7)
  else none

/-- CTX.STATE (R127): frames held count the reading block's core only. -/
def ctxState (s : State) (c : CtxId) (fr : Frame) : Nat :=
  let x := ctxAt s c
  quotaOf (coreAt s c.core).contexts * 2 ^ 12 + (x.frames.filter (·.member == fr.member)).length % 16 * 2 ^ 8
    + bit x.ready 7 + 1 * 2 ^ 4 + bit (1 ≤ x.rank) 3 + x.rank

/-- CORE.ID of a core for a context (R127). -/
def coreId (s : State) (c : CtxId) (core : Nat) : Nat :=
  let (cl, co) := relName s (dieOf core) (ctxAt s c).part core
  dieOf core * 2 ^ 13 + (if isMgmt core then 0 else pclusterOf core) * 2 ^ 8 + cl * 2 ^ 3 + co

/-- CORE.LAYOUT (R127). -/
def coreLayout (k : Core) : Nat :=
  bit k.pend 21 + bit k.refused 20 + quotaOf k.contexts * 2 ^ 16 + regsPerCtx k.contexts * 2 ^ 8 + k.contexts

/-- A course member that is in a course (R149). -/
def inCourse (x : Ctx) : Bool := x.course == .leader || x.course == .follower

/-- The core of the leader of a member's course (R137). -/
def courseLead (x : Ctx) (core : Nat) : Nat := if x.course == .leader then core else x.lead

/-- CORE.COMPOSE (R137). -/
def coreCompose (s : State) (core : Nat) : Nat :=
  let k := coreAt s core
  let base := 8 * (core / 8)
  if k.kind = 0 then 0
  else if k.kind = 1 then
    ((maskCores k.set).headD 0) * 2 ^ 24 + k.set.toNat * 2 ^ 16 + k.set.toNat * 2 ^ 8 + 1
  else
    let x := ctxAt s ⟨core, 0⟩
    let with_ := fun (m : Nat) =>
      let y := ctxAt s ⟨base + m, 0⟩
      inCourse y && courseLead y (base + m) = courseLead x core
    let ms := if inCourse x then (maskCores k.set).filter with_ else []
    (if inCourse x then courseLead x core % 8 else 0) * 2 ^ 24 + (ms.map (fun m => 2 ^ m)).sum * 2 ^ 16 + k.set.toNat * 2 ^ 8 + 2

/-- MSG.STAT (R184). -/
def msgStat (s : State) (c : CtxId) : Nat :=
  (ctxAt s c).sendq.length % 16 * 2 ^ 32
    + (((coreAt s c.core).bound.filter (fun e => e.2 = c.ctx)).map (fun e => 2 ^ e.1)).sum

/-- The quantum in force in units of 1,024 cycles (R208). -/
def quantumInForce (p : Part) : Nat := max p.quantum ((p.pmax + 1023) / 1024)

/-- JRNL.n (R213). -/
def jrnlWord (k : Core) (n : Nat) : Nat :=
  match k.journal.find? (·.slot = n) with
  | none => 0
  | some j => j.cause * 2 ^ 56 + j.ctx * 2 ^ 52 + j.state * 2 ^ 50 + j.kind * 2 ^ 48 + j.ptr.toNat % 2 ^ 48

/-- Cores enabled in a cluster, as a mask (R230, R382). -/
def clusterMask (s : State) (die cl : Nat) : Nat := field (dieAt s die).coreMask.toNat (8 * cl) 8

/-- CL.QSTAT (R230). -/
def clQstat (s : State) (core : Nat) : Nat :=
  let cores := (List.range 8).map (fun k => coreAt s (8 * (core / 8) + k))
  activeJobs s core * 2 ^ 40
    + (clusterAt s (clusterOf core)).cards.length * 2 ^ 32
    + (((List.range 8).zip cores).map (fun e => min 15 e.2.jobs.length * 2 ^ (4 * e.1))).sum

/-- DIST.STAT (R365). -/
def distStat (d : Die) (p : Part) : Nat :=
  min 65535 d.refused * 2 ^ 32 + (p.launches.filter (·.st = 0)).length % 256 * 2 ^ 24
    + (p.launches.filter (fun l => !l.gangs.isEmpty)).length % 256 * 2 ^ 16

/-- CAP.PKG (R382). -/
def capPkg (k : Package) : Nat := k.mod * 2 ^ 20 + k.dies.toNat * 2 ^ 16 + k.p1w * 2 ^ 12 + k.p0w * 2 ^ 8 + 8

/-- PKG.PWR (R382). -/
def pkgPwr (k : Package) : Nat := k.limit * 2 ^ 32 + k.clock / 2 * 2 ^ 16 + bit k.throt 0

/-- DIE.ERR (R382). -/
def dieErr (d : Die) : Nat :=
  min (2 ^ 32 - 1) d.hbmUe * 2 ^ 32 + min (2 ^ 22 - 1) d.hbmCe * 2 ^ 10 + bit d.linkErr 9 + bit d.mgmtErr 8 + d.mclass % 256

/-- Tenures a holder holds in its partition (R290, R311). -/
def tenuresHeld (p : Part) (holder : Nat) : Nat := (p.handles.map (fun h => (h.tens.filter (·.holder = holder)).length)).sum

/-- The value of a register in the cycle of the read (R186), whoever reads it; 0 for a reserved number. -/
def regValue (s : State) (c : CtxId) (fr : Frame) (core n : Nat) : Nat :=
  let x := ctxAt s c
  let k := coreAt s core
  let d := dieAt s (dieOf core)
  let p := partOf s c
  match n with
  | 0x000 => c.ctx
  | 0x001 => ctxState s c fr
  | 0x002 => coreId s c core
  | 0x003 => coreLayout k
  | 0x004 => x.feCtl.toNat
  | 0x005 => bit k.noGate 16 + k.gated.toNat
  | 0x006 => min (2 ^ 32 - 1) k.secded * 2 ^ 32 + min (2 ^ 32 - 1) k.refusals
  | 0x007 => coreCompose s core
  | 0x008 => fr.before.1.toNat
  | 0x009 => fr.before.2.1.toNat
  | 0x00A => fr.before.2.2.toNat
  | 0x00B => msgStat s c
  | 0x010 => p.trapImg.toNat
  | 0x011 => k.saveBase.toNat
  | 0x012 => x.spillBase.toNat
  | 0x013 => x.spillCap * 2 ^ 32 + x.spillAt.length % 2 ^ 32
  | 0x014 => quantumInForce p * 2 ^ 32 + min (2 ^ 32 - 1) k.srcost
  | 0x015 => min (2 ^ 32 - 1) p.pmax
  | 0x018 => bit (clusterAt s (clusterOf core)).fused 8 + clusterMask s (dieOf core) (pclusterOf core)
  | 0x019 => clQstat s core
  | 0x020 => 0x333356
  | 0x021 => p.lease
  | 0x022 => x.rcLog.toNat
  | 0x023 => x.rcLogctl.toNat
  | 0x025 => p.ptRoot.toNat
  | 0x028 => p.thBase.toNat
  | 0x029 => p.thCap
  | 0x02A => tenuresHeld p (holderOf s (whoOf s c))
  | 0x030 => p.quantum
  | 0x031 => d.age
  | 0x032 => distStat d p
  | 0x033 => ((x.launch.map (·.2)).getD 0) % 2 ^ 16 * 2 ^ 48 + x.gang % 2 ^ 48
  | 0x034 => bit (d.wake.getLsbD x.part) 1 + bit p.quiet 0
  | 0x084 => capPkg s.pkg
  | 0x085 => s.pkg.save
  | 0x086 => pkgPwr s.pkg
  | 0x087 => dieErr d
  | 0x090 => s.pkg.node
  | 0x091 => p.fabAccept.toNat
  | _ =>
    if 0x038 ≤ n && n ≤ 0x03F then (partAt s (dieOf core) (n - 0x038)).cfg.toNat
    else if 0x040 ≤ n && n ≤ 0x07F then jrnlWord k (n - 0x040)
    else if 0x080 ≤ n && n ≤ 0x083 then field d.coreMask.toNat (64 * (n - 0x080)) 64
    else 0

/-- What GETC delivers (R186): 0 for a reserved number or a register the reader's rank may not read. -/
def getControl (s : State) (c : CtxId) (fr : Frame) (core n : Nat) : Word :=
  match regRule n with
  | none => 0
  | some (r, _) => if (ctxAt s c).rank < r then 0 else BitVec.ofNat 64 (regValue s c fr core n)

/-! ## Writes -/

/-- Two rectangles share a cluster. -/
def cfgOverlap (x y : Word) : Bool := (cfgClusters x).any (fun k => (cfgClusters y).contains k)

/-- A partition holds a resident or queued launch. -/
def busyPart (p : Part) : Bool := !p.launches.isEmpty

/-- A write to PART.CFG.n is refused (R365): its rectangle leaves the mesh or overlaps another valid partition, or a launch is
resident or queued. The rule makes no exception for a written VALID of 0. -/
def cfgRefused (s : State) (die n : Nat) (v : Word) : Bool :=
  busyPart (partAt s die n) || 4 < cfgRow v + cfgH v || 8 < cfgCol v + cfgW v
    || (List.range 8).any (fun m => m != n && cfgOverlap (v ||| (1 <<< 15)) (partAt s die m).cfg)

/-- SETC's status (R187): the write will be made. -/
def setcAllowed (s : State) (c : CtxId) (n : Nat) (v : Word) : Bool :=
  match regRule n with
  | some (_, some r) =>
    r ≤ (ctxAt s c).rank && !(0x038 ≤ n && n ≤ 0x03F && cfgRefused s (dieOf c.core) (n - 0x038) v)
  | _ => false

/-- Bits [hi-1:lo] of a written value, the others 0 (R3). -/
def keepBits (v : Word) (lo hi : Nat) : Word := BitVec.ofNat 64 (v.toNat % 2 ^ hi / 2 ^ lo * 2 ^ lo)

/-- Removes translations (R283). -/
def invalidateTlb (v : Nat) (tlb : List TlbEntry) : List TlbEntry :=
  if v.testBit 2 then []
  else
    let va := field v 16 38 * 2 ^ 16
    tlb.filter (fun e => !(e.va ≤ va && va < e.va + e.size
      && (v % 4 = 3 || (v % 4 = 0 && e.size = 2 ^ 16) || (v % 4 = 1 && e.size = 2 ^ 21) || (v % 4 = 2 && e.size = 2 ^ 30))))

/-- A launch is to be ended by the management core (R362, R363). -/
def killLaunch (s : State) (die lid : Nat) : State :=
  (List.range 8).foldl (fun s p => modPart s die p (fun q =>
    if q.launches.any (·.lid = lid) then
      { q with launches := q.launches.map (fun l => if l.lid = lid then { l with st := 3, killed := true } else l)
               reserve := match q.reserve with
                 | some r => if r.lid = lid then none else some r
                 | none => none }
    else q)) s

/-- The committed write of a register (R187) by a block mapped on a core. Writes to ROUND, SEED, FE.CTL, TLB.INV and
PT.ROOT squash the younger blocks of the context (R73, R126, R283). -/
def writeControl (s : State) (c : CtxId) (core n : Nat) (v : Word) : State :=
  let squash := fun (s : State) => squashYounger s c
  match n with
  | 0x004 => squash (modCtx s c (fun x => { x with feCtl := keepBits v 0 2 }))
  | 0x005 => modCore s core (fun k => { k with noGate := v.getLsbD 16 })
  | 0x006 => modCore s core (fun k => { k with secded := v.toNat / 2 ^ 32, refusals := v.toNat % 2 ^ 32 })
  | 0x008 => squash (modCtx s c (fun x => { x with round := roundStored v }))
  | 0x009 => squash (modCtx s c (fun x => { x with seed := seedStored v }))
  | 0x00A => modCtx s c (fun x => { x with fpstat := fpstatStored v })
  | 0x012 => modCtx s c (fun x => { x with spillBase := keepBits v 7 64, spillStop := false })
  | 0x013 => modCtx s c (fun x => { x with spillCap := v.toNat / 2 ^ 32, spillStop := false })
  | 0x021 => modPartOf s c (fun p => { p with lease := if v.toNat % 2 ^ 16 = 0 then 1 else v.toNat % 2 ^ 16 })
  | 0x022 => modCtx s c (fun x => { x with rcLog := keepBits v 4 64 })
  | 0x023 => modCtx s c (fun x => { x with rcLogctl := keepBits v 40 64 })
  | 0x024 => squash (modPartOf s c (fun p => { p with tlb := invalidateTlb v.toNat p.tlb }))
  | 0x025 => squash (modPartOf s c (fun p => { p with ptRoot := keepBits v 18 52, tlb := [] }))
  | 0x030 => modPartOf s c (fun p => { p with quantum := if v.toNat % 2 ^ 32 = 0 then 1 else v.toNat % 2 ^ 32 })
  | 0x031 => modDie s (dieOf c.core) (fun d => { d with age := if v.toNat % 2 ^ 32 = 0 then 1 else v.toNat % 2 ^ 32 })
  | 0x035 => killLaunch s (dieOf c.core) (v.toNat % 2 ^ 16)
  | 0x087 => modDie s (dieOf c.core) (fun d =>
      { d with hbmUe := v.toNat / 2 ^ 32, hbmCe := field v.toNat 10 22, linkErr := v.getLsbD 9, mgmtErr := v.getLsbD 8,
               mclass := v.toNat % 256 })
  | 0x091 => modPartOf s c (fun p => { p with fabAccept := keepBits v 0 3 })
  | _ =>
    if 0x038 ≤ n && n ≤ 0x03F then modPart s (dieOf c.core) (n - 0x038) (fun p => { p with cfg := keepBits v 5 16 })
    else s

/-- The eight bytes of a register's store in control space, the first at an address. -/
def controlWord (bs : List (Loc × Byte)) (a : Nat) : Option Word :=
  let es := (List.range 8).filterMap (fun k => (bs.find? (fun b => b.1 == .dev (a + k))).map (·.2))
  if es.length = 8 then some (BitVec.ofNat 64 (ofBytes es)) else none

/-- A store of the management core to a register of control space (R363): PART.CFG, DIST.AGE, DIST.KILL, and the QUANTUM of
a partition. -/
def controlStore (s : State) (c : CtxId) (part n : Nat) (v : Word) : State :=
  if n = 0x030 then
    modPart s (dieOf c.core) part (fun p => { p with quantum := if v.toNat % 2 ^ 32 = 0 then 1 else v.toNat % 2 ^ 32 })
  else if n = 0x031 || n = 0x035 || (0x038 ≤ n && n ≤ 0x03F && !cfgRefused s (dieOf c.core) (n - 0x038) v) then
    writeControl s c c.core n v
  else s

/-- The registers of control space that a committed store of the management core writes (R363). -/
def controlStores (s : State) (c : CtxId) (bs : List (Loc × Byte)) : State :=
  if !isMgmt c.core then s
  else bs.foldl (fun s b => match b.1 with
    | .dev a => match Config.controlRegister a, controlWord bs a with
        | some (p, n), some v => controlStore s c p n v
        | _, _ => s
    | _ => s) s

/-! ## Meanings -/

/-- GETC (R186). ROUND, SEED and FPSTAT are read as committed before the block, so the read waits until the block is
the oldest. -/
def execGetc (f : GFields) (s : State) : Result :=
  fire (.getc f) s (fun _ _ _ s =>
    match frameAt s s.focus.c s.focus.frame with
    | none => s
    | some fr =>
      let n := f.imm16.toNat
      if 0x008 ≤ n && n ≤ 0x00A && s.focus.frame ≠ 0 then s
      else
        let v := getControl s s.focus.c fr (execCore s.focus.c fr s) n
        fired (.getc f) { r0 := some (scalar v), r1 := some (scalar v) } s)

/-- The write of a control register at the commit, with its status at firing (R187). -/
def setControl (i : Instr) (f : GFields) (s : State) : Result :=
  fire i s (fun a _ _ s =>
    let v := word a.value 0
    if setcAllowed s s.focus.c f.imm16.toNat v then
      fired i { r0 := some (scalar 0), r1 := some (scalar 0), effs := [.setc f.imm16.toNat v] } s
    else fired i { r0 := some (scalar 1), r1 := some (scalar 1) } s)

/-- SETC of a register without a row of its own (R187). -/
def execSetc (f : GFields) (s : State) : Result := setControl (.setc f) f s
/-- SETC of ROUND (R73). -/
def execRound (f : GFields) (s : State) : Result := setControl (.round f) f s
/-- SETC of SEED (R73). -/
def execSeed (f : GFields) (s : State) : Result := setControl (.seed f) f s
/-- SETC of FE.CTL (R126). -/
def execFeCtl (f : GFields) (s : State) : Result := setControl (.feCtl f) f s
/-- SETC of CORE.ERR (R127). -/
def execCoreErr (f : GFields) (s : State) : Result := setControl (.coreErr f) f s
/-- SETC of TLB.INV (R283). -/
def execTlbInv (f : GFields) (s : State) : Result := setControl (.tlbInv f) f s
/-- SETC of PT.ROOT (R285). -/
def execPtRoot (f : GFields) (s : State) : Result := setControl (.ptRoot f) f s
/-- SETC of RC.LOGCTL (R285). -/
def execRcLogctl (f : GFields) (s : State) : Result := setControl (.rcLogctl f) f s
/-- SETC of SPILL.CTL (R207). -/
def execSpillCtl (f : GFields) (s : State) : Result := setControl (.spillCtl f) f s
/-- SETC of PART.CFG.n (R365). -/
def execPartCfg (f : GFields) (s : State) : Result := setControl (.partCfg f) f s
/-- SETC of DIST.KILL (R363). -/
def execDistKill (f : GFields) (s : State) : Result := setControl (.distKill f) f s

end Sys2Proof.Machine
end

