-- ==== Sys2Proof/Machine/Context.lean ====
section
/-! DEFINITION. Class 0xA: contexts, messages, the wait on an address, traps and their return, SYNCB and LAUNCH (R174 to
R191). -/

namespace Sys2Proof.Machine

open Sys2Proof

/-! ## Naming contexts and cores -/

/-- A relative cluster lies in the partition of a context (R357). -/
def clusterIn (s : State) (c : CtxId) (cl : Nat) : Bool := cl < cfgSize (partOf s c).cfg

/-- The core a SEND descriptor names (R181); none outside the partition. -/
def sendCore (s : State) (c : CtxId) (self : Nat) (d : Nat) : Option Nat :=
  if d.testBit 13 then some self
  else if clusterIn s c (field d 8 5) then some (coreNamed s c (field d 8 5) (field d 5 3)) else none

/-- The core a SPAWN descriptor names (R175); none outside the partition. -/
def spawnCore (s : State) (c : CtxId) (self : Nat) (d : Nat) : Option Nat :=
  if d.testBit 8 then some self
  else if clusterIn s c (field d 3 5) then some (coreNamed s c (field d 3 5) (field d 0 3)) else none

/-- A core is enabled (R382). -/
def coreEnabled (s : State) (core : Nat) : Bool := isMgmt core || (dieAt s (dieOf core)).coreMask.getLsbD (core % 256)

/-- A context that a thread may be started in (R175), on a core that is enabled (R382), not being pre-empted (R203) and not
reserved for a gang (R352): DESIGN CHOICE, log entry 109. -/
def freeContext (s : State) (core n : Nat) : Bool :=
  let k := coreAt s core
  !coreReserved s core && n < k.contexts && k.kind = 0 && !k.pend && !k.saving && coreEnabled s core
    && (ctxIn k n).st == .free && !(ctxIn k n).reserved

/-- The context a SPAWN reserves (R175). -/
def spawnTarget (s : State) (c : CtxId) (core d : Nat) : Option CtxId :=
  let rankOk := field d 14 3 ≤ (ctxAt s c).rank
  let n := if d.testBit 13 then (List.range 16).find? (freeContext s core) else some (field d 9 4)
  match n with
  | none => none
  | some n => if rankOk && freeContext s core n then some ⟨core, n⟩ else none

/-- The member core on which the block at the site is mapped. -/
def siteCore (s : State) : Nat := (whoAt s).core

/-- PARTITION-BORDER (R357): ARG holds the descriptor presented. -/
def borderFault (d : Word) (s : State) : State := faulted clsPartitionBorder 0x01 0 d s

/-! ## Messages -/

/-- The members of a group of a context's partition (R227). -/
def groupMembers (s : State) (c : CtxId) (g : Nat) : List Nat :=
  (((partOf s c).groups.find? (·.num = g)).map (·.members)).getD []

/-- A member number {CLUSTER, CORE, CTX} as a context. -/
def memberCtx (s : State) (c : CtxId) (m : Nat) : CtxId := ⟨coreNamed s c (m / 128) (field m 4 3), m % 16⟩

/-- The cores that hold members of a group, in the order of the first member slot that names each (R181, R228). -/
def groupCores (s : State) (c : CtxId) (g : Nat) : List Nat :=
  (groupMembers s c g).foldl (fun (l : List Nat) m =>
    let k := (memberCtx s c m).core
    if l.contains k then l else l ++ [k]) []

/-- The oldest message of a class leaves its queue (R183). -/
def takeMessage (s : State) (core cls : Nat) : Option (QMsg × State) :=
  match tabGet [] (coreAt s core).queues cls with
  | [] => none
  | m :: t => some (m, modCore s core (fun k => { k with queues := tabSet [] k.queues cls t }))

/-- A context parks (R122, R130): younger blocks are squashed, and the oldest with its log kept unless it is pinned;
requests it has outstanding stay outstanding. -/
def parkContext (s : State) (c : CtxId) : State :=
  modCtx (if (ctxAt s c).frames.head?.any isPinned then squashYounger s c else squashParked s c) c
    (fun x => { x with st := .parked })

/-! ## Meanings -/

/-- SPAWN (R175): checks, a reservation at firing, the start at the commit. -/
def execSpawn (f : GFields) (s : State) : Result :=
  fire (.spawn f) s (fun a b c s =>
    let addr := word a.value 0
    let d := (word b.value 0).toNat
    match basicCheck addr with
    | some e => faultAcc e s
    | none =>
    if ptrAddr addr % 128 ≠ 0 then faulted clsPathReserved 0x0C addr 0 s
    else if ptrPath addr = 1 || 4 ≤ ptrPath addr then faulted clsPathReserved 0x04 addr 0 s
    else
      match spawnCore s s.focus.c (siteCore s) d with
      | none => borderFault (word b.value 0) s
      | some core =>
        match spawnTarget s s.focus.c core d with
        | none =>
          let r := scalar (BitVec.allOnes 64)
          fired (.spawn f) { r0 := some r, r1 := some r } s
        | some t =>
          let (cl, co) := relName s (dieOf core) (ctxAt s s.focus.c).part core
          let r := scalar (BitVec.ofNat 64 (t.ctx * 2 ^ 9 + cl * 2 ^ 3 + co))
          let s := modCtx s t (fun x => { x with reserved := true })
          fired (.spawn f) { r0 := some r, r1 := some r, effs := [.spawn t addr c.value (field d 14 3)] } s)

/-- QUIT (R176). -/
def execQuit (f : GFields) (s : State) : Result := fire (.quit f) s (fun _ _ _ s => fired (.quit f) { effs := [.quit] } s)

/-- YIELD (R177). -/
def execYield (f : GFields) (s : State) : Result :=
  fire (.yield f) s (fun _ _ _ s => fired (.yield f) { effs := [.yield_] } s)

/-- REPART (R178). -/
def execRepart (f : GFields) (s : State) : Result :=
  fire (.repart f) s (fun a _ _ s => fired (.repart f) { effs := [.repart (word a.value 0)] } s)

/-- BIND (R180). -/
def execBind (f : GFields) (s : State) : Result :=
  fire (.bind f) s (fun _ _ _ s =>
    let c := s.focus.c
    let cls := f.imm16.toNat % 32
    match (coreAt s c.core).bound.find? (·.1 = cls) with
    | some (_, n) => answered (.bind f) (some (if n = c.ctx then 0 else 1)) (if n = c.ctx then 0 else 1) s
    | none =>
      answered (.bind f) (some 0) 0
        (modCore s c.core (fun k => { k with bound := k.bound ++ [(cls, c.ctx)] })))

/-- BIND with UNBIND set (R180). -/
def execUnbind (f : GFields) (s : State) : Result :=
  fire (.unbind f) s (fun _ _ _ s =>
    let c := s.focus.c
    let cls := f.imm16.toNat % 32
    if (coreAt s c.core).bound.contains (cls, c.ctx) then
      answered (.unbind f) (some 0) 0
        (modCore s c.core (fun k => { k with bound := k.bound.filter (· != (cls, c.ctx)) }))
    else answered (.unbind f) (some 2) 2 s)

/-- SEND (R181). -/
def execSend (f : GFields) (s : State) : Result :=
  fire (.send f) s (fun a b _ s =>
    let d := (word a.value 0).toNat
    match sendCore s s.focus.c s.focus.c.core d with
    | none => borderFault (word a.value 0) s
    | some core => fired (.send f) { effs := [.send [(core, d % 32)] b.value (f.imm16.getLsbD 0)] } s)

/-- MCAST (R181). -/
def execMcast (f : GFields) (s : State) : Result :=
  fire (.mcast f) s (fun a b _ s =>
    let d := (word a.value 0).toNat
    let cores := groupCores s s.focus.c (field d 8 8)
    fired (.mcast f) { effs := [.send (cores.map (fun k => (k, d % 32))) b.value (f.imm16.getLsbD 0)] } s)

/-- RECV (R183). -/
def execRecv (f : GFields) (s : State) : Result :=
  fire (.recv f) s (fun _ _ _ s =>
    let c := s.focus.c
    let cls := f.imm16.toNat % 32
    let mine := (coreAt s c.core).bound.contains (cls, c.ctx)
    if readPending s then s
    else match (if mine then takeMessage s c.core cls else none) with
    | some (m, s') => answered (.recv f) (some m.payload) m.header s'
    | none =>
      if f.imm16.getLsbD 8 || !mine then answered (.recv f) none 0 s
      else if (ctxAt s c).ready then modCtx s c (fun x => { x with ready := false })
      else parkContext s c)

/-- A synchronising read by a party of eight bytes at their point of coherence. -/
def coherentWord (s : State) (w : Who) (ls : List Loc) : Nat := ofBytes (ls.map (coherentByte s w))

/-- WAITA (R185). -/
def execWaita (f : GFields) (s : State) : Result :=
  fire (.waita f) s (fun a b _ s =>
    let p := word a.value 0
    match basicCheck p with
    | some e => faultAcc e s
    | none =>
      if 1 < ptrPath p || ptrAddr p % 8 ≠ 0 then faulted clsPathReserved 0x0B p 0 s
      else
        match locate s (whoAt s) .read p 8 with
        | .error e => faultAcc e s
        | .ok ls =>
          if readPending s then s
          else
            match poisonedHome s (ls.zip (bytePtrs p 8)) with
            | some line => faulted clsTokenParity 0x04 line 0 s
            | none =>
              let v := coherentWord s (whoAt s) ls
              let c := s.focus.c
              if v ≠ (word b.value 0).toNat then
                answered (.waita f) (some (BitVec.ofNat 512 v)) (BitVec.ofNat 64 v)
                  (modCtx (squashLater s c) c (fun x => match x.watch with
                    | some w => if w.idx = s.focus.idx && w.tag == s.focus.tag then { x with watch := none } else x
                    | none => x))
              else
                match (ctxAt s c).watch with
                | some w => if w.idx = s.focus.idx && w.tag == s.focus.tag then awaiting s else s
                | none =>
                  awaiting (modCtx s c (fun x => { x with watch := some ⟨firstLoc ls, s.focus.idx, s.focus.tag⟩ })))

/-- TRAP (R188). -/
def execTrap (f : GFields) (s : State) : Result :=
  fire (.trap f) s (fun a _ _ s => fired (.trap f) { effs := [.trap (f.imm16.toNat % 256) (word a.value 0)] } s)

/-- The context a RETT names (R189). -/
def rettTarget (s : State) (c : CtxId) (d : Nat) : CtxId := ⟨coreNamed s c (field d 8 5) (field d 5 3), field d 1 4⟩

/-- A context is stopped, and for a record that was routed to a handler (R189). -/
def stoppedFor (c : CtxId) (x : Ctx) : Bool := x.stopped && x.handlers.contains c

/-- The thread of a context that is stopped for a record routed to another, in its place or standing aside (R211). -/
def stoppedThread (s : State) (c t : CtxId) : Thread := threadWhere s (ctxAt s c).part t (stoppedFor c)

/-- RETT's status (R189): the rank test first. -/
def rettStatus (s : State) (c t : CtxId) : Nat :=
  let x := threadAt s (stoppedThread s c t)
  if (ctxAt s c).rank ≤ x.rank then 2
  else if stoppedFor c x && x.rettHold.isNone then 0 else 1

/-- RETT (R189): the status at firing, the resumption at the commit that succeeds. A logged status 0 requests the
resumption again. -/
def execRett (f : GFields) (s : State) : Result :=
  let target := fun (s : State) =>
    (frameAt s s.focus.c s.focus.frame).bind (fun fr => slotToken fr s.focus.idx .a s.focus.tag)
  match readiness (.rett f) s, target s with
  | .logged e, some a =>
    let d := (word a.value 0).toNat
    .next (fired (.rett f)
      { r0 := some (match e.t0 with
          | some v => wideTok v
          | none => nullTok),
        r1 := some (scalar e.t1),
        effs := if e.t0 = some 0 then [.rett (rettTarget s s.focus.c d)] else [] } s)
  | _, _ =>
    fire (.rett f) s (fun a _ _ s =>
      let c := s.focus.c
      let d := (word a.value 0).toNat
      if !clusterIn s c (field d 8 5) then borderFault (word a.value 0) s
      else
        let t := rettTarget s c d
        let st := rettStatus s c t
        let s := modCtx s c (fun x => { x with log := x.log ++ [⟨s.focus.idx, s.focus.tag, some (BitVec.ofNat 512 st), BitVec.ofNat 64 st⟩] })
        let s := if st = 0 then modThread s (stoppedThread s c t) (fun x => { x with rettHold := some c }) else s
        fired (.rett f) { r0 := some (scalar (BitVec.ofNat 64 st)), r1 := some (scalar (BitVec.ofNat 64 st)),
                          effs := if st = 0 then [.rett t] else [] } s)

/-- SYNCB (R133, R190). -/
def execSyncb (f : GFields) (s : State) : Result := fire (.syncb f) s (fun _ _ _ s => fired (.syncb f) { effs := [.syncb] } s)

/-- LAUNCH (R191). The alignment of the record is tested before its translation (DESIGN CHOICE, log entry 92). -/
def execLaunch (f : GFields) (s : State) : Result :=
  fire (.launch f) s (fun a _ _ s =>
    let p := word a.value 0
    match basicCheck p with
    | some e => faultAcc e s
    | none =>
      if ptrPath p ≠ pathGEN && ptrPath p ≠ pathCONST then faulted clsPathReserved 0x07 p 0 s
      else if ptrAddr p % 128 ≠ 0 then faulted clsPathReserved 0x0C p 0 s
      else
        match locate s (whoAt s) .read p 128 with
        | .error e => faultAcc e s
        | .ok _ => fired (.launch f) { effs := [.launch p] } s)

end Sys2Proof.Machine
end

