-- ==== Sys2Proof/Machine/Counted.lean ====
section
/-! DEFINITION. Counted lines at work (R271 to R278): count fills, consuming loads at their commit, the end of a region and
the under-read log. -/

namespace Sys2Proof.Machine

open Sys2Proof

/-! ## Writes the device makes itself -/

/-- The physical addresses of bytes that the device writes on GEN for a partition; none where a page is not valid or
not writable. -/
def deviceBytes (s : State) (die part : Nat) (ptr : Word) (n : Nat) : Option (List (Nat × Nat)) :=
  if ptrPath ptr ≠ pathGEN then none
  else (List.range n).mapM (fun k =>
    let va := (ptrAddr ptr + k) % 2 ^ 54
    match translate s die part va true .write false with
    | .ok pa => some (pa, va)
    | .error _ => none)

/-- A synchronising write of bytes at their homes (R265); none where it cannot be translated. Neither tenure of another
party nor a live node area refuses it (DESIGN CHOICE, log entry 97). -/
def deviceWrite (s : State) (die part : Nat) (ptr : Word) (bs : List Byte) : Option State :=
  (deviceBytes s die part ptr bs.length).map (fun ls =>
    wakeWatches (homeWrite s ((ls.map (·.1)).zip bs)) (ls.map (fun l => Loc.pa l.1 l.2)))

/-- Words as bytes. -/
def wordBytes (ws : List Word) : List Byte := ws.flatMap (fun w => toBytes 8 w.toNat)

/-! ## The under-read log (R277) -/

/-- One entry written to a log: the state and the new RC.LOGCTL. -/
def logEntry (s : State) (die part : Nat) (base ctl : Word) (ws : List Word) : State × Word :=
  let cap := ctl.toNat / 2 ^ 40
  let count := field ctl.toNat 16 24
  let lost := BitVec.ofNat 64 (ctl.toNat / 2 ^ 16 * 2 ^ 16 + min 65535 (ctl.toNat % 2 ^ 16 + 1))
  if cap ≤ count then (s, lost)
  else
    match deviceWrite s die part (addrOf base (16 * (count % cap) : Nat)) (wordBytes ws) with
    | none => (s, lost)
    | some s => (s, BitVec.ofNat 64 (ctl.toNat + 2 ^ 16))

/-- The fat pointer of a counted line (R277). -/
def linePtr : Loc → Word
  | .pa _ va => BitVec.ofNat 64 (va / 64 * 64)
  | .spad c o => BitVec.ofNat 64 (2 ^ 61 + c % 8 * 2 ^ 19 + o / 64 * 64)
  | _ => 0

/-- The two words of a log entry. -/
def logWords (l : Loc) (cause n region : Nat) : List Word :=
  [linePtr l, BitVec.ofNat 64 (cause * 2 ^ 56 + n * 2 ^ 48 + region * 2 ^ 40)]

/-- An entry in the log of a context. -/
def logFor (s : State) (c : CtxId) (l : Loc) (cause n region : Nat) : State :=
  let x := ctxAt s c
  let r := logEntry s (dieOf c.core) x.part x.rcLog x.rcLogctl (logWords l cause n region)
  modCtx r.1 c (fun x => { x with rcLogctl := r.2 })

/-! ## Fills (R273) -/

/-- Drops the clean copies of a line in every L1: a counted line stands in none (R272). -/
def dropClean (s : State) (line : Nat) : State :=
  (coreNums s).foldl (fun s k =>
    if (coreAt s k).clean.any (fun e => e.1 = line) then modCore s k (fun c => { c with clean := tabDel line c.clean }) else s) s

/-- A GEN fill has no way: sixteen other lines of its set are pinned (R273). -/
def noWay (s : State) (l : Loc) : Bool :=
  match l with
  | .pa a _ => (l2At s (a / 64)).n = 0 && setPinned s (a / 64)
  | _ => false

/-- The argument of COUNT-CAPACITY (R278). -/
def capacityArg (s : State) (l : Loc) : Word :=
  match l with
  | .pa a _ => BitVec.ofNat 64 (homeDie s a * 2 ^ 26 + homeSlice a * 2 ^ 18 + homeSet a)
  | _ => 0

/-- A GEN line takes data, if given, and a count: what the slice held dirty is in HBM before, for the drop of the line
brings it back (R273, R274). -/
def fillGen (s : State) (line : Nat) (data : Option Wide) (n : Nat) : State :=
  let s := dropClean s line
  let s := if (l2At s line).n ≠ 0 then s else makeWay (writeBack s line) line
  let d := data.getD (homeLine s line)
  modL2 s line (fun q => ⟨d, false, n, 0, q.keep⟩)

/-- A count fill by a party: data, if given, and the count of a line; a live count is logged as a refill for its context
(R273). A scratchpad that does not answer the party discards it (R215). -/
def fillLine (s : State) (w : Who) (l : Loc) (data : Option Wide) (n : Nat) : State :=
  let old := (countAt s l).1
  let region := ((regionAt (partOf s w.c) l).map (·.num)).getD 0
  let logged := fun (s : State) => if old ≠ 0 then logFor s w.c l 0x02 old region else s
  match l with
  | .pa a va =>
    wakeWatches (fillGen (logged s) (a / 64) data n)
      ((List.range 64).map (fun k => Loc.pa (a / 64 * 64 + k) (va / 64 * 64 + k)))
  | .spad core o =>
    if !windowOpen s w core then s
    else
      let bytes := (List.range 64).map (fun k => Loc.spad core (o / 64 * 64 + k))
      let s := modCore (logged s) core (fun k => { k with spadCnt := tabSet (0, 0) k.spadCnt (o / 64) (n, 0) })
      match data with
      | some d => coherentWrite s w (bytes.zip ((List.range 64).map (byteOf d)))
      | none => wakeWatches s bytes
  | _ => s

/-- A consuming load's unit is spent at its commit (R274). -/
def spendUnit (s : State) (l : Loc) : State :=
  match l with
  | .pa a _ => modL2 s (a / 64) (fun q => if q.n ≤ 1 then blankLine else { q with n := q.n - 1, v := q.v - 1 })
  | .spad core o => modCore s core (fun k => { k with spadCnt :=
      (let e := tabGet (0, 0) k.spadCnt (o / 64)
       tabSet (0, 0) k.spadCnt (o / 64) (if e.1 ≤ 1 then (0, 0) else (e.1 - 1, e.2 - 1))) })
  | _ => s

/-! ## The end of a region (R276) -/

/-- The lines of a region, ascending. A GEN line without a translation holds no count. -/
def regionLines (s : State) (die part : Nat) (r : Region) : List Loc :=
  (List.range (r.len / 64)).filterMap (fun k =>
    match r.spad with
    | some c => some (Loc.spad c (r.lo + 64 * k))
    | none =>
      match translate s die part (r.lo + 64 * k) true .read false with
      | .ok pa => some (Loc.pa pa (r.lo + 64 * k))
      | .error _ => none)

/-- Some line of a list has a reserved unit, or a count fill that its block has reserved and that is still to come. -/
def anyReserved (s : State) (ls : List Loc) : Bool := ls.any (fun l => (countAt s l).2 ≠ 0 || fillDue s l)

/-- A line's count is cleared, and a live GEN line is written back with its data. -/
def clearLine (s : State) (l : Loc) : State :=
  match l with
  | .pa a _ =>
    if (l2At s (a / 64)).n = 0 then s
    else writeBack (modL2 s (a / 64) (fun q => { q with n := 0, v := 0, dirty := true })) (a / 64)
  | .spad core o => modCore s core (fun k => { k with spadCnt := tabDel (o / 64) k.spadCnt })
  | _ => s

/-- Ends a region for a context: live lines are logged to it and written back, and the region leaves the table. The
number of live lines is the answer. -/
def endRegion (s : State) (c : CtxId) (die part : Nat) (r : Region) : State × Nat :=
  let live := (regionLines s die part r).filter (fun l => (countAt s l).1 ≠ 0)
  let s := live.foldl (fun s l => clearLine (logFor s c l 0x01 (countAt s l).1 r.num) l) s
  (modPart s die part (fun p => { p with regions := p.regions.filter (·.num ≠ r.num) }), live.length)

/-- Undeclares a region at the end of a launch (R277, R362): the log values kept with the region are used. -/
def undeclareRegion (s : State) (die part : Nat) (r : Region) : State :=
  let live := (regionLines s die part r).filter (fun l => (countAt s l).1 ≠ 0)
  let q := live.foldl (fun (a : State × Word) l =>
    let b := logEntry a.1 die part r.rcLog a.2 (logWords l 0x01 (countAt a.1 l).1 r.num)
    (clearLine b.1 l, b.2)) (s, r.rcLogctl)
  modPart q.1 die part (fun p => { p with regions := p.regions.filter (·.num ≠ r.num) })

end Sys2Proof.Machine
end

