-- ==== Sys2Proof/Machine/Tiles.lean ====
section
/-! DEFINITION. Tile handles and tenure, class 0xE 00 to 05 (R286 to R311): descriptors and their mirror, the queue of
acquires, releases and REDUCE rounds, splitting and freeing. -/

namespace Sys2Proof.Machine

open Sys2Proof

/-! ## Acquisition at a delivery (R265) -/

/-- Loads that follow an operation of a context's oldest block, and that have fired, fire again (R264, R265, R284). -/
def reloadLater (s : State) (c : CtxId) (tag : Tag) (lsid : Nat) : State :=
  match frameAt s c 0 with
  | none => s
  | some fr => if fr.loads.any (placeBefore tag lsid) then restartAt s c 0 [] else squashYounger s c

/-- The LSID of a waiting instruction of a context's oldest block. -/
def waitingLsid (s : State) (c : CtxId) (idx : Nat) : Nat :=
  ((frameAt s c 0).bind (fun fr => (instrAt fr idx).bind lsidOf)).getD 0

/-- An acquiring operation of a context delivers: clean lines below the scope go, and later loads fire again. -/
def acquireEffect (s : State) (c : CtxId) (scope : Nat) (tag : Tag) (lsid : Nat) : State :=
  reloadLater (acquire s c scope) c tag lsid

/-! ## Handles (R286 to R289, R300) -/

/-- The handle of a slot: bits [23:0] (R286). -/
def handleOf (v : Wide) : Nat := (word v 0).toNat % 2 ^ 24

/-- The current generation of an index (R300). -/
def genOf (p : Part) (idx : Nat) : Nat := tabGet 1 p.gens idx

/-- The generation after a retirement (R300). -/
def nextGen (g : Nat) : Nat := if 255 ≤ g then 1 else g + 1

/-- The live handle that a number names, or the STALE-HANDLE cause (R300, R310). -/
def findHandle (p : Part) (h : Nat) : Except Nat Handle :=
  let idx := h / 256
  if idx = 0 || p.thCap < idx then .error 0x02
  else
    match p.handles.find? (fun q => q.idx = idx) with
    | none => .error 0x02
    | some q => if q.gen = h % 256 then .ok q else .error 0x01

/-- The number of a handle. -/
def handleNum (h : Handle) : Nat := h.idx * 256 + h.gen

/-- The lowest free index. -/
def freeIndex (p : Part) : Option Nat :=
  ((List.range (p.handles.length + 1)).map (· + 1)).find? (fun i => i ≤ p.thCap && !(p.handles.any (·.idx = i)))

/-- Two spans share a byte. -/
def spansMeet (lo hi lo' hi' : Nat) : Bool := lo < hi' && lo' < hi

/-- The live handles that overlap a span. -/
def overlapping (p : Part) (lo hi : Nat) : List Handle := p.handles.filter (fun h => spansMeet lo hi h.lo h.hi)

/-- Extents and strides that a descriptor names, all four dimensions (R287). -/
def descDims (ws : List Word) : List (Nat × Int) :=
  let w := fun n => (ws.getD n 0).toNat
  [(field (w 1) 0 16, toSigned 32 (field (w 2) 0 32)), (field (w 1) 16 16, toSigned 32 (field (w 2) 32 32)),
   (field (w 1) 32 16, toSigned 32 (field (w 3) 0 32)), (field (w 1) 48 16, toSigned 32 (field (w 3) 32 32))]

/-- Least and greatest element offset (R288). -/
def offsetRange (dims : List (Nat × Int)) : Int × Int :=
  dims.foldl (fun r d =>
    let reach := ((d.1 : Int) - 1) * d.2
    (r.1 + min 0 reach, r.2 + max 0 reach)) (0, 0)

/-- The span of a descriptor as exact numbers (R288). -/
def spanOf (ws : List Word) : Int × Int :=
  let w4 := (ws.getD 4 0).toNat
  let size : Int := (2 ^ field w4 8 4 : Nat)
  let r := offsetRange ((descDims ws).take (field w4 0 2 + 1))
  let base : Int := (ptrAddr (ws.getD 0 0) : Int)
  (base + size * r.1, base + size * r.2 + size)

/-- Descriptor words 0 to 4 are in error (R287). A span that ends exactly at 2^54 is no wrap (DESIGN CHOICE, log entry 98). -/
def descBad (ws : List Word) : Bool :=
  let w0 := ws.getD 0 0
  let w4 := (ws.getD 4 0).toNat
  let nd := field w4 0 2 + 1
  let dims := descDims ws
  let sp := spanOf ws
  field w4 12 52 ≠ 0 || field w4 2 6 ≠ 0 || 3 < field w4 8 4
    || ptrPath w0 ≠ pathGEN || ptrBlock w0 ≠ 0
    || (dims.take nd).any (fun d => d.1 = 0) || (dims.drop nd).any (fun d => d.1 ≠ 1 || d.2 ≠ 0)
    || (ptrFormat w0 ≠ 0 && (elemOfCode (ptrFormat w0)).width ≠ 8 * 2 ^ field w4 8 4)
    || sp.1 < 0 || (2 : Int) ^ 54 < sp.2

/-- The eight descriptor words of an entry in a state (R287). -/
def descWords (h : Handle) (gen st : Nat) : List Word :=
  h.desc.take 5 ++ [BitVec.ofNat 64 h.lo, BitVec.ofNat 64 h.hi,
    BitVec.ofNat 64 (gen * 2 ^ 24 + st * 2 ^ 22 + h.die * 2 ^ 20 + h.slice * 2 ^ 12)]

/-- The device mirrors a change of a descriptor; a write that fails is dropped (R287). -/
def mirror (s : State) (die part : Nat) (idx : Nat) (ws : List Word) : State :=
  (deviceWrite s die part (addrOf (partAt s die part).thBase (64 * idx : Nat)) (wordBytes ws)).getD s

def modHandle (s : State) (die part idx : Nat) (f : Handle → Handle) : State :=
  modPart s die part (fun p => { p with handles := p.handles.map (fun h => if h.idx = idx then f h else h) })

/-- An entry leaves the live handles and its generation advances (R300). -/
def retireHandle (s : State) (die part : Nat) (h : Handle) : State :=
  let g := nextGen h.gen
  let s := modPart s die part (fun p =>
    { p with handles := p.handles.filter (·.idx ≠ h.idx), gens := tabSet 1 p.gens h.idx g })
  mirror s die part h.idx (descWords h g 0)

/-! ## Granting (R291 to R293, R302) -/

/-- The tenures of other holders on overlapping handles admit a request (R291). -/
def admitted (p : Part) (holder : Nat) (h : Handle) (kind op fmt : Nat) : Bool :=
  (overlapping p h.lo h.hi).all (fun g => g.tens.all (fun t =>
    t.holder = holder || (match t.kind with
      | 1 => t.lapsed || kind = 1
      | 3 => kind = 3 && t.op = op && t.fmt = fmt
      | _ => false)))

/-- An acquire that waits touches the span of a handle. -/
def waitsOver (p : Part) (a : Acquire) (h : Handle) : Bool :=
  p.handles.any (fun g => g.idx = a.handle && spansMeet h.lo h.hi g.lo g.hi)

/-- A request at the home of a live handle is granted on its arrival (R291, R292). -/
def grantsNow (s : State) (p : Part) (holder : Nat) (h : Handle) (kind op fmt : Nat) : Bool :=
  h.st = 1 && tenureRoom s h && admitted p holder h kind op fmt && !(p.acquires.any (fun a => waitsOver p a h))

/-- The virtual addresses of the elements of a tile, each once. -/
def elementAddrs (h : Handle) : List Nat :=
  let size : Int := (elemBytes h : Nat)
  ((tileOffsets (tileDims h)).map (fun o => ((tileBase h : Int) + size * o).toNat)).eraseDups

/-- The published bytes of a tile's elements: partial 0 of a round (R295). -/
def publishedElements (s : State) (die part : Nat) (h : Handle) : Tab Byte :=
  (elementAddrs h).foldl (fun t e =>
    (List.range (elemBytes h)).foldl (fun t k =>
      match translate s die part (e + k) true .read false with
      | .ok pa => tabSet 0 t (e + k) (homeByte s pa)
      | .error _ => t) t) []

/-- A grant (R293, R295). -/
def grantTenure (s : State) (die part : Nat) (h : Handle) (holder kind op fmt : Nat) : State :=
  let (s, o) := if kind = 1 then newLease s h.die h.slice (partAt s die part).lease else (s, 0)
  let first := kind = 3 && !(h.tens.any (·.kind = 3))
  let base := if first then publishedElements s die part h else h.base0
  modHandle s die part h.idx (fun q =>
    { q with tens := q.tens ++ [⟨holder, kind, op, fmt, false, o, []⟩]
             base0 := base
             lodged := if first then [] else q.lodged })

/-- The status word of TACQ (R306). -/
def acqWord (status kind lease h : Nat) : Word :=
  BitVec.ofNat 64 (status * 2 ^ 56 + kind * 2 ^ 48 + lease * 2 ^ 32 + h)

/-- The word of a grant. -/
def grantWord (p : Part) (kind h : Nat) : Word := acqWord 0 kind (if kind = 1 then p.lease else 0) h

/-- Acquires that waited on a retired handle are answered with status 0x02 (R299, R301); a job waits to ask again. -/
def answerRetired (s : State) (die part idx hnum : Nat) : State :=
  let ws := (partAt s die part).acquires.filter (·.handle = idx)
  let s := modPart s die part (fun p => { p with acquires := p.acquires.filter (·.handle ≠ idx) })
  ws.foldl (fun s a =>
    match a.job with
    | some _ => s
    | none =>
      let w := acqWord 0x02 0 0 hnum
      answerLater a.ctx a.idx a.tag (some (w.setWidth 512)) w (modCtx s a.ctx (fun x => { x with tenWait := none }))) s

/-! ## Releasing (R295, R296) -/

/-- One combination of a REDUCE round (R83, R295). -/
def combineVals (op : Nat) (ty : ElemType) (x y : Nat) : Nat :=
  if ty = .f32 || ty = .f64 || ty = .bf16 then
    let nan := isNaN (readF ty x) || isNaN (readF ty y)
    match op with
    | 0 => (deliverF ty .nearest false 0 (exactAdd false (readF ty x) (readF ty y))).1
    | 1 => if nan then nanOf ty else minMaxF ty true x y
    | _ => if nan then nanOf ty else minMaxF ty false x y
  else
    match op with
    | 0 => wrapTo ty.width (readInt ty x + readInt ty y)
    | 1 => wrapTo ty.width (min (readInt ty x) (readInt ty y))
    | _ => wrapTo ty.width (max (readInt ty x) (readInt ty y))

/-- The value of an element in a partial: none where no byte of it was stored (R294). -/
def partialElement (t : Tenure) (size e : Nat) : Option Nat :=
  let bs := (List.range size).map (fun k => tabGet none t.partials (e + k))
  if bs.all Option.isNone then none
  else some (ofBytes ((List.range size).map (fun k =>
    (bs.getD k none).getD (BitVec.ofNat 8 (identityOf t.op (elemOfCode t.fmt) / 256 ^ k)))))

/-- A lodged partial takes its place by holder number (R83, R295); the mark of a displaced core (log entry 41) does not count.
DESIGN CHOICE (log entry 66): of two partials of one number the later release comes first. -/
def lodge (t : Tenure) : List Tenure → List Tenure
  | [] => [t]
  | u :: r => if t.holder % 2 ^ 20 ≤ u.holder % 2 ^ 20 then t :: u :: r else u :: lodge t r

/-- The element of a finished round (R295). -/
def combinedElement (h : Handle) (e : Nat) : Nat :=
  let size := elemBytes h
  let v0 := ofBytes ((List.range size).map (fun k => tabGet 0 h.base0 (e + k)))
  h.lodged.foldl (fun v t => match partialElement t size e with
    | some x => combineVals t.op (elemOfCode t.fmt) v x
    | none => v) v0

/-- The record of a synchronising publication whose bytes a live node area refuses (R298, R329, R345). -/
def areaRefused (pa : Nat) (blk : Word) : RecordArgs :=
  { cls := clsTenureConflict, cause := 0x07, async := true, phys := true, addr := BitVec.ofNat 64 (pa / 64 * 64), arg := blk }

/-- The combined elements are written at the home as one synchronising publication (R295). The bytes that a live node area
refuses are discarded, with a record for the party whose release ended the round, where it still stands (R329; DEDUCED, log
entry 102). -/
def combineRound (s : State) (die part : Nat) (h : Handle) (pub : Option (CtxId × Word)) : State :=
  let bs := (elementAddrs h).flatMap (fun e =>
    let v := combinedElement h e
    (List.range (elemBytes h)).filterMap (fun k =>
      match translate s die part (e + k) true .read false with
      | .ok pa => some (pa, e + k, (BitVec.ofNat 8 (v / 256 ^ k) : Byte))
      | .error _ => none))
  let bad := bs.filter (fun b => inNodeArea s b.1)
  let bs := bs.filter (fun b => !inNodeArea s b.1)
  let s := homeWrite s (bs.map (fun b => (b.1, b.2.2)))
  let s := wakeWatches s (bs.map (fun b => Loc.pa b.1 b.2.1))
  let s := modHandle s die part h.idx (fun q => { q with base0 := [], lodged := [] })
  match bad, pub with
  | b :: _, some (c, blk) => asyncRecord s c (areaRefused ((bad.map (·.1)).foldl min b.1) blk)
  | _, _ => s

/-- The record of a holder leaves a handle; the last REDUCE record ends its round (R296). -/
def releaseRecord (s : State) (die part : Nat) (h : Handle) (holder : Nat) (pub : Option (CtxId × Word)) : State :=
  match tenureOf h holder with
  | none => s
  | some t =>
    let h' := { h with tens := h.tens.filter (·.holder ≠ holder)
                       lodged := if t.kind = 3 then lodge t h.lodged else h.lodged }
    let s := modHandle s die part h.idx (fun _ => h')
    if t.kind = 3 && !(h'.tens.any (·.kind = 3)) then combineRound s die part h' pub else s

/-- TREL at its place in the commit step, its publication already made (R296). -/
def releaseTenure (s : State) (c : CtxId) (blk : Word) (hnum : Nat) : State :=
  let x := ctxAt s c
  match findHandle (partOf s c) hnum with
  | .ok h => releaseRecord s (dieOf c.core) x.part h (holderOf s (whoOf s c)) (some (c, blk))
  | .error _ => s

/-- The handle on which a context's TREL will release WRITE tenure. -/
def releasesWrite (s : State) (c : CtxId) (hnum : Nat) : Bool :=
  match findHandle (partOf s c) hnum with
  | .ok h => (tenureOf h (holderOf s (whoOf s c))).any (·.kind = 2)
  | .error _ => false

/-- A context becomes Free: every tenure is released and its waiting acquires are withdrawn (R297). -/
def dropHolder (s : State) (c : CtxId) : State :=
  let die := dieOf c.core
  let part := (ctxAt s c).part
  let holder := holderOf s (whoOf s c)
  let mine := (partAt s die part).handles.filter (fun h => (tenureOf h holder).isSome)
  let s := modPart s die part (fun p => { p with acquires := p.acquires.filter (fun a => a.ctx != c) })
  let s := if mine.any (fun h => (tenureOf h holder).any (·.kind = 2)) then publish s c 2 0 else s
  mine.foldl (fun s h =>
    match (partAt s die part).handles.find? (·.idx = h.idx) with
    | some q => releaseRecord s die part q holder (some (c, 0))
    | none => s) s

/-! ## Checks at the commit reservation (R301, R307) -/

/-- Why a TREL cannot commit. -/
def trelFault (s : State) (c : CtxId) (hnum : Nat) : Option (Nat × Nat) :=
  match findHandle (partOf s c) hnum with
  | .ok _ => none
  | .error cause => some (clsStaleHandle, cause)

/-- A THFREE of the oldest block of a context finds the handle retiring: for its own block, or for another. -/
def retiring (s : State) (c : CtxId) (hnum : Nat) (mine : Bool) : Bool :=
  match findHandle (partOf s c) hnum with
  | .ok h => h.st = 2 && mine == (h.freeBy == some (c, (ctxAt s c).pos))
  | .error _ => false

/-- Why a THFREE cannot commit. A handle that another block is retiring says nothing yet. -/
def thfreeFault (s : State) (c : CtxId) (hnum : Nat) : Option (Nat × Nat) :=
  let p := partOf s c
  match findHandle p hnum with
  | .error cause => some (clsStaleHandle, cause)
  | .ok h =>
    if h.st = 2 then none
    else if !h.tens.isEmpty || p.acquires.any (·.handle = h.idx) then some (clsTenureConflict, 0x03) else none

/-- THFREE's reservation at the home (R301): the entry is retiring until the block commits or is squashed. -/
def holdHandle (s : State) (c : CtxId) (hnum : Nat) : State :=
  let die := dieOf c.core
  let part := (ctxAt s c).part
  match findHandle (partAt s die part) hnum with
  | .ok h =>
    if h.st = 2 then s
    else mirror (modHandle s die part h.idx (fun q => { q with st := 2, freeBy := some (c, (ctxAt s c).pos), due := false }))
      die part h.idx (descWords h h.gen 2)
  | .error _ => s

/-- THFREE at its commit (R301). -/
def freeHandle (s : State) (c : CtxId) (hnum : Nat) : State :=
  let die := dieOf c.core
  let part := (ctxAt s c).part
  match findHandle (partAt s die part) hnum with
  | .ok h => answerRetired (retireHandle s die part h) die part h.idx hnum
  | .error _ => s

/-! ## Meanings -/

/-- STALE-HANDLE at firing: the argument is the handle. -/
def staleFault (cause hnum : Nat) (s : State) : State := faulted clsStaleHandle cause 0 (BitVec.ofNat 64 hnum) s

/-- An irrevocable result of one word. -/
def answerWord (i : Instr) (w : Word) (s : State) : State := answered i (some (w.setWidth 512)) w s

/-- THNEW with its descriptor checked (R289, R304). -/
def makeHandle (f : LFields) (ws : List Word) (pa : Nat) (s : State) : State :=
  let c := s.focus.c
  let die := dieOf c.core
  let part := (ctxAt s c).part
  let p := partAt s die part
  let sp := spanOf ws
  let (lo, hi) := (sp.1.toNat, sp.2.toNat)
  let near := overlapping p lo hi
  let homes := (near.map (fun h => (h.die, h.slice))).eraseDups
  if 1 < homes.length then answerWord (.thnew f) (BitVec.ofNat 64 (2 * 2 ^ 56)) s
  else
    match freeIndex p with
    | none => answerWord (.thnew f) (BitVec.ofNat 64 (1 * 2 ^ 56)) s
    | some idx =>
      let home := homes.headD (homeDie s pa, homeSlice pa)
      let h : Handle := ⟨idx, genOf p idx, ws, lo, hi, home.1, home.2, 1, [], [], [], none, false⟩
      let s := modPart s die part (fun p => { p with handles := p.handles ++ [h] })
      let s := mirror s die part idx (descWords h h.gen 1)
      answerWord (.thnew f) (BitVec.ofNat 64 (handleNum h)) s

/-- THNEW (R304). -/
def execThnew (f : LFields) (s : State) : Result :=
  fire (.thnew f) s (fun a _ _ s =>
    let ws := (List.range 5).map (word a.value)
    let base := ws.getD 0 0
    match basicCheck base with
    | some e => faultAcc e s
    | none =>
      if [5, 6, 7].any (fun n => word a.value n ≠ 0) || descBad ws then faulted clsPathReserved 0x12 0 0 s
      else
        match locateByte s (whoAt s) .read (withAddr base (spanOf ws).1.toNat) 0 with
        | .error e => faultAcc e s
        | .ok (.pa pa _) => makeHandle f ws pa s
        | .ok _ => s)

/-- THFREE (R301, R305). -/
def execThfree (f : LFields) (s : State) : Result :=
  fire (.thfree f) s (fun a _ _ s =>
    match findHandle (partOf s s.focus.c) (handleOf a.value) with
    | .error cause => staleFault cause (handleOf a.value) s
    | .ok _ => fired (.thfree f) { effs := [.thfree (BitVec.ofNat 64 (handleOf a.value))] } s)

/-- TACQ's request at the home (R302, R306). -/
def requestTenure (f : LFields) (hnum : Nat) (h : Handle) (s : State) : State :=
  let c := s.focus.c
  let die := dieOf c.core
  let part := (ctxAt s c).part
  let p := partAt s die part
  let holder := holderOf s (whoOf s c)
  let off := f.off.toNat
  let kind := off % 4
  let op := field off 2 2
  let fmt := field off 4 4
  let refuse := fun (st : Nat) => answerWord (.tacq f) (acqWord st 0 0 hnum) s
  if (tenureOf h holder).isSome then refuse 0x01
  else if 32 ≤ tenuresHeld p holder then refuse 0x03
  else if kind = 3 && (elemOfCode fmt).width ≠ 8 * elemBytes h then refuse 0x04
  else if grantsNow s p holder h kind op fmt then
    let s := grantTenure s die part h holder kind op fmt
    acquireEffect (answerWord (.tacq f) (grantWord p kind hnum) s) c 2 s.focus.tag f.lsid.toNat
  else
    let s := modPart s die part (fun p => { p with acquires := p.acquires ++
      [⟨h.idx, holder, c, kind, op, fmt, s.focus.idx, s.focus.tag, f.lsid.toNat, none⟩] })
    awaiting (modCtx s c (fun x => { x with tenWait := some (hnum, s.focus.idx, s.focus.tag) }))

/-- TACQ (R306): a request that stands from before a squash goes on waiting. -/
def execTacq (f : LFields) (s : State) : Result :=
  fire (.tacq f) s (fun a _ _ s =>
    if (ctxAt s s.focus.c).tenWait.any (fun w => w.2 == (s.focus.idx, s.focus.tag)) then awaiting s
    else if syncPending s then s
    else
      match findHandle (partOf s s.focus.c) (handleOf a.value) with
      | .error cause => staleFault cause (handleOf a.value) s
      | .ok h => requestTenure f (handleOf a.value) h s)

/-- TREL (R307). -/
def execTrel (f : LFields) (s : State) : Result :=
  fire (.trel f) s (fun a _ _ s =>
    let hnum := handleOf a.value
    match findHandle (partOf s s.focus.c) hnum with
    | .error cause => staleFault cause hnum s
    | .ok h =>
      if (tenureOf h (holderOf s (whoOf s s.focus.c))).isNone then
        faulted clsTenureConflict 0x05 0 (BitVec.ofNat 64 hnum) s
      else fired (.trel f) { effs := [.trel (BitVec.ofNat 64 hnum)] } s)

/-- A descriptor with dimension d cut to n elements, and its base moved by a number of elements of that dimension. -/
def cutDesc (ws : List Word) (d n : Nat) (skip : Nat) : List Word :=
  let w0 := ws.getD 0 0
  let size : Int := (2 ^ field (ws.getD 4 0).toNat 8 4 : Nat)
  let st := ((descDims ws).getD d (1, 0)).2
  let e := (ws.getD 1 0).toNat
  let e' := e - field e (16 * d) 16 * 2 ^ (16 * d) + n * 2 ^ (16 * d)
  [addrOf w0 (size * (skip : Int) * st), BitVec.ofNat 64 e'] ++ (ws.drop 2)

/-- A handle made of a descriptor at a home. -/
def handleFrom (ws : List Word) (idx gen : Nat) (h : Handle) (tens : List Tenure) : Handle :=
  let sp := spanOf ws
  ⟨idx, gen, ws, sp.1.toNat, sp.2.toNat, h.die, h.slice, 1, tens, [], [], none, false⟩

/-- TSPLIT on a live handle (R299, R308). -/
def splitHandle (f : LFields) (hnum : Nat) (h : Handle) (s : State) : State :=
  let c := s.focus.c
  let die := dieOf c.core
  let part := (ctxAt s c).part
  let p := partAt s die part
  let holder := holderOf s (whoOf s c)
  let d := f.off.toNat % 4
  let k := field f.off.toNat 8 16
  let e := ((descDims h.desc).getD d (1, 0)).1
  let nd := field (h.desc.getD 4 0).toNat 0 2
  let refuse := fun (st : Nat) => answerWord (.tsplit f) (BitVec.ofNat 64 (st * 2 ^ 56)) s
  if nd < d || k = 0 || e ≤ k then refuse 0x03
  else if h.tens.any (·.holder ≠ holder) || (tenureOf h holder).any (·.kind ≠ 2)
      || ((tenureOf h holder).isNone && p.acquires.any (·.handle = h.idx)) then refuse 0x01
  else
    match freeIndex p with
    | none => refuse 0x02
    | some idx =>
      let lo := handleFrom (cutDesc h.desc d k 0) h.idx (nextGen h.gen) h h.tens
      let hi := handleFrom (cutDesc h.desc d (e - k) k) idx (genOf p idx) h h.tens
      let s := modPart s die part (fun p =>
        { p with handles := p.handles.filter (·.idx ≠ h.idx) ++ [lo, hi], gens := tabSet 1 p.gens h.idx lo.gen })
      let s := mirror s die part lo.idx (descWords lo lo.gen 1)
      let s := mirror s die part hi.idx (descWords hi hi.gen 1)
      let s := answerRetired s die part h.idx hnum
      answerWord (.tsplit f) (BitVec.ofNat 64 (handleNum hi * 2 ^ 32 + handleNum lo)) s

/-- TSPLIT (R308). -/
def execTsplit (f : LFields) (s : State) : Result :=
  fire (.tsplit f) s (fun a _ _ s =>
    match findHandle (partOf s s.focus.c) (handleOf a.value) with
    | .error cause => staleFault cause (handleOf a.value) s
    | .ok h => if h.st = 2 then s else splitHandle f (handleOf a.value) h s)

/-- The summary of a handle (R309). -/
def tenureSummary (p : Part) (h : Handle) (holder hnum : Nat) : Nat :=
  let count := fun (k : Nat) => min 4095 (h.tens.filter (·.kind = k)).length
  count 1 * 2 ^ 52 + count 3 * 2 ^ 40 + min 4095 (p.acquires.filter (fun a => waitsOver p a h)).length * 2 ^ 28
    + ((tenureOf h holder).map (·.kind)).getD 0 * 2 ^ 26 + bit (h.tens.any (·.kind = 2)) 25 + hnum

/-- TQUERY (R309). -/
def execTquery (f : LFields) (s : State) : Result :=
  fire (.tquery f) s (fun a _ _ s =>
    let hnum := handleOf a.value
    let p := partOf s s.focus.c
    match findHandle p hnum with
    | .error cause => staleFault cause hnum s
    | .ok h =>
      let w := f.off.toNat % 16
      let v : Word := if w < 8 then (descWords h h.gen h.st).getD w 0
        else BitVec.ofNat 64 (tenureSummary p h (holderOf s (whoOf s s.focus.c)) hnum)
      fired (.tquery f) { r0 := some (scalar v) } s)

end Sys2Proof.Machine
end

