-- ==== Sys2Proof/Machine/Atomics.lean ====
section
/-! DEFINITION. Class 0xD (R312 to R326): atomics at the point of coherence, PHASE, counted regions and range
maintenance. -/

namespace Sys2Proof.Machine

open Sys2Proof

/-! ## Atomics (R314 to R319) -/

/-- The paths an atomic does not serve (R314). -/
def servesAtomic (path : Nat) : Option Nat :=
  if path = pathCONST then some 0x05 else if path = pathDEV || path = pathFAB then some 0x07 else none

/-- The new value of the word at the point of coherence, of its old value and the operands (R315). -/
abbrev AtomicNew := Nat → Nat → Nat → Nat

/-- The bytes of the word, little-endian, as the point of coherence holds them. -/
def coherentBytes (s : State) (w : Who) (ls : List Loc) : List Byte :=
  ls.map (fun l => match l with
    | .host va => tabGet 0 s.hostMem va
    | l => coherentByte s w l)

/-- The physical address of a GEN byte. -/
def genKey (l : Loc) : Option Nat :=
  match l with
  | .pa a _ => some a
  | _ => none

/-- Virtual addresses of GEN bytes. -/
def genAddrs (ls : List Loc) : List Nat :=
  ls.filterMap (fun l => match l with
    | .pa _ va => some va
    | _ => none)

/-- Why tenure or a node area refuses an atomic (R319, R329). -/
def atomicRefusal (s : State) (w : Who) (ls : List Loc) : Option Nat :=
  let p := partAt s w.die w.part
  let holder := holderOf s w
  let bad := fun (va : Nat) => (handlesAt p va).any (fun h =>
    h.tens.any (fun t => if t.holder = holder then t.kind ≠ 2 else !(t.kind = 1 && t.lapsed)))
  if (ls.filterMap genKey).any (inNodeArea s) then some 0x07
  else if (genAddrs ls).any bad then some 0x06 else none

/-- The committed stores of a party's thread to a line leave its L1s for the point of coherence, with the clean copies
(R140, R314). -/
def flushLine (s : State) (w : Who) (key : Nat) : State :=
  let r := (threadL1s s w.c key).foldl (fun (acc : State × List (CtxId × RecordArgs)) k =>
    let q := carryHome acc.1 k (fun e => e / 64 = key / 64) none
    (q.1, acc.2 ++ q.2)) (s, [])
  dropOwnClean (asyncRecords r.1 (onceEach r.2)) w.c key

/-- The thread's own committed stores to a line that it fills reach its home first; those of other parties in a shared L1 are
not recalled (R273). -/
def flushOwn (s : State) (w : Who) (key : Nat) : State :=
  let r := (threadL1s s w.c key).foldl (fun (acc : State × List (CtxId × RecordArgs)) k =>
    let q := carryHomeBy 0 acc.1 k (fun e d => e / 64 = key / 64 && d == w.c) none
    (q.1, acc.2 ++ q.2)) (s, [])
  dropOwnClean (asyncRecords r.1 (onceEach r.2)) w.c key

/-- What an access at the point of coherence finds has taken in the thread's committed stores. -/
def settleLoc (s : State) (w : Who) : Loc → State
  | .pa a _ => flushLine s w a
  | .host va => flushLine s w (hostBase + va)
  | .spad k _ => drainCluster s k
  | _ => s

/-- A host line has posted bytes of the context in flight. -/
def postedOnLine (s : State) (c : CtxId) (va : Nat) : Bool :=
  (coreAt s c.core).journal.any (fun j => j.ctx = c.ctx && j.state = 1 && j.bytes.any (fun b => match b.1 with
    | .host a => a / 64 = va / 64
    | _ => false))

/-- An atomic waits for what must come before it: its context's PHASEs, and on HOST its posted stores. -/
def atomicHeld (s : State) (f : LFields) (ls : List Loc) : Bool :=
  let c := s.focus.c
  syncPending s || (match firstLoc ls with
    | .host va => postedOnLine s c va || (f.mc.getLsbD 1 && postedLeft s c)
    | _ => false)

/-- The scope of a release or an acquire (R317). -/
def atomicScope (ls : List Loc) : Nat :=
  match firstLoc ls with
  | .host _ => 3
  | _ => 2

/-- The notification of an atomic whose new value is zero (R318). -/
def notification (s : State) (dst : Nat × Nat) (p : Word) (old : Nat) : SendEntry :=
  ⟨[dst], ofWords [p, BitVec.ofNat 64 old], msgHeader s s.focus.c dst.2⟩

/-- The atomic is performed at its point of coherence and answers (R315, R316). Loads behind it, which may have observed a
completion or status word, fire again where they fired before it (R221, R254, R393). -/
def performAtomic (i : Instr) (f : LFields) (op : AtomicNew) (s : State) (p : Word) (ls : List Loc) (b c : Nat) (dst : Option (Nat × Nat)) : State :=
  let w := whoAt s
  let me := s.focus.c
  let scope := atomicScope ls
  let s := if f.mc.getLsbD 1 then publish s me scope ((frameAt s me 0).map (·.addr) |>.getD 0) else s
  let s := settleLoc s w (firstLoc ls)
  let old := ofBytes (coherentBytes s w ls)
  let new := op old b c % 2 ^ (8 * ls.length)
  let s := coherentWrite s w (ls.zip (toBytes ls.length new))
  let s := match dst with
    | some d =>
      if new = 0 then countSent (modCtx s me (fun x => { x with notifs := x.notifs ++ [notification s d p old] })) me 1 else s
    | none => s
  let tag := s.focus.tag
  let s := answered i (if f.mc.getLsbD 3 then some (scalarOf f.ty old) else none) 0 s
  let s := resolveWrite s ls f.lsid.toNat
  if f.mc.getLsbD 2 then acquireEffect s me scope tag f.lsid.toNat
  else reloadLater s me tag f.lsid.toNat

/-- An atomic that tenure refuses (R319): precise where it returns, an asynchronous record where it is posted. -/
def refuseAtomic (i : Instr) (f : LFields) (cause : Nat) (p : Word) (s : State) : State :=
  if f.mc.getLsbD 3 then faulted clsTenureConflict cause p 0 s
  else
    answered i none 0 (asyncRecord s s.focus.c { cls := clsTenureConflict, cause := cause, addr := p })

/-- The checks of an atomic at firing and its performance (R314). -/
def atomic (i : Instr) (f : LFields) (op : AtomicNew) (s : State) : Result :=
  fire i s (fun a b c s =>
    let p := addrOf (word a.value 0) (offsetOf f)
    let size := f.ty.width / 8
    match checkAccess f.ty servesAtomic .write size s p with
    | .error e => faultAcc e s
    | .ok ls =>
      if ptrAddr p % size ≠ 0 then faulted clsPathReserved 0x13 p 0 s
      else
        let nz := f.mc.getLsbD 0
        let d := (word c.value 0).toNat
        let dst := if nz then (sendCore s s.focus.c s.focus.c.core d).map (fun k => (k, d % 32)) else none
        if nz && dst.isNone then borderFault (word c.value 0) s
        else if atomicHeld s f ls then s
        else
          match poisonedHome s (ls.zip (bytePtrs p size)) with
          | some line => faulted clsTokenParity 0x04 line 0 s
          | none =>
            match atomicRefusal s (whoAt s) ls with
            | some cause => refuseAtomic i f cause p s
            | none =>
              performAtomic i f op s p ls (b.value.toNat % 2 ^ f.ty.width) (c.value.toNat % 2 ^ f.ty.width) dst)

/-- AADD (R315). -/
def execAadd (f : LFields) (s : State) : Result := atomic (.aadd f) f (fun m b _ => m + b) s
/-- AMIN (R315). -/
def execAmin (f : LFields) (s : State) : Result :=
  atomic (.amin f) f (fun m b _ => if readInt f.ty m ≤ readInt f.ty b then m else b) s
/-- AMAX (R315). -/
def execAmax (f : LFields) (s : State) : Result :=
  atomic (.amax f) f (fun m b _ => if readInt f.ty m ≤ readInt f.ty b then b else m) s
/-- AAND (R315). -/
def execAand (f : LFields) (s : State) : Result := atomic (.aand f) f (fun m b _ => m &&& b) s
/-- AOR (R315). -/
def execAor (f : LFields) (s : State) : Result := atomic (.aor f) f (fun m b _ => m ||| b) s
/-- AXOR (R315). -/
def execAxor (f : LFields) (s : State) : Result := atomic (.axor f) f (fun m b _ => m ^^^ b) s
/-- AXCHG (R315). -/
def execAxchg (f : LFields) (s : State) : Result := atomic (.axchg f) f (fun _ b _ => b) s
/-- ACAS (R315): bitwise equality. -/
def execAcas (f : LFields) (s : State) : Result := atomic (.acas f) f (fun m b c => if m = b then c else m) s
/-- AFADD (R315): nearest-even. -/
def execAfadd (f : LFields) (s : State) : Result :=
  atomic (.afadd f) f (fun m b _ => (deliverF f.ty .nearest false 0 (exactAdd false (readF f.ty m) (readF f.ty b))).1) s
/-- AFMIN (R315). -/
def execAfmin (f : LFields) (s : State) : Result := atomic (.afmin f) f (fun m b _ => minMaxF f.ty true m b) s
/-- AFMAX (R315). -/
def execAfmax (f : LFields) (s : State) : Result := atomic (.afmax f) f (fun m b _ => minMaxF f.ty false m b) s

/-! ## PHASE -/

/-- PHASE (R321): its effect is at the commit. -/
def execPhase (f : LFields) (s : State) : Result :=
  fire (.phase f) s (fun _ _ _ s => fired (.phase f) { effs := [.phase (f.off.toNat % 4)] } s)

/-! ## Counted regions (R322 to R324) -/

/-- RCDECL with its range checked: overlap before room. -/
def declareRegion (f : LFields) (sp : Option Nat) (lo len : Nat) (s : State) : State :=
  let c := s.focus.c
  let x := ctxAt s c
  let p := partOf s c
  let meets := p.regions.any (fun r => r.spad == sp && spansMeet lo (lo + len) r.lo (r.lo + r.len))
  let ans := fun (st n : Nat) (s : State) => answerWord (.rcdecl f) (BitVec.ofNat 64 (st * 2 ^ 56 + n)) s
  if meets then ans 0x02 0 s
  else
    match (List.range 64).find? (fun n => !(p.regions.any (·.num = n))) with
    | none => ans 0x01 0 s
    | some n =>
      ans 0 n (modPartOf s c (fun p =>
        { p with regions := p.regions ++ [⟨n, sp, lo, len, false, c, x.rcLog, x.rcLogctl, none, x.launch⟩] }))

/-- RCDECL (R322). -/
def execRcdecl (f : LFields) (s : State) : Result :=
  fire (.rcdecl f) s (fun a b _ s =>
    let p := word a.value 0
    let len := (word b.value 0).toNat
    let bad := faulted clsPathReserved 0x14 p 0 s
    match basicCheck p with
    | some e => faultAcc e s
    | none =>
      if 1 < ptrPath p || ptrAddr p % 64 ≠ 0 || len % 64 ≠ 0 || len = 0 || 2 ^ 32 < len then bad
      else if ptrPath p = pathSPAD then
        let l := spadLoc (whoAt s) (ptrAddr p)
        if 0x7C000 < l.2 + len then bad else declareRegion f (some l.1) l.2 len s
      else
        match locateByte s (whoAt s) .write p 0 with
        | .error e => faultAcc e s
        | .ok _ =>
          match locateByte s (whoAt s) .write p (len - 64) with
          | .error e => faultAcc e s
          | .ok _ => declareRegion f none (ptrAddr p) len s)

/-- The status word of RCEND. -/
def endWord (st lines : Nat) : Word := BitVec.ofNat 64 (st * 2 ^ 56 + lines)

/-- RCEND of a Declared region (R276). -/
def endDeclared (f : LFields) (r : Region) (s : State) : State :=
  let c := s.focus.c
  let die := dieOf c.core
  let part := (ctxAt s c).part
  let held := (frameAt s c s.focus.frame).bind (fun fr => fr.reserved.find? (fun q => (regionAt (partOf s c) q.2).any (·.num = r.num)))
  match held with
  | some q => faulted clsOverRead 0x03 0 (BitVec.ofNat 64 (r.num * 256 + (countAt s q.2).1)) s
  | none =>
    if anyReserved s (regionLines s die part r) then
      awaiting (modPart s die part (fun p => { p with regions := p.regions.map (fun q =>
        if q.num = r.num then { q with ending := true, waiter := some (c, s.focus.idx, s.focus.tag) } else q) }))
    else
      let e := endRegion s c die part r
      answerWord (.rcend f) (endWord 0 e.2) e.1

/-- RCEND (R323). -/
def execRcend (f : LFields) (s : State) : Result :=
  fire (.rcend f) s (fun a _ _ s =>
    let v := (word a.value 0).toNat
    if v / 64 ≠ 0 then faulted clsPathReserved 0x14 (word a.value 0) 0 s
    else
      match (partOf s s.focus.c).regions.find? (·.num = v) with
      | none => answerWord (.rcend f) (endWord 1 0) s
      | some r =>
        if r.waiter == some (s.focus.c, s.focus.idx, s.focus.tag) then awaiting s
        else if r.ending then answerWord (.rcend f) (endWord 1 0) s
        else endDeclared f r s)

/-- RCQ (R324). -/
def execRcq (f : LFields) (s : State) : Result :=
  fire (.rcq f) s (fun a _ _ s =>
    let p := addrOf (word a.value 0) (offsetOf f)
    match basicCheck p with
    | some e => faultAcc e s
    | none =>
      if 1 < ptrPath p then faulted clsPathReserved 0x07 p 0 s
      else
        match locateByte s (whoAt s) .read p 0 with
        | .error e => faultAcc e s
        | .ok l =>
          let q := countAt s l
          let v := match regionAt (partOf s s.focus.c) l with
            | none => 1 * 2 ^ 56
            | some r => (if r.ending then 2 else 0) * 2 ^ 56 + r.num * 2 ^ 16
          fired (.rcq f) { r0 := some (scalar (BitVec.ofNat 64 (v + q.2 * 2 ^ 8 + q.1))) } s)

/-! ## Range maintenance (R325, R326) -/

/-- The pages of a range are translated in ascending order: the first fault. -/
def rangeFault (s : State) (w : Who) (want : Want) (p : Word) (len : Nat) : Option AccFault :=
  let starts := 0 :: (((List.range (len / 2 ^ 16 + 1)).map (fun k => (k + 1) * 2 ^ 16 - ptrAddr p % 2 ^ 16)).filter (· < len))
  starts.findSome? (fun k =>
    match locateByte s w want p k with
    | .error e => some e
    | .ok _ => none)

/-- The lines of a translated range: physical line and virtual address. -/
def rangeLines (s : State) (w : Who) (p : Word) (len : Nat) : List (Nat × Nat) :=
  (List.range (len / 64)).filterMap (fun k =>
    match locateByte s w .read p (64 * k) with
    | .ok (.pa a va) => some (a / 64, va)
    | _ => none)

/-- The checks of a range at firing (R325). -/
def checkRange (want : Want) (s : State) (p : Word) (len : Nat) : Option AccFault :=
  match basicCheck p with
  | some e => some e
  | none =>
    if ptrPath p ≠ pathGEN || ptrAddr p % 64 ≠ 0 || len % 64 ≠ 0 || len = 0 || 2 ^ 30 < len then
      some ⟨clsPathReserved, 0x15, p, 0⟩
    else rangeFault s (whoAt s) want p len

/-- RWB and RINV: the range as translated at firing is written back at the commit. -/
def rangeWriteBack (i : Instr) (f : LFields) (invalidate : Bool) (s : State) : Result :=
  fire i s (fun a b _ s =>
    let p := addrOf (word a.value 0) (offsetOf f)
    let len := (word b.value 0).toNat
    match checkRange (if invalidate then .write else .read) s p len with
    | some e => faultAcc e s
    | none => fired i { effs := [.rangeWb ((rangeLines s (whoAt s) p len).map (·.1)) invalidate] } s)

/-- RWB (R325). -/
def execRwb (f : LFields) (s : State) : Result := rangeWriteBack (.rwb f) f false s
/-- RINV (R325). -/
def execRinv (f : LFields) (s : State) : Result := rangeWriteBack (.rinv f) f true s

/-- A line of a range is dirty, in the L1s looked at or at its home. -/
def lineDirty (s : State) (group : List Nat) (line : Nat) : Bool :=
  (l2At s line).dirty || group.any (fun k => (coreAt s k).dirty.any (fun e => e.1 / 64 = line))

/-- Tenure of another party covers a byte of a line; a lapsed READ does not count (R293). -/
def foreignTenure (p : Part) (holder va : Nat) : Bool :=
  p.handles.any (fun h => spansMeet va (va + 64) h.lo h.hi
    && h.tens.any (fun t => t.holder ≠ holder && !(t.kind = 1 && t.lapsed)))

/-- One line of a range is dropped; a live count is logged (R284). -/
def discardLine (s : State) (c : CtxId) (group : List Nat) (q : Nat × Nat) : State :=
  let l := Loc.pa (64 * q.1) q.2
  let n := (l2At s q.1).n
  let s := if n ≠ 0 then logFor s c l 0x03 n (((regionAt (partOf s c) l).map (·.num)).getD 0) else s
  let s := group.foldl (fun s k => modCore s k (fun co =>
    { co with clean := tabDel q.1 co.clean, dirty := co.dirty.filter (fun e => e.1 / 64 ≠ q.1) })) s
  modL2 s q.1 (fun _ => blankLine)

/-- RDISC with its range checked (R284). One that must wait keeps its lines in mind, and looks again. -/
def discardRange (f : LFields) (p : Word) (len : Nat) (s : State) : State :=
  let c := s.focus.c
  let w := whoAt s
  let lines := rangeLines s w p len
  let group := l1Group s w.core
  let part := partAt s w.die w.part
  match lines.find? (fun q => lineDirty s group q.1 && foreignTenure part (holderOf s w) q.2) with
  | some q => faulted clsTenureConflict 0x04 (withAddr p q.2) 0 s
  | none =>
    let own := (frameAt s c s.focus.frame).bind (fun fr => fr.reserved.find? (fun r => match r.2 with
      | .pa a _ => lines.any (fun q => q.1 = a / 64)
      | _ => false))
    match own with
    | some r =>
      faulted clsOverRead 0x03 0
        (BitVec.ofNat 64 (((regionAt part r.2).map (·.num)).getD 0 * 256 + (countAt s r.2).1)) s
    | none =>
      if lines.any (fun q => (l2At s q.1).v ≠ 0) then awaiting (modCtx s c (fun x => { x with discWait := lines.map (·.1) }))
      else
        let tag := s.focus.tag
        let s := modCtx s c (fun x => { x with discWait := [] })
        reloadLater (answered (.rdisc f) none 0 (lines.foldl (fun s q => discardLine s c group q) s)) c tag f.lsid.toNat

/-- RDISC (R326). -/
def execRdisc (f : LFields) (s : State) : Result :=
  fire (.rdisc f) s (fun a b _ s =>
    let p := addrOf (word a.value 0) (offsetOf f)
    let len := (word b.value 0).toNat
    match checkRange .write s p len with
    | some e => faultAcc e s
    | none => discardRange f p len s)

end Sys2Proof.Machine
end

