-- ==== Sys2Proof/Machine/IntAlu.lean ====
section
/-! DEFINITION. Class 0x0, integer and address arithmetic (R88 to R92): the value of each instruction on its
operands, and its meaning. -/

namespace Sys2Proof.Machine

open Sys2Proof

/-- An exact integer delivered in a type: wrapped, or clamped under saturate with Saturated (R88). -/
def fitInt (ty : ElemType) (sat : Bool) (x : Int) : LaneRes :=
  if minOf ty ≤ x && x ≤ maxOf ty then (wrapTo ty.width x, 0)
  else if sat then (wrapTo ty.width (if x < minOf ty then minOf ty else maxOf ty), fSaturated)
  else (wrapTo ty.width x, 0)

/-- An instruction that fits an exact integer function of its lanes. -/
def intLanes (f : GFields) (a b c : Wide) (op : Int → Int → Int → Int) : Wide × BitVec 6 :=
  elementwise f a b c (fun x y z => fitInt f.ty f.sat (op (readInt f.ty x) (readInt f.ty y) (readInt f.ty z)))

def valAdd (f : GFields) (a b c : Wide) : Wide × BitVec 6 := intLanes f a b c (fun x y _ => x + y)
def valSub (f : GFields) (a b c : Wide) : Wide × BitVec 6 := intLanes f a b c (fun x y _ => x - y)
def valNeg (f : GFields) (a b c : Wide) : Wide × BitVec 6 := intLanes f a b c (fun x _ _ => -x)
def valAbs (f : GFields) (a b c : Wide) : Wide × BitVec 6 := intLanes f a b c (fun x _ _ => (x.natAbs : Int))
def valMul (f : GFields) (a b c : Wide) : Wide × BitVec 6 := intLanes f a b c (fun x y _ => x * y)
def valMad (f : GFields) (a b c : Wide) : Wide × BitVec 6 := intLanes f a b c (fun x y z => x * y + z)

/-- Bits [2w−1:w] of the exact product. -/
def valMulh (f : GFields) (a b c : Wide) : Wide × BitVec 6 :=
  intLanes f a b c (fun x y _ => x * y / (2 ^ f.ty.width : Nat))

def valMinI (f : GFields) (a b c : Wide) : Wide × BitVec 6 := intLanes f a b c (fun x y _ => min x y)
def valMaxI (f : GFields) (a b c : Wide) : Wide × BitVec 6 := intLanes f a b c (fun x y _ => max x y)
def valClamp (f : GFields) (a b c : Wide) : Wide × BitVec 6 := intLanes f a b c (fun x y z => min (max x y) z)
def valAbsd (f : GFields) (a b c : Wide) : Wide × BitVec 6 := intLanes f a b c (fun x y _ => ((x - y).natAbs : Int))
def valAvg (f : GFields) (a b c : Wide) : Wide × BitVec 6 := intLanes f a b c (fun x y _ => (x + y + 1) / 2)

/-- The quotient truncated toward zero, with the results R89 defines for zero and overflow. -/
def divLane (ty : ElemType) (sat : Bool) (x y : Int) : LaneRes :=
  if y = 0 then (2 ^ ty.width - 1, 0) else fitInt ty sat (x.tdiv y)

/-- The remainder with the sign of the dividend (R89). -/
def remLane (ty : ElemType) (x y : Int) : LaneRes :=
  if y = 0 then (wrapTo ty.width x, 0) else (wrapTo ty.width (x.tmod y), 0)

def valDiv (f : GFields) (a b c : Wide) : Wide × BitVec 6 :=
  elementwise f a b c (fun x y _ => divLane f.ty f.sat (readInt f.ty x) (readInt f.ty y))

def valRem (f : GFields) (a b c : Wide) : Wide × BitVec 6 :=
  elementwise f a b c (fun x y _ => remLane f.ty (readInt f.ty x) (readInt f.ty y))

/-- The sum, or difference, with the carry or borrow of bit 0 of c: results for targets 0 and 1 (R91). -/
def carryLane (w : Nat) (subtract : Bool) (x y z : Nat) : Nat × Nat :=
  let t : Int := if subtract then (x : Int) - y - (z % 2 : Nat) else (x : Int) + y + (z % 2 : Nat)
  (wrapTo w t, if subtract then (if t < 0 then 1 else 0) else (t / (2 ^ w : Nat)).toNat)

def valCarry (f : GFields) (subtract : Bool) (a b c : Wide) : Wide × Wide :=
  let lane := fun i => carryLane f.ty.width subtract (laneN f.ty.width a i) (bLane f b i) (laneN f.ty.width c i)
  if f.wide then
    (fromLanes f.ty.width (laneCount f.ty.width) (fun i => (lane i).1),
     fromLanes f.ty.width (laneCount f.ty.width) (fun i => (lane i).2))
  else (scalarOf f.ty (lane 0).1, scalar64 (lane 0).2)

/-- A byte read by the signedness of the type. -/
def byteVal (signed : Bool) (v : Wide) (i : Nat) : Int :=
  if signed then toSigned 8 (laneN 8 v i) else (laneN 8 v i : Nat)

/-- DOT4 (R90): 32-bit lanes. -/
def valDot4 (f : GFields) (a b c : Wide) : Wide × BitVec 6 :=
  let sg := f.ty.signed
  let out : ElemType := if sg then .i32 else .n32
  let lane := fun j =>
    fitInt out f.sat (readInt out (laneN 32 c j)
      + ((List.range 4).map (fun k => byteVal sg a (4 * j + k) * byteVal sg b (4 * j + k))).sum)
  perLane out f.wide lane

/-- SAD (R90): 64-bit lanes. -/
def valSad (f : GFields) (a b c : Wide) : Wide × BitVec 6 :=
  let lane := fun j =>
    ((laneN 64 c j
      + ((List.range 8).map (fun k => (byteVal false a (8 * j + k) - byteVal false b (8 * j + k)).natAbs)).sum) % 2 ^ 64,
     (0 : BitVec 6))
  perLane .n64 f.wide lane

/-- The address of R58: the low 54 bits move, bits [63:54] pass through. -/
def addrAdd (p : Nat) (x : Int) : Nat := p / 2 ^ 54 % 2 ^ 10 * 2 ^ 54 + wrapTo 54 ((p % 2 ^ 54 : Nat) + x)

/-- ADDP (R92). -/
def valAddp (f : GFields) (a b : Wide) : Wide × BitVec 6 :=
  let x := if f.imm then toSigned 16 (immN f) else toSigned 64 (laneN 64 b 0)
  plain (scalar64 (addrAdd (laneN 64 a 0) x))

/-- SUBP (R92). -/
def valSubp (a b : Wide) : Wide × BitVec 6 :=
  plain ((BitVec.ofInt 64 (toSigned 54 (wrapTo 54 ((laneN 54 a 0 : Nat) - (laneN 54 b 0 : Nat) : Int)))).setWidth 512)

/-- PTRF (R92). -/
def valPtrf (f : GFields) (a b : Wide) : Wide × BitVec 6 :=
  let x := (if f.imm then immN f else laneN 64 b 0) % 2 ^ 10
  plain (scalar64 (x * 2 ^ 54 + laneN 54 a 0))

/-- PTRX (R92): validation admits the fields 0, 1 and 2 alone. -/
def valPtrx (f : GFields) (a : Wide) : Wide × BitVec 6 :=
  let p := laneN 64 a 0
  plain (scalar64 (match immN f with
    | 0 => p / 2 ^ 54
    | 1 => p % 2 ^ 54
    | _ => p / 2 ^ 61))

/-! ## Meanings -/

/-- ADD (R88). -/
def execAdd (f : GFields) (s : State) : Result := compute (.add f) s (fun _ => valAdd f)
/-- SUB (R88). -/
def execSub (f : GFields) (s : State) : Result := compute (.sub f) s (fun _ => valSub f)
/-- NEG (R88). -/
def execNeg (f : GFields) (s : State) : Result := compute (.neg f) s (fun _ => valNeg f)
/-- ABS (R88). -/
def execAbs (f : GFields) (s : State) : Result := compute (.abs f) s (fun _ => valAbs f)
/-- MUL (R88). -/
def execMul (f : GFields) (s : State) : Result := compute (.mul f) s (fun _ => valMul f)
/-- MULH (R88). -/
def execMulh (f : GFields) (s : State) : Result := compute (.mulh f) s (fun _ => valMulh f)
/-- MAD (R88). -/
def execMad (f : GFields) (s : State) : Result := compute (.mad f) s (fun _ => valMad f)
/-- DIV (R89). -/
def execDiv (f : GFields) (s : State) : Result := compute (.div f) s (fun _ => valDiv f)
/-- REM (R89). -/
def execRem (f : GFields) (s : State) : Result := compute (.rem f) s (fun _ => valRem f)
/-- MIN (R88). -/
def execMinI (f : GFields) (s : State) : Result := compute (.minI f) s (fun _ => valMinI f)
/-- MAX (R88). -/
def execMaxI (f : GFields) (s : State) : Result := compute (.maxI f) s (fun _ => valMaxI f)
/-- CLAMP (R88). -/
def execClamp (f : GFields) (s : State) : Result := compute (.clamp f) s (fun _ => valClamp f)
/-- ABSD (R88). -/
def execAbsd (f : GFields) (s : State) : Result := compute (.absd f) s (fun _ => valAbsd f)
/-- AVG (R88). -/
def execAvg (f : GFields) (s : State) : Result := compute (.avg f) s (fun _ => valAvg f)

/-- ADDC (R91): the sum to target 0, the carry to target 1. -/
def execAddc (f : GFields) (s : State) : Result :=
  fire (.addc f) s (fun a b c s =>
    let r := valCarry f false a.value b.value c.value
    fired (.addc f) { r0 := some (wideTok r.1), r1 := some (wideTok r.2) } s)

/-- SUBB (R91): the difference to target 0, the borrow to target 1. -/
def execSubb (f : GFields) (s : State) : Result :=
  fire (.subb f) s (fun a b c s =>
    let r := valCarry f true a.value b.value c.value
    fired (.subb f) { r0 := some (wideTok r.1), r1 := some (wideTok r.2) } s)

/-- DOT4 (R90). -/
def execDot4 (f : GFields) (s : State) : Result := compute (.dot4 f) s (fun _ => valDot4 f)
/-- SAD (R90). -/
def execSad (f : GFields) (s : State) : Result := compute (.sad f) s (fun _ => valSad f)
/-- ADDP (R92). -/
def execAddp (f : GFields) (s : State) : Result := compute (.addp f) s (fun _ a b _ => valAddp f a b)
/-- SUBP (R92). -/
def execSubp (f : GFields) (s : State) : Result := compute (.subp f) s (fun _ a b _ => valSubp a b)
/-- PTRF (R92). -/
def execPtrf (f : GFields) (s : State) : Result := compute (.ptrf f) s (fun _ a b _ => valPtrf f a b)
/-- PTRX (R92). -/
def execPtrx (f : GFields) (s : State) : Result := compute (.ptrx f) s (fun _ a _ _ => valPtrx f a)

end Sys2Proof.Machine
end

