-- ==== Sys2Proof/Machine/Logic.lean ====
section
/-! DEFINITION. Class 0x1, logic, shifts and bit fields (R93 to R95): the value of each instruction on its operands,
and its meaning. -/

namespace Sys2Proof.Machine

open Sys2Proof

/-- A lane-wise function on unsigned lanes. -/
def bitLanes (f : GFields) (a b c : Wide) (op : Nat → Nat → Nat → Nat) : Wide × BitVec 6 :=
  elementwise f a b c (fun x y z => (op x y z % 2 ^ f.ty.width, 0))

/-- The complement of a lane. -/
def notLane (w x : Nat) : Nat := 2 ^ w - 1 - x % 2 ^ w

def valAnd (f : GFields) (a b c : Wide) : Wide × BitVec 6 := bitLanes f a b c (fun x y _ => x &&& y)
def valOr (f : GFields) (a b c : Wide) : Wide × BitVec 6 := bitLanes f a b c (fun x y _ => x ||| y)
def valXor (f : GFields) (a b c : Wide) : Wide × BitVec 6 := bitLanes f a b c (fun x y _ => x ^^^ y)
def valAndn (f : GFields) (a b c : Wide) : Wide × BitVec 6 :=
  bitLanes f a b c (fun x y _ => x &&& notLane f.ty.width y)
def valOrn (f : GFields) (a b c : Wide) : Wide × BitVec 6 :=
  bitLanes f a b c (fun x y _ => x ||| notLane f.ty.width y)
def valNot (f : GFields) (a b c : Wide) : Wide × BitVec 6 := bitLanes f a b c (fun x _ _ => notLane f.ty.width x)

/-- A left shift of a lane by an unsigned count; saturating, the clamp of the exact value (R94). -/
def shlLane (ty : ElemType) (sat : Bool) (x n : Nat) : LaneRes :=
  if sat then
    let v := readInt ty x
    if v = 0 then (0, 0) else fitInt ty true (v * (2 ^ min n (ty.width + 1) : Nat))
  else (if ty.width ≤ n then 0 else x * 2 ^ n % 2 ^ ty.width, 0)

/-- A logical right shift of a lane. -/
def shrLane (w x n : Nat) : Nat := if w ≤ n then 0 else x / 2 ^ n

/-- An arithmetic right shift of a lane. -/
def sarLane (w x n : Nat) : Nat := wrapTo w (toSigned w x / (2 ^ min n w : Nat))

/-- A rotation to the left by n mod w. -/
def rolLane (w x n : Nat) : Nat := let k := n % w; (x * 2 ^ k + x / 2 ^ (w - k)) % 2 ^ w

def valShl (f : GFields) (a b c : Wide) : Wide × BitVec 6 := elementwise f a b c (fun x y _ => shlLane f.ty f.sat x y)
def valShr (f : GFields) (a b c : Wide) : Wide × BitVec 6 := bitLanes f a b c (fun x y _ => shrLane f.ty.width x y)
def valSar (f : GFields) (a b c : Wide) : Wide × BitVec 6 := bitLanes f a b c (fun x y _ => sarLane f.ty.width x y)
def valRol (f : GFields) (a b c : Wide) : Wide × BitVec 6 := bitLanes f a b c (fun x y _ => rolLane f.ty.width x y)
def valRor (f : GFields) (a b c : Wide) : Wide × BitVec 6 :=
  bitLanes f a b c (fun x y _ => rolLane f.ty.width x (f.ty.width - y % f.ty.width))

def popcLane (w x : Nat) : Nat := ((List.range w).filter (fun k => x.testBit k)).length
def clzLane (w x : Nat) : Nat := if x % 2 ^ w = 0 then w else w - 1 - Nat.log2 (x % 2 ^ w)
def ctzLane (w x : Nat) : Nat := ((List.range w).find? (fun k => x.testBit k)).getD w
def brevLane (w x : Nat) : Nat := (List.range w).foldl (fun acc k => acc * 2 + x / 2 ^ k % 2) 0
def bswapLane (w x : Nat) : Nat := (List.range (w / 8)).foldl (fun acc k => acc * 256 + x / 256 ^ k % 256) 0

def valPopc (f : GFields) (a b c : Wide) : Wide × BitVec 6 := bitLanes f a b c (fun x _ _ => popcLane f.ty.width x)
def valClz (f : GFields) (a b c : Wide) : Wide × BitVec 6 := bitLanes f a b c (fun x _ _ => clzLane f.ty.width x)
def valCtz (f : GFields) (a b c : Wide) : Wide × BitVec 6 := bitLanes f a b c (fun x _ _ => ctzLane f.ty.width x)
def valBrev (f : GFields) (a b c : Wide) : Wide × BitVec 6 := bitLanes f a b c (fun x _ _ => brevLane f.ty.width x)
def valBswap (f : GFields) (a b c : Wide) : Wide × BitVec 6 := bitLanes f a b c (fun x _ _ => bswapLane f.ty.width x)

/-- The field descriptor of a lane (R95): position and length, the length taken as at most w. -/
def fieldDesc (f : GFields) (b : Wide) (i : Nat) : Nat × Nat :=
  let d := if f.imm then immN f else if f.ty.width = 8 then laneN 16 b 0 else laneN f.ty.width b i % 2 ^ 16
  (d % 256, min (d / 256) f.ty.width)

/-- BEXT of a lane (R95). -/
def bextLane (ty : ElemType) (x pos len : Nat) : Nat :=
  if len = 0 then 0
  else
    let v := if ty.signed then wrapTo (ty.width * 2 + 256) (toSigned ty.width x) else x
    let fld := v / 2 ^ min pos (ty.width + 1) % 2 ^ len
    if ty.signed then wrapTo ty.width (toSigned len fld) else fld

/-- BINS of a lane (R95). -/
def binsLane (w x y pos len : Nat) : Nat :=
  if len = 0 || w ≤ pos then x
  else
    let mask := (2 ^ len - 1) * 2 ^ pos % 2 ^ w
    (x &&& notLane w mask) ||| (y % 2 ^ len * 2 ^ pos % 2 ^ w)

def valBext (f : GFields) (a b : Wide) : Wide × BitVec 6 :=
  perLane f.ty f.wide (fun i => (bextLane f.ty (laneN f.ty.width a i) (fieldDesc f b i).1 (fieldDesc f b i).2, 0))

def valBins (f : GFields) (a b c : Wide) : Wide × BitVec 6 :=
  perLane f.ty f.wide (fun i =>
    (binsLane f.ty.width (laneN f.ty.width a i) (laneN f.ty.width c i) (fieldDesc f b i).1 (fieldDesc f b i).2, 0))

/-! ## Meanings -/

/-- AND (R93). -/
def execAndB (f : GFields) (s : State) : Result := compute (.andB f) s (fun _ => valAnd f)
/-- OR (R93). -/
def execOrB (f : GFields) (s : State) : Result := compute (.orB f) s (fun _ => valOr f)
/-- XOR (R93). -/
def execXorB (f : GFields) (s : State) : Result := compute (.xorB f) s (fun _ => valXor f)
/-- ANDN (R93). -/
def execAndn (f : GFields) (s : State) : Result := compute (.andn f) s (fun _ => valAndn f)
/-- ORN (R93). -/
def execOrn (f : GFields) (s : State) : Result := compute (.orn f) s (fun _ => valOrn f)
/-- NOT (R93). -/
def execNotB (f : GFields) (s : State) : Result := compute (.notB f) s (fun _ => valNot f)
/-- SHL (R94). -/
def execShl (f : GFields) (s : State) : Result := compute (.shl f) s (fun _ => valShl f)
/-- SHR (R94). -/
def execShr (f : GFields) (s : State) : Result := compute (.shr f) s (fun _ => valShr f)
/-- SAR (R94). -/
def execSar (f : GFields) (s : State) : Result := compute (.sar f) s (fun _ => valSar f)
/-- ROL (R93). -/
def execRol (f : GFields) (s : State) : Result := compute (.rol f) s (fun _ => valRol f)
/-- ROR (R93). -/
def execRor (f : GFields) (s : State) : Result := compute (.ror f) s (fun _ => valRor f)
/-- POPC (R93). -/
def execPopc (f : GFields) (s : State) : Result := compute (.popc f) s (fun _ => valPopc f)
/-- CLZ (R93). -/
def execClz (f : GFields) (s : State) : Result := compute (.clz f) s (fun _ => valClz f)
/-- CTZ (R93). -/
def execCtz (f : GFields) (s : State) : Result := compute (.ctz f) s (fun _ => valCtz f)
/-- BREV (R93). -/
def execBrev (f : GFields) (s : State) : Result := compute (.brev f) s (fun _ => valBrev f)
/-- BSWAP (R93). -/
def execBswap (f : GFields) (s : State) : Result := compute (.bswap f) s (fun _ => valBswap f)
/-- BEXT (R95). -/
def execBext (f : GFields) (s : State) : Result := compute (.bext f) s (fun _ a b _ => valBext f a b)
/-- BINS (R95). -/
def execBins (f : GFields) (s : State) : Result := compute (.bins f) s (fun _ => valBins f)

end Sys2Proof.Machine
end

