-- ==== Sys2Proof/Machine/DataOps.lean ====
section
/-! DEFINITION. Class 0x6, hashing, partitioning and strings (R112 to R117), and the start of ISECT (R118): the value
of each instruction on its operands, and its meaning. -/

namespace Sys2Proof.Machine

open Sys2Proof

/-! ## Hashing (R114) -/

def mix32 (x0 : Nat) : Nat :=
  let m := 2 ^ 32
  let x := (x0 ^^^ x0 / 2 ^ 16) % m * 0xD4E62C8B % m
  let y := (x ^^^ x / 2 ^ 13) * 0xA71C59E3 % m
  y ^^^ y / 2 ^ 16

def mix64 (x0 : Nat) : Nat :=
  let m := 2 ^ 64
  let x := (x0 ^^^ x0 / 2 ^ 31) % m * 0xB5E39A47D2C186ED % m
  let y := (x ^^^ x / 2 ^ 29) * 0xE7A13C5F2B98D4C3 % m
  y ^^^ y / 2 ^ 32

def hash32 (a s : Nat) : Nat := mix32 (a ^^^ s * 0x9B3F71A5 % 2 ^ 32)
def hash64 (a s : Nat) : Nat := mix64 (a ^^^ s * 0x8F1B4D2A6C3E5F71 % 2 ^ 64)
def hcomb32 (a b : Nat) : Nat := mix32 (rolLane 32 a 13 ^^^ b)
def hcomb64 (a b : Nat) : Nat := mix64 (rolLane 64 a 27 ^^^ b)

/-- Lane i of the seed or key field: slot b, or imm16 zero-extended (R113). -/
def seedLane (f : GFields) (b : Wide) (i : Nat) : Nat := if f.imm then immN f else laneN f.ty.width b i

def hashLanes (f : GFields) (a b : Wide) (h : Nat → Nat → Nat) : Wide × BitVec 6 :=
  perLane f.ty f.wide (fun i => (h (laneN f.ty.width a i) (seedLane f b i), 0))

def valHash32 (f : GFields) (a b : Wide) : Wide × BitVec 6 := hashLanes f a b hash32
def valHash64 (f : GFields) (a b : Wide) : Wide × BitVec 6 := hashLanes f a b hash64
def valHcomb (f : GFields) (a b : Wide) : Wide × BitVec 6 :=
  hashLanes f a b (if f.ty = .n32 then hcomb32 else hcomb64)

/-! ## Partitioning (R115) -/

/-- BUCKET: the number of buckets is bits [31:0] of element 0 of b. -/
def valBucket (f : GFields) (a b : Wide) : Wide × BitVec 6 :=
  let n := if f.imm then immN f else laneN 32 b 0
  perLane f.ty f.wide (fun i =>
    let x := laneN f.ty.width a i
    ((if f.ty = .n32 then x else x / 2 ^ 32) * n / 2 ^ 32, 0))

/-- The base of the window of 16 buckets. -/
def windowBase (f : GFields) (b : Wide) : Nat := if f.imm then immN f else laneN 32 b 0

/-- The counter that key v advances. -/
def inWindow (base v : Nat) : Bool := base ≤ v && v < base + 16

/-- BKHIST, lane after lane: the counters and the Saturated flag. -/
def bkhistFrom (sat : Bool) (base : Nat) : List Nat → List Nat → List Nat × BitVec 6
  | [], h => (h, 0)
  | v :: vs, h =>
    if inWindow base v then
      let n := h.getD (v - base) 0
      let full := n = 2 ^ 32 - 1
      let r := bkhistFrom sat base vs (h.set (v - base) (if full then (if sat then n else 0) else n + 1))
      (r.1, r.2 ||| flagIf (full && sat) fSaturated)
    else bkhistFrom sat base vs h

def valBkhist (f : GFields) (a b c : Wide) : Wide × BitVec 6 :=
  let r := bkhistFrom f.sat (windowBase f b) ((List.range 16).map (laneN 32 a)) ((List.range 16).map (laneN 32 c))
  (fromLanes 32 16 (fun i => r.1.getD i 0), r.2)

/-- BKSCAT, lane after lane: the slots and the advanced cursors. -/
def bkscatFrom (base : Nat) : List Nat → List Nat → List Nat × List Nat
  | [], cur => ([], cur)
  | v :: vs, cur =>
    if inWindow base v then
      let n := cur.getD (v - base) 0
      let r := bkscatFrom base vs (cur.set (v - base) ((n + 1) % 2 ^ 32))
      (n :: r.1, r.2)
    else
      let r := bkscatFrom base vs cur
      ((2 ^ 32 - 1) :: r.1, r.2)

def valBkscat (f : GFields) (a b c : Wide) : Wide × Wide :=
  let r := bkscatFrom (windowBase f b) ((List.range 16).map (laneN 32 a)) ((List.range 16).map (laneN 32 c))
  (fromLanes 32 16 (fun i => r.1.getD i 0), fromLanes 32 16 (fun i => r.2.getD i 0))

/-! ## Strings (R116, R117) -/

/-- The state of a string scan. -/
structure Scan where
  h : Nat
  d : Bool
  o : Nat
  r : Nat
  n : Nat
  deriving DecidableEq, Repr

/-- The state a token carries; a scan that goes on reads outcome 11 as 00, and one that has ended passes it unchanged. -/
def readScan (c : Wide) : Scan :=
  let w := laneN 64 c 0
  ⟨laneN 64 c 1, w.testBit 63, (let o := field w 61 2; if o = 3 && !w.testBit 63 then 0 else o), field w 24 24, field w 0 24⟩

def writeScan (s : Scan) : Wide :=
  BitVec.ofNat 512 (s.h % 2 ^ 64 * 2 ^ 64 + (if s.d then 2 ^ 63 else 0) + s.o * 2 ^ 61 + s.r * 2 ^ 24 + s.n)

/-- One byte is consumed. -/
def Scan.consume (s : Scan) : Scan :=
  { s with n := (s.n + 1) % 2 ^ 24, r := if s.r = 2 ^ 24 - 1 then s.r else s.r - 1 }

/-- The string ends at a byte: the limit is reached, or it is the terminator. -/
def Scan.ends (s : Scan) (imm x : Nat) : Bool := s.r = 0 || (imm.testBit 8 && x = imm % 256)

/-- A scan over the 64 bytes of a token, stopping where D is set. -/
def scanFrom (step : Scan → Nat → Scan) : List Nat → Scan → Scan
  | [], s => s
  | j :: js, s => if s.d then s else scanFrom step js (step s j)

def runScan (c : Wide) (step : Scan → Nat → Scan) : Wide × BitVec 6 :=
  plain (writeScan (scanFrom step (List.range 64) (readScan c)))

def valSlen (f : GFields) (a c : Wide) : Wide × BitVec 6 :=
  runScan c (fun s j => if s.ends (immN f) (laneN 8 a j) then { s with d := true } else s.consume)

def valShash (f : GFields) (a c : Wide) : Wide × BitVec 6 :=
  runScan c (fun s j =>
    if s.ends (immN f) (laneN 8 a j) then { s with d := true }
    else Scan.consume { s with h := (s.h ^^^ laneN 8 a j) * 0x0000010000000233 % 2 ^ 64 })

def valScmp (f : GFields) (a b c : Wide) : Wide × BitVec 6 :=
  runScan c (fun s j =>
    let x := laneN 8 a j
    let y := laneN 8 b j
    let ea := s.ends (immN f) x
    let eb := s.ends (immN f) y
    if ea && eb then { s with d := true }
    else if ea then { s with o := 1, d := true }
    else if eb then { s with o := 2, d := true }
    else if x ≠ y then { s with o := if x < y then 1 else 2, d := true }
    else s.consume)

def valSpfx (f : GFields) (a b c : Wide) : Wide × BitVec 6 :=
  runScan c (fun s j =>
    let x := laneN 8 a j
    let y := laneN 8 b j
    if s.ends (immN f) y then { s with d := true }
    else if s.ends (immN f) x || x ≠ y then { s with o := 1, d := true }
    else s.consume)

def valSfind (f : GFields) (a b c : Wide) : Wide × BitVec 6 :=
  runScan c (fun s j =>
    let x := laneN 8 a j
    if s.ends (immN f) x then { s with d := true }
    else if x = laneN 8 b 0 then { s with o := 1, d := true }
    else s.consume)

/-! ## ISECT (R118 to R120) -/

/-- The stream token at the head of a slot: the first not consumed. -/
def headToken (fr : Frame) (idx : Nat) (sl : Slot) (n : Nat) : Option Token :=
  (fr.ops.find? (fun o => o.idx == idx && o.slot == sl && o.tag == .iter n)).map (·.tok)

/-- The key of a stream token (R119). -/
def streamKey (t : Token) : Nat :=
  match t.stop with
  | some k => 2 ^ 32 + k
  | none => (t.coord.getD 0).toNat

/-- The instruction at an index is its leader's to fire. -/
def followsIdx (fr : Frame) (idx : Nat) : Bool := (instrAt fr idx).any (followsAt fr)

/-- A producer may make its k-th emission: its iteration is open, or past, or its targets are heads that have taken its last
token (R118, R150); the heads of an ISECT that a follower leaves to its leader do not let it run ahead. -/
def emitOpen (fr : Frame) (i : Instr) (k : Nat) : Bool :=
  k < fr.iter || isOpen fr k
    || (let heads := (targetsOf i).filter (fun t => match t.1 with
          | .operand sl m => isHead fr m.toNat && sl != .p && !followsIdx fr m.toNat
          | _ => false)
        !heads.isEmpty && !fr.flight.any (fun g => heads.any (fun t => t.1 == g.dst) && g.src == some (k - 1)))

/-- One comparison of the heads (R119): discard the lesser, or emit the pair or the stop as the k-th emission. A token that is
consumed stays noted until no squash can bring it back (R157). In a follower an ISECT that is its leader's to fire emits
nothing, and consumes for the case that the member departs; after that it emits for the iterations still open (R145, R159). -/
def isectStep (i : Instr) (idx : Nat) (fr : Frame) : Frame :=
  let q := isectNow fr idx
  match headToken fr idx .a q.na, headToken fr idx .b q.nb with
  | some ta, some tb =>
    let others := fr.isects.filter (fun p => !(p.idx == idx && p.k == q.k))
    if streamKey ta < streamKey tb then { fr with isects := others ++ [{ q with na := q.na + 1 }] }
    else if streamKey tb < streamKey ta then { fr with isects := others ++ [{ q with nb := q.nb + 1 }] }
    else if emitOpen fr i q.k then
      let fl := if followsAt fr i || q.k < fr.iter then []
        else flightsOf i (.iter q.k) (some ta) (some { tb with coord := ta.coord })
      let fr := (fl.filter (isOut (.iter q.k))).foldl (addOut q.k) fr
      { fr with
        flight := fr.flight ++ fl.filter (fun f => !isOut (.iter q.k) f)
        isects := fr.isects ++ [⟨idx, q.k + 1, q.na + 1, q.nb + 1, ta.stop == some 3⟩] }
    else fr
  | _, _ => fr

/-! ## Meanings -/

/-- HASH32 (R114). -/
def execHash32 (f : GFields) (s : State) : Result := compute (.hash32 f) s (fun _ a b _ => valHash32 f a b)
/-- HASH64 (R114). -/
def execHash64 (f : GFields) (s : State) : Result := compute (.hash64 f) s (fun _ a b _ => valHash64 f a b)
/-- HCOMB (R114). -/
def execHcomb (f : GFields) (s : State) : Result := compute (.hcomb f) s (fun _ a b _ => valHcomb f a b)
/-- BUCKET (R115). -/
def execBucket (f : GFields) (s : State) : Result := compute (.bucket f) s (fun _ a b _ => valBucket f a b)
/-- BKHIST (R115). -/
def execBkhist (f : GFields) (s : State) : Result := compute (.bkhist f) s (fun _ => valBkhist f)

/-- BKSCAT (R115): the slots to target 0, the cursors to target 1. -/
def execBkscat (f : GFields) (s : State) : Result :=
  fire (.bkscat f) s (fun a b c s =>
    let r := valBkscat f a.value b.value c.value
    fired (.bkscat f) { r0 := some (wideTok r.1), r1 := some (wideTok r.2) } s)

/-- SLEN (R117). -/
def execSlen (f : GFields) (s : State) : Result := compute (.slen f) s (fun _ a _ c => valSlen f a c)
/-- SCMP (R117). -/
def execScmp (f : GFields) (s : State) : Result := compute (.scmp f) s (fun _ => valScmp f)
/-- SPFX (R117). -/
def execSpfx (f : GFields) (s : State) : Result := compute (.spfx f) s (fun _ => valSpfx f)
/-- SFIND (R117). -/
def execSfind (f : GFields) (s : State) : Result := compute (.sfind f) s (fun _ => valSfind f)
/-- SHASH (R117). -/
def execShash (f : GFields) (s : State) : Result := compute (.shash f) s (fun _ a _ c => valShash f a c)

/-- ISECT (R119, R120): one head comparison once both heads hold tokens. A uniform ISECT of a follower delivers nothing. An
ISECT whose heads are fed by `out` targets of another does not fire in the final phase and holds back every iteration
commit while its heads stand open (DESIGN CHOICE, log entry 87). -/
def execIsect (f : GFields) (s : State) : Result :=
  match frameAt s s.focus.c s.focus.frame with
  | none => .next s
  | some fr =>
    let x := ctxAt s s.focus.c
    if x.st != .running || !fr.mapped || (isectNow fr s.focus.idx).done || fr.finalPh then .next s
    else
      let n := fr.flight.length
      let m := fr.outs.length
      let s := modFrame s s.focus.c s.focus.frame (isectStep (.isect f) s.focus.idx)
      match frameAt s s.focus.c s.focus.frame with
      | some fr' => .next (broadcast (.isect f) s (fr'.flight.drop n ++ (fr'.outs.drop m).map (·.2)))
      | none => .next s

end Sys2Proof.Machine
end

