-- ==== Sys2Proof/Machine/Exits.lean ====
section
/-! DEFINITION. Class 0x8, exits (R20, R32, R143, R148, R154, R160). -/

namespace Sys2Proof.Machine

open Sys2Proof

/-- The address of a BR: the own block address plus 128 times the offset, path bits kept (R160). -/
def brTarget (fr : Frame) (f : BFields) : Word :=
  let b := fr.addr.toNat
  BitVec.ofNat 64 (b / 2 ^ 54 * 2 ^ 54 + ((b % 2 ^ 54 : Nat) + 128 * f.off.toInt : Int) % (2 ^ 54 : Nat) |>.toNat)

/-- A leader's exit is known to its followers (R143). -/
def tellExit (s : State) (c : CtxId) (pos : Nat) (e : ExitRec) : State :=
  if (ctxAt s c).course == .leader then
    (followersOf s c.core).foldl (fun s k => modMate s c k (fun y =>
      if y.pos ≤ pos then { y with lexits := y.lexits ++ [(pos, e)] } else y)) s
  else s

/-- An exit fires and counts (R20). In a pinned block it waits for its iteration to be the oldest (R154). -/
def takeExit (i : Instr) (e : ExitRec) (s : State) : State :=
  match frameAt s s.focus.c s.focus.frame with
  | none => s
  | some fr =>
    let s := modFrame (fired i {} s) s.focus.c s.focus.frame (fun fr => { fr with exits := fr.exits ++ [e] })
    if isPinned fr then s
    else tellExit (followExit s s.focus.c s.focus.frame e.target) s.focus.c fr.pos e

/-- BR and its forms fire without data operands. -/
def takeBr (i : Instr) (f : BFields) (s : State) : State :=
  match frameAt s s.focus.c s.focus.frame with
  | none => s
  | some fr => takeExit i ⟨brTarget fr f, s.focus.tag, f.leave, f.mchk⟩ s

/-- BR (R160). -/
def execBr (f : BFields) (s : State) : Result := fire (.br f) s (fun _ _ _ s => takeBr (.br f) f s)

/-- BR.leave (R154). -/
def execBrLeave (f : BFields) (s : State) : Result := fire (.brLeave f) s (fun _ _ _ s => takeBr (.brLeave f) f s)

/-- BR.mchk (R148). -/
def execBrMchk (f : BFields) (s : State) : Result := fire (.brMchk f) s (fun _ _ _ s => takeBr (.brMchk f) f s)

/-- BRI (R160): the target is bits [63:0] of slot a. -/
def execBri (f : BFields) (s : State) : Result :=
  fire (.bri f) s (fun a _ _ s => takeExit (.bri f) ⟨word a.value 0, s.focus.tag, f.leave, f.mchk⟩ s)

end Sys2Proof.Machine
end

