-- ==== Sys2Proof/Machine/Validate.lean ====
section
/-! DEFINITION. The validation of a block image as it is mapped (R54): every condition with its cause and place, and
the one the record carries. -/

namespace Sys2Proof.Machine

open Sys2Proof

/-- A failing place (R54): cause, kind of place (0 header word, 1 read entry, 2 write entry, 3 instruction), number. -/
structure Failing where
  cause : Nat
  kind  : Nat
  num   : Nat
  deriving DecidableEq, Repr

/-- The order of R54: lowest cause, then kind, then number. -/
def failsBefore (x y : Failing) : Bool :=
  x.cause < y.cause || (x.cause = y.cause && (x.kind < y.kind || (x.kind = y.kind && x.num < y.num)))

/-- The place the record names. -/
def firstFailure (l : List Failing) : Option Failing :=
  l.foldl (fun b x => match b with
    | none => some x
    | some y => if failsBefore x y then some x else some y) none

/-- A failure at a place when a condition holds. -/
def failIf (b : Bool) (cause kind num : Nat) : List Failing := if b then [⟨cause, kind, num⟩] else []

/-- Failures with causes 0x01 and 0x02, on the header alone (R34, R36). -/
def headerCounts (fr : Frame) : List Failing :=
  failIf (field (hdr fr 0) 56 8 ≠ 0xB7) 0x01 0 0
    ++ failIf (chunkCount fr = 0 || 8 < chunkCount fr || 20 < readCount fr || 24 < writeCount fr) 0x02 0 0
    ++ failIf (32 < lsidCount fr) 0x02 0 1

/-- Reserved header bits, the iteration limit of an unpinned block, and a map bit at or above the count (R21, R36). -/
def headerBits (fr : Frame) : List Failing :=
  failIf (field (hdr fr 0) 0 23 ≠ 0 || field (hdr fr 0) 33 9 ≠ 0) 0x03 0 0
    ++ failIf (hdr fr 1 / 2 ^ 38 ≠ 0) 0x03 0 1
    ++ failIf (hdr fr 2 / 2 ^ 32 ≠ 0) 0x03 0 2
    ++ failIf (iterLimit fr ≠ 0 && !isPinned fr) 0x0C 0 2
    ++ failIf (effectMap fr / 2 ^ lsidCount fr ≠ 0) 0x0B 0 1

/-- Every instruction of an image that has an opcode, its fields read leniently, with its index. -/
def placed (fr : Frame) : List (Nat × Instr) :=
  (indices fr).filterMap (fun n => (decodeLenient (instrWord fr n)).map (fun e => (n, e.1)))

/-- The instruction at an index as `placed` reads it. -/
def placedAt (fr : Frame) (n : Nat) : Option Instr :=
  if 16 * chunkCount fr ≤ n || instrWord fr n = 0 then none else (decodeLenient (instrWord fr n)).map (·.1)

/-- Header flags against the instructions (R35). -/
def headerFlags (fr : Frame) (is : List (Nat × Instr)) : List Failing :=
  failIf ((hdr fr 0).testBit 46 != is.any (fun e => e.2.opcode / 64 = 0xC)
    || (!(hdr fr 0).testBit 45 && is.any (fun e => alwaysIrrevocable e.2))
    || ((hdr fr 0).testBit 43 && !isPinned fr)) 0x0C 0 0

/-- A private register index at or above the context's count (R39). -/
def regBad (regs r : Nat) : Bool := r < 128 && regs ≤ r

/-- A brick executes a class (R9, R49). -/
def brickOk (i : Instr) (idx : Nat) : Bool :=
  let b := idx % 16
  match i.fields with
  | .l _ => b = 0 || b = 8
  | .x f => if f.acc.toNat < 4 then b = 7 else b = 15
  | _ => b ≠ 0 && b ≠ 7 && b ≠ 8 && b ≠ 15

/-- Producers of an operand slot: instructions with the tag arithmetic of the target, and read entries. -/
def producers (is : List (Nat × Instr)) (sl : Slot) (idx : Nat) : List (Nat × TagArith) :=
  is.flatMap (fun e => ((targetsOf e.2).filter (fun t => t.1 == .operand sl (BitVec.ofNat 7 idx))).map (fun t => (e.1, t.2)))

def readProducers (fr : Frame) (sl : Slot) (idx : Nat) : List Nat :=
  (List.range (readCount fr)).filter (fun j => (readTargets fr j).any (· == .operand sl (BitVec.ofNat 7 idx)))

/-- An instruction that a final token reaches (R152), on an image that may still fail: one with a direct `out` producer. One
fed only by a final instruction's same targets is none (DESIGN CHOICE, log entry 90). -/
def finalIn (is : List (Nat × Instr)) (idx : Nat) : Bool :=
  [Slot.a, .b, .c, .p].any (fun sl => (producers is sl idx).any (·.2 == .out))

/-- A target that names nothing able to receive (R10, R14, R19, R40); `self` is the producing instruction. -/
def targetBad (fr : Frame) (t : Target) (self : Option Nat) : Bool :=
  match t with
  | .none => false
  | .write w => writeCount fr ≤ w.toNat
  | .operand sl n =>
    match placedAt fr n.toNat with
    | none => true
    | some i => !(usedSlots i).contains sl || (!isPinned fr && self == some n.toNat)

/-- A running accumulator on an image that may still fail (R156). -/
def accumIn (fr : Frame) (i : Instr) (idx : Nat) : Bool :=
  isPinned fr && i.accForm
    && (match i.fields with
        | .g f => f.t1 == .operand .a (BitVec.ofNat 7 idx)
        | _ => false)

/-- Failures of a read entry (R37, R39, R40). -/
def readFailing (fr : Frame) (regs j : Nat) : List Failing :=
  let e := readEntry fr j
  if readCount fr ≤ j then failIf (e ≠ 0) 0x03 1 j
  else
    let codes := [BitVec.ofNat 11 (field e 13 11), BitVec.ofNat 11 (field e 2 11)]
    let errs := codes.flatMap targetErrors
    failIf (e % 4 ≠ 0 || errs.contains .reserved) 0x03 1 j
      ++ failIf (errs.contains .target || (readTargets fr j).any (targetBad fr · none)) 0x06 1 j
      ++ failIf (regBad regs (readSource fr j)) 0x08 1 j

/-- Failures of a write entry (R19, R38, R39). DESIGN CHOICE (log entry 67): of two entries that name one register the later
is the place that fails. -/
def writeFailing (fr : Frame) (regs n : Nat) : List Failing :=
  if writeCount fr ≤ n then failIf (writeDest fr n ≠ 0) 0x03 2 n
  else failIf (regBad regs (writeDest fr n)) 0x08 2 n
    ++ failIf ((List.range n).any (fun k => writeDest fr k = writeDest fr n)) 0x09 2 n

/-- Tag arithmetic that a block does not admit (R41, R152). -/
def tagBad (fr : Frame) (is : List (Nat × Instr)) (idx : Nat) (t : Target × TagArith) : Bool :=
  if !isPinned fr then t.2 != .same
  else if finalIn is idx then
    t.1 != .none && (t.2 != .same || (match t.1 with
      | .operand _ n => !finalIn is n.toNat || n.toNat = idx
      | _ => false))
  else match t.1 with
    | .write _ => t.2 != .out
    | _ => false

/-- Failures of an instruction by itself and against the header (R10, R20, R21, R35, R40, R43, R154). -/
def instrFailing (fr : Frame) (is : List (Nat × Instr)) (idx : Nat) (i : Instr) : List Failing :=
  let w := instrWord fr idx
  let own := (match decodeLenient w with
    | some (_, errs) => errs.map DecodeError.cause
    | none => []) ++ ownCauses i (accumIn fr i idx)
  own.map (fun c => ⟨c, 3, idx⟩)
    ++ failIf (!brickOk i idx) 0x05 3 idx
    ++ failIf ((targetsOf i).any (fun t => targetBad fr t.1 (some idx) || tagBad fr is idx t)) 0x06 3 idx
    ++ (match i with
        | .lds _ | .isect _ => failIf (!isPinned fr) 0x0C 3 idx
        | _ => [])
    ++ (match i.fields with
        | .l f => failIf (lsidCount fr ≤ f.lsid.toNat || hasEffect i != (effectMap fr).testBit f.lsid.toNat) 0x0B 3 idx
        | .b f => failIf (exitCount fr ≤ f.exit.toNat || (f.leave && !(hdr fr 0).testBit 43) || (isPinned fr && !f.leave)) 0x0A 3 idx
        | _ => [])

/-- Producers that a slot does not admit (R118, R151, R152, R156, R170): the producing place is the one in error. Of several
`next` producers of a slot the first is the one that the rule admits (log entry 67). A slot that a final instruction uses
and nothing feeds is an error of that instruction. -/
def producerFailing (fr : Frame) (is : List (Nat × Instr)) (idx : Nat) (i : Instr) (sl : Slot) : List Failing :=
  let ps := producers is sl idx
  let rs := readProducers fr sl idx
  let stream := fun (n : Nat) => match placedAt fr n with
    | some (.lds _) | some (.isect _) => true
    | _ => false
  let bad := fun (q : Nat × TagArith) =>
    (match i with
      | .lds _ => sl == .a || sl == .b
      | .isect _ => (sl == .a || sl == .b) && (!stream q.1 || q.1 = idx)
      | _ => false)
    || (isPinned fr && (ps.find? (·.2 == .next)).any (fun r => q.2 != .next || q.1 ≠ r.1))
    || (isPinned fr && finalIn is idx && q.2 != .out && !(q.2 == .same && finalIn is q.1))
    || (accumIn fr i idx && sl == .a && q.1 ≠ idx)
  (ps.filter bad).map (fun q => ⟨0x06, 3, q.1⟩)
    ++ (match i with
        | .isect _ => if sl == .a || sl == .b then rs.map (fun j => ⟨0x06, 1, j⟩) else []
        | _ => [])
    ++ failIf (isPinned fr && finalIn is idx && (usedSlots i).contains sl && ps.isEmpty && rs.isEmpty) 0x06 3 idx
    ++ (if accumIn fr i idx && sl == .a then (rs.drop 1).map (fun j => ⟨0x06, 1, j⟩) else [])

/-- Every failure of an image in a context with a count of private registers. -/
def failures (fr : Frame) (regs : Nat) : List Failing :=
  let counts := headerCounts fr
  if !counts.isEmpty then counts
  else
    let is := placed fr
    headerBits fr ++ headerFlags fr is
      ++ (List.range 20).flatMap (readFailing fr regs)
      ++ (List.range 24).flatMap (writeFailing fr regs)
      ++ (indices fr).flatMap (fun n => failIf (placedAt fr n).isNone 0x04 3 n)
      ++ is.flatMap (fun e => instrFailing fr is e.1 e.2)
      ++ is.flatMap (fun e => [Slot.a, .b, .c, .p].flatMap (producerFailing fr is e.1 e.2))

/-- Validation (R54): the failing place that the record carries, if the block fails. -/
def validate (fr : Frame) (regs : Nat) : Option Failing := firstFailure (failures fr regs)

/-- The BLOCK-INVALID recorded against a block that fails (R54, R55): INDEX, WSLOT and the locator. -/
def invalidFault (v : Failing) : FaultRec :=
  { cls := clsBlockInvalid, cause := v.cause, idx := if 2 ≤ v.kind then v.num else 0, wslot := v.kind = 2,
    tag := .persist, addr := 0, arg := BitVec.ofNat 64 (v.kind * 256 + v.num) }

end Sys2Proof.Machine
end

