-- ==== Sys2Proof/Machine/Frames.lean ====
section
/-! DEFINITION. The front end and the operand network: frame grants, fetch and mapping (R128 to R135, R142), the delivery of
register reads and tokens (R11 to R19, R150 to R155) and the emissions of a stream load (R171). -/

namespace Sys2Proof.Machine

open Sys2Proof

/-! ## Frame grants (R123, R129, R130, R138, R142) -/

/-- Frames a context may hold: its layout's quota, or eight on each member of a bond. -/
def frameQuota (s : State) (c : CtxId) : Nat :=
  let w := (bondMembers s c.core).length
  if w ≤ 1 then quotaOf (coreAt s c.core).contexts else 8 * w

/-- The member on which a position of a context's thread is mapped (R138). DESIGN CHOICE (log entry 61): the first block
of the thread goes to the first member. -/
def memberFor (s : State) (c : CtxId) (pos : Nat) : Nat :=
  let ms := bondMembers s c.core
  ms.getD (pos % max 1 ms.length) c.core % 8

/-- Frames in use on a member. -/
def framesOn (s : State) (core member : Nat) : Nat :=
  ((coreAt s core).ctxs.map (fun e => (e.2.frames.filter (·.member = member)).length)).sum

/-- The position that a context's next frame takes. -/
def nextPos (x : Ctx) : Nat := x.pos + x.frames.length

/-- The front end has stopped before an address at its next position: its fetch there, ahead of the committed blocks, faulted
(R132). -/
def stoppedAt (x : Ctx) (addr : Word) : Bool := x.fetchStop == some (nextPos x, addr)

/-- The next block address of a context: committed, named by an exit that has fired, or predicted (R129). A follower's
is its leader's (R142). -/
def nextAddress (s : State) (c : CtxId) (predicted : Option Word) : Option Word :=
  let x := ctxAt s c
  if x.course == .follower then (x.fwd.find? (·.1 = nextPos x)).map (·.2.1)
  else
    match x.frames.getLast? with
    | none => some x.next
    | some fr =>
      match exitKnown fr with
      | some e => if stoppedAt x e.target then none else some e.target
      | none =>
        if !fr.mapped || noSpeculate fr || x.feCtl.getLsbD 0 then none else predicted.filter (fun p => !stoppedAt x p)

/-- A follower has a free frame for its leader's block at a position, or holds that block already (R142). Its forwarded
images stay until it commits their blocks. -/
def followerRoom (s : State) (c : CtxId) (pos k : Nat) : Bool :=
  let y := mateAt s c k
  pos < y.pos || y.fwd.length < 8 || y.fwd.any (·.1 = pos)

/-- A candidate for a frame (R130). -/
def candidate (s : State) (c : CtxId) (predicted : Option Word) : Bool :=
  let x := ctxAt s c
  let k := coreAt s c.core
  x.st == .running && !x.stopped && x.asyncs.isEmpty && !x.yielding && !k.pend && !k.saving
    && (match x.course with
        | .waiting _ | .quit => false
        | _ => true)
    && x.frames.length < frameQuota s c && (nextAddress s c predicted).isSome

/-- The context a core grants its next frame to (R130): candidates without a frame first, in rotation order. -/
def grantTurn (s : State) (c : CtxId) (predicted : Option Word) : Option Nat :=
  let k := coreAt s c.core
  let cands := (k.ctxs.map (·.1)).filter (fun n => candidate s ⟨c.core, n⟩ (if n = c.ctx then predicted else none))
  let none_ := cands.filter (fun n => (ctxIn k n).frames.isEmpty)
  let pool := if none_.isEmpty then cands else none_
  let order := fun (n : Nat) => (n + 15 - k.lastGrant % 16) % 16
  pool.foldl (fun b n => match b with
    | none => some n
    | some m => if order n < order m then some n else some m) none

/-- The context whose youngest block is squashed to free a frame (R130). -/
def frameVictim (s : State) (core : Nat) : Option (Nat × Nat) :=
  (coreAt s core).ctxs.foldl (fun b e =>
    if e.2.frames.length ≤ 1 || e.2.frames.getLast?.any isPinned then b
    else match b with
      | some (_, len) => if len ≤ e.2.frames.length then some (e.1, e.2.frames.length) else b
      | none => some (e.1, e.2.frames.length)) none

/-- Yielding contexts become candidates when every other Running candidate has a frame (R177). -/
def endYields (s : State) (core : Nat) : State :=
  let k := coreAt s core
  if k.ctxs.any (fun e => e.2.frames.isEmpty && candidate s ⟨core, e.1⟩ none) then s
  else modCore s core (fun k => { k with ctxs := k.ctxs.map (fun e => (e.1, { e.2 with yielding := false })) })

/-- A frame is granted at an address. -/
def grantFrame (s : State) (c : CtxId) (addr : Word) : State :=
  let x := ctxAt s c
  let pos := nextPos x
  let image := if x.course == .follower then ((x.fwd.find? (·.1 = pos)).map (·.2.2)).getD [] else []
  let fr : Frame := { blankFrame with addr := addr, member := memberFor s c pos, pos := pos, image := image,
                                      follows := x.course == .follower,
                                      before := (x.round, x.seed, x.fpstat) }
  let s := modCtx s c (fun x => { x with frames := x.frames ++ [fr], ready := false, fetchStop := none })
  endYields (modCore s c.core (fun k => { k with lastGrant := c.ctx })) c.core

/-- FRAME_GRANT (R130). -/
def execFrameGrant (c : CtxId) (predicted : Option Word) (s : State) : Result :=
  .next (match nextAddress s c predicted with
    | none => s
    | some addr =>
      if grantTurn s c predicted ≠ some c.ctx then s
      else if framesOn s c.core (memberFor s c (nextPos (ctxAt s c))) < 8 then grantFrame s c addr
      else if !(ctxAt s c).frames.isEmpty then s
      else
        match frameVictim s c.core with
        | some (n, len) => grantFrame (squashCourse s ⟨c.core, n⟩ (len - 1)) c addr
        | none => s)

/-! ## Fetch (R128, R132) -/

/-- The first frame of a context that is granted and not mapped. -/
def mappingFrame (x : Ctx) : Option Nat :=
  (List.range x.frames.length).find? (fun n => (x.frames[n]?).any (fun fr => !fr.mapped && fr.faults.isEmpty))

/-- The party that fetches a frame's image: the member that maps it (R138). -/
def fetchWho (s : State) (c : CtxId) (fr : Frame) : Who := { whoOf s c with core := execCore c fr s }

/-- The addresses of the lines of a frame's image that are known to be needed: the header, then the chunks ascending. -/
def imageLines (s : State) (c : CtxId) (fr : Frame) : List Word :=
  match cachedLine s (fetchWho s c fr) fr.addr with
  | none => [fr.addr]
  | some ws =>
    let n := field (ws.getD 0 0).toNat 52 4
    fr.addr :: (List.range (if 8 < n then 0 else n)).map (fun k => addrOf fr.addr (128 * (k + 1) : Nat))

/-- The line that a frame's mapping reads next (R128). -/
def nextLine (s : State) (c : CtxId) (fr : Frame) : Option Word :=
  if !fr.image.isEmpty then none
  else (imageLines s c fr).find? (fun p => (cachedLine s (fetchWho s c fr) p).isNone)

/-- The front end stops at a fetch that faults: a demand fetch faults its context, a speculative one leaves no trace, and that
path is not fetched again until its address is the committed next one (R132). -/
def fetchFault (s : State) (c : CtxId) (n : Nat) (fr : Frame) (e : AccFault) : State :=
  if n = 0 then stopContext s c { cls := e.cls, cause := e.cause, block := fr.addr, addr := e.addr }
  else modCtx (squashFrom s c n) c (fun x => { x with fetchStop := some (fr.pos, fr.addr) })

/-- The line that the first frame to be mapped reads next is filled, where it is the one named. -/
def fillNext (s : State) (c : CtxId) (line : Word) : State :=
  match mappingFrame (ctxAt s c) with
  | none => s
  | some n =>
    match frameAt s c n with
    | none => s
    | some fr =>
      match (nextLine s c fr).filter (fun p => fetchKey p = fetchKey line) with
      | none => s
      | some p =>
        match fetchLine s (fetchWho s c fr) p with
        | .ok ws => cacheLine s (fetchWho s c fr) p ws
        | .error e => fetchFault s c n fr e

/-- BLOCK_FETCH_FILL (R128, R133, R135). -/
def execBlockFetchFill (c : CtxId) (line : Fill) (s : State) : Result :=
  .next (fillNext (match line.drop with
    | some k => modCore s c.core (fun q => { q with bcache := q.bcache.eraseIdx k })
    | none => s) c line.line)

/-! ## Mapping (R18, R54, R55, R128, R134, R142, R147) -/

/-- The image that lines make: none while one is missing, or the fault of a line that may no longer be fetched (R128,
R132). -/
def gatherLines (s : State) (w : Who) : List Word → Option (Except AccFault (List Word))
  | [] => some (.ok [])
  | p :: ps =>
    match fetchPlace s w p, cachedLine s w p with
    | .error e, _ => some (.error e)
    | .ok _, none => none
    | .ok _, some ws =>
      match gatherLines s w ps with
      | some (.ok rest) => some (.ok (ws ++ rest))
      | r => r

/-- The image of a frame, where every line of it stands in the block cache or was forwarded. -/
def gatherImage (s : State) (c : CtxId) (fr : Frame) : Option (Except AccFault (List Word)) :=
  if !fr.image.isEmpty then some (.ok fr.image) else gatherLines s (fetchWho s c fr) (imageLines s c fr)

/-- The shared registers that read entries name, as the bank holds them (R18). -/
def sharedSeen (s : State) (c : CtxId) (fr : Frame) : List (Nat × Wide) :=
  (((List.range (readCount fr)).map (readSource fr)).filter (128 ≤ ·)).map (fun r => (r, readReg s c r))

/-- Mapping wakes the bricks that hold an instruction of the block (R134). -/
def wakeBricks (s : State) (core : Nat) (fr : Frame) : State :=
  let used := (indices fr).foldl (fun (m : BitVec 16) n => m ||| (1#16 <<< (n % 16))) 0
  modCore s core (fun k => { k with gated := k.gated &&& ~~~used })

/-- A leader forwards an image to its followers (R142). -/
def forwardImage (s : State) (c : CtxId) (fr : Frame) : State :=
  if (ctxAt s c).course == .leader then (followersOf s c.core).foldl (forwardTo c fr.pos fr.addr fr.image) s else s

/-- The block of a frame begins: from its beginning, or a pinned one from its saved state (R157). -/
def beginFrame (s : State) (c : CtxId) (n : Nat) (fr : Frame) : State :=
  let x := ctxAt s c
  let shared := sharedSeen s c fr
  let start := match x.pinned, n with
    | some p, 0 =>
      if isPinned fr then
        { p with addr := fr.addr, image := fr.image, member := fr.member, pos := fr.pos, follows := fr.follows }
      else fr
    | _, _ => fr
  let s := modCtx s c (fun x => { x with frames := listSet x.frames n (fun _ => begun { start with shared := shared }),
                                         pinned := if n = 0 then none else x.pinned })
  wakeBricks (forwardImage s c fr) (execCore c fr s) fr

/-- A block that fails validation keeps its frame and fires nothing (R55). -/
def mapImage (s : State) (c : CtxId) (n : Nat) (fr : Frame) : State :=
  match validate fr (regsPerCtx (coreAt s c.core).contexts) with
  | some v => forwardImage (modFrame s c n (fun _ => { fr with faults := [invalidFault v] })) c fr
  | none => beginFrame s c n fr

/-- The muster flag of an image makes a member of a course arrive (R147). -/
def musters (s : State) (c : CtxId) (fr : Frame) : Bool :=
  let x := ctxAt s c
  isMuster fr && (coreAt s c.core).kind = 2 && x.course != .follower && !x.passed

/-- A member arrives at a muster with its followers, once they have come to the same position (R147). -/
def arriveMuster (s : State) (c : CtxId) (addr : Word) : State :=
  let fs := if (ctxAt s c).course == .leader then followersOf s c.core else []
  if fs.any (fun k => (mateAt s c k).pos ≠ (ctxAt s c).pos) then s
  else
    (c.core :: fs).foldl (fun s k =>
      modMate (dropFrom c 0 s k) c k (fun x => { x with course := .waiting addr, lead := 0 })) s

/-- BLOCK_MAP (R128). -/
def execBlockMap (c : CtxId) (s : State) : Result :=
  .next (match mappingFrame (ctxAt s c) with
    | none => s
    | some n =>
      match frameAt s c n with
      | none => s
      | some fr =>
        match gatherImage s c fr with
        | none => s
        | some (.error e) => fetchFault s c n fr e
        | some (.ok image) =>
          let fr := { fr with image := image }
          let room := (ctxAt s c).course != .leader || (followersOf s c.core).all (followerRoom s c fr.pos)
          if !musters s c fr then (if room then mapImage s c n fr else s)
          else if n = 0 then arriveMuster s c fr.addr else s)

/-! ## Register reads (R18, R151) -/

/-- The value of a register as every older block leaves it; none while an older writer has not produced it. -/
def forwarded (s : State) (c : CtxId) (fr : Frame) (r : Nat) : List Frame → Option Wide
  | [] => some (if r < 128 then readReg s c r else ((fr.shared.find? (·.1 = r)).map (·.2)).getD 0)
  | g :: older =>
    if !g.mapped then none
    else
      match (wSlots g).find? (fun w => writeDest g w = r) with
      | none => forwarded s c fr r older
      | some w =>
        match g.wslots.find? (·.1 = w) with
        | none => none
        | some (_, t) => if t.null then forwarded s c fr r older else some t.value

/-- The flights of read entry j with its value (R151): an initial value goes to iteration 0 only. -/
def readFlights (fr : Frame) (j : Nat) (v : Wide) : List Flight :=
  (readTargets fr j).filterMap (fun t =>
    let flight := fun (tag : Tag) => some ⟨t, tag, wideTok v, none, 0, false⟩
    match t with
    | .none => none
    | .write _ => flight (if isPinned fr then .persist else .iter 0)
    | .operand _ _ =>
      if !isPinned fr then flight (.iter 0)
      else if namedBy fr .next t then (if fr.iter = 0 then flight (.iter 0) else none)
      else flight .persist)

/-! ## Delivery (R13, R145, R150, R155) -/

/-- A write slot receives a token: a stop is kept as null (R155). -/
def placeWrite (fr : Frame) (w : Nat) (f : Flight) : Frame :=
  if fr.wslots.any (·.1 = w) then { fr with faults := fr.faults ++ [dupFault true w f.tag] }
  else { fr with wslots := fr.wslots ++ [(w, if f.tok.stop.isSome then nullTok else f.tok)] }

/-- A head of an ISECT receives the next token of its stream when it is empty (R118): stream tokens bypass matching, so
the number of the emission decides, whatever tag its target gave it. -/
def placeHead (fr : Frame) (idx : Nat) (sl : Slot) (f : Flight) : Option Frame :=
  let q := isectNow fr idx
  let due := if sl == .a then q.na else q.nb
  match f.src with
  | some m =>
    if m < due then some { fr with faults := fr.faults ++ [dupFault false idx f.tag] }
    else if m = due && !headHeld fr idx sl then
      some { fr with ops := fr.ops ++ [⟨idx, sl, .iter m, f.tok, f.src⟩] }
    else none
  | none => none

/-- An operand slot receives a token; none while its iteration is not open. -/
def placeOperand (fr : Frame) (idx : Nat) (sl : Slot) (f : Flight) : Option Frame :=
  if isHead fr idx && sl != .p then placeHead fr idx sl f
  else if !tagOpen fr f.tag then none
  else if fr.ops.any (fun o => o.idx = idx && o.slot == sl && (o.tag == f.tag || o.tag == .persist || f.tag == .persist)) then
    some { fr with faults := fr.faults ++ [dupFault false idx f.tag] }
  else some { fr with ops := fr.ops ++ [⟨idx, sl, f.tag, f.tok, f.src⟩] }

/-- A head of an ISECT has received a token of its stream already. -/
def headSeen (fr : Frame) (idx : Nat) (sl : Slot) (m : Nat) : Bool :=
  let q := isectNow fr idx
  m < (if sl == .a then q.na else q.nb) || fr.ops.any (fun o => o.idx == idx && o.slot == sl && o.tag == .iter m)

/-- A stream token that its head has received already. -/
def seenBefore (fr : Frame) (f : Flight) : Bool :=
  match f.dst with
  | .operand sl n => f.src.any (headSeen fr n.toNat sl)
  | _ => false

/-- A token reaches an operand slot of a uniform instruction that its leader fires: it has no effect (R145). It stays
for the case that the member departs (R159); the heads of a stream hold any number of them, so that none delays its
producer. -/
def placeIdle (fr : Frame) (idx : Nat) (sl : Slot) (f : Flight) : Option Frame :=
  if isHead fr idx && sl != .p then
    some (match f.src with
      | some m => if headSeen fr idx sl m then fr else { fr with ops := fr.ops ++ [⟨idx, sl, .iter m, f.tok, f.src⟩] }
      | none => fr)
  else if fr.ops.any (fun o => o.idx = idx && o.slot == sl && o.tag == f.tag) then some fr
  else placeOperand fr idx sl f

/-- A token reaches its target; none while it is held at its sender. -/
def place (fr : Frame) (f : Flight) : Option Frame :=
  match f.dst with
  | .none => some fr
  | .write w => if f.tag == .final && !fr.finalPh then none else some (placeWrite fr w.toNat f)
  | .operand sl n => if followsIdx fr n.toNat then placeIdle fr n.toNat sl f else placeOperand fr n.toNat sl f

/-- Something of the final phase already stands at a destination or is on its way there. -/
def finalTaken (fr : Frame) (d : Target) : Bool :=
  fr.flight.any (·.dst == d) || (match d with
    | .write w => fr.wslots.any (·.1 = w.toNat)
    | .operand sl n => (slotToken fr n.toNat sl .final).isSome
    | .none => true)

/-- A uniform token of the leader's block reaches the follower's block at the same position (R145, R158): tokens of an
iteration that is past, or behind the one with which the follower left, are discarded (R153, R159); a final token counts
for the iteration that sent it. What the leader sends again of an iteration that the follower has committed is discarded
(log entry 84), as is what a head of a stream has received already. None while it is held. -/
def takeUniform (fr : Frame) (f : Flight) : Option Frame :=
  let left := (fr.exits.head?).bind (fun e => iterOf e.tag)
  if toHead fr f then (if fr.finalPh || seenBefore fr f then some fr else place fr f)
  else
  match f.tag, f.src with
  | .final, some t =>
    if !isPinned fr then place fr f
    else if fr.finalPh then
      some (if left.any (· < t) || finalTaken fr f.dst then fr else { fr with flight := fr.flight ++ [f] })
    else if t < fr.iter then some (keepFinal fr f)
    else some (addOut t fr f)
  | .iter k, some t =>
    if fr.finalPh || k < fr.iter then some fr
    else if isPinned fr && t < fr.iter && fr.utaken.any (fun g => g.dst == f.dst && g.tag == f.tag && g.src == f.src) then some fr
    else place fr f
  | _, _ => place fr f

/-- The place of a fault recorded against the receiver of a token. -/
def receiverFault (cause : Nat) (t : Target) (tag : Tag) : FaultRec :=
  match t with
  | .write w => ⟨clsTokenParity, cause, w.toNat, true, tag, 0, 0⟩
  | .operand _ n => ⟨clsTokenParity, cause, n.toNat, false, tag, 0, 0⟩
  | .none => ⟨clsTokenParity, cause, 0, false, tag, 0, 0⟩

/-- A token in error is refused; the third refusal in a row ends its resending (R135). -/
def refuseToken (s : State) (c : CtxId) (n k : Nat) (fr : Frame) (f : Flight) : State :=
  let s := modCore s (execCore c fr s) (fun q => { q with refusals := min (2 ^ 32 - 1) (q.refusals + 1) })
  if 2 ≤ f.refusals then
    modFrame s c n (fun fr => { fr with flight := fr.flight.eraseIdx k, faults := fr.faults ++ [receiverFault 0x01 f.dst f.tag] })
  else modFrame s c n (fun fr => { fr with flight := listSet fr.flight k (fun f => { f with refusals := f.refusals + 1, refused := true }) })

/-- A token of the network arrives at its target, or is refused. -/
def arrive (s : State) (c : CtxId) (n k : Nat) (fr : Frame) (f : Flight) (parityError : Bool) : State :=
  match place { fr with flight := fr.flight.eraseIdx k } f with
  | none => s
  | some g => if parityError then refuseToken s c n k fr f else modFrame s c n (fun _ => g)

/-- A single-bit error is corrected in place and counted (R135). -/
def countCorrected (s : State) (core : Nat) : State :=
  modCore s core (fun k => { k with secded := min (2 ^ 32 - 1) (k.secded + 1) })

/-- A read entry delivers its value to its targets (R18). A double-bit error in its register is recorded; tokens that are
refused, all of them or that for one target, are sent again (R135). -/
def deliverRead (s : State) (c : CtxId) (n j : Nat) (fr : Frame) (upset : Upset) : State :=
  let rest := { fr with reads := fr.reads.filter (· ≠ j) }
  match upset, forwarded s c fr (readSource fr j) ((ctxAt s c).frames.take n).reverse with
  | .double, _ =>
    modFrame s c n (fun _ => { rest with faults := rest.faults ++ [receiverFault 0x02 ((readTargets fr j).headD .none) .persist] })
  | _, none => s
  | .parity, some v =>
    let fls := (readFlights fr j v).map (fun f => { f with refusals := 1, refused := true })
    let s := modFrame s c n (fun _ => { rest with flight := rest.flight ++ fls })
    modCore s (execCore c fr s) (fun q => { q with refusals := min (2 ^ 32 - 1) (q.refusals + fls.length) })
  | .parityAt m, some v =>
    let bad := ((readTargets fr j).zipIdx.filter (fun e => e.2 = m % 2)).map (·.1)
    let fls := readFlights fr j v
    let no := (fls.filter (fun f => bad.contains f.dst)).map (fun f => { f with refusals := 1, refused := true })
    let g := (fls.filter (fun f => !bad.contains f.dst)).foldl (fun g f => (place g f).getD g) rest
    let s := modFrame s c n (fun _ => { g with flight := g.flight ++ no })
    modCore s (execCore c fr s) (fun q => { q with refusals := min (2 ^ 32 - 1) (q.refusals + no.length) })
  | _, some v => modFrame s c n (fun _ => (readFlights fr j v).foldl (fun g f => (place g f).getD g) rest)

/-- A uniform token reaches a follower's block, which notes that it has taken it; one in error is refused, and waits to be
sent again until its third refusal (R135). -/
def deliverUniform (s : State) (c : CtxId) (n : Nat) (fr : Frame) (f : Flight) (parityError : Bool) : State :=
  let at_ := (ctxAt s c).utoks.findIdx (fun u => u == (fr.pos, f))
  match takeUniform fr { f with refused := false } with
  | none => s
  | some g =>
    if !parityError then
      modCtx s c (fun x => { x with frames := listSet x.frames n (fun _ => { g with utaken := g.utaken ++ [{ f with refused := false, refusals := 0 }] }),
                                    utoks := x.utoks.eraseIdx at_ })
    else
      let s := modCore s (execCore c fr s) (fun q => { q with refusals := min (2 ^ 32 - 1) (q.refusals + 1) })
      if 2 ≤ f.refusals then
        modCtx s c (fun x => { x with
          frames := listSet x.frames n (fun fr => { fr with faults := fr.faults ++ [receiverFault 0x01 f.dst f.tag] })
          utoks := x.utoks.eraseIdx at_ })
      else modCtx s c (fun x => { x with utoks := listSet x.utoks at_ (fun u => (u.1, { u.2 with refusals := f.refusals + 1, refused := true })) })

/-- Uniform token number n that waits for a frame of a follower. -/
def uniformAt (s : State) (c : CtxId) (fr : Frame) (n : Nat) : Option Flight :=
  (((ctxAt s c).utoks.filter (·.1 = fr.pos))[n - fr.flight.length - fr.reads.length]?).map (·.2)

/-- A double-bit error in the load-store queue entry of an instruction that has fired (R135): recorded against the block
for each tag it fired for. -/
def queueError (s : State) (c : CtxId) (n idx : Nat) (fr : Frame) : State :=
  let hit := fr.fired.filter (fun e => e.1 = idx && e.1 % 8 = 0)
  modFrame s c n (fun fr => { fr with faults := fr.faults ++ hit.map (fun e => ⟨clsTokenParity, 0x03, idx, false, e.2, 0, 0⟩) })

/-- Token number n of a frame arrives: its tokens in flight, then its undelivered read entries, then the uniform tokens
that wait for it. -/
def arriveAt (s : State) (c : CtxId) (frame n : Nat) (fr : Frame) (upset : Upset) : State :=
  match fr.flight[n]? with
  | some f => if f.refused then s else arrive s c frame n fr f (upset == .parity)
  | none =>
    match fr.reads[n - fr.flight.length]? with
    | some j => deliverRead s c frame j fr upset
    | none =>
      match uniformAt s c fr n with
      | some f => if f.refused then s else deliverUniform s c frame fr f (upset == .parity)
      | none => s

/-- TOKEN_ARRIVAL (R11), with what goes wrong on the way (R135). -/
def execTokenArrival (c : CtxId) (frame : Nat) (n : Nat) (upset : Upset) (s : State) : Result :=
  .next (match frameAt s c frame with
    | none => s
    | some fr =>
      if !fr.mapped then s
      else
        match upset with
        | .queue idx => queueError s c frame idx fr
        | .corrected => countCorrected (arriveAt s c frame n fr .none) (execCore c fr s)
        | u => arriveAt s c frame n fr u)

/-- TOKEN_RESEND (R135): a refused token is sent again. -/
def execTokenResend (c : CtxId) (frame : Nat) (n : Nat) (parityError : Bool) (s : State) : Result :=
  .next (match frameAt s c frame with
    | none => s
    | some fr =>
      match fr.flight[n]? with
      | some f => if f.refused && fr.mapped then arrive s c frame n fr { f with refused := false } parityError else s
      | none =>
        match uniformAt s c fr n with
        | some f => if f.refused && fr.mapped && fr.flight.length + fr.reads.length ≤ n then deliverUniform s c frame fr f parityError else s
        | none => s)

/-! ## Stream emissions (R171) -/

/-- Bytes a stream load reads at an address, with their locations, or the fault. -/
def streamLoad (s : State) (c : CtxId) (n : Nat) (f : LFields) (k : Nat) (ty : ElemType) (p : Word) :
    Except AccFault (Nat × List Loc) :=
  let s := { s with focus := ⟨c, n, 0, .iter k⟩ }
  match checkAccess ty servesLanes .read (accessSize ty) s p with
  | .error e => .error e
  | .ok ls =>
    match poisonedLine s (whoAt s) (f.cache = 3) (ls.zip (bytePtrs p ls.length)) with
    | some line => .error ⟨clsTokenParity, 0x04, line, 0⟩
    | none => .ok (ofBytes (loadBytes s (whoAt s) n (.iter k) f.lsid.toNat (f.cache = 3) ls), ls)

/-- The index one past segment j. DESIGN CHOICE (log entry 62): SEGEND[j] is read anew at each emission of the segment, and
the format codes of COORD and SEGEND are checked against `.n32`. -/
def segmentEnd (s : State) (c : CtxId) (n : Nat) (f : LFields) (q : Stream) : Except AccFault (Nat × List Loc) :=
  let segend := word q.desc 1
  if segend = 0 then .ok ((q.seg + 1) * ((word q.desc 2).toNat % 2 ^ 32) % 2 ^ 64, [])
  else streamLoad s c n f q.k .n32 (addrOf segend (4 * q.seg : Nat))

/-- The stop level after segment j (R171). Indices and products are 64-bit unsigned (R7). -/
def stopLevel (d : Wide) (j : Nat) : Nat :=
  let c1 := (word d 3).toNat % 2 ^ 32
  let c2 := (word d 3).toNat / 2 ^ 32
  let c3 := (word d 4).toNat % 2 ^ 32
  if (j + 1) % 2 ^ 64 = c1 * c2 * c3 % 2 ^ 64 then 3 else if (j + 1) % (c1 * c2) = 0 then 2 else if (j + 1) % c1 = 0 then 1 else 0

/-- One data token of a stream: its value and coordinate, and what was read. -/
def streamData (s : State) (c : CtxId) (n : Nat) (f : LFields) (q : Stream) : Except AccFault (Token × List Loc) :=
  let stride := toSigned 32 ((word q.desc 2).toNat / 2 ^ 32)
  match streamLoad s c n f q.k f.ty (addrOf q.base ((q.elem : Int) * stride)) with
  | .error e => .error e
  | .ok (v, ls) =>
    let tok := fun (coord : Nat) (more : List Loc) =>
      let t := loadToken f.ty (toBytes (accessSize f.ty) v)
      ({ t with coord := some (BitVec.ofNat 32 coord) }, ls ++ more)
    if word q.desc 0 = 0 then .ok (tok (q.elem - q.start) [])
    else
      match streamLoad s c n f q.k .n32 (addrOf (word q.desc 0) (4 * q.elem : Nat)) with
      | .error e => .error e
      | .ok (v, more) => .ok (tok v more)

/-- The next emission of a stream: its token, what it read, and the stream after it. -/
def emission (s : State) (c : CtxId) (n : Nat) (f : LFields) (q : Stream) : Except AccFault (Token × List Loc × Stream) :=
  match segmentEnd s c n f q with
  | .error e => .error e
  | .ok (last, ls) =>
    if q.elem < last then
      match streamData s c n f q with
      | .error e => .error e
      | .ok (t, more) => .ok (t, ls ++ more, { q with k := q.k + 1, elem := q.elem + 1 })
    else
      let lvl := stopLevel q.desc q.seg
      .ok (stopTok lvl, ls, { q with k := q.k + 1, seg := q.seg + 1, start := last, elem := last, done := lvl = 3 })

/-- A stream may emit (R118, R150). -/
def mayEmit (fr : Frame) (i : Instr) (q : Stream) : Bool :=
  !q.done && !fr.finalPh && !fr.faults.any (fun e => e.idx = q.idx && e.tag == .iter q.k)
    && emitOpen fr i q.k

/-- An emission enters the network with its load record, or its fault is recorded against its iteration. -/
def emit (s : State) (c : CtxId) (n : Nat) (i : Instr) (f : LFields) (q : Stream) : State :=
  match emission s c n f q with
  | .error e =>
    modFrame s c n (fun fr => { fr with faults := fr.faults ++ [⟨e.cls, e.cause, q.idx, false, .iter q.k, e.addr, e.arg⟩] })
  | .ok (t, ls, q') =>
    let w := fetchWho s c ((frameAt s c n).getD blankFrame)
    let bytes := loadBytes s w n (.iter q.k) f.lsid.toNat (f.cache = 3) ls
    let s := renewLeases (leaveLines f s w ls) w ls
    let s := modFrame s c n (fun fr =>
      { fr with streams := fr.streams ++ [q']
                flight := fr.flight ++ flightsOf i (.iter q.k) (some t) none
                loads := fr.loads ++ (if ls.isEmpty then [] else [⟨q.idx, f.lsid.toNat, .iter q.k, ls, bytes⟩]) })
    keepOrder s w n (.iter q.k) f.lsid.toNat false (ls.zip bytes)

/-- LDS_EMIT (R171). The oldest block alone is pinned and emitting, or a younger one that is mapped. -/
def execLdsEmit (c : CtxId) (index : Nat) (s : State) : Result :=
  let x := ctxAt s c
  .next (match (List.range x.frames.length).find? (fun n => (x.frames[n]?).any (fun fr =>
      fr.mapped && (match instrAt fr index, streamNow fr index with
        | some i, some q => mayEmit fr i q
        | _, _ => false))) with
    | none => s
    | some n =>
      match frameAt s c n with
      | none => s
      | some fr =>
        match instrAt fr index, streamNow fr index with
        | some (.lds f), some q =>
          if loadHeld x fr n index f.lsid.toNat (.iter q.k) then s else emit s c n (.lds f) f q
        | _, _ => s)

/-- BRICK_GATE (R134): no block mapped on the core holds an instruction at the brick. -/
def execBrickGate (core : Nat) (brick : Nat) (s : State) : Result :=
  let k := coreAt s core
  let held := (coreNums s).any (fun j => (coreAt s j).ctxs.any (fun e => e.2.frames.any (fun fr =>
    fr.mapped && execCore ⟨j, e.1⟩ fr s = core && (indices fr).any (fun n => n % 16 = brick))))
  .next (if 16 ≤ brick || k.noGate || held then s
    else modCore s core (fun k => { k with gated := k.gated ||| (1#16 <<< brick) }))

end Sys2Proof.Machine
end

