-- ==== Sys2Proof/Machine/Search.lean ====
section
/-! DEFINITION. The search-tree engine, class 0xE 10 to 16 (R327 to R345): arenas and nodes, scores and choice, descent,
batches, expansion, backup and re-rooting. -/

namespace Sys2Proof.Machine

open Sys2Proof

/-! ## Nodes and arenas (R327, R328) -/

/-- The four words of a node (R328). -/
def nodeWords (x : Node) : List Word :=
  [BitVec.ofNat 64 (x.w.toNat * 2 ^ 32 + x.n.toNat),
   BitVec.ofNat 64 (x.first.toNat * 2 ^ 32 + x.vl.toNat * 2 ^ 16 + x.p.toNat),
   BitVec.ofNat 64 (x.parent.toNat * 2 ^ 32 + x.action.toNat * 2 ^ 16 + x.count.toNat),
   BitVec.ofNat 64 (x.holders.toNat * 2 ^ 16 + bit x.free 4 + bit x.queued 3 + bit x.pending 2 + bit x.terminal 1
     + bit x.expanded 0)]

/-- The root of a new arena and a leaf just allocated (R336, R338). -/
def newNode (parent : BitVec 32) (p action : BitVec 16) : Node :=
  ⟨0, 0, 0, 0, p, parent, action, 0, 0, false, false, false, false, false⟩

/-- The generation of an arena table entry. -/
def arenaGenOf (d : Die) (id : Nat) : Nat := tabGet 1 d.arenaGen id

/-- The arena that a word names; none for a stale word (R327). -/
def findArena (s : State) (c : CtxId) (w : Word) : Option Arena :=
  (dieAt s (dieOf c.core)).arenas.find? (fun a =>
    a.id = field w.toNat 32 6 && a.gen = field w.toNat 40 8 && a.part = (ctxAt s c).part)

/-- The physical address of an offset in a list of pieces. -/
def pieceAt : List (Nat × Nat) → Nat → Nat
  | [], _ => 0
  | q :: t, o => if o < q.2 then q.1 + o else pieceAt t (o - q.2)

/-- The bytes of a node, each with its physical address and its offset in the node area (R328). -/
def nodeBytes (a : Arena) (n : Nat) : List (Nat × Nat × Byte) :=
  (wordBytes (nodeWords (nodeAt a n))).zipIdx.map (fun e => (pieceAt a.area (32 * n + e.2), 32 * n + e.2, e.1))

/-- Writes nodes at their homes, wherever the page tables now point (R329). -/
def writeNodes (s : State) (a : Arena) (ns : List Nat) : State :=
  let bs := ns.flatMap (nodeBytes a)
  wakeWatches (homeWrite s (bs.map (fun e => (e.1, e.2.2)))) (bs.map (fun e => Loc.pa e.1 (ptrAddr a.base + e.2.1)))

/-- The arena is destroyed: every node stands at its home, and the generation advances (R327, R329). -/
def destroyArena (s : State) (die : Nat) (a : Arena) : State :=
  let s := modDie s die (fun d =>
    { d with arenas := d.arenas.filter (·.id ≠ a.id), arenaGen := tabSet 1 d.arenaGen a.id (nextGen a.gen) })
  writeNodes s a (List.range a.cap)

/-! ## Expansion and re-rooting (R330, R341, R343) -/

/-- The first of k consecutive free nodes of the lowest run (R330): n nodes from `at_` on are still to be looked at,
`run` of those before are free. -/
def findRun (a : Arena) (k : Nat) : Nat → Nat → Nat → Option Nat
  | 0, _, _ => none
  | n + 1, at_, run =>
    if (nodeAt a at_).free then
      if k ≤ run + 1 then some (at_ + 1 - k) else findRun a k n (at_ + 1) (run + 1)
    else findRun a k n (at_ + 1) 0

/-- Installs children from a list of entries (R341). -/
def installChildren (a : Arena) (x first : Nat) (es : List Nat) : Arena :=
  let a := (List.range es.length).foldl (fun a j =>
    let e := es.getD j 0
    setNode a (first + j) (newNode (BitVec.ofNat 32 x) (BitVec.ofNat 16 e) (BitVec.ofNat 16 (e / 2 ^ 16)))) a
  modNode a x (fun q => { q with first := BitVec.ofNat 32 first, count := BitVec.ofNat 16 es.length, expanded := true })

/-- A node lies in the subtree of y. -/
def inSubtree (a : Arena) (y : Nat) : Nat → Nat → Bool
  | 0, _ => false
  | fuel + 1, n => if n = y then true else if n = a.root || a.cap ≤ n then false else inSubtree a y fuel (nodeAt a n).parent.toNat

/-- TREROOT on an arena: the arena, the status and the number of nodes freed (R343). -/
def rerootIn (a : Arena) (y : Nat) : Arena × Nat × Nat :=
  if (nodeAt a a.root).vl ≠ 0 || a.pslots ≠ 0 then (a, 1, 0)
  else if !inSubtree a a.root (a.cap + 1) y then (a, 2, 0)
  else
    let gone := (a.nodes.map (·.1)).filter (fun n => !inSubtree a y (a.cap + 1) n)
    let a' := gone.foldl (fun a n => setNode a n Node.freeNode) a
    ({ modNode a' y (fun q => { q with parent := 0xFFFFFFFF }) with root := y }, 0, gone.length)

/-! ## What the instructions share (R335, R337) -/

/-- An engine instruction (R337). -/
def isEngine (i : Instr) : Bool :=
  match i with
  | .tarena _ | .tarenaDestroy _ | .tselect _ | .tbatch _ | .texpand _ | .tbackup _ | .treroot _ | .tstat _ => true
  | _ => false

/-- Every engine instruction of the context that precedes this place, in older blocks, older iterations (R153) and lower
LSIDs, has delivered (R335). -/
def engineTurn (s : State) (lsid : Nat) : Bool :=
  let x := ctxAt s s.focus.c
  let done := fun (fr : Frame) (below : Nat) (tag : Tag) =>
    (instrs fr).all (fun e => !isEngine e.2 || below ≤ (lsidOf e.2).getD 0 || hasFired fr e.1 tag || isAgainst fr e.1 tag
      || lsidResolved fr ((lsidOf e.2).getD 0) tag)
  let earlier := fun (fr : Frame) => match s.focus.tag with
    | .iter t => (List.range (t - fr.iter)).map (fun k => Tag.iter (fr.iter + k))
    | _ => []
  (x.frames.take s.focus.frame).all (fun fr => done fr 32 (if isPinned fr then .final else .iter 0))
    && (match x.frames[s.focus.frame]? with
        | some fr => (earlier fr).all (done fr 32) && done fr lsid s.focus.tag
        | none => true)

/-- The node of an arena word. -/
def nodeOf (w : Word) : Nat := w.toNat % 2 ^ 32

/-- The checks of an arena word, its node where the entry reads it (R327, R337), and what follows. -/
def withArena (s : State) (w : Word) (node : Bool) (k : Arena → State) : State :=
  match findArena s s.focus.c w with
  | none => faulted clsStaleHandle 0x03 0 w s
  | some a =>
    if node && (a.cap ≤ nodeOf w || (nodeAt a (nodeOf w)).free) then faulted clsPathReserved 0x16 0 w s else k a

/-- The frame of an irrevocable engine instruction. -/
def engine (i : Instr) (f : LFields) (s : State) (body : Wide → Wide → Wide → State → State) : Result :=
  fire i s (fun a b c s => if engineTurn s f.lsid.toNat then body a.value b.value c.value s else s)

/-- The checks of a list pointer of an engine instruction of an element type (R161, R340, R341): locations of n bytes. -/
def engineList (s : State) (ty : ElemType) (p : Word) (want : Want) (n : Nat) : Except AccFault (List Loc) :=
  match basicCheck p with
  | some e => .error e
  | none =>
    if 1 < ptrPath p || ptrAddr p % 4 ≠ 0 then .error ⟨clsPathReserved, 0x17, p, 0⟩
    else
      match formatCheck ty p with
      | some e => .error e
      | none => locate s (whoAt s) want p n

/-- One step of an engine operation of the instruction at the site: its first, or the next of the one it has under way
(R335). -/
def walk (i : Instr) (ar : Arena) (start : Arena × Walked) (s : State) : State :=
  let here := fun (st : Stage) => (⟨s.focus.idx, s.focus.tag, ar.id, st⟩ : Walk)
  let put := fun (r : Arena × Walked) =>
    let s := modArena s (dieOf s.focus.c.core) ar.id (fun _ => r.1)
    match r.2 with
    | .inl st => modCtx s s.focus.c (fun x => { x with walk := some (here st) })
    | .inr q => answerWord i (walkWord q) (modCtx s s.focus.c (fun x => { x with walk := none }))
  match (ctxAt s s.focus.c).walk with
  | none => put start
  | some w => if here w.stage = w then put (walkStep ar w.stage) else s

/-! ## Meanings -/

/-- A parameter token of TARENA is in error (R338). -/
def arenaParamsBad (ptr : Word) (b : Wide) : Bool :=
  let w := fun n => (word b n).toNat
  ptrPath ptr ≠ pathGEN || ptrFormat ptr ≠ 0 || ptrBlock ptr ≠ 0 || ptrAddr ptr % 4096 ≠ 0
    || w 0 < 2 || 2 ^ 26 < w 0 || w 2 / 2 ^ 32 ≠ 0 || w 3 / 4 ≠ 0 || [4, 5, 6, 7].any (fun n => w n ≠ 0)

/-- An area of an arena overlaps what may not overlap it (R338). -/
def areaOverlaps (s : State) (die part va len : Nat) : Bool :=
  let p := partAt s die part
  let mine := pieces s die part va len
  (dieAt s die).arenas.any (fun a =>
    a.area.any (fun q => mine.any (fun r => spansMeet q.1 (q.1 + q.2) r.1 (r.1 + r.2))))
    || p.handles.any (fun h => spansMeet va (va + len) h.lo h.hi)
    || p.regions.any (fun r => r.spad.isNone && spansMeet va (va + len) r.lo (r.lo + r.len))

/-- The arena that TARENA makes. -/
def newArena (s : State) (c : CtxId) (id : Nat) (ptr : Word) (b : Wide) : Arena :=
  let w := fun n => (word b n).toNat
  let x := ctxAt s c
  { id := id, gen := arenaGenOf (dieAt s (dieOf c.core)) id, part := x.part, lid := x.launch, base := ptr, cap := w 0
    area := pieces s (dieOf c.core) x.part (ptrAddr ptr) (32 * w 0)
    cexp := BitVec.ofNat 32 (w 1 / 2 ^ 32), vloss := BitVec.ofNat 32 (w 1), fpv := BitVec.ofNat 32 (w 2)
    twopl := (w 3).testBit 0, trapen := (w 3).testBit 1, root := 0, pslots := 0, queue := []
    nodes := [(0, newNode 0xFFFFFFFF 0x3F80 0)] }

/-- TARENA without DESTROY (R338). -/
def execTarena (f : LFields) (s : State) : Result :=
  engine (.tarena f) f s (fun a b _ s =>
    let c := s.focus.c
    let die := dieOf c.core
    let ptr := word a 0
    let len := 32 * (word b 0).toNat
    match basicCheck ptr with
    | some e => faultAcc e s
    | none =>
      if arenaParamsBad ptr b then faulted clsPathReserved 0x17 ptr 0 s
      else
        match rangeFault s (whoAt s) .write ptr len with
        | some e => faultAcc e s
        | none =>
          if areaOverlaps s die (ctxAt s c).part (ptrAddr ptr) len then answerWord (.tarena f) (BitVec.ofNat 64 (2 * 2 ^ 56)) s
          else
            match (List.range 64).find? (fun n => !((dieAt s die).arenas.any (·.id = n))) with
            | none => answerWord (.tarena f) (BitVec.ofNat 64 (1 * 2 ^ 56)) s
            | some id =>
              let ar := newArena s c id ptr b
              let s := (rangeLines s (whoAt s) ptr len).foldl (fun s q => dropClean s q.1) s
              let s := writeNodes s ar (List.range ar.cap)
              let s := modDie s die (fun d => { d with arenas := d.arenas ++ [ar] })
              answerWord (.tarena f) (BitVec.ofNat 64 (ar.gen * 2 ^ 40 + id * 2 ^ 32)) s)

/-- TARENA with DESTROY (R338): slot b must arrive and is ignored. -/
def execTarenaDestroy (f : LFields) (s : State) : Result :=
  engine (.tarenaDestroy f) f s (fun a _ _ s =>
    withArena s (word a 0) false (fun ar =>
      if (nodeAt ar ar.root).vl ≠ 0 || ar.pslots ≠ 0 then answerWord (.tarenaDestroy f) (BitVec.ofNat 64 (3 * 2 ^ 56)) s
      else answerWord (.tarenaDestroy f) 0 (destroyArena s (dieOf s.focus.c.core) ar)))

/-- TSELECT (R333, R335, R339): a firing is one step of its descent, the last one delivers. -/
def execTselect (f : LFields) (s : State) : Result :=
  engine (.tselect f) f s (fun a _ _ s => withArena s (word a 0) false (fun ar => walk (.tselect f) ar (selectStart ar) s))

/-- TBATCH (R340): the writes are complete before the delivery, and the issuer's later loads see them. -/
def execTbatch (f : LFields) (s : State) : Result :=
  engine (.tbatch f) f s (fun a b _ s =>
    withArena s (word a 0) false (fun ar =>
      let max := f.off.toNat % 128
      match engineList s f.ty (word b 0) .write (4 * max) with
      | .error e => faultAcc e s
      | .ok ls =>
        let out := ar.queue.take max
        let ar' := out.foldl (fun q n => modNode q n (fun x => { x with queued := false })) { ar with queue := ar.queue.drop max }
        let s := modArena s (dieOf s.focus.c.core) ar.id (fun _ => ar')
        let bs := ls.zip (out.flatMap (toBytes 4))
        let s := bs.foldl (fun s q => match q.1 with
          | .pa k _ => flushLine s (whoAt s) k
          | _ => s) s
        let s := coherentWrite s (whoAt s) bs
        resolveWrite (answerWord (.tbatch f) (BitVec.ofNat 64 out.length) s) (bs.map (·.1)) f.lsid.toNat))

/-- The effect of TEXPAND on an arena whose list has been read (R341). -/
def expandNode (f : LFields) (ar : Arena) (x : Nat) (es : List Nat) (s : State) : State :=
  let die := dieOf s.focus.c.core
  let k := es.length
  let ans := fun (st first : Nat) (s : State) => answerWord (.texpand f) (BitVec.ofNat 64 (st * 2 ^ 56 + first)) s
  if (nodeAt ar x).expanded then ans 2 0 s
  else if k = 0 then
    ans 0 0 (modArena s die ar.id (fun _ => modNode ar x (fun q => { q with expanded := true, terminal := true })))
  else
    match findRun ar k ar.cap 0 0 with
    | some first => ans 0 first (modArena s die ar.id (fun _ => installChildren ar x first es))
    | none =>
      if ar.trapen then faulted clsArenaFull 0x01 0 (BitVec.ofNat 64 (k * 2 ^ 32 + x)) s else ans 1 0 s

/-- TEXPAND (R341). -/
def execTexpand (f : LFields) (s : State) : Result :=
  engine (.texpand f) f s (fun a b c s =>
    withArena s (word a 0) true (fun ar =>
      let k := (word c 0).toNat
      match basicCheck (word b 0) with
      | some e => faultAcc e s
      | none =>
        if 4096 < k then faulted clsPathReserved 0x17 0 0 s
        else
          match engineList s f.ty (word b 0) .read (4 * k) with
          | .error e => faultAcc e s
          | .ok ls =>
            match poisonedHome s (ls.zip (bytePtrs (word b 0) (4 * k))) with
            | some line => faulted clsTokenParity 0x04 line 0 s
            | none =>
              let bytes := coherentBytes s (whoAt s) ls
              expandNode f ar (nodeOf (word a 0)) ((List.range k).map (fun j => ofBytes ((bytes.drop (4 * j)).take 4))) s))

/-- TBACKUP (R334, R335, R342): a firing is one update of its path, the last one delivers. -/
def execTbackup (f : LFields) (s : State) : Result :=
  engine (.tbackup f) f s (fun a b _ s =>
    withArena s (word a 0) true (fun ar =>
      walk (.tbackup f) ar (backupStart ar (nodeOf (word a 0)) ((word b 0).toNat % 2 ^ 32)) s))

/-- TREROOT (R343). -/
def execTreroot (f : LFields) (s : State) : Result :=
  engine (.treroot f) f s (fun a _ _ s =>
    withArena s (word a 0) true (fun ar =>
      let r := rerootIn ar (nodeOf (word a 0))
      answerWord (.treroot f) (BitVec.ofNat 64 (r.2.1 * 2 ^ 56 + r.2.2))
        (modArena s (dieOf s.focus.c.core) ar.id (fun _ => r.1))))

/-- The child with the most visits (R344). -/
def bestChild (a : Arena) (x : Node) : Nat :=
  match childrenOf x with
  | [] => 0xFFFFFFFF
  | c :: cs =>
    let b := cs.foldl (fun b k => if (nodeAt a b).n.toNat < (nodeAt a k).n.toNat then k else b) c
    (nodeAt a b).n.toNat * 2 ^ 32 + b

/-- The value TSTAT delivers (R344). -/
def arenaStat (a : Arena) (n w : Nat) : Nat :=
  match w with
  | 4 => (a.cap - a.nodes.length) * 2 ^ 32 + a.root
  | 5 => (a.nodes.filter (fun e => e.2.pending)).length * 2 ^ 40 + a.queue.length * 2 ^ 32 + a.pslots * 2 ^ 16
      + (nodeAt a a.root).vl.toNat
  | 6 => bestChild a (nodeAt a n)
  | _ => ((nodeWords (nodeAt a n)).getD w 0).toNat

/-- TSTAT (R344). -/
def execTstat (f : LFields) (s : State) : Result :=
  engine (.tstat f) f s (fun a _ _ s =>
    let w := f.off.toNat % 8
    withArena s (word a 0) (w ≠ 4 && w ≠ 5) (fun ar =>
      fired (.tstat f) { r0 := some (scalar (BitVec.ofNat 64 (arenaStat ar (nodeOf (word a 0)) w))) } s))

end Sys2Proof.Machine
end

