-- ==== Sys2Proof/Machine/Fabric.lean ====
section
/-! DEFINITION. Class 0xF (R385, R391 to R399): windows, collectives and the state of a fabric port. -/

namespace Sys2Proof.Machine

open Sys2Proof

/-! ## Collective descriptors (R391) -/

def collKind (ws : List Word) : Nat := field (ws.getD 2 0).toNat 8 2
def collOp (ws : List Word) : Nat := field (ws.getD 2 0).toNat 10 2
def collFmt (ws : List Word) : ElemType := elemOfCode (field (ws.getD 2 0).toNat 12 4)
def collCount (ws : List Word) : Nat := field (ws.getD 2 0).toNat 16 24
def collCid (ws : List Word) : Nat := field (ws.getD 3 0).toNat 48 16
def collRoot (ws : List Word) : Nat := field (ws.getD 3 0).toNat 32 16
def collMembers (ws : List Word) : Nat := field (ws.getD 3 0).toNat 16 16
def collRank (ws : List Word) : Nat := field (ws.getD 3 0).toNat 0 16

/-- Bytes of a member's contribution, or of one member's part of a result. -/
def collBytes (ws : List Word) : Nat := collCount ws * ((collFmt ws).width / 8)

/-- Bytes of DST that a collective writes (R392). -/
def collDst (ws : List Word) : Nat :=
  if collKind ws = 3 then 0 else if collKind ws = 1 then collMembers ws * collBytes ws else collBytes ws

/-- Bytes of SRC that a collective reads: of a broadcast only at the root, of a barrier none. -/
def collSrc (ws : List Word) : Nat :=
  if collKind ws = 3 || (collKind ws = 2 && collRank ws ≠ collRoot ws) then 0 else collBytes ws

/-- The pointers through which a collective reads and writes: LIST, SRC and DST. -/
def collPointers (ws : List Word) : List Word :=
  ws.getD 4 0 :: ((if collSrc ws = 0 then [] else [ws.getD 0 0]) ++ (if collDst ws = 0 then [] else [ws.getD 1 0]))

/-- A pointer on neither GEN nor SPAD. -/
def offPath (p : Word) : Bool := 1 < ptrPath p

/-- A reserved bit, a field out of range or a pointer off GEN and SPAD (R391, R397). -/
def collBad (ws : List Word) : Bool :=
  let w2 := (ws.getD 2 0).toNat
  w2 / 2 ^ 40 ≠ 0 || w2 % 2 ^ 8 ≠ 0 || ws.getD 5 0 ≠ 0 || ws.getD 7 0 ≠ 0
    || (collKind ws ≠ 3 && collCount ws = 0)
    || !([ElemType.f32, .bf16, .i32, .n32, .i64, .n64].contains (collFmt ws))
    || (collKind ws = 0 && collOp ws = 3)
    || collMembers ws = 0 || 4096 < collMembers ws || collMembers ws ≤ collRank ws
    || (if collKind ws = 2 then collMembers ws ≤ collRoot ws else collRoot ws ≠ 0)
    || offPath (ws.getD 0 0) || offPath (ws.getD 1 0) || offPath (ws.getD 4 0)

/-- A member entry (R391): partition, die and node. -/
def memberPart (e : Word) : Nat := field e.toNat 19 3
def memberDie (e : Word) : Nat := field e.toNat 17 2
def memberNode (e : Word) : Nat := e.toNat % 2 ^ 17

/-- The entry of a context's own partition (R397). -/
def ownEntry (s : State) (c : CtxId) : Nat := (ctxAt s c).part * 2 ^ 19 + dieOf c.core * 2 ^ 17 + s.pkg.node

/-- The fault of a range of a collective: every byte on SPAD, page by page on GEN. -/
def spanFault (s : State) (w : Who) (want : Want) (p : Word) (n : Nat) : Option AccFault :=
  if n = 0 then none
  else
    match basicCheck p with
    | some e => some e
    | none =>
      if ptrPath p = pathSPAD then
        match locate s w want p n with
        | .error e => some e
        | .ok _ => none
      else rangeFault s w want p n

/-- Bytes at their points of coherence; none where they cannot be reached. -/
def coherentRead (s : State) (w : Who) (p : Word) (n : Nat) : Option (List Byte) :=
  match locate s w .read p n with
  | .ok ls => some (coherentBytes s w ls)
  | .error _ => none

/-- Words of n bytes each. -/
def chunksOf (n count : Nat) (bs : List Byte) : List Nat := (List.range count).map (fun k => ofBytes ((bs.drop (n * k)).take n))

/-! ## WSET and WGET (R396) -/

/-- WSET (R396): the window changes at the commit. -/
def execWset (f : LFields) (s : State) : Result :=
  fire (.wset f) s (fun a _ _ s =>
    let w0 := word a.value 0
    let w1 := word a.value 1
    if w0.toNat % 2 ^ 40 ≠ 0 || 2 ^ 54 ≤ w1.toNat then faulted clsPathReserved 0x19 0 0 s
    else fired (.wset f) { effs := [.wset (f.off.toNat % 64) w0 w1] } s)

/-- WGET (R396): the committed words of a window. -/
def execWget (f : LFields) (s : State) : Result :=
  fire (.wget f) s (fun _ _ _ s =>
    let w := windowOf s s.focus.c (f.off.toNat % 64)
    fired (.wget f) { r0 := some (wideTok (ofWords [w.1, w.2])) } s)

/-! ## COLL and CWAIT (R397, R398) -/

/-- The descriptor address of COLL and CWAIT: the checks that need no descriptor. -/
def collPointer (p : Word) : Option AccFault :=
  match basicCheck p with
  | some e => some e
  | none =>
    if offPath p then some ⟨clsPathReserved, 0x07, p, 0⟩
    else if ptrAddr p % 64 ≠ 0 then some ⟨clsPathReserved, 0x19, p, 0⟩
    else none

/-- COLL with its descriptor read: its pointers by R161 first, then the member list, then the ranges it will read and write. -/
def startCollective (f : LFields) (p : Word) (ws : List Word) (s : State) : State :=
  let w := whoAt s
  let bad := faulted clsPathReserved 0x19 p 0 s
  match (collPointers ws).findSome? basicCheck with
  | some e => faultAcc e s
  | none =>
  if collBad ws then bad
  else
    let list := ws.getD 4 0
    match spanFault s w .read list (4 * collMembers ws) with
    | some e => faultAcc e s
    | none =>
      match coherentRead s w list (4 * collMembers ws) with
      | none => s
      | some bs =>
        let ms := chunksOf 4 (collMembers ws) bs
        if ms.any (fun m => 2 ^ 22 ≤ m) || ms.getD (collRank ws) 0 ≠ ownEntry s s.focus.c then bad
        else
          match spanFault s w .read (ws.getD 0 0) (collSrc ws) <|> spanFault s w .write (ws.getD 1 0) (collDst ws)
              <|> spanFault s w .write (addrOf p 48) 8 with
          | some e => faultAcc e s
          | none => fired (.coll f) { effs := [.coll p ws (ms.map (BitVec.ofNat 64))] } s

/-- COLL (R397). -/
def execColl (f : LFields) (s : State) : Result :=
  fire (.coll f) s (fun a _ _ s =>
    let p := addrOf (word a.value 0) (offsetOf f)
    match collPointer p with
    | some e => faultAcc e s
    | none =>
      match locate s (whoAt s) .read p 64 with
      | .error e => faultAcc e s
      | .ok ls =>
        match poisonedHome s (ls.zip (bytePtrs p 64)) with
        | some line => faulted clsTokenParity 0x04 line 0 s
        | none => startCollective f p ((chunksOf 8 8 (coherentBytes s (whoAt s) ls)).map (BitVec.ofNat 64)) s)

/-- The number of the collective that a context committed last with a descriptor. -/
def lastColl (x : Ctx) (p : Word) : Option Nat :=
  ((List.range x.colls.length).filter (fun n => (x.colls[n]?).any (·.desc = p))).getLast?

/-- CWAIT (R398): a wait that stands from before a squash goes on. -/
def execCwait (f : LFields) (s : State) : Result :=
  fire (.cwait f) s (fun a _ _ s =>
    let p := addrOf (word a.value 0) (offsetOf f)
    let c := s.focus.c
    let x := ctxAt s c
    if x.cwait.any (fun w => w.2 == (s.focus.idx, s.focus.tag)) then awaiting s
    else if syncPending s then s
    else
      match collPointer p with
      | some e => faultAcc e s
      | none =>
        match locate s (whoAt s) .read (addrOf p 48) 8 with
        | .error e => faultAcc e s
        | .ok ls =>
          let stands := BitVec.ofNat 64 (ofBytes (coherentBytes s (whoAt s) ls))
          match lastColl x p with
          | none => answerWord (.cwait f) stands s
          | some n =>
            match x.colls[n]? with
            | none => s
            | some q =>
              if q.done then reloadLater (answerWord (.cwait f) q.status s) c s.focus.tag f.lsid.toNat
              else awaiting (modCtx s c (fun x => { x with cwait := some (n, s.focus.idx, s.focus.tag) })))

/-- FLINK (R399): PEER and LANES of a port that is down are 0. -/
def execFlink (f : LFields) (s : State) : Result :=
  fire (.flink f) s (fun _ _ _ s =>
    let q := tabGet Port.blank s.pkg.ports (f.off.toNat % 16)
    let up := q.lanes ≠ 0
    let v := (if up then q.peer else 0) * 2 ^ 32 + min 65535 q.retries * 2 ^ 16 + q.lanes * 2 ^ 8 + bit up 0
    fired (.flink f) { r0 := some (scalar (BitVec.ofNat 64 v)) } s)

/-! ## A collective at its commit and its end (R392 to R394) -/

/-- A collective of a context, by number. -/
def modColl (s : State) (c : CtxId) (n : Nat) (f : Coll → Coll) : State :=
  modCtx s c (fun x => { x with colls := listSet x.colls n f })

/-- A collective starts (R393, R397): SRC is read at its point of coherence. An SRC that can no longer be read is
kept as no data. -/
def commitColl (s : State) (c : CtxId) (desc : Word) (ws ms : List Word) : State :=
  let data := (coherentRead s (whoOf s c) (ws.getD 0 0) (collSrc ws)).getD []
  modCtx s c (fun x =>
    let seq := (x.colls.filter (fun q => collCid q.words = collCid ws)).length
    { x with colls := x.colls ++ [⟨desc, ws, ms, data, seq, false, 0⟩] })

/-- What a collective finds of a member: its descriptor, member list and contribution. -/
structure Contribution where
  at_     : Option (CtxId × Nat)
  words   : List Word
  members : List Word
  data    : List Byte
  deriving DecidableEq, Repr

/-- The collective in progress of a context that a test selects by its descriptor words and members, among those of a CID and
number, as a contribution (R392). -/
def ctxContribution (s : State) (c : CtxId) (cid seq : Nat) (sel : List Word → List Word → Bool) : Option Contribution :=
  let x := ctxAt s c
  ((List.range x.colls.length).findSome? (fun n =>
    match x.colls[n]? with
    | some q => if !q.done && collCid q.words = cid && q.seq = seq && sel q.words q.members then
        some ⟨some (c, n), q.words, q.members, q.data⟩ else none
    | none => none))

/-- The contexts of a partition. -/
def partContexts (s : State) (die part : Nat) : List CtxId :=
  ((coreNums s).filter (fun k => dieOf k = die && !isMgmt k)).flatMap (fun k =>
    ((coreAt s k).ctxs.filter (fun e => e.2.part = part)).map (fun e => ⟨k, e.1⟩))

/-- The contribution of a partition, named by a member entry, that a test selects: of the collectives of its contexts, each
context's counted for itself (R392). -/
def contributionBy (s : State) (e : Word) (cid seq : Nat) (sel : List Word → List Word → Bool) : Option Contribution :=
  if memberNode e = s.pkg.node then
    (partContexts s (memberDie e) (memberPart e)).findSome? (fun c => ctxContribution s c cid seq sel)
  else
    ((s.remotes.find? (fun r => r.node = memberNode e && r.die = memberDie e && r.part = memberPart e)).bind (fun r =>
      ((r.colls.map (·.1)).eraseDups).findSome? (fun n =>
        ((r.colls.filter (fun q => q.1 = n && q.2.1 = cid))[seq]?).filter (fun q => sel q.2.2.1 q.2.2.2.1)))).map
      (fun q => ⟨none, q.2.2.1, q.2.2.2.1, q.2.2.2.2⟩)

/-- The contribution of member `rank` of a member list: the partition's with that rank, or one with another list, which gives
what the others do not (R392). -/
def contribution (s : State) (ms : List Word) (cid seq rank : Nat) : Option Contribution :=
  let e := ms.getD rank 0
  contributionBy s e cid seq (fun ws l => l = ms && collRank ws = rank) <|> contributionBy s e cid seq (fun _ l => l ≠ ms)

/-- A member's partition takes collectives (R401), and can be reached (R384): the code with which it ends one. -/
def memberCode (s : State) (e : Word) : Option Nat :=
  if memberNode e = s.pkg.node then
    if (partAt s (memberDie e) (memberPart e)).fabAccept.getLsbD 2 then none else some 0x03
  else
    match remoteOf s (memberNode e) (memberDie e) (memberPart e) with
    | none => some 0x02
    | some r => if r.accept.getLsbD 2 then none else some 0x03

/-- Two members disagree (R392). -/
def collDiffers (x y : Contribution) : Bool :=
  (x.words.getD 2 0).toNat / 2 ^ 8 ≠ (y.words.getD 2 0).toNat / 2 ^ 8
    || collMembers x.words ≠ collMembers y.words || collRoot x.words ≠ collRoot y.words || x.members ≠ y.members

/-- An element of an allreduce, combined in ascending rank (R392). -/
def reduceElement (op : Nat) (ty : ElemType) (vs : List Nat) : Nat :=
  let widened := ty = .bf16 && op = 0
  let ty' := if widened then .f32 else ty
  let vs := if widened then vs.map (· * 2 ^ 16) else vs
  let r := match vs with
    | [] => 0
    | v :: t => t.foldl (combineVals op ty') v
  if widened then (deliverF .bf16 .nearest false 0 (readF .f32 r).exact).1 else r

/-- The bytes DST receives when every member has contributed and none disagrees (R392). -/
def collResult (ws : List Word) (ks : List Contribution) : List Byte :=
  let size := (collFmt ws).width / 8
  match collKind ws with
  | 0 =>
    (List.range (collCount ws)).flatMap (fun e =>
      toBytes size (reduceElement (collOp ws) (collFmt ws) (ks.map (fun k => ofBytes ((k.data.drop (size * e)).take size)))))
  | 1 => ks.flatMap (·.data)
  | 2 => ((ks[collRoot ws]?).map (·.data)).getD []
  | _ => []

/-- Bytes that the device writes for a context on GEN or SPAD as synchronising writes: no older clean copy of their lines stays,
so whoever observes them finds all of them in its later loads (R393). None where they cannot be reached. -/
def writeFor (s : State) (c : CtxId) (p : Word) (bs : List Byte) : Option State :=
  let w := whoOf s c
  match locate s w .write p bs.length with
  | .error _ => none
  | .ok ls =>
    let lines := linesOf (ls.filterMap (fun l => match l with
      | .pa a _ => some (a, (0 : Byte))
      | _ => none))
    some (coherentWrite (lines.foldl (fun s l => dropClean (flushLine s w (64 * l)) l) s) w (ls.zip bs))

/-- The contributions of all members, in rank order, where all have come. -/
def allContributions (s : State) (ms : List Word) (cid seq : Nat) : Option (List Contribution) :=
  (List.range ms.length).mapM (contribution s ms cid seq)

/-- No launch is left in a partition to contribute to a collective, or the launch that took part under its CID has ended (R394).
DESIGN CHOICE (log entry 96): which launch would have contributed. -/
def partEnded (s : State) (e : Word) (cid seq : Nat) : Bool :=
  if memberNode e = s.pkg.node then
    (partAt s (memberDie e) (memberPart e)).launches.isEmpty || (partAt s (memberDie e) (memberPart e)).collEnded.contains (cid, seq)
  else (remoteOf s (memberNode e) (memberDie e) (memberPart e)).any (fun r => r.ended.contains (cid, seq))

/-- Some member has not contributed, and its launch has ended. -/
def memberEnded (s : State) (ms : List Word) (cid seq : Nat) : Bool :=
  (List.range ms.length).any (fun r => partEnded s (ms.getD r 0) cid seq && (contribution s ms cid seq r).isNone)

/-- The code, not 0, with which a collective has ended at a member whose contribution is no longer in progress: it ends so at
every member (R392, R401), at one that comes late too. -/
def endedCode (s : State) (ms : List Word) (cid seq : Nat) : Option Nat :=
  (List.range ms.length).findSome? (fun r =>
    let e := ms.getD r 0
    if memberNode e ≠ s.pkg.node || (contribution s ms cid seq r).isSome then none
    else (partContexts s (memberDie e) (memberPart e)).findSome? (fun c =>
      ((ctxAt s c).colls.find? (fun q => q.done && collCid q.words = cid && q.seq = seq && collRank q.words = r
        && (ctxAt s c).st != .free && q.status.toNat / 2 ^ 56 ≠ 0)).map (fun q => q.status.toNat / 2 ^ 56)))

/-- The end that the contributions of all members come to. -/
def joinOutcome (ks : List Contribution) : Option (Nat × List Contribution) :=
  match ks with
  | [] => none
  | k :: t =>
    if t.any (collDiffers k) then some (0x01, [])
    else if ks.any (fun k => k.data.length ≠ collSrc k.words) then some (0x03, [])
    else some (0x00, ks)

/-- The end a collective has come to: its code and contributions; none while it is in progress. -/
def collOutcome (s : State) (q : Coll) : Option (Nat × List Contribution) :=
  let cid := collCid q.words
  match q.members.findSome? (memberCode s), endedCode s q.members cid q.seq with
  | some code, _ => some (code, [])
  | none, some code => some (code, [])
  | none, none =>
    if memberEnded s q.members cid q.seq then some (0x04, [])
    else (allContributions s q.members cid q.seq).bind joinOutcome

/-- A collective that ended wakes the CWAIT that waits for it (R398), behind which loads fire again (R393). -/
def wakeCwait (s : State) (c : CtxId) (n : Nat) (status : Word) : State :=
  match (ctxAt s c).cwait with
  | some (m, idx, tag) =>
    if m = n then
      let s := answerLater c idx tag (some (status.setWidth 512)) status (modCtx s c (fun x => { x with cwait := none }))
      reloadLater s c tag (waitingLsid s c idx)
    else s
  | none => s

/-- The status of a member's collective goes into its descriptor and its CWAIT (R394, R398). -/
def closeMember (s : State) (c : CtxId) (n : Nat) (q : Coll) (code : Nat) : State :=
  let status := BitVec.ofNat 64 (code * 2 ^ 56 + q.seq % 2 ^ 32)
  let s := (writeFor s c (addrOf q.desc 48) (wordBytes [status])).getD s
  wakeCwait (modColl s c n (fun q => { q with done := true, status := status })) c n status

/-- The result bytes of a member's collective: free where it ended with a code other than 0 (R394). -/
def memberBytes (s : State) (q : Coll) (code : Nat) (ks : List Contribution) : List Byte :=
  if code = 0 then collResult q.words ks else (List.range (collDst q.words)).map (Config.collByte s.freeCounter)

/-- A member's result is written, then its status: a result that cannot be written ends with code 0x03. -/
def endMember (s : State) (c : CtxId) (n code : Nat) (bs : List Byte) (q : Coll) : State :=
  let wrote := writeFor s c (q.words.getD 1 0) bs
  closeMember (wrote.getD s) c n q (if wrote.isNone && code = 0 && !bs.isEmpty then 0x03 else code)

/-- DST and STATUS of one member are written, and its CWAIT is answered (R393, R394, R398). With a code other than 0
DST holds unspecified bytes. -/
def finishMember (s : State) (c : CtxId) (n code : Nat) (ks : List Contribution) : State :=
  match (ctxAt s c).colls[n]? with
  | none => s
  | some q => endMember { s with freeCounter := s.freeCounter + 1 } c n code (memberBytes s q code ks) q

/-- The members of a collective on this module that have not ended, with their collectives. -/
def ownMembers (s : State) (q : Coll) : List (CtxId × Nat) :=
  (List.range q.members.length).filterMap (fun r =>
    match contribution s q.members (collCid q.words) q.seq r with
    | some ⟨some (c, n), _, _, _⟩ => if ((ctxAt s c).colls[n]?).any (fun q => !q.done) then some (c, n) else none
    | _ => none)

/-- A collective ends at every member of this module (R392 to R394). -/
def endCollective (s : State) (c : CtxId) (n : Nat) : State :=
  match (ctxAt s c).colls[n]? with
  | none => s
  | some q =>
    if q.done then s
    else
      match collOutcome s q with
      | none => s
      | some (code, ks) => (ownMembers s q).foldl (fun s e => finishMember s e.1 e.2 code ks) s

end Sys2Proof.Machine
end

