-- ==== Sys2Proof/Machine/Trans.lean ====
section
/-! DEFINITION. The functions of class 0x4 (R101): the exact value enclosed in fixed point with 400 fraction bits. A value
is delivered as its truncation with the mark that more follows; no function value of a 24-bit operand lies nearer to
a rounding boundary than that (log entry 21). The arguments with a rational value are delivered exactly. -/

namespace Sys2Proof.Machine

open Sys2Proof

/-- Fraction bits of the fixed-point values. -/
def fxBits : Nat := 400

/-- floor(ln 2 × 2^400). -/
def fxLn2 : Nat := 0xb17217f7d1cf79abc9e3b39803f2f6af40f343267298b62d8a0d175b8baafa2be7b876206debac98559552fb4afa1b10ed2e

/-- floor(π/2 × 2^400). -/
def fxHalfPi : Nat := 0x1921fb54442d18469898cc51701b839a252049c1114cf98e804177d4c76273644a29410f31c6809bbdf2a33679a7486366056

/-- floor(2/π × 2^700). -/
def fxTwoOverPi : Nat := 0xa2f9836e4e441529fc2757d1f534ddc0db6295993c439041fe5163abdebbc561b7246e3a424dd2e006492eea09d1921cfe1deb1cb129a73ee88235f52ebb4484e99c7026b45f7e413991d639835339f49c845f8bbdf9283

/-- floor(log2 e × 2^700). -/
def fxLog2E : Nat := 0x171547652b82fe1777d0ffda0d23a7d11d6aef551bad2b4b1164a2cd9a342648fbc3887eeaa2ed9ac49b25eeb82d7c167d52173cc1895213f897f5e06a7be73665fc529264c2fb3ab643687aaf3ab440c16bd777e75050a8

def fxOne : Nat := 2 ^ fxBits
def fxMul (a b : Nat) : Nat := a * b / fxOne

/-- Sum of the series t + t·y/k + t·y²/(k(k+1)) + …, the terms of e^y from a given one. -/
def fxExpFrom : Nat → Nat → Nat → Nat → Nat
  | 0, _, _, _ => 0
  | n + 1, k, y, t => t + fxExpFrom n (k + 1) y (fxMul t y / k)

/-- 2^f for a fixed-point f in [0, 1). -/
def fxExp2 (f : Nat) : Nat := fxExpFrom 120 1 (fxMul f fxLn2) fxOne

/-- The odd series z + z³/3 + z⁵/5 + …: `p` is the power, `k` its exponent. -/
def fxAtanhFrom : Nat → Nat → Nat → Nat → Nat
  | 0, _, _, _ => 0
  | n + 1, k, z2, p => p / k + fxAtanhFrom n (k + 2) z2 (fxMul p z2)

/-- log2 y for a fixed-point y in [1, 2). -/
def fxLog2 (y : Nat) : Nat :=
  let z := (y - fxOne) * fxOne / (y + fxOne)
  2 * fxAtanhFrom 140 1 (fxMul z z) z * fxOne / fxLn2

/-- An alternating series from a term: t − t·r²/(k(k+1)) + …. -/
def fxAltFrom : Nat → Nat → Nat → Nat → Int
  | 0, _, _, _ => 0
  | n + 1, k, r2, t => (t : Int) - fxAltFrom n (k + 2) r2 (fxMul t r2 / (k * (k + 1)))

/-- sin r and cos r for a fixed-point r in [0, π/2). -/
def fxSin (r : Nat) : Nat := (fxAltFrom 80 2 (fxMul r r) r).toNat
def fxCos (r : Nat) : Nat := (fxAltFrom 80 1 (fxMul r r) fxOne).toNat

/-- e^y × 2^400 for y = m × 2^e ≥ 0, y at most 1,024. -/
def fxExp (m : Nat) (e : Int) : Nat :=
  let t := if 0 ≤ e then m * 2 ^ e.toNat * fxLog2E else m * fxLog2E / 2 ^ (-e).toNat
  let n := t / 2 ^ 700
  fxExp2 (t % 2 ^ 700 / 2 ^ 300) * 2 ^ n

/-- The binary exponent of a magnitude. -/
def topOf (m : Nat) (e : Int) : Int := (Nat.log2 m : Int) + e

/-- Just above, and just below, m × 2^e. -/
def justAbove (neg : Bool) (m : Nat) (e : Int) : Exact := .num neg (m * 2 ^ 300) (e - 300) true
def justBelow (neg : Bool) (m : Nat) (e : Int) : Exact := .num neg (m * 2 ^ 300 - 1) (e - 300) true

/-- 2^x. -/
def exactExp2 (x : FVal) : Exact :=
  match x with
  | .nan => .nan false
  | .inf false => .opInf false false
  | .inf true => .num false 0 0 false
  | .fin neg m e =>
    if m = 0 then .num false 1 0 false
    else if 12 ≤ topOf m e then (if neg then .num false 1 (-5000) true else .num false 1 5000 true)
    else if 0 ≤ e then
      let n : Int := (m * 2 ^ e.toNat : Nat)
      .num false 1 (if neg then -n else n) false
    else if m % 2 ^ (-e).toNat = 0 then
      let n : Int := (m / 2 ^ (-e).toNat : Nat)
      .num false 1 (if neg then -n else n) false
    else if topOf m e < -100 then (if neg then justBelow false 1 0 else justAbove false 1 0)
    else
      let fx : Int := (m * 2 ^ ((fxBits : Int) + e).toNat : Nat)
      let x := if neg then -fx else fx
      .num false (fxExp2 (x % (fxOne : Int)).toNat) (x / (fxOne : Int) - (fxBits : Int)) true

/-- log2 x. -/
def exactLog2 (x : FVal) : Exact :=
  match x with
  | .nan => .nan false
  | .inf false => .opInf false false
  | .inf true => .nan true
  | .fin neg m e =>
    if m = 0 then .opInf true true
    else if neg then .nan true
    else
      let n := topOf m e
      if m = 2 ^ Nat.log2 m then .num (n < 0) n.natAbs 0 false
      else
        let y := m * fxOne / 2 ^ Nat.log2 m
        let v : Int := n * (fxOne : Int) + (fxLog2 y : Int)
        if 0 ≤ v then .num false v.toNat (-(fxBits : Int)) true
        else .num true ((-v).toNat - 1) (-(fxBits : Int)) true

/-- The quadrant of |x| and the reduced argument in fixed point (R101: exact reduction). -/
def reduceAngle (m : Nat) (e : Int) : Nat × Nat :=
  let t := if 0 ≤ e then m * 2 ^ e.toNat * fxTwoOverPi else m * fxTwoOverPi / 2 ^ (-e).toNat
  (t / 2 ^ 700 % 4, fxMul (t % 2 ^ 700 / 2 ^ 300) fxHalfPi)

/-- sin x. -/
def exactSin (x : FVal) : Exact :=
  match x with
  | .nan => .nan false
  | .inf _ => .nan true
  | .fin neg m e =>
    if m = 0 then .num neg 0 0 false
    else if topOf m e < -100 then justBelow neg m e
    else
      let (q, r) := reduceAngle m e
      let v := if q % 2 = 0 then fxSin r else fxCos r
      .num (neg != decide (2 ≤ q)) v (-(fxBits : Int)) true

/-- cos x. -/
def exactCos (x : FVal) : Exact :=
  match x with
  | .nan => .nan false
  | .inf _ => .nan true
  | .fin _ m e =>
    if m = 0 then .num false 1 0 false
    else if topOf m e < -100 then justBelow false 1 0
    else
      let (q, r) := reduceAngle m e
      let v := if q % 2 = 0 then fxCos r else fxSin r
      .num (q = 1 || q = 2) v (-(fxBits : Int)) true

/-- tanh x. -/
def exactTanh (x : FVal) : Exact :=
  match x with
  | .nan => .nan false
  | .inf n => .num n 1 0 false
  | .fin neg m e =>
    if m = 0 then .num neg 0 0 false
    else if topOf m e < -100 then justBelow neg m e
    else if 9 ≤ topOf m e then justBelow neg 1 0
    else
      let ex := fxExp (2 * m) e
      .num neg ((ex - fxOne) * fxOne / (ex + fxOne)) (-(fxBits : Int)) true

/-- 1 / (1 + e^(−x)). -/
def exactSig (x : FVal) : Exact :=
  match x with
  | .nan => .nan false
  | .inf true => .num false 0 0 false
  | .inf false => .num false 1 0 false
  | .fin neg m e =>
    if m = 0 then .num false 1 (-1) false
    else if topOf m e < -100 then (if neg then justBelow false 1 (-1) else justAbove false 1 (-1))
    else if 9 ≤ topOf m e then (if neg then .num false 1 (-700) true else justBelow false 1 0)
    else
      let ex := fxExp m e
      if neg then .num false (fxOne * 2 ^ 1600 / (ex + fxOne)) (-1600) true
      else .num false (ex * fxOne / (ex + fxOne)) (-(fxBits : Int)) true

end Sys2Proof.Machine
end

