-- ==== Sys2Proof/Machine/FloatAlu.lean ====
section
/-! DEFINITION. Class 0x3, floating-point arithmetic, and the functions of class 0x4 (R99 to R102): the value of each
instruction on its operands, and its meaning. -/

namespace Sys2Proof.Machine

open Sys2Proof

/-- A stochastic position waits until its block, and in a pinned block its iteration, is the oldest: only then are all
writes of SEED and all draws before it committed (R77). -/
def drawsWait (s : State) (i : Instr) (o : RoundOvr) : Bool :=
  (roundingAt s i o).mode = .stochastic
    && !(frameAt s s.focus.c s.focus.frame).any (fun fr => isOldest fr s.focus.frame s.focus.tag)

/-- The meaning of a rounding instruction: as `compute`, with the mode and the draws of its position (R77). -/
def computeR (i : Instr) (s : State) (o : RoundOvr) (f : Rounding → Wide → Wide → Wide → Wide × BitVec 6) : Result :=
  fire i s (fun a b c s =>
    let r := roundingAt s i o
    if drawsWait s i o then s
    else
      let v := f r a.value b.value c.value
      fired i { r0 := some (wideTok v.1), r1 := some (wideTok v.1), flags := v.2 } s)

/-- A rounding instruction on each lane, lane i with draw i (R77). -/
def fpLanes (f : GFields) (r : Rounding) (a b c : Wide) (op : FVal → FVal → FVal → Exact) : Wide × BitVec 6 :=
  perLane f.ty f.wide (fun i =>
    deliverF f.ty r.mode f.sat (r.draw i)
      (op (readF f.ty (laneN f.ty.width a i)) (readF f.ty (bLane f b i)) (readF f.ty (laneN f.ty.width c i))))

/-- The mode is rounding down (R65: the sign of an exact zero sum). -/
def isDown (r : Rounding) : Bool := r.mode = .down

def valFadd (f : GFields) (r : Rounding) (a b c : Wide) : Wide × BitVec 6 :=
  fpLanes f r a b c (fun x y _ => exactAdd (isDown r) x y)
def valFsub (f : GFields) (r : Rounding) (a b c : Wide) : Wide × BitVec 6 :=
  fpLanes f r a b c (fun x y _ => exactAdd (isDown r) x (flipSign y))
def valFmul (f : GFields) (r : Rounding) (a b c : Wide) : Wide × BitVec 6 :=
  fpLanes f r a b c (fun x y _ => exactMul x y)
def valFdiv (f : GFields) (r : Rounding) (a b c : Wide) : Wide × BitVec 6 :=
  fpLanes f r a b c (fun x y _ => exactDiv x y)
def valFma (f : GFields) (r : Rounding) (a b c : Wide) : Wide × BitVec 6 :=
  fpLanes f r a b c (fun x y z => exactFma (isDown r) x y z)
def valFms (f : GFields) (r : Rounding) (a b c : Wide) : Wide × BitVec 6 :=
  fpLanes f r a b c (fun x y z => exactFma (isDown r) x y (flipSign z))
def valFnma (f : GFields) (r : Rounding) (a b c : Wide) : Wide × BitVec 6 :=
  fpLanes f r a b c (fun x y z => exactFma (isDown r) (flipSign x) y z)
def valFnms (f : GFields) (r : Rounding) (a b c : Wide) : Wide × BitVec 6 :=
  fpLanes f r a b c (fun x y z => exactFma (isDown r) (flipSign x) y (flipSign z))
def valFsqrt (f : GFields) (r : Rounding) (a b c : Wide) : Wide × BitVec 6 :=
  fpLanes f r a b c (fun x _ _ => exactSqrt x)
def valFrcp (f : GFields) (r : Rounding) (a b c : Wide) : Wide × BitVec 6 :=
  fpLanes f r a b c (fun x _ _ => exactRcp x)
def valFrsq (f : GFields) (r : Rounding) (a b c : Wide) : Wide × BitVec 6 :=
  fpLanes f r a b c (fun x _ _ => exactRsq x)
def valFexp2 (f : GFields) (r : Rounding) (a b c : Wide) : Wide × BitVec 6 :=
  fpLanes f r a b c (fun x _ _ => exactExp2 x)
def valFlog2 (f : GFields) (r : Rounding) (a b c : Wide) : Wide × BitVec 6 :=
  fpLanes f r a b c (fun x _ _ => exactLog2 x)
def valFsin (f : GFields) (r : Rounding) (a b c : Wide) : Wide × BitVec 6 :=
  fpLanes f r a b c (fun x _ _ => exactSin x)
def valFcos (f : GFields) (r : Rounding) (a b c : Wide) : Wide × BitVec 6 :=
  fpLanes f r a b c (fun x _ _ => exactCos x)
def valFtanh (f : GFields) (r : Rounding) (a b c : Wide) : Wide × BitVec 6 :=
  fpLanes f r a b c (fun x _ _ => exactTanh x)
def valFsig (f : GFields) (r : Rounding) (a b c : Wide) : Wide × BitVec 6 :=
  fpLanes f r a b c (fun x _ _ => exactSig x)

/-- FMIN and FMAX (R100). -/
def valFminmax (f : GFields) (less : Bool) (a b c : Wide) : Wide × BitVec 6 :=
  elementwise f a b c (fun x y _ => (minMaxF f.ty less x y, 0))

/-- A lane with its sign bit set to `neg`; a NaN becomes the canonical pattern with that sign (R100). -/
def withSign (ty : ElemType) (x : Nat) (neg : Bool) : Nat :=
  (if isNaN (readF ty x) then nanOf ty else x % signBit ty) + (if neg then signBit ty else 0)

/-- The sign bit of a lane. -/
def signOf (ty : ElemType) (x : Nat) : Bool := signBit ty ≤ x % 2 ^ ty.width

def valFabs (f : GFields) (a b c : Wide) : Wide × BitVec 6 :=
  elementwise f a b c (fun x _ _ => (withSign f.ty x false, 0))
def valFneg (f : GFields) (a b c : Wide) : Wide × BitVec 6 :=
  elementwise f a b c (fun x _ _ => (withSign f.ty x (!signOf f.ty x), 0))
def valFcpys (f : GFields) (a b c : Wide) : Wide × BitVec 6 :=
  elementwise f a b c (fun x y _ => (withSign f.ty x (signOf f.ty y), 0))

/-- The one-hot class of a pattern (R100). -/
def classOf (ty : ElemType) (x : Nat) : Nat :=
  match readF ty x with
  | .nan => 256
  | .inf n => if n then 1 else 128
  | .fin n m _ =>
    if m = 0 then (if n then 8 else 16)
    else if m < 2 ^ fracBits ty then (if n then 4 else 32)
    else (if n then 2 else 64)

def valFclass (f : GFields) (a b c : Wide) : Wide × BitVec 6 :=
  elementwise f a b c (fun x _ _ => (classOf f.ty x, 0))

/-- FRND of a lane (R102): the integral value in its own format; it sets no flag. -/
def frndLane (ty : ElemType) (mode : Mode) (draw x : Nat) : Nat :=
  match readF ty x with
  | .nan => nanOf ty
  | .inf _ => x
  | .fin n m e =>
    if 0 ≤ e then x
    else
      let (t, _) := roundAt mode n draw m e false 0
      (roundNum ty .zero false 0 n t 0 false).1

def valFrnd (f : GFields) (r : Rounding) (a : Wide) : Wide × BitVec 6 :=
  perLane f.ty f.wide (fun i => (frndLane f.ty r.mode (r.draw i) (laneN f.ty.width a i), 0))

/-! ## Meanings -/

/-- FADD (R99). -/
def execFadd (f : GFields) (s : State) : Result := computeR (.fadd f) s f.rnd (valFadd f)
/-- FSUB (R99). -/
def execFsub (f : GFields) (s : State) : Result := computeR (.fsub f) s f.rnd (valFsub f)
/-- FMUL (R99). -/
def execFmul (f : GFields) (s : State) : Result := computeR (.fmul f) s f.rnd (valFmul f)
/-- FDIV (R99). -/
def execFdiv (f : GFields) (s : State) : Result := computeR (.fdiv f) s f.rnd (valFdiv f)
/-- FMA (R99). -/
def execFma (f : GFields) (s : State) : Result := computeR (.fma f) s f.rnd (valFma f)
/-- FMS (R99). -/
def execFms (f : GFields) (s : State) : Result := computeR (.fms f) s f.rnd (valFms f)
/-- FNMA (R99). -/
def execFnma (f : GFields) (s : State) : Result := computeR (.fnma f) s f.rnd (valFnma f)
/-- FNMS (R99). -/
def execFnms (f : GFields) (s : State) : Result := computeR (.fnms f) s f.rnd (valFnms f)
/-- FMIN (R100). -/
def execFmin (f : GFields) (s : State) : Result := compute (.fmin f) s (fun _ => valFminmax f true)
/-- FMAX (R100). -/
def execFmax (f : GFields) (s : State) : Result := compute (.fmax f) s (fun _ => valFminmax f false)
/-- FABS (R100). -/
def execFabs (f : GFields) (s : State) : Result := compute (.fabs f) s (fun _ => valFabs f)
/-- FNEG (R100). -/
def execFneg (f : GFields) (s : State) : Result := compute (.fneg f) s (fun _ => valFneg f)
/-- FSQRT (R99). -/
def execFsqrt (f : GFields) (s : State) : Result := computeR (.fsqrt f) s f.rnd (valFsqrt f)
/-- FCLASS (R100). -/
def execFclass (f : GFields) (s : State) : Result := compute (.fclass f) s (fun _ => valFclass f)
/-- FCPYS (R100). -/
def execFcpys (f : GFields) (s : State) : Result := compute (.fcpys f) s (fun _ => valFcpys f)
/-- FRCP (R101). -/
def execFrcp (f : GFields) (s : State) : Result := computeR (.frcp f) s f.rnd (valFrcp f)
/-- FRSQ (R101). -/
def execFrsq (f : GFields) (s : State) : Result := computeR (.frsq f) s f.rnd (valFrsq f)
/-- FEXP2 (R101). -/
def execFexp2 (f : GFields) (s : State) : Result := computeR (.fexp2 f) s f.rnd (valFexp2 f)
/-- FLOG2 (R101). -/
def execFlog2 (f : GFields) (s : State) : Result := computeR (.flog2 f) s f.rnd (valFlog2 f)
/-- FSIN (R101). -/
def execFsin (f : GFields) (s : State) : Result := computeR (.fsin f) s f.rnd (valFsin f)
/-- FCOS (R101). -/
def execFcos (f : GFields) (s : State) : Result := computeR (.fcos f) s f.rnd (valFcos f)
/-- FTANH (R101). -/
def execFtanh (f : GFields) (s : State) : Result := computeR (.ftanh f) s f.rnd (valFtanh f)
/-- FSIG (R101). -/
def execFsig (f : GFields) (s : State) : Result := computeR (.fsig f) s f.rnd (valFsig f)
/-- FRND (R102). -/
def execFrnd (f : GFields) (s : State) : Result := computeR (.frnd f) s f.rnd (fun r a _ _ => valFrnd f r a)

end Sys2Proof.Machine
end

