-- ==== Sys2Proof/Machine/Lns.lean ====
section
/-! DEFINITION. LNS6 codes, block scales and packed blocks (R66 to R70), rounding to LNS6 (R79), quantisation (R80). -/

namespace Sys2Proof.Machine

open Sys2Proof

/-- The table T of R68, entries × 2^24. -/
def lnsT (f : Nat) : Nat :=
  match f % 4 with
  | 0 => 0x1000000
  | 1 => 0x1306FE0
  | 2 => 0x16A09E6
  | _ => 0x1AE89FA

/-- Quarters of a code: bits [4:0] as a signed integer (R66). -/
def quarters (c : Nat) : Int := toSigned 5 (c % 32)

/-- (−1)^neg × lin(q) × 2^s (R68). -/
def lnsVal (neg : Bool) (q s : Int) : FVal := .fin neg (lnsT (q % 4).toNat) ((q - q % 4) / 4 + s - 24)

/-- The value of a code under a biased scale (R66, R67, R69); scale 127 is none. -/
def readL6 (code scale : Nat) : FVal :=
  let c := code % 64
  if scale = 0xFF || c = 0x30 then .nan
  else if c = 0x10 then .fin false 0 0
  else lnsVal (32 ≤ c) (quarters c) ((scale : Int) - 127)

/-- The exact product of two scaled codes (R70). -/
def lnsProduct (ca sa cb sb : Nat) : FVal :=
  let a := ca % 64
  let b := cb % 64
  if sa = 0xFF || sb = 0xFF || a = 0x30 || b = 0x30 then .nan
  else if a = 0x10 || b = 0x10 then .fin false 0 0
  else lnsVal (decide (32 ≤ a) != decide (32 ≤ b)) (quarters a + quarters b) ((sa : Int) + (sb : Int) - 254)

/-- Compares m × 2^e with t × 2^k: less, or not. -/
def ltScaled (m : Nat) (e : Int) (t : Nat) (k : Int) : Bool :=
  let l := min e k
  m * 2 ^ (e - l).toNat < t * 2 ^ (k - l).toNat

/-- The thresholds of R79 under nearest, × 2^24. -/
def lnsThresholds : List Nat := [0x1172B84, 0x14BFDAD, 0x18ACE54, 0x1D5818E]

/-- The code of a sign and a number of quarters. -/
def codeOf (neg : Bool) (q : Int) : Nat := (if neg then 32 else 0) + (q % 32).toNat

/-- A finite nonzero value rounded to an LNS6 code (R79): none is an overflow. Stochastic reads as nearest. DESIGN CHOICE (log
entry 78): a product with q = -16, which R108 calls an exact code and R66 gives no magnitude, is rounded as R79 says. -/
def roundL6 (mode : Mode) (neg : Bool) (m : Nat) (e : Int) : Option Nat × BitVec 6 :=
  let top := (Nat.log2 m : Int) + e
  let below := fun t k => ltScaled m e t (k - 24)
  let tiny := below (lnsT 1) (-4)
  let finish := fun (q : Int) =>
    if 15 < q then (none, 0)
    else
      let same := !below (lnsT (q % 4).toNat) ((q - q % 4) / 4) && !(ltScaled (lnsT (q % 4).toNat) ((q - q % 4) / 4 - 24) m e)
      (some (codeOf neg q), if tiny then fUnderflow ||| fInexact else flagIf (!same) fInexact)
  match mode with
  | .nearest | .stochastic =>
    let g := (lnsThresholds.filter (fun t => !below t top)).length
    let q := 4 * top + (g : Int)
    if below 0x1000000 (-4) then (some 0x10, fUnderflow ||| fInexact) else finish (max q (-15))
  | _ =>
    let g := ((List.range 4).filter (fun g => !below (lnsT g) top)).length - 1
    let q := 4 * top + (g : Int)
    let away := match mode with
      | .up => !neg
      | .down => neg
      | _ => false
    let exact := !ltScaled (lnsT g) (top - 24) m e
    if q < -15 then (if away then finish (-15) else (some 0x10, fUnderflow ||| fInexact))
    else finish (if away && !exact then q + 1 else q)

/-- The mode as an LNS6 target reads it (R75). -/
def lnsMode : Mode → Mode
  | .stochastic => .nearest
  | m => m

/-- What R78 gives a .l6 target for an overflow or an infinity. -/
def overflowL6 (mode : Mode) (sat neg : Bool) : LaneRes :=
  let largest := if neg then 0x2F else 0x0F
  if overflowsToInf mode neg then (if sat then (largest, fSaturated) else (0x30, 0)) else (largest, 0)

/-- Delivers an exact result as a .l6 code (R78, R79). -/
def deliverL6 (mode0 : Mode) (sat : Bool) (x : Exact) : LaneRes :=
  let mode := lnsMode mode0
  match x with
  | .nan inv => (0x30, flagIf inv fInvalid)
  | .opInf neg _ => overflowL6 mode sat neg
  | .num neg m e _ =>
    if m = 0 then (0x10, 0)
    else
      match roundL6 mode neg m e with
      | (some c, fl) => (c, fl)
      | (none, _) =>
        let r := overflowL6 mode sat neg
        (r.1, r.2 ||| fOverflow ||| fInexact)

/-- Delivers an exact result in any format a conversion can name (R104). -/
def deliverAny (ty : ElemType) (mode : Mode) (sat : Bool) (draw : Nat) (x : Exact) : LaneRes :=
  if ty = .l6 then deliverL6 mode sat x else deliverF ty mode sat draw x

/-- Reads a pattern of any format a conversion can name. -/
def readAny (ty : ElemType) (n : Nat) : FVal := if ty = .l6 then readL6 n 127 else readF ty n

/-- The NaN block and the zero block (R80). -/
def nanBlock : Nat := 0xFFC30C30
def zeroBlock : Nat := 0x7F410410

/-- Quantises four values to a packed block (R80). -/
def quantise (mode0 : Mode) (sat : Bool) (xs : List FVal) : LaneRes :=
  let mode := lnsMode mode0
  let mags := xs.map (fun v => match v with
    | .fin n m e => some (n, m, e)
    | _ => none)
  if mags.any Option.isNone then (nanBlock, fInvalid)
  else
    let vs := mags.filterMap id
    let nz := vs.filter (fun v => v.2.1 ≠ 0)
    match nz with
    | [] => (zeroBlock, 0)
    | v0 :: _ =>
      let top := nz.foldl (fun acc v => max acc ((Nat.log2 v.2.1 : Int) + v.2.2)) ((Nat.log2 v0.2.1 : Int) + v0.2.2)
      let s0 := top + 124
      if 254 < s0 && !sat then (nanBlock, fOverflow ||| fInexact)
      else
        let clamped := 254 < s0
        let s : Int := if clamped then 254 else max s0 0
        let rs := vs.map (fun v =>
          if v.2.1 = 0 then ((0x10 : Nat), (0 : BitVec 6))
          else
            match roundL6 mode v.1 v.2.1 (v.2.2 - (s - 127)) with
            | (some c, fl) => (c, fl)
            | (none, _) => (if v.1 then 0x2F else 0x0F, flagIf clamped fSaturated))
        (s.toNat * 2 ^ 24 + (List.range 4).foldl (fun acc k => acc + (rs.getD k (0x10, 0)).1 * 2 ^ (6 * k)) 0,
          orFlags (rs.map (·.2)) ||| flagIf clamped fSaturated)

end Sys2Proof.Machine
end

