-- ==== Sys2Proof/Machine/Convert.lean ====
section
/-! DEFINITION. The conversions of class 0x4 (R103, R104) and class 0x5, narrow formats and scales (R105 to R108): the
value of each instruction on its operands, and its meaning. -/

namespace Sys2Proof.Machine

open Sys2Proof

/-- The source type and the part number of a conversion (R103). -/
def srcType (f : GFields) : ElemType := elemOfCode (immN f)
def partNumber (f : GFields) : Nat := field (immN f) 4 3

/-- A conversion's lanes (R103): `one k x` converts element x as the k-th lane converted. -/
def convertLanes (f : GFields) (a : Wide) (one : Nat → Nat → LaneRes) : Wide × BitVec 6 :=
  let ws := (srcType f).width
  let wd := f.ty.width
  if !f.wide then
    let r := one 0 (laneN ws a 0)
    (scalarOf f.ty r.1, r.2)
  else
    let n := 512 / max ws wd
    let p := partNumber f
    let from_ := if ws < wd then p * n else 0
    let to_ := if wd < ws then p * n else 0
    let rs := (List.range n).map (fun k => one k (laneN ws a (from_ + k)))
    (fromLanes wd (laneCount wd) (fun i => if to_ ≤ i && i < to_ + n then (rs.getD (i - to_) (0, 0)).1 else 0),
      orFlags (rs.map (·.2)))

/-- A floating conversion of one element (R104). -/
def cvtfLane (dst src : ElemType) (mode : Mode) (sat : Bool) (draw x : Nat) : LaneRes :=
  deliverAny dst mode sat draw (readAny src x).exact

/-- Conversion to an integer (R78, R104). -/
def toIntLane (dst : ElemType) (mode : Mode) (sat : Bool) (draw : Nat) (v : FVal) : LaneRes :=
  let bad := if dst.signed then 2 ^ (dst.width - 1) else 0
  let clampTo := fun (x : Int) =>
    let c := wrapTo dst.width x
    (c, fInvalid ||| flagIf (c ≠ bad) fSaturated)
  match v with
  | .nan => if sat then (0, fInvalid ||| flagIf (bad ≠ 0) fSaturated) else (bad, fInvalid)
  | .inf n => if sat then clampTo (if n then minOf dst else maxOf dst) else (bad, fInvalid)
  | .fin n m e =>
    let (x, inexact) := roundInt mode draw n m e
    if minOf dst ≤ x && x ≤ maxOf dst then (wrapTo dst.width x, flagIf inexact fInexact)
    else if sat then clampTo (if x < minOf dst then minOf dst else maxOf dst) else (bad, fInvalid)

def valCvtf (f : GFields) (r : Rounding) (a : Wide) : Wide × BitVec 6 :=
  convertLanes f a (fun k x => cvtfLane f.ty (srcType f) r.mode f.sat (r.draw k) x)
def valCvtfi (f : GFields) (r : Rounding) (a : Wide) : Wide × BitVec 6 :=
  convertLanes f a (fun k x => toIntLane f.ty r.mode f.sat (r.draw k) (readF (srcType f) x))
def valCvtif (f : GFields) (r : Rounding) (a : Wide) : Wide × BitVec 6 :=
  convertLanes f a (fun k x => deliverF f.ty r.mode f.sat (r.draw k) (exactInt (readInt (srcType f) x)))
def valCvti (f : GFields) (a : Wide) : Wide × BitVec 6 :=
  convertLanes f a (fun _ x => fitInt f.ty f.sat (readInt (srcType f) x))

/-- PACK8 (R106): BF16 lanes of a, then of b, rounded to FP8. -/
def valPack8 (f : GFields) (r : Rounding) (a b : Wide) : Wide × BitVec 6 :=
  let rs := (List.range 64).map (fun i =>
    cvtfLane f.ty .bf16 r.mode f.sat (r.draw i) (if i < 32 then laneN 16 a i else laneN 16 b (i - 32)))
  (fromLanes 8 64 (fun i => (rs.getD i (0, 0)).1), orFlags (rs.map (·.2)))

/-- UNPK8 (R106). -/
def valUnpk8 (f : GFields) (a : Wide) : Wide × BitVec 6 :=
  let h := immN f % 2
  plain (fromLanes 16 32 (fun i => (cvtfLane .bf16 f.ty .nearest false 0 (laneN 8 a (32 * h + i))).1))

/-- The integer type of half, or of twice, the width and the same signedness. -/
def halfType : ElemType → ElemType
  | .i16 => .i8 | .i32 => .i16 | .i64 => .i32 | .n16 => .n8 | .n32 => .n16 | .n64 => .n32 | t => t
def doubleType : ElemType → ElemType
  | .i8 => .i16 | .i16 => .i32 | .i32 => .i64 | .n8 => .n16 | .n16 => .n32 | .n32 => .n64 | t => t

/-- PACKH (R106). -/
def valPackh (f : GFields) (a b : Wide) : Wide × BitVec 6 :=
  let w := f.ty.width
  let n := laneCount w
  let rs := (List.range (2 * n)).map (fun i =>
    fitInt (halfType f.ty) f.sat (readInt f.ty (if i < n then laneN w a i else laneN w b (i - n))))
  (fromLanes (w / 2) (2 * n) (fun i => (rs.getD i (0, 0)).1), orFlags (rs.map (·.2)))

/-- UNPKH (R106). -/
def valUnpkh (f : GFields) (a : Wide) : Wide × BitVec 6 :=
  let w := f.ty.width
  let n := laneCount (2 * w)
  let h := immN f % 2
  plain (fromLanes (2 * w) n (fun i => wrapTo (2 * w) (readInt f.ty (laneN w a (h * n + i)))))

/-- QL6 (R107). -/
def valQl6 (f : GFields) (r : Rounding) (a b : Wide) : Wide × BitVec 6 :=
  let p := immN f % 4
  let rs := (List.range 4).map (fun k =>
    quantise r.mode f.sat ((List.range 4).map (fun j => readF .f32 (laneN 32 a (4 * k + j)))))
  (fromLanes 32 16 (fun i => if 4 * p ≤ i && i < 4 * p + 4 then (rs.getD (i - 4 * p) (0, 0)).1 else laneN 32 b i),
    orFlags (rs.map (·.2)))

/-- DQL6 (R107). -/
def valDql6 (f : GFields) (r : Rounding) (a : Wide) : Wide × BitVec 6 :=
  let p := immN f % 4
  let rs := (List.range 16).map (fun i =>
    let blk := laneN 32 a (4 * p + i / 4)
    deliverF .f32 r.mode f.sat (r.draw i) (readL6 (blk / 2 ^ (6 * (i % 4))) (blk / 2 ^ 24)).exact)
  (fromLanes 32 16 (fun i => (rs.getD i (0, 0)).1), orFlags (rs.map (·.2)))

/-- L6MUL (R108). -/
def valL6mul (f : GFields) (r : Rounding) (a b c : Wide) : Wide × BitVec 6 :=
  elementwise f a b c (fun x y _ => deliverL6 r.mode f.sat (lnsProduct x 127 y 127).exact)

/-- A value times 2^n, exact. -/
def scaleExact (v : FVal) (n : Int) : Exact :=
  match v with
  | .fin s m e => .num s m (e + n) false
  | x => x.exact

/-- SCALEX (R108). -/
def valScalex (f : GFields) (r : Rounding) (a b : Wide) : Wide × BitVec 6 :=
  perLane f.ty f.wide (fun i =>
    let n : Int := if f.imm then toSigned 16 (immN f) else toSigned f.ty.width (laneN f.ty.width b i)
    deliverF f.ty r.mode f.sat (r.draw i) (scaleExact (readF f.ty (laneN f.ty.width a i)) n))

/-- SCALEA of one block (R108). -/
def scaleaBlock (sat : Bool) (n : Int) (blk : Nat) : LaneRes :=
  let sc : Nat := blk / 2 ^ 24
  if sc = 0xFF then (blk, 0)
  else
    let t : Int := (sc : Int) + n
    if 254 < t then (blk % 2 ^ 24 + (if sat then 254 else 255) * 2 ^ 24, if sat then fSaturated else fOverflow)
    else if t < 0 then (blk % 2 ^ 24, fUnderflow ||| fInexact)
    else (blk % 2 ^ 24 + t.toNat * 2 ^ 24, 0)

/-- SCALEA (R108). -/
def valScalea (f : GFields) (a b : Wide) : Wide × BitVec 6 :=
  let n := toSigned 64 (laneN 64 b 0)
  let rs := (List.range 16).map (fun i => scaleaBlock f.sat n (laneN 32 a i))
  (fromLanes 32 16 (fun i => (rs.getD i (0, 0)).1), orFlags (rs.map (·.2)))

/-! ## Meanings -/

/-- CVTF (R104). -/
def execCvtf (f : GFields) (s : State) : Result := computeR (.cvtf f) s f.rnd (fun r a _ _ => valCvtf f r a)
/-- CVTFI (R104). -/
def execCvtfi (f : GFields) (s : State) : Result := computeR (.cvtfi f) s f.rnd (fun r a _ _ => valCvtfi f r a)
/-- CVTIF (R104). -/
def execCvtif (f : GFields) (s : State) : Result := computeR (.cvtif f) s f.rnd (fun r a _ _ => valCvtif f r a)
/-- CVTI (R104). -/
def execCvti (f : GFields) (s : State) : Result := compute (.cvti f) s (fun _ a _ _ => valCvti f a)
/-- PACK8 (R106). -/
def execPack8 (f : GFields) (s : State) : Result := computeR (.pack8 f) s f.rnd (fun r a b _ => valPack8 f r a b)
/-- UNPK8 (R106). -/
def execUnpk8 (f : GFields) (s : State) : Result := compute (.unpk8 f) s (fun _ a _ _ => valUnpk8 f a)
/-- PACKH (R106). -/
def execPackh (f : GFields) (s : State) : Result := compute (.packh f) s (fun _ a b _ => valPackh f a b)
/-- UNPKH (R106). -/
def execUnpkh (f : GFields) (s : State) : Result := compute (.unpkh f) s (fun _ a _ _ => valUnpkh f a)
/-- QL6 (R107). -/
def execQl6 (f : GFields) (s : State) : Result := computeR (.ql6 f) s f.rnd (fun r a b _ => valQl6 f r a b)
/-- DQL6 (R107). -/
def execDql6 (f : GFields) (s : State) : Result := computeR (.dql6 f) s f.rnd (fun r a _ _ => valDql6 f r a)
/-- L6MUL (R108). -/
def execL6mul (f : GFields) (s : State) : Result := computeR (.l6mul f) s f.rnd (valL6mul f)
/-- SCALEX (R108). -/
def execScalex (f : GFields) (s : State) : Result := computeR (.scalex f) s f.rnd (fun r a b _ => valScalex f r a b)
/-- SCALEA (R108). -/
def execScalea (f : GFields) (s : State) : Result := compute (.scalea f) s (fun _ a b _ => valScalea f a b)

end Sys2Proof.Machine
end

