-- ==== Sys2Proof/Machine/Matrix.lean ====
section
/-! DEFINITION. Class 0xC and the M bricks: accumulators and their counts (R243), command queues (R244, R245), MMA (R246
to R251), ACCINIT, ACCCLR and ACCOUT (R252 to R254) and ACCQ (R255). -/

namespace Sys2Proof.Machine

open Sys2Proof

/-! ## Tiles (R216, R248) -/

/-- A SPAD pointer to an address field of 23 bits, moved by a number of bytes. -/
def spadPtr (a : Nat) (d : Int) : Word := addrOf (BitVec.ofNat 64 (2 ^ 61 + a % 2 ^ 23)) d

/-- A tile: offset within its scratchpad relative to the base, rows and bytes of a row. -/
structure Tile where
  off  : Int
  rows : Nat
  len  : Nat
  deriving DecidableEq, Repr

/-- Why the bytes from `lo` to `hi` of a scratchpad cannot be named: a carry out of bits [18:0], or the staging area. -/
def spanCause (carry : Nat) (lo hi : Int) : Nat :=
  if lo < 0 || (2 : Int) ^ 19 ≤ hi then carry else if 0x7C000 ≤ hi then 0x0D else 0

/-- The span cause of a tile. -/
def tileSpan (carry pitch : Nat) (t : Tile) : Nat :=
  spanCause carry t.off (t.off + ((t.rows - 1) * pitch : Nat) + (t.len : Int) - 1)

/-- The offset of the first byte of a tile that fails a check (R248). -/
def firstFailing (pitch cause : Nat) (t : Tile) : Int :=
  if cause = 0x0E || t.off < 0 then t.off
  else
    let lim : Int := if cause = 0x11 then 2 ^ 19 else 0x7C000
    match (List.range t.rows).find? (fun r => lim < t.off + (r * pitch : Nat) + (t.len : Int)) with
    | some r => max (t.off + (r * pitch : Nat)) lim
    | none => t.off

/-- A row length breaks the rotation rule (R216). -/
def rotBad (rot len : Nat) : Bool := rot ≠ 0 && len % 2 ^ (rot + 3) ≠ 0

/-- The checks of tiles at a base address (R248): the first cause in order over all of them, and the first byte that
fails it. -/
def checkTiles (bad : Bool) (base pitch rot : Nat) (ts : List Tile) : Option AccFault :=
  let fails := fun (cause : Nat) (t : Tile) => tileSpan 0x11 pitch t = cause || (cause = 0x0E && rotBad rot t.len)
  if bad then some ⟨clsPathReserved, 0x11, spadPtr base 0, 0⟩
  else
    [0x11, 0x0D, 0x0E].findSome? (fun cause =>
      (ts.find? (fails cause)).map (fun t =>
        ⟨clsPathReserved, cause, spadPtr base (firstFailing pitch cause t - (base % 2 ^ 19 : Nat)), 0⟩))

/-- Fields of an address word (R248). -/
def tilePitch (a : Word) : Nat := field a.toNat 32 16
def tileAddr (a : Word) : Nat := a.toNat % 2 ^ 23

/-- An address word is in error: reserved bits, or a pitch out of range. -/
def addrWordBad (a : Word) : Bool :=
  field a.toNat 48 16 ≠ 0 || field a.toNat 23 9 ≠ 0 || tilePitch a < 8 || tilePitch a % 8 ≠ 0

/-- Fields of a geometry word (R248). -/
def geomOff (g : Word) : Int := toSigned 20 (field g.toNat 44 20)
def geomRot (g : Word) : Nat := field g.toNat 40 4
def geomK (g : Word) : Nat := field g.toNat 30 10
def geomRows (g : Word) : Nat := field g.toNat 23 7
def geomCols (g : Word) : Nat := field g.toNat 16 7

/-- A geometry word is in error, for a window that begins at a row and a column. -/
def geomBad (g : Word) (row col : Nat) : Bool :=
  g.toNat % 2 ^ 16 ≠ 0 || 8 < geomRot g || geomK g < 8 || 512 < geomK g || geomK g % 8 ≠ 0
    || geomRows g = 0 || 64 < geomRows g || geomCols g = 0 || 64 < geomCols g
    || 64 < row + geomRows g || 64 < col + geomCols g

/-- Bytes of a tile row of an operand type (R246). -/
def tileRowLen (ty : ElemType) (k : Nat) : Nat := if ty = .bf16 || ty = .f16 then 2 * k else k

/-- The tiles an MMA reads. -/
def mmaTiles (ta tb : ElemType) (a g : Word) : List Tile :=
  let off : Int := (tileAddr a % 2 ^ 19 : Nat)
  [⟨off, geomRows g, tileRowLen ta (geomK g)⟩, ⟨off + geomOff g, geomCols g, tileRowLen tb (geomK g)⟩]

/-- The checks of an MMA in tile form (R248). -/
def checkMma (ta tb : ElemType) (row col : Nat) (a g : Word) : Option AccFault :=
  checkTiles (addrWordBad a || geomBad g row col) (tileAddr a) (tilePitch a) (geomRot g) (mmaTiles ta tb a g)

/-! ## Values (R247, R249) -/

/-- Element e of bytes read as one number: its pattern and, for LNS6, its scale (R69, R247). -/
def elemRaw (ty : ElemType) (blob e : Nat) : Nat × Nat :=
  match ty with
  | .l6s => (field blob (32 * (e / 4) + 6 * (e % 4)) 6, field blob (32 * (e / 4) + 24) 8)
  | .l6 => (field blob (8 * e) 6, 127)
  | _ => (field blob (ty.width * e) ty.width, 127)

/-- The exact product of two elements (R70, R249). -/
def elemProduct (ta tb : ElemType) (x y : Nat × Nat) : FVal :=
  if ta = .l6 || ta = .l6s then lnsProduct x.1 x.2 y.1 y.2
  else (exactProd (readF ta x.1) (readF tb y.1)).getD .nan

/-- An exact sum as a value. -/
def exactSumVal (x y : FVal) : FVal :=
  match exactAdd false x y with
  | .nan _ => .nan
  | .opInf n _ => .inf n
  | .num n m e _ => .fin n m e

/-- One k-step (R71): the two products are added exactly, then to the accumulator with one rounding. -/
def kStep (acc : BitVec 32) (p q : FVal) : BitVec 32 :=
  BitVec.ofNat 32 (deliverF .f32 .nearest false 0 (exactAdd false (readF .f32 acc.toNat) (exactSumVal p q))).1

/-- The k-steps of one element, in ascending order. -/
def kSteps (ta tb : ElemType) (ra rb : Nat) (k : Nat) (acc : BitVec 32) : BitVec 32 :=
  (List.range (k / 2)).foldl (fun v t =>
    kStep v (elemProduct ta tb (elemRaw ta ra (2 * t)) (elemRaw tb rb (2 * t)))
      (elemProduct ta tb (elemRaw ta ra (2 * t + 1)) (elemRaw tb rb (2 * t + 1)))) acc

/-- An accumulator's values after an MMA of rows of A and rows of B (R249). -/
def mmaValues (ta tb : ElemType) (row col k : Nat) (as bs : List Nat) (vals : Tab (BitVec 32)) : Tab (BitVec 32) :=
  (List.range as.length).foldl (fun vals m =>
    (List.range bs.length).foldl (fun vals n =>
      let key := 64 * (row + m) + col + n
      tabSet 0 vals key (kSteps ta tb (as.getD m 0) (bs.getD n 0) k (tabGet 0 vals key))) vals) vals

/-- Depth of a token-form MMA (R246). -/
def tokenDepth (ty : ElemType) : Nat := if ty = .bf16 || ty = .f16 then 4 else 8

/-- The eight rows of an operand token (R247). -/
def tokenRows (v : Wide) : List Nat := (List.range 8).map (fun i => field v.toNat (64 * i) 64)

/-- A context as the party of work done on a core. -/
def execCoreWho (s : State) (c : CtxId) (core : Nat) : Who := { whoOf s c with core := core }

/-- The location in the cluster's scratchpads of a SPAD address. -/
def spadByteLoc (w : Who) (a : Nat) : Loc := Loc.spad (spadLoc w a).1 (spadLoc w a).2

/-- In-row position of byte b of row r under a rotation code (R216). -/
def rotated (rot r b : Nat) : Nat := if rot = 0 then b else b ^^^ (r % 2 ^ rot * 8)

/-- The bytes of row r of a tile as one number (R216, R248). -/
def tileRow (s : State) (w : Who) (base : Nat) (d : Int) (rot r len : Nat) : Nat :=
  ofBytes ((List.range len).map (fun b => coherentByte s w (spadByteLoc w (ptrAddr (spadPtr base (d + (rotated rot r b : Nat)))))))

/-! ## Counts (R243) -/

/-- The committed count state of an accumulator: N, C and the round. -/
abbrev AccCount := Nat × Nat × Nat

/-- The state after an effect is counted; none where the table gives a fault. -/
def accCount (cmd : MCmd) (a : AccCount) : Option AccCount :=
  let (n, c, r) := a
  let next := (r + 1) % 2 ^ 32
  match cmd with
  | .accInit m => some (m, 0, next)
  | .accClr => some (n, 0, next)
  | .accOut _ _ _ _ _ _ _ _ => if n ≠ 0 && c < n then none else some (n, 0, next)
  | _ =>
    if n = 0 then some (0, (c + 1) % 2 ^ 16, r)
    else if c < n then some (n, c + 1, r) else none

/-- The fault class of a count check that fails (R243). -/
def accFaultClass (cmd : MCmd) : Nat :=
  match cmd with
  | .accOut _ _ _ _ _ _ _ _ => clsEarlyRelease
  | _ => clsAccOverrun

def accAt (s : State) (core k : Nat) : Acc := tabGet Acc.blank (coreAt s core).accs k
def modAcc (s : State) (core k : Nat) (f : Acc → Acc) : State :=
  modCore s core (fun c => { c with accs := tabSet Acc.blank c.accs k (f (tabGet Acc.blank c.accs k)) })

/-- The status word (R255). -/
def accStatus (a : Acc) (k : Nat) : Word :=
  BitVec.ofNat 64 (a.n * 2 ^ 48 + a.c * 2 ^ 32 + a.e * 2 ^ 16 + a.round % 256 * 2 ^ 8 + k * 2 ^ 5
    + bit (a.n = 0) 1 + bit (a.n ≠ 0 && a.c = a.n) 0)

/-! ## Queues (R244) -/

/-- The M brick of an accumulator (R49). -/
def brickOf (acc : Nat) : Nat := if acc < 4 then 7 else 15

/-- Entries of a brick's queue that are taken. -/
def queueUsed (k : Core) (brick : Nat) : Nat :=
  (k.mq.filter (fun q => q.entered && !q.started && brickOf q.acc = brick)).length

/-- Commands whose turn has come enter the queue, in count order, while there is room. -/
def enterDue : Nat → Core → Core
  | 0, k => k
  | n + 1, k =>
    match k.mq.find? (fun q => !q.entered && q.ticket = (tabGet Acc.blank k.accs q.acc).enter && queueUsed k (brickOf q.acc) < 16) with
    | none => k
    | some q =>
      enterDue n
        { k with mq := k.mq.filter (fun r => r != q) ++ [{ q with entered := true }]
                 accs := (let a := tabGet Acc.blank k.accs q.acc
                          tabSet Acc.blank k.accs q.acc { a with enter := a.enter + 1 }) }

/-- A command stands with its ticket and enters when its turn comes. -/
def placeCommand (s : State) (core acc ticket : Nat) (cmd : MCmd) (owner : CtxId) (job : Option Nat) : State :=
  modCore s core (fun k =>
    let k := { k with mq := k.mq ++ [⟨acc, ticket, cmd, owner, job, false, false⟩] }
    enterDue k.mq.length k)

/-- An effect on an accumulator is counted at its commit: the ticket it takes. -/
def countCommand (s : State) (core acc : Nat) (cmd : MCmd) : State × Nat :=
  let a := accAt s core acc
  (modAcc s core acc (fun a =>
    match accCount cmd (a.n, a.c, a.round) with
    | some (n, c, r) => { a with n := n, c := c, round := r, ticket := a.ticket + 1 }
    | none => { a with ticket := a.ticket + 1 }), a.ticket)

/-- A class 0xC command at its block's commit: counted, and entered or waiting for a follow-on counted before it. -/
def commitCommand (s : State) (core acc : Nat) (cmd : MCmd) (owner : CtxId) : State :=
  let r := countCommand s core acc cmd
  placeCommand r.1 core acc r.2 cmd owner none

/-! ## Starting and finishing (R245, R249, R252, R253) -/

/-- ACCOUT, ACCINIT and ACCCLR. -/
def isSetter (cmd : MCmd) : Bool :=
  match cmd with
  | .accInit _ | .accOut _ _ _ _ _ _ _ _ | .accClr => true
  | _ => false

def isAccOut (cmd : MCmd) : Bool :=
  match cmd with
  | .accOut _ _ _ _ _ _ _ _ => true
  | _ => false

/-- A job of a mortar queue has landed its last payload byte (R245). -/
def jobLanded (j : Job) : Bool := j.st == .completing || j.st == .done || j.st == .abandoned

/-- A sequence number of a mortar queue comes before another; the numbers wrap (R218). -/
def seqBefore (a b : Nat) : Bool := (b + 2 ^ 32 - a) % 2 ^ 32 - 1 < 2 ^ 31 - 1 && a ≠ b

/-- A command may start (R245); `before` are the commands that stand before it in the queues. -/
def mayStart (k : Core) (before : List QCmd) (q : QCmd) : Bool :=
  let mine := before.filter (fun r => r.acc = q.acc && r.entered)
  q.entered && !q.started && mine.all (·.started)
    && !(isSetter q.cmd && !mine.isEmpty) && !(mine.any (fun r => isSetter r.cmd))
    && (match q.job with
        | some n => k.jobs.all (fun j => !seqBefore j.seq n || jobLanded j)
        | none => true)
    && !(isAccOut q.cmd && k.mq.any (fun r => r.started && brickOf r.acc = brickOf q.acc && isAccOut r.cmd))

/-- Starts the oldest command of a brick that may start; a core whose contexts are saved starts none (R205), and none of a
context whose PHASEs are to be finished (R264). -/
def startCommand (s : State) (k : Core) (brick : Nat) : Core :=
  if k.saving then k
  else match (List.range k.mq.length).find? (fun n =>
      (k.mq[n]?).any (fun q => brickOf q.acc = brick && mayStart k (k.mq.take n) q && !phasing (ctxAt s q.owner))) with
  | none => k
  | some n => { k with mq := listSet k.mq n (fun q => { q with started := true }) }

/-- The values of one output row of an ACCOUT as bytes (R253). -/
def outRow (ty : ElemType) (sat rz : Bool) (cols : Nat) (val : Nat → BitVec 32) : List Byte :=
  let mode : Mode := if rz then .zero else .nearest
  if ty = .l6s then
    (List.range (cols / 4)).flatMap (fun j =>
      toBytes 4 (quantise mode sat ((List.range 4).map (fun q => readF .f32 (val (4 * j + q)).toNat))).1)
  else (List.range cols).flatMap (fun n => toBytes (ty.width / 8) (cvtfLane ty .f32 mode sat 0 (val n).toNat).1)

/-- The bytes an ACCOUT writes, rotated by row (R216, R253). -/
def outBytes (w : Who) (a : Acc) (ty : ElemType) (rot rows cols : Nat) (sat rz : Bool) (addr : Word) : List (Loc × Byte) :=
  (List.range rows).flatMap (fun m =>
    let row := outRow ty sat rz cols (fun n => tabGet 0 a.vals (64 * m + n))
    (List.range row.length).map (fun b =>
      (spadByteLoc w (ptrAddr (spadPtr (tileAddr addr) ((m * tilePitch addr + rotated rot m b : Nat) : Int))), row.getD b 0)))

/-- A completion word: its address and its value. -/
def writeWord (s : State) (w : Who) (a : Nat) (v : Nat) : State :=
  let locs := (List.range 8).map (fun (k : Nat) => spadByteLoc w (ptrAddr (spadPtr a (k : Int))))
  coherentWrite s w (locs.zip (toBytes 8 v))

/-- Rows of a tile operand. -/
def tileRows (s : State) (w : Who) (ty : ElemType) (a g : Word) (d : Int) (rows : Nat) : List Nat :=
  (List.range rows).map (fun r =>
    tileRow s w (tileAddr a) (d + (r * tilePitch a : Nat)) (geomRot g) r (tileRowLen ty (geomK g)))

/-- A started command takes its effect (R249, R252, R253). -/
def runCommand (s : State) (core : Nat) (q : QCmd) : State :=
  let w := execCoreWho s q.owner core
  let executed := fun (s : State) => modAcc s core q.acc (fun a => { a with e := (a.e + 1) % 2 ^ 16 })
  let cleared := fun (s : State) => modAcc s core q.acc (fun a => { a with vals := [], e := 0 })
  match q.cmd with
  | .mmaToken ta tb row col a b =>
    executed (modAcc s core q.acc (fun x =>
      { x with vals := mmaValues ta tb row col (tokenDepth ta) (tokenRows a) (tokenRows b) x.vals }))
  | .mmaTile ta tb row col a g =>
    let ra := tileRows s w ta a g 0 (geomRows g)
    let rb := tileRows s w tb a g (geomOff g) (geomCols g)
    executed (modAcc s core q.acc (fun x => { x with vals := mmaValues ta tb row col (geomK g) ra rb x.vals }))
  | .accInit _ | .accClr => cleared s
  | .accOut ty rot rows cols sat rz addr cw =>
    let bs := outBytes w (accAt s core q.acc) ty rot rows cols sat rz addr
    let s := cleared (coherentWrite s w bs)
    if cw = 0 then s else writeWord s w (cw.toNat % 2 ^ 23) (cw.toNat / 2 ^ 32)
  | .void => executed s

/-- Delivers the ACCQs whose earlier commands have all finished (R255). -/
def answerAccq (s : State) (core acc : Nat) : State :=
  let left := fun (t : Nat) => (coreAt s core).mq.any (fun q => q.acc = acc && q.entered && q.ticket < t)
  (coreNums s).foldl (fun s k =>
    (coreAt s k).ctxs.foldl (fun s e =>
      let due := (ctxAt s ⟨k, e.1⟩).accWait.filter (fun q => q.1 = core && q.2.1 = acc && !left q.2.2.1)
      due.foldl (fun s q =>
        let st := accStatus (accAt s core acc) acc
        answerLater ⟨k, e.1⟩ q.2.2.2.1 q.2.2.2.2 (some (st.setWidth 512)) st
          (squashLater (modCtx s ⟨k, e.1⟩ (fun x => { x with accWait := x.accWait.filter (· != q) })) ⟨k, e.1⟩)) s) s) s

/-- The oldest started command of a brick finishes. -/
def finishCommand (s : State) (core brick : Nat) : State :=
  match (coreAt s core).mq.find? (fun q => q.started && brickOf q.acc = brick) with
  | none => s
  | some q =>
    let s := runCommand s core q
    let s := modCore s core (fun k =>
      let k := { k with mq := k.mq.filter (· != q) }
      enterDue k.mq.length k)
    answerAccq s core q.acc

/-! ## Meanings -/

/-- The rows and columns fields of the shape. -/
def shapeRow (f : XFields) : Nat := field f.shape.toNat 10 6
def shapeCol (f : XFields) : Nat := field f.shape.toNat 4 6

/-- MMA (R247, R248). -/
def execMma (f : XFields) (s : State) : Result :=
  fire (.mma f) s (fun a b _ s =>
    let acc := f.acc.toNat
    if !f.flags.getLsbD 0 then
      fired (.mma f) { effs := [.matrix acc (.mmaToken f.ta f.tb (shapeRow f) (shapeCol f) a.value b.value)] } s
    else
      match checkMma f.ta f.tb (shapeRow f) (shapeCol f) (word a.value 0) (word b.value 0) with
      | some e => faultAcc e s
      | none =>
        fired (.mma f) { effs := [.matrix acc (.mmaTile f.ta f.tb (shapeRow f) (shapeCol f) (word a.value 0) (word b.value 0))] } s)

/-- ACCINIT (R252). -/
def execAccinit (f : XFields) (s : State) : Result :=
  fire (.accinit f) s (fun _ _ _ s => fired (.accinit f) { effs := [.matrix f.acc.toNat (.accInit f.shape.toNat)] } s)

/-- The completion word of an ACCOUT is in error (R253). -/
def outWordFault (b : Word) : Option AccFault :=
  if b = 0 then none
  else
    let at_ := b.toNat % 2 ^ 23
    if field b.toNat 23 9 ≠ 0 || at_ % 8 ≠ 0 then some ⟨clsPathReserved, 0x11, spadPtr at_ 0, 0⟩
    else if 0x7C000 ≤ at_ % 2 ^ 19 then some ⟨clsPathReserved, 0x0D, spadPtr at_ 0, 0⟩
    else none

/-- ACCOUT (R253): the tile is checked before the word. -/
def execAccout (f : XFields) (s : State) : Result :=
  fire (.accout f) s (fun a b _ s =>
    let sh := f.shape.toNat
    let rot := sh / 2 ^ 12
    let rows := field sh 6 6 + 1
    let cols := field sh 0 6 + 1
    let addr := word a.value 0
    let cw := word b.value 0
    let len := if f.ta = .l6s then cols else cols * (f.ta.width / 8)
    match checkTiles (addrWordBad addr) (tileAddr addr) (tilePitch addr) rot [⟨(tileAddr addr % 2 ^ 19 : Nat), rows, len⟩] with
    | some e => faultAcc e s
    | none =>
      match outWordFault cw with
      | some e => faultAcc e s
      | none =>
        fired (.accout f)
          { effs := [.matrix f.acc.toNat (.accOut f.ta rot rows cols (f.flags.getLsbD 4) (f.flags.getLsbD 3) addr cw)] } s)

/-- ACCCLR (R252). -/
def execAccclr (f : XFields) (s : State) : Result :=
  fire (.accclr f) s (fun _ _ _ s => fired (.accclr f) { effs := [.matrix f.acc.toNat .accClr] } s)

/-- ACCQ (R255): an arrival that stands from before a squash goes on waiting. -/
def execAccq (f : XFields) (s : State) : Result :=
  fire (.accq f) s (fun _ _ _ s =>
    let c := s.focus.c
    let core := (whoAt s).core
    let acc := f.acc.toNat
    if (ctxAt s c).accWait.any (fun q => q.2.2.2 == (s.focus.idx, s.focus.tag)) then awaiting s
    else if (coreAt s core).mq.any (fun q => q.acc = acc && q.entered) then
      awaiting (modCtx s c (fun x =>
        { x with accWait := x.accWait ++ [(core, acc, (accAt s core acc).enter, s.focus.idx, s.focus.tag)] }))
    else
      let st := accStatus (accAt s core acc) acc
      answered (.accq f) (some (st.setWidth 512)) st (squashLater s c))

end Sys2Proof.Machine
end

