-- ==== Sys2Proof/Machine/Mortar.lean ====
section
/-! DEFINITION. Class 0xB (R231 to R241): mortar jobs and their run (R218 to R222, R234), task cards (R223, R238), barriers
(R228, R240) and GMCAST (R241). -/

namespace Sys2Proof.Machine

open Sys2Proof

/-! ## The descriptor of a job (R232, R233) -/

/-- A job with nothing in it. -/
def blankJob : JobDesc where
  kind := 0
  src := 0
  handle := none
  dest := 0
  count := 0
  rot := 0
  n0 := 0
  n1 := 0
  n2 := 0
  s1 := 0
  s2 := 0
  d1 := 0
  d2 := 0
  policy := 0
  wins := []
  cw := none
  follow := none
  payload := []

/-- A signed 32-bit field as a 64-bit word. -/
def strideWord (v : Nat) : Word := BitVec.ofInt 64 (toSigned 32 v)

/-- The job a descriptor token asks for. -/
def jobOf (kind policy : Nat) (src : Word) (a b : Wide) : JobDesc :=
  let w := fun n => (word b n).toNat
  { kind := kind
    src := src
    handle := if (w 1).testBit 51 then some (BitVec.ofNat 64 (handleOf a)) else none
    dest := word b 0
    count := field (w 1) 56 8
    rot := field (w 1) 52 4
    n0 := field (w 1) 0 16
    n1 := field (w 1) 16 16
    n2 := field (w 1) 32 16
    s1 := strideWord (field (w 2) 0 32)
    s2 := strideWord (field (w 2) 32 32)
    d1 := strideWord (field (w 3) 0 32)
    d2 := strideWord (field (w 3) 32 32)
    policy := policy
    wins := []
    cw := if (w 1).testBit 50 then some (BitVec.ofNat 64 (w 4 % 2 ^ 23), word b 5) else none
    follow := if (w 1).testBit 49 then
        some (word b 6, BitVec.ofNat 64 (field (w 4) 23 16 * 2 ^ 32 + field (w 4) 39 23), word b 7) else none
    payload := [] }

/-- Step 1 of R233: a descriptor field is in error. -/
def jobFieldsBad (kind : Nat) (b : Wide) : Bool :=
  let w := fun n => (word b n).toNat
  let cw := (w 1).testBit 50
  let fo := (w 1).testBit 49
  let pitch := field (w 4) 23 16
  (w 1).testBit 48 || field (w 4) 62 2 ≠ 0
    || field (w 1) 0 16 = 0 || field (w 1) 16 16 = 0 || field (w 1) 32 16 = 0
    || field (w 1) 56 8 = 255 || 8 < field (w 1) 52 4 || (kind ≠ 0 && (w 1).testBit 51)
    || (cw && w 4 % 8 ≠ 0) || (!cw && (w 4 % 2 ^ 23 ≠ 0 || w 5 ≠ 0))
    || (fo && (pitch < 8 || pitch % 8 ≠ 0))
    || (!fo && (field (w 4) 39 23 ≠ 0 || pitch ≠ 0 || w 6 ≠ 0 || w 7 ≠ 0))

/-- Step 3 of R233: the pointer whose path the instruction does not serve. -/
def jobPathBad (d : JobDesc) : Option Word :=
  let sp := ptrPath d.src
  let dp := ptrPath d.dest
  match d.kind with
  | 0 =>
    if dp = pathSPAD then (if d.handle.isSome || sp ≤ 3 then none else some d.src)
    else if dp = pathGEN || dp = pathHOST then
      (if d.handle.isNone && sp = pathSPAD then none else if d.handle.isSome || sp ≤ 3 then some d.dest else some d.src)
    else some d.dest
  | 1 => if sp ≠ pathSPAD then some d.src else if dp ≠ pathFAB then some d.dest else none
  | _ => if sp ≠ pathFAB then some d.src else if dp ≠ pathSPAD then some d.dest else none

/-- The FAB side of a job goes through a window that does not serve it (R386). -/
def jobWindowBad (s : State) (c : CtxId) (d : JobDesc) : Option Word :=
  let bad := fun (p : Word) (write : Bool) =>
    let w0 := (windowOf s c (ptrAddr p / 2 ^ 48)).1
    !w0.getLsbD 41 || (write && !w0.getLsbD 40)
  if d.kind = 1 && bad d.dest true then some d.dest
  else if d.kind = 2 && bad d.src false then some d.src else none

/-- Lowest and highest byte offset that a shape reaches. -/
def shapeReach (d : JobDesc) (r1 r2 : Word) : Int × Int :=
  let a := ((d.n1 : Int) - 1) * r1.toInt
  let b := ((d.n2 : Int) - 1) * r2.toInt
  (min 0 a + min 0 b, max 0 a + max 0 b + (d.n0 : Int) - 1)

/-- Step 4 of R233 on one SPAD extent. -/
def extentFault (p : Word) (lo hi : Int) : Option AccFault :=
  let o : Int := (ptrAddr p % 2 ^ 19 : Nat)
  match spanCause 0x10 (o + lo) (o + hi) with
  | 0 => none
  | cause => some ⟨clsPathReserved, cause, p, 0⟩

/-- The tiles of a follow-on command. -/
def followTiles (fo : Word × Word × Word) : List Tile :=
  mmaTiles (elemOfCode (field fo.1.toNat 50 4)) (elemOfCode (field fo.1.toNat 46 4)) fo.2.1 fo.2.2

/-- Step 4 of R233: source, destination, completion word and follow-on tiles. -/
def jobExtents (d : JobDesc) : Option AccFault :=
  let spad := fun (p : Word) (r : Int × Int) => if ptrPath p = pathSPAD then extentFault p r.1 r.2 else none
  let src := if d.handle.isSome then none else spad d.src (shapeReach d d.s1 d.s2)
  let dst := spad d.dest (shapeReach d d.d1 d.d2)
  let cw := d.cw.bind (fun c => extentFault (spadPtr c.1.toNat 0) 0 7)
  let fo := d.follow.bind (fun fo =>
    (followTiles fo).findSome? (fun t =>
      match tileSpan 0x10 (tilePitch fo.2.1) t with
      | 0 => none
      | cause => some ⟨clsPathReserved, cause, spadPtr (tileAddr fo.2.1) 0, 0⟩))
  src <|> dst <|> cw <|> fo

/-- The follow-on word is an MMA in tile form with every other field zero (R235), and its geometry is well formed (DESIGN CHOICE,
log entry 114). -/
def followBad (fo : Word × Word × Word) : Bool :=
  let w := fo.1.toNat
  let sh := field w 16 16
  field w 54 10 ≠ 0x300 || field w 32 11 ≠ 0 || field w 14 2 ≠ 0 || w.testBit 13 || field w 8 5 ≠ 1 || field w 0 8 ≠ 0
    || !mmaPairOk (elemOfCode (field w 50 4)) (elemOfCode (field w 46 4)) || sh % 16 ≠ 0
    || geomBad fo.2.2 (field sh 10 6) (field sh 4 6)

/-- Steps 5 to 7 of R233. -/
def jobShapeFault (d : JobDesc) : Option AccFault :=
  let dp := ptrPath d.dest
  if d.rot ≠ 0 && (dp ≠ pathSPAD || rotBad d.rot d.n0) then some ⟨clsPathReserved, 0x0E, d.dest, 0⟩
  else if d.count ≠ 0 && dp ≠ pathSPAD && dp ≠ pathGEN then some ⟨clsPathReserved, 0x10, d.dest, 0⟩
  else
    match d.follow with
    | none => none
    | some fo =>
      if followBad fo then some ⟨clsPathReserved, 0x10, 0, 0⟩
      else if (followTiles fo).any (fun t => rotBad (geomRot fo.2.2) t.len) then
        some ⟨clsPathReserved, 0x0E, spadPtr (tileAddr fo.2.1) 0, 0⟩
      else none

/-- Step 8 of R233: the source of a job that names a tile. -/
def jobHandle (s : State) (f : LFields) (d : JobDesc) : Except AccFault JobDesc :=
  match d.handle with
  | none => .ok d
  | some h =>
    match findHandle (partOf s s.focus.c) h.toNat with
    | .error cause => .error ⟨clsStaleHandle, cause, 0, h⟩
    | .ok t =>
      let src := addrOf (t.desc.getD 0 0) (offsetOf f)
      let r := shapeReach d d.s1 d.s2
      let a : Int := (ptrAddr src : Nat)
      if a + r.1 < (t.lo : Int) || (t.hi : Int) ≤ a + r.2 then .error ⟨clsPathReserved, 0x10, src, 0⟩
      else .ok { d with src := src }

/-- The checks of R233 in their order, and the job. -/
def checkJob (s : State) (kind : Nat) (f : LFields) (a b : Wide) : Except AccFault JobDesc :=
  let d := jobOf kind f.cache.toNat (addrOf (word a 0) (offsetOf f)) a b
  if jobFieldsBad kind b then .error ⟨clsPathReserved, 0x10, 0, 0⟩
  else
    match (if d.handle.isSome then none else basicCheck d.src) <|> basicCheck d.dest with
    | some e => .error e
    | none =>
      match jobPathBad d, jobWindowBad s s.focus.c d with
      | some p, _ => .error ⟨clsPathReserved, 0x07, p, 0⟩
      | none, some p => .error ⟨clsPathReserved, 0x18, p, 0⟩
      | none, none =>
        match jobExtents d <|> jobShapeFault d with
        | some e => .error e
        | none => jobHandle s f { d with wins := if kind = 0 then [] else (ctxAt s s.focus.c).windows }

/-- A job instruction: checked at firing, queued at the commit. -/
def queueJob (i : Instr) (f : LFields) (kind : Nat) (s : State) : Result :=
  fire i s (fun a b _ s =>
    match checkJob s kind f a.value b.value with
    | .error e => faultAcc e s
    | .ok d => fired i { effs := [.job d] } s)

/-- MCOPY (R232). -/
def execMcopy (f : LFields) (s : State) : Result := queueJob (.mcopy f) f 0 s
/-- MPUT (R236). -/
def execMput (f : LFields) (s : State) : Result := queueJob (.mput f) f 1 s
/-- MGET (R236). -/
def execMget (f : LFields) (s : State) : Result := queueJob (.mget f) f 2 s

/-! ## The run of a job (R220 to R222, R234, R390) -/

/-- The owner of a job. -/
def jobOwner (j : Job) : CtxId := ⟨j.ownerOf, j.owner⟩

/-- The number of a job (R218). -/
def jobNumber (core seq : Nat) : Word := BitVec.ofNat 64 (core % 8 * 2 ^ 32 + seq % 2 ^ 32)

/-- The follow-on's MMA. -/
def followCmd (fo : Word × Word × Word) : MCmd :=
  let w := fo.1.toNat
  .mmaTile (elemOfCode (field w 50 4)) (elemOfCode (field w 46 4)) (field w 26 6) (field w 20 6) fo.2.1 fo.2.2

/-- The accumulator of a follow-on. -/
def followAcc (fo : Word × Word × Word) : Nat := field fo.1.toNat 43 3

/-- Bytes of a job. -/
def jobSize (d : JobDesc) : Nat := d.n0 * d.n1 * d.n2

/-- Source and destination of element e (R232). -/
def jobElement (d : JobDesc) (e : Nat) : Word × Word :=
  let i0 := e % d.n0
  let i1 := e / d.n0 % d.n1
  let i2 := e / (d.n0 * d.n1)
  let row := i1 + d.n1 * i2
  (addrOf d.src ((i0 : Int) + i1 * d.s1.toInt + i2 * d.s2.toInt),
   addrOf d.dest ((rotated d.rot row i0 : Nat) + i1 * d.d1.toInt + i2 * d.d2.toInt))

/-- The window of a FAB pointer of a job, as it stood at the firing (R386). -/
def jobWindow (d : JobDesc) (p : Word) : Word × Word := tabGet (0, 0) d.wins (ptrAddr p / 2 ^ 48)

/-- The FAB byte of a pointer: window word 0 and address at the target. -/
def fabPlace (d : JobDesc) (p : Word) : Word × Nat := ((jobWindow d p).1, fabVa (jobWindow d p) (ptrAddr p % 2 ^ 48))

/-- Why a job cannot reach a FAB byte: its window, or the target's refusal. -/
def fabFault (s : State) (d : JobDesc) (write : Bool) (p : Word) : Option AccFault :=
  let q := fabPlace d p
  if !q.1.getLsbD 41 || (write && !q.1.getLsbD 40) then some ⟨clsPathReserved, 0x18, p, 0⟩
  else (fabRefusal s q.1 write [q.2]).map (fun cause => ⟨clsRemoteRefused, cause, p, 0⟩)

/-- A source byte as its path's coherence level holds it (R219). -/
def jobRead (s : State) (w : Who) (d : JobDesc) (p : Word) : Except AccFault Byte :=
  if ptrPath p = pathFAB then
    match fabFault s d false p with
    | some e => .error e
    | none => .ok (fabByte s (fabPlace d p).1 (fabPlace d p).2)
  else
  match locateByte s w .read p 0 with
  | .error e => .error e
  | .ok (.pa a _) =>
    if s.poison.contains (a / 64) then .error ⟨clsTokenParity, 0x04, withAddr p (ptrAddr p / 64 * 64), 0⟩
    else .ok (homeByte s a)
  | .ok (.host va) => .ok (tabGet 0 s.hostMem va)
  | .ok l => .ok (coherentByte s w l)

/-- Whether a destination byte may be written (R234, R386). -/
def jobMayWrite (s : State) (w : Who) (d : JobDesc) (p : Word) : Except AccFault Loc :=
  if ptrPath p = pathFAB then
    match fabFault s d true p with
    | some e => .error e
    | none => .ok (.fab (jobWindow d p).1 (jobWindow d p).2 (ptrAddr p % 2 ^ 48))
  else
  match locateByte s w .write p 0 with
  | .error e => .error e
  | .ok (.pa a va) =>
    match pubCause s w a va with
    | some 0x07 => .error ⟨clsTenureConflict, 0x07, p, 0⟩
    | some _ => .error ⟨clsTenureConflict, 0x02, p, 0⟩
    | none => .ok (.pa a va)
  | .ok l => .ok l

/-- Two elements of a job may write one byte. -/
def jobOverlaps (d : JobDesc) : Bool :=
  !((d.n1 = 1 || d.n0 ≤ d.d1.toInt.natAbs)
    && (d.n2 = 1 || (d.n1 - 1) * d.d1.toInt.natAbs + d.n0 ≤ d.d2.toInt.natAbs))

/-- A run of a job: the state, the destinations written in it, the bytes that wait for their line's last (R273), those on their
way through windows, and the element that met a fault. -/
structure JobRun where
  st   : State
  dsts : List Loc
  held : List (Nat × Byte)
  far  : List (Loc × Byte)
  bad  : Option (AccFault × Nat)

/-- One destination byte is written at its point of coherence, in the L2 by the cache policy (R234). With COUNT the bytes of a
GEN line enter it together with its count (R273); those of a window go out together (R388). -/
def jobWrite (w : Who) (d : JobDesc) (r : JobRun) (l : Loc) (b : Byte) : JobRun :=
  match l with
  | .fab _ _ _ => { r with far := r.far ++ [(l, b)] }
  | .pa a _ => if d.count = 0 then { r with st := homeWriteBy r.st d.policy [(a, b)] } else { r with held := r.held ++ [(a, b)] }
  | l => { r with st := coherentPut w r.st (l, b) }

/-- A byte of a job lands at its destination: where an earlier element wrote the place, either value may stay (R232). -/
def copyByte (w : Who) (d : JobDesc) (r : JobRun) (b : Byte) (l : Loc) : JobRun :=
  if jobOverlaps d && r.dsts.contains l then
    let r' := { r with st := { r.st with freeCounter := r.st.freeCounter + 1 } }
    if Config.jobKeepsLater r.st.freeCounter then jobWrite w d r' l b else r'
  else jobWrite w d { r with dsts := r.dsts ++ [l] } l b

/-- What the check of element e's two places leaves: its byte lands, or the job is bad there. -/
def copyChecked (w : Who) (d : JobDesc) (r : JobRun) (e : Nat) : Except AccFault Byte → Except AccFault Loc → JobRun
  | .error x, _ => { r with bad := some (x, e) }
  | .ok _, .error x => { r with bad := some (x, e) }
  | .ok b, .ok l => copyByte w d r b l

/-- The line of a pointer, as a pointer. -/
def lineOf (p : Word) : Word := withAddr p (ptrAddr p / 64 * 64)

/-- Why a line cannot take its count (R234, R278). -/
def countFault (s : State) (c : CtxId) (q : Loc × Word) : Option AccFault :=
  match notCounted (partOf s c) q.1 q.2 with
  | some e => some e
  | none => if noWay s q.1 then some ⟨clsCountCapacity, 0x01, q.2, capacityArg s q.1⟩ else none

/-- Element e is the last that a job writes to its destination line. -/
def lastOfLine (d : JobDesc) (e : Nat) : Bool :=
  (List.range (jobSize d - (e + 1))).all (fun k => lineOf (jobElement d (e + 1 + k)).2 ≠ lineOf (jobElement d e).2)

/-- A line with some bytes of a job in their places. -/
def withBytes (v : Wide) (bs : List (Nat × Byte)) : Wide := bs.foldl (fun v e => setByte v (e.1 % 64) e.2) v

/-- A line takes its count, and on GEN with it the bytes that wait for it. -/
def fillCounted (w : Who) (d : JobDesc) (r : JobRun) (l : Loc) : JobRun :=
  match l with
  | .pa a _ =>
    let mine := r.held.filter (fun e => e.1 / 64 = a / 64)
    { r with st := fillLine r.st w l (some (withBytes (homeLine r.st (a / 64)) mine)) d.count
             held := r.held.filter (fun e => e.1 / 64 ≠ a / 64) }
  | l => { r with st := fillLine r.st w l none d.count }

/-- The destination line of element e takes the count as the last byte to it lands, or faults (R234). -/
def countLine (w : Who) (d : JobDesc) (e : Nat) (r : JobRun) : JobRun :=
  if r.bad.isSome || d.count = 0 || !lastOfLine d e then r
  else
    let p := lineOf (jobElement d e).2
    match locateByte r.st w .write p 0 with
    | .error _ => r
    | .ok l =>
      match countFault r.st w.c (l, p) with
      | some x => { r with bad := some (x, e) }
      | none => fillCounted w d r l

/-- Copies element e (R232). -/
def copyElement (w : Who) (d : JobDesc) (r : JobRun) (e : Nat) : JobRun :=
  if r.bad.isSome then r
  else
    countLine w d e
      (copyChecked w d r e (jobRead r.st w d (jobElement d e).1) (jobMayWrite r.st w d (jobElement d e).2))

/-- Copies n elements from one on. -/
def copyElements (w : Who) (d : JobDesc) (first n : Nat) (r : JobRun) : JobRun :=
  (List.range n).foldl (fun r k => copyElement w d r (first + k)) r

/-- The destination lines of a job (R234). -/
def jobLines (s : State) (w : Who) (d : JobDesc) : List Loc :=
  (List.range (jobSize d)).foldl (fun (ls : List Loc) e =>
    match locateByte s w .write (lineOf (jobElement d e).2) 0 with
    | .ok l => if ls.any (sameByte l) then ls else ls ++ [l]
    | .error _ => ls) []

/-- The page that an address of a job lies in (R222, R236): its path, on FAB with its window, and where the page begins, on
FAB at the target. 64 KiB where nothing is mapped or the path has no pages. -/
def jobPage (s : State) (w : Who) (d : JobDesc) (p : Word) : Nat × Nat :=
  let va := ptrAddr p
  match ptrPath p with
  | 0 | 2 => (ptrPath p, ((findPage s w.die w.part va).map (·.va)).getD (va / 2 ^ 16 * 2 ^ 16))
  | 3 => (3, ((hostPage s va).map (·.va)).getD (va / 2 ^ 16 * 2 ^ 16))
  | 5 =>
    let q := fabPlace d p
    let page :=
      if winNode q.1 = s.pkg.node then (findPage s (winDie q.1) (winPart q.1) q.2).map (·.va)
      else (remoteAt s q.1).bind (fun r => (r.pages.find? (fun g => g.va ≤ q.2 && q.2 < g.va + g.size)).map (·.va))
    (5 + 8 * (va / 2 ^ 48), page.getD (q.2 / 2 ^ 16 * 2 ^ 16))
  | path => (path, va / 2 ^ 16 * 2 ^ 16)

/-- The first element of a job that touches the page of a fault (R222). -/
def pageStart (s : State) (w : Who) (d : JobDesc) (e : Nat) (p : Word) : Nat :=
  let page := jobPage s w d p
  ((List.range e).find? (fun k => jobPage s w d (jobElement d k).1 = page || jobPage s w d (jobElement d k).2 = page)).getD e

def modJob (s : State) (core seq : Nat) (f : Job → Job) : State :=
  modCore s core (fun k => { k with jobs := k.jobs.map (fun j => if j.seq = seq then f j else j) })

def jobAt (s : State) (core seq : Nat) : Option Job := (coreAt s core).jobs.find? (·.seq = seq)

/-- The party of a job: its owner, with the scratchpad of its queue's core. -/
def jobWho (s : State) (core : Nat) (j : Job) : Who := execCoreWho s (jobOwner j) core

/-- A GMCAST job writes its payload, core by core (R241): each write is as the core's own, whatever context the core still
holds. -/
def castPayload (s : State) (w : Who) (d : JobDesc) : State :=
  d.payload.foldl (fun s q =>
    coherentWrite s { w with core := q.1 } ((List.range 64).map (fun k => (Loc.spad q.1 (d.dest.toNat + k), byteOf q.2 k)))) s

/-- The GEN lines that a run has written whole. -/
def wholeLines (r : JobRun) : List Nat :=
  let bs := r.dsts.filterMap (fun l => match l with
    | .pa a _ => some (a, (0 : Byte))
    | _ => none)
  (linesOf bs).filter (fun l => wholeLine (bs.filter (fun e => e.1 / 64 = l)))

/-- The end of a run: bytes whose line never took its count have landed all the same, those of windows reach their targets, and a
line written whole is poisoned no more (R222, R369, R388). -/
def endRun (d : JobDesc) (r : JobRun) : JobRun :=
  let s := homeWriteBy r.st d.policy r.held
  let s := (fabWindows r.far).foldl (fun s w0 => fabWrite s w0 (fabPart w0 r.far)) s
  { r with st := if s.poison.isEmpty then s else heal s (wholeLines r), held := [], far := [] }

/-- What the rest of a job does: the run of its elements. Its bytes follow what its cluster has stored in scratchpads (R221). -/
def runJob (s : State) (core : Nat) (j : Job) : JobRun :=
  let w := jobWho s core j
  if j.desc.kind = 3 then ⟨castPayload s w j.desc, [], [], [], none⟩
  else endRun j.desc (copyElements w j.desc j.progress (jobSize j.desc - j.progress) ⟨drainCluster s core, [], [], [], none⟩)

/-- A line of the job still has reserved units: its landing waits (R273). -/
def landingWaits (s : State) (core : Nat) (j : Job) : Bool :=
  j.desc.count ≠ 0 && (jobLines s (jobWho s core j) j.desc).any (fun q => (countAt s q).2 ≠ 0)

/-- An Active job whose source it may read, with no landing that waits. -/
def jobRuns (s : State) (core : Nat) (j : Job) : Bool :=
  j.st == .active && (j.desc.handle.isNone || j.held) && !landingWaits s core j

/-- The last payload byte lands: the job is Completing and its follow-on stands for its turn (R220). -/
def landJob (s : State) (core : Nat) (j : Job) : State :=
  if !jobRuns s core j then s
  else
    let r := runJob s core j
    if r.bad.isSome then s
    else
      let s := modJob (wakeWatches r.st r.dsts) core j.seq (fun j => { j with st := .completing, landed := true })
      match j.desc.follow, j.ticket with
      | some fo, some t => placeCommand s core (followAcc fo) t (followCmd fo) (jobOwner j) (some j.seq)
      | _, _ => s

/-- A faulting job is Suspended; what landed stays, and its owner receives an asynchronous record (R222). -/
def faultJob (s : State) (core : Nat) (j : Job) : State :=
  if !jobRuns s core j then s
  else
    let r := runJob s core j
    match r.bad with
    | none => s
    | some (e, at_) =>
      let first := pageStart r.st (jobWho s core j) j.desc at_ e.addr
      asyncRecord
        (modJob (wakeWatches r.st r.dsts) core j.seq (fun j => { j with st := .suspended, progress := first }))
        (jobOwner j)
        { cls := e.cls, cause := e.cause, addr := e.addr, arg := e.arg, job := true, where_ := jobNumber core j.seq }

/-- Releases the tenure that a job holds on its source (R219). -/
def releaseSource (s : State) (core : Nat) (j : Job) : State :=
  let c := jobOwner j
  let die := dieOf core
  let part := (ctxAt s c).part
  match j.held, j.desc.handle with
  | true, some h =>
    match findHandle (partAt s die part) h.toNat with
    | .ok t => releaseRecord s die part t (holderOf s (whoOf s c)) none
    | .error _ => s
  | _, _ => s

/-- A job leaves its queue: Done or Abandoned. -/
def dropJob (s : State) (core : Nat) (j : Job) : State :=
  let s := releaseSource s core j
  let s := modPartOf s (jobOwner j) (fun p => { p with acquires := p.acquires.filter (fun a => a.job != some (core, j.seq)) })
  modCore s core (fun k => { k with jobs := k.jobs.filter (·.seq ≠ j.seq) })

/-- The follow-on of a job has entered its queue. -/
def followEntered (s : State) (core : Nat) (j : Job) : Bool :=
  match j.desc.follow, j.ticket with
  | some fo, some t => t < (accAt s core (followAcc fo)).enter
  | _, _ => true

/-- The jobs of a queue that entered before a job: the queue stands in the order of entry (R218). -/
def earlierJobs (s : State) (core seq : Nat) : List Job := (coreAt s core).jobs.takeWhile (·.seq ≠ seq)

/-- Steps 3 to 5 of R220. -/
def completeJob (s : State) (core : Nat) (j : Job) : State :=
  if j.st != .completing || !followEntered s core j || !(earlierJobs s core j.seq).isEmpty then s
  else
    let s := match j.desc.cw with
      | some (a, v) => writeWord s (jobWho s core j) a.toNat v.toNat
      | none => s
    dropJob s core j

/-- A job suspends at its start with an asynchronous record (R219, R310). -/
def suspendStart (s : State) (core : Nat) (j : Job) (cls cause : Nat) (arg : Word) : State :=
  asyncRecord (modJob s core j.seq (fun j => { j with st := .suspended })) (jobOwner j)
    { cls := cls, cause := cause, arg := arg, job := true, where_ := jobNumber core j.seq }

/-- A job that is Active asks for READ tenure of its source tile (R219). -/
def acquireSource (s : State) (core : Nat) (j : Job) (h : Word) : State :=
  let c := jobOwner j
  let die := dieOf core
  let part := (ctxAt s c).part
  let p := partAt s die part
  let holder := holderOf s (whoOf s c)
  match findHandle p h.toNat with
  | .error cause => suspendStart s core j clsStaleHandle cause h
  | .ok t =>
    if (tenureOf t holder).isSome || 32 ≤ tenuresHeld p holder then suspendStart s core j clsTenureConflict 0x08 h
    else if grantsNow s p holder t 1 0 0 then
      modJob (grantTenure s die part t holder 1 0 0) core j.seq (fun j => { j with held := true })
    else
      modPart s die part (fun p => { p with acquires := p.acquires ++
        [⟨t.idx, holder, c, 1, 0, 0, 0, .iter 0, 0, some (core, j.seq)⟩] })

/-- A Queued job at the head of its queue becomes Active while its cluster has fewer than 32 Active, and so does one that was
resumed and waits for that; a resumed one asks for its source again (R218, R222). A job waits until the PHASEs of its owner have
published (R264, R389). -/
def startJob (s : State) (core : Nat) (j : Job) : State :=
  let asks := fun (s : State) => match j.desc.handle with
    | some h =>
      if j.held || (partOf s (jobOwner j)).acquires.any (fun a => a.job == some (core, j.seq)) then s
      else acquireSource s core j h
    | none => s
  if j.st == .queued then
    if (earlierJobs s core j.seq).any (·.st == .queued) || 32 ≤ activeJobs s core || phasing (ctxAt s (jobOwner j)) then s
    else asks (modJob s core j.seq (fun j => { j with st := .active }))
  else if j.st == .suspended && j.resumed then
    if 32 ≤ activeJobs s core || ownerAway s j then s else asks (modJob s core j.seq (fun j => { j with st := .active, resumed := false }))
  else if j.st == .active then asks s
  else s

/-- A job enters its core's queue at its block's commit; its follow-on is counted (R218, R243). -/
def enterJob (s : State) (core : Nat) (c : CtxId) (d : JobDesc) (card : Option Nat) : State :=
  let r := match d.follow with
    | some fo =>
      let q := countCommand s core (followAcc fo) (followCmd fo)
      (q.1, some q.2)
    | none => (s, none)
  modCore r.1 core (fun k =>
    { k with jobs := k.jobs ++ [⟨k.jobSeq, d, c.ctx, c.core, .queued, 0, false, false, false, false, r.2, card⟩]
             jobSeq := (k.jobSeq + 1) % 2 ^ 32 })

/-- MQUERY (R237). -/
def execMquery (f : LFields) (s : State) : Result :=
  fire (.mquery f) s (fun _ _ _ s =>
    let self := siteCore s
    let core := if f.off.getLsbD 3 then self else 8 * (self / 8) + f.off.toNat % 8
    let k := coreAt s core
    let oldest := (k.jobs.head?.map (·.seq)).getD k.jobSeq
    fired (.mquery f) { r0 := some (scalar (BitVec.ofNat 64 (oldest * 2 ^ 32 + k.jobSeq))) } s)

/-! ## Tasks (R223, R238, R239) -/

/-- A region of a card: base, kind, scratchpad offset, length. -/
def cardRegion (ws : List Word) (j : Nat) : Word × Nat × Nat × Nat :=
  let r := (ws.getD (5 + 2 * j) 0).toNat
  (ws.getD (4 + 2 * j) 0, field r 62 2, field r 32 19, field r 0 32)

/-- A card is in error (R223). -/
def cardBad (ws : List Word) : Bool :=
  let w := fun n => (ws.getD n 0).toNat
  let rs := (List.range 4).map (cardRegion ws)
  let code := ws.getD 0 0
  let bad := fun (r : Word × Nat × Nat × Nat) =>
    let (base, kind, off, len) := r
    (kind = 0 && len ≠ 0) || (kind ≠ 0 && len = 0) || (kind ≠ 1 && off ≠ 0) || 6 ≤ ptrPath base
      || (kind = 1 && (off % 64 ≠ 0 || 0x7C000 < off + len || ptrPath base = 1 || 3 < ptrPath base))
  ptrAddr code % 128 ≠ 0 || ptrPath code = 1 || 3 < ptrPath code
    || w 2 / 16 ≠ 0 || ((w 2).testBit 3 && w 2 % 8 ≠ 0) || w 3 ≠ 0
    || (List.range 4).any (fun j => field (w (5 + 2 * j)) 51 11 ≠ 0)
    || (List.range 4).any (fun j => w (12 + j) ≠ 0)
    || rs.any bad
    || (List.range 4).any (fun j => (List.range j).any (fun i =>
        let a := cardRegion ws i
        let b := cardRegion ws j
        a.2.1 = 1 && b.2.1 = 1 && spansMeet a.2.2.1 (a.2.2.1 + a.2.2.2) b.2.2.1 (b.2.2.1 + b.2.2.2)))

/-- A region of a card names the save staging area (R214). A fetched region's scratchpad range that reaches it is an error of
the card (R223). -/
def cardStaging (ws : List Word) : Option Word :=
  ((List.range 4).map (cardRegion ws)).findSome? (fun r =>
    let (base, kind, _, len) := r
    if kind ≠ 0 && ptrPath base = pathSPAD && 0x7C000 < ptrAddr base % 2 ^ 19 + len then some base else none)

/-- The paths TASK reads its card on (R238). -/
def servesTask (path : Nat) : Option Nat := if path = pathGEN || path = pathCONST then none else some 0x07

/-- TASK (R238): the card is read as a load of its LSID. It is translated before its alignment is tested (DESIGN CHOICE, log
entry 115). -/
def execTask (f : LFields) (s : State) : Result :=
  fire (.task f) s (fun a _ _ s =>
    let p := addrOf (word a.value 0) (offsetOf f)
    match frameAt s s.focus.c s.focus.frame, basicCheck p <|> pathCheck servesTask p with
    | none, _ => s
    | some _, some e => faultAcc e s
    | some fr, none =>
      match locate s (whoAt s) .read p 128 with
      | .error e => faultAcc e s
      | .ok ls =>
        if ptrAddr p % 128 ≠ 0 then faulted clsPathReserved 0x0F p 0 s
        else if holdLoad s fr f.lsid.toNat then s
        else
          match poisonedLine s (whoAt s) (f.cache = 3) (ls.zip (bytePtrs p 128)) with
          | some line => faulted clsTokenParity 0x04 line 0 s
          | none =>
            let bytes := loadBytes s (whoAt s) s.focus.frame s.focus.tag f.lsid.toNat (f.cache = 3) ls
            let ws := (List.range 16).map (fun k => BitVec.ofNat 64 (ofBytes ((bytes.drop (8 * k)).take 8)))
            if cardBad ws then faulted clsPathReserved 0x0F p 0 s
            else match cardStaging ws with
            | some base => faulted clsPathReserved 0x0D base 0 s
            | none =>
              let s := leaveLines f s (whoAt s) ls
              let s := renewLeases s (whoAt s) ls
              let s := modFrame s s.focus.c s.focus.frame (fun fr =>
                { fr with loads := fr.loads ++ [⟨s.focus.idx, f.lsid.toNat, s.focus.tag, ls, bytes⟩] })
              fired (.task f) { effs := [.task ws] } s)

/-- TDONE (R239). -/
def execTdone (f : LFields) (s : State) : Result :=
  fire (.tdone f) s (fun _ _ _ s => fired (.tdone f) { effs := [.taskDone] } s)

/-! ## Groups (R228, R240, R241) -/

/-- The member number of a context (R227). -/
def memberNum (s : State) (c : CtxId) : Nat := holderOf s (whoOf s c) - 1

/-- The scope of a group's barrier (R228). -/
def groupScope (members : List Nat) : Nat := if (members.map (· / 128)).eraseDups.length ≤ 1 then 0 else 1

def modGroup (s : State) (die part g : Nat) (f : Group → Group) : State :=
  modPart s die part (fun p => { p with groups := p.groups.map (fun q => if q.num = g then f q else q) })

/-- A generation completes when every member that has not quit has arrived (R228). -/
def completeBarrier (s : State) (die part g : Nat) (self : CtxId) : State :=
  match (partAt s die part).groups.find? (·.num = g) with
  | none => s
  | some q =>
    if q.arrived.isEmpty || !(q.members.all (fun m => q.left.contains m || q.arrived.contains m)) then s
    else
      let s := modGroup s die part g (fun q => { q with arrived := [], gen := q.gen + 1 })
      q.arrived.foldl (fun s m =>
        let c := memberCtx s self m
        match (ctxAt s c).gbarWait with
        | some (g', idx, tag) =>
          if g' = g then
            let lsid := waitingLsid s c idx
            let s := answerLater c idx tag (some (BitVec.ofNat 512 q.gen)) (BitVec.ofNat 64 q.gen)
              (modCtx s c (fun x => { x with gbarWait := none }))
            acquireEffect s c (groupScope q.members) tag lsid
          else s
        | none => s) s

/-- GBAR (R240): an arrival that stands from before a squash goes on waiting. -/
def execGbar (f : LFields) (s : State) : Result :=
  fire (.gbar f) s (fun _ _ _ s =>
    let c := s.focus.c
    let g := f.off.toNat % 256
    let ms := groupMembers s c g
    let me := memberNum s c
    if !ms.contains me then answerWord (.gbar f) (BitVec.allOnes 64) s
    else
      match (ctxAt s c).gbarWait with
      | some w => if w == (g, s.focus.idx, s.focus.tag) then awaiting s else s
      | none =>
        if syncPending s then s
        else
          let scope := groupScope ms
          let blk := ((frameAt s c s.focus.frame).map (·.addr)).getD 0
          let s := acquire (publish s c scope blk) c scope
          let s := awaiting (modCtx s c (fun x => { x with gbarWait := some (g, s.focus.idx, s.focus.tag) }))
          let s := modGroup s (dieOf c.core) (ctxAt s c).part g (fun q => { q with arrived := q.arrived ++ [me] })
          completeBarrier s (dieOf c.core) (ctxAt s c).part g c)

/-- GMCAST (R241). A misaligned offset is reported before one in the staging area (DESIGN CHOICE, log entry 116). -/
def execGmcast (f : LFields) (s : State) : Result :=
  fire (.gmcast f) s (fun a b _ s =>
    let p := word a.value 0
    let o := ptrAddr p % 2 ^ 19
    match basicCheck p with
    | some e => faultAcc e s
    | none =>
      if ptrPath p ≠ pathSPAD then faulted clsPathReserved 0x07 p 0 s
      else if o % 64 ≠ 0 then faulted clsPathReserved 0x10 p 0 s
      else if 0x7C000 ≤ o then faulted clsPathReserved 0x0D p 0 s
      else
        let cores := groupCores s s.focus.c (f.off.toNat % 256)
        fired (.gmcast f) { effs := [.job { blankJob with kind := 3, dest := BitVec.ofNat 64 o, payload := cores.map (fun k => (k, b.value)) }] } s)

end Sys2Proof.Machine
end

