-- ==== Sys2Proof/Machine/Threads.lean ====
section
/-! DEFINITION. The life of a thread: its start (R175, R348), what its context still owes (R122, R210, R394), its end
(R176, R297, R362), the retirement of its task (R226) and of its gang (R352). -/

namespace Sys2Proof.Machine

open Sys2Proof

/-! ## Starting a thread -/

/-- The private registers of a context read as zero (R175). -/
def clearRegs (s : State) (c : CtxId) : State :=
  (List.range (regsPerCtx (coreAt s c.core).contexts)).foldl (fun s i => writeReg s c i 0) s

/-- A thread starts in a context: Running, creation values, some registers given (R73, R175, R348). Messages that the
context's last thread committed stay on their way, and messages that were spilled for it keep their records (R207; DESIGN
CHOICE, log entry 112: also beyond the new thread's CAP of 0). -/
def startThread (s : State) (c : CtxId) (addr : Word) (rank part : Nat) (launch : Option (Nat × Nat)) (gang : Nat)
    (regs : List (Nat × Wide)) : State :=
  let s := modCtx s c (fun x =>
    { Ctx.blank with st := .running, rank := rank, next := addr, part := part, launch := launch, gang := gang,
                     sendq := x.sendq, notifs := x.notifs, slot := x.slot, spillAt := x.spillAt })
  regs.foldl (fun s e => writeReg s c e.1 e.2) (clearRegs s c)

/-! ## Work owed (R122, R205, R210) -/

/-- Mortar jobs of a context that are not Done or Abandoned. -/
def owesJob (s : State) (c : CtxId) : Bool :=
  (coreNums s).any (fun k => (coreAt s k).jobs.any (fun j => jobOwner j == c))

/-- Matrix commands of a context that have not finished. A command is owed until it has finished, where R122 says `issued`
and R210 `complete` (DESIGN CHOICE, log entry 89). -/
def owesCommand (s : State) (c : CtxId) : Bool := (coreNums s).any (fun k => (coreAt s k).mq.any (fun q => q.owner == c))

/-- Collectives count as owed jobs (R394). -/
def owesColl (x : Ctx) : Bool := x.colls.any (fun q => !q.done)

/-- What a Draining context waits for: owed work, and what of its last block still waits behind a PHASE (R264). -/
def owes (s : State) (c : CtxId) : Bool := owesJob s c || owesCommand s c || owesColl (ctxAt s c) || phasing (ctxAt s c)

/-- The RDISC of a Parked context waits for reservations, and none of its range is left (R122, R130, R326). -/
def discDue (s : State) (x : Ctx) : Bool := !x.discWait.isEmpty && x.discWait.all (fun l => (l2At s l).v = 0)

/-- Something is about to wake a Parked context (R122). -/
def mayWake (s : State) (x : Ctx) : Bool := !x.stopped && (x.ready || discDue s x)

/-! ## Tasks (R223, R224, R226) -/

/-- A card leaves its queue: edges to it are removed, and cards without edges become Ready. -/
def dropCard (s : State) (cluster num : Nat) : State :=
  modCluster s cluster (fun k => { k with cards := (k.cards.filter (·.num ≠ num)).map (fun d =>
    let es := d.edges.filter (· ≠ num)
    { d with edges := es, st := if d.st = 0 && es.isEmpty then 1 else d.st }) })

/-- A task retires (R226). -/
def retireTask (s : State) (c : CtxId) : State :=
  match (ctxAt s c).task with
  | none => s
  | some num =>
    let s := acquire (publish s c 1 0) c 1
    modCtx (dropCard s (clusterOf c.core) num) c (fun x => { x with task := none })

/-- A card's fetch job is abandoned: its reserved context is freed and no task runs (R226). -/
def cancelCard (s : State) (cluster num : Nat) : State :=
  match (clusterAt s cluster).cards.find? (·.num = num) with
  | none => s
  | some d =>
    let s := match d.target with
      | some t => modCtx s t (fun x => { x with reserved := false })
      | none => s
    dropCard s cluster num

/-! ## Abandoned jobs (R210, R222, R244) -/

/-- A Suspended job of a context that is Draining or Free is abandoned: its follow-on enters as a void command. -/
def abandonJob (s : State) (core : Nat) (j : Job) : State :=
  let s := match j.desc.follow, j.ticket with
    | some fo, some t => placeCommand s core (followAcc fo) t .void (jobOwner j) (some j.seq)
    | _, _ => s
  let s := dropJob s core j
  match j.card with
  | some num => cancelCard s (clusterOf core) num
  | none => s

/-- Every Suspended job of a context is abandoned. -/
def abandonJobs (s : State) (c : CtxId) : State :=
  (coreNums s).foldl (fun s k =>
    ((coreAt s k).jobs.filter (fun j => jobOwner j == c && j.st == .suspended)).foldl (fun s j => abandonJob s k j) s) s

/-! ## The end of a thread -/

/-- A gang's cores hold nothing any more (R352). -/
def gangDone (s : State) (g : Gang) : Bool :=
  !g.saved && g.cores.all (fun k => (coreAt s k).ctxs.all (fun e => e.2.st == .free && !e.2.reserved) && (coreAt s k).jobs.isEmpty)

/-- Gangs whose contexts are all Free retire: their cores and footprint return (R136, R352). -/
def retireGangs (s : State) (die part : Nat) : State :=
  let ended := ((partAt s die part).launches.flatMap (·.gangs)).filter (gangDone s)
  let s := ended.foldl (fun s g => g.cores.foldl (fun s k =>
    modCore s k (fun q => { q with kind := 0, set := 0, foot := 0, gang := none })) s) s
  if ended.isEmpty then s
  else modPart s die part (fun p => { p with launches := p.launches.map (fun l =>
    { l with gangs := l.gangs.filter (fun g => !ended.contains g) }) })

/-- The regions a context declared keep the log it held (R277). -/
def keepLogs (s : State) (c : CtxId) : State :=
  let x := ctxAt s c
  modPartOf s c (fun p => { p with regions := p.regions.map (fun r =>
    if r.by_ == c then { r with rcLog := x.rcLog, rcLogctl := x.rcLogctl, by_ := ⟨c.core, c.ctx + 16⟩ } else r) })

/-- The holds of a RETT end with its issuer (R189). -/
def endHolds (s : State) (c : CtxId) : State :=
  (coreNums s).foldl (fun s k =>
    if (coreAt s k).ctxs.any (fun e => e.2.rettHold == some c) then
      modCore s k (fun q => { q with ctxs := q.ctxs.map (fun e =>
        (e.1, if e.2.rettHold == some c then { e.2 with rettHold := none } else e.2)) })
    else s) s

/-- A context becomes Free (R176, R189, R277, R297). -/
def freeCtx (s : State) (c : CtxId) : State :=
  let s := endHolds (keepLogs (dropHolder (finishWalk s c) c) c) c
  let s := modCore s c.core (fun k => { k with bound := k.bound.filter (·.2 ≠ c.ctx) })
  let s := modCtx s c (fun x =>
    { x with st := .free, stopped := false, ready := false, readyHeld := false, log := [], pinned := none, frames := [],
             watch := none, phases := [], late := [], asyncs := [], yielding := false, tenWait := none, gbarWait := none,
             accWait := [], cwait := none, discWait := [], course := if x.course == .quit then .quit else .solo })
  retireGangs s (dieOf c.core) (ctxAt s c).part

/-- A member leaves the barriers of its groups (R228). -/
def leaveGroups (s : State) (c : CtxId) : State :=
  let me := memberNum s c
  let die := dieOf c.core
  let part := (ctxAt s c).part
  ((partAt s die part).groups.filter (fun g => g.members.contains me)).foldl (fun s g =>
    completeBarrier (modGroup s die part g.num (fun g =>
      { g with left := g.left ++ [me], arrived := g.arrived.filter (· ≠ me) })) die part g.num c) s

/-- A context still owes work that goes on while it is Saved (R209). A Suspended job waits for its owner; once the owner has
been resumed, the owner waits for it. -/
def owesRunning (s : State) (c : CtxId) : Bool :=
  (coreNums s).any (fun k => (coreAt s k).jobs.any (fun j => jobOwner j == c && (j.st != .suspended || j.resumed)))
    || owesColl (ctxAt s c)

/-- A context takes the state that was saved (R209). A stopped one is Parked; a parked one that is not stopped executes its
oldest block again, unless it waits at a muster. -/
def wakeSaved (x : Ctx) : Ctx :=
  let waits := match x.course with
    | .waiting _ => true
    | _ => false
  { x with st := if x.stopped && x.prior != .draining then .parked else x.prior
           prior := .free
           ready := x.ready || (x.prior == .parked && !x.stopped && !waits) }

/-- The contexts of restored cores that no longer owe anything take the state that was saved (R209). -/
def wakeRestored (s : State) : State :=
  (coreNums s).foldl (fun s k =>
    if (coreAt s k).saving then s
    else (coreAt s k).ctxs.foldl (fun s e =>
      if (ctxAt s ⟨k, e.1⟩).st == .saved && !owesRunning s ⟨k, e.1⟩ then modCtx s ⟨k, e.1⟩ wakeSaved else s) s) s

/-- Draining contexts that owe nothing become Free (R122, R210). -/
def settle (s : State) : State :=
  let s := wakeRestored s
  (coreNums s).foldl (fun s k =>
    (coreAt s k).ctxs.foldl (fun s e =>
      if (ctxAt s ⟨k, e.1⟩).st == .draining && !owes s ⟨k, e.1⟩ then freeCtx s ⟨k, e.1⟩ else s) s) s

/-- An asynchronous record of a thread that has quit: delivered with QUIT, and without stopping it (R202, R210). -/
def withQuit (r : Record) : Record :=
  { r with words := r.words.set 0 ((r.words.getD 0 0) ||| (1 <<< 36)), stops := false }

/-- The asynchronous records that no longer find a thread to stop are delivered, as they stand when it quits. -/
def quitAsyncs (s : State) (c : CtxId) : State :=
  let x := ctxAt s c
  slotRecords (modCtx s c (fun x => { x with asyncs := [] })) c (x.asyncs.map (fun r => withQuit (atStop x r)))

/-- QUIT at its commit (R176): Free, or Draining while work is owed. DESIGN CHOICE (log entry 72): a Draining context has not
retired, so its message classes stay bound until it becomes Free. -/
def quitThread (s : State) (c : CtxId) : State :=
  let s := retireTask (leaveGroups s c) c
  let s := leaveCourse s c (if (coreAt s c.core).kind = 2 then .quit else .solo)
  let s := quitAsyncs (abandonJobs (modCtx s c (fun x => { x with st := .draining, watch := none, ready := false })) c) c
  if owes s c then s else freeCtx s c

end Sys2Proof.Machine
end

