-- ==== Sys2Proof/Machine/Commit.lean ====
section
/-! DEFINITION. The commit of a block and of an iteration (R25 to R28, R143, R148, R152 to R154), the faults of an oldest
block (R29, R30), parking (R122), yielding, repartition (R124), musters (R147) and the end of a PHASE (R264). -/

namespace Sys2Proof.Machine

open Sys2Proof

/-! ## The order of effects (R27) -/

/-- The accumulator of an effect whose command a test selects. -/
def commandOn (test : MCmd → Bool) (e : Effect) : Option Nat :=
  match e with
  | .matrix a cmd => if test cmd then some a else none
  | _ => none

def isInit (cmd : MCmd) : Bool :=
  match cmd with
  | .accInit _ => true
  | _ => false

/-- The index behind which an effect without an LSID stands: its own, or for an ACCINIT that of the last MMA into its
accumulator (R243). DEDUCED (log entry 69): its last paragraph goes before the ascending index. -/
def lateIndex (ps : List Pending) (p : Pending) : Nat :=
  match commandOn isInit p.eff with
  | some a => (ps.filter (fun q => q.lsid.isNone && commandOn (fun cmd => !isSetter cmd) q.eff == some a)).foldl (fun m q => max m q.idx) p.idx
  | none => p.idx

/-- Effects with an LSID by LSID, then the others by index. -/
def effectKey (ps : List Pending) (p : Pending) : Nat :=
  match p.lsid with
  | some k => 128 * k + p.idx
  | none =>
    let n := lateIndex ps p
    2 ^ 13 + 2 ^ 8 * n + (if p.idx < n then p.idx + 1 else 0)

/-- An effect takes its place in the order. -/
def insertEffect (key : Pending → Nat) (p : Pending) : List Pending → List Pending
  | [] => [p]
  | q :: t => if key p < key q then p :: q :: t else q :: insertEffect key p t

/-- The effects of a tag in commit order. -/
def orderedEffects (fr : Frame) (tag : Tag) : List Pending :=
  let ps := fr.effects.filter (·.tag == tag)
  ps.foldl (fun l p => insertEffect (effectKey ps) p l) []

/-! ## Readiness of a whole frame -/

/-- The tags a frame may fire for. -/
def liveTags (fr : Frame) : List Tag :=
  if !isPinned fr then [.iter 0]
  else if fr.finalPh then [.final]
  else (List.range 8).map (fun k => .iter (fr.iter + k))

/-- An instruction that is ready would do something: one that must wait for its turn does not count (R30). -/
def acts (s : State) (i : Instr) : Bool :=
  match i with
  | .ld f => moves (execLd f s) s
  | .ldRc f => moves (execLdRc f s) s
  | .gath f => moves (execGath f s) s
  | .stCnt f => moves (execStCnt f s) s
  | .task f => moves (execTask f s) s
  | .tarena f => moves (execTarena f s) s
  | .tarenaDestroy f => moves (execTarenaDestroy f s) s
  | .tselect f => moves (execTselect f s) s
  | .tbatch f => moves (execTbatch f s) s
  | .texpand f => moves (execTexpand f s) s
  | .tbackup f => moves (execTbackup f s) s
  | .treroot f => moves (execTreroot f s) s
  | .rdisc f => moves (execRdisc f s) s
  | .tstat f => moves (execTstat f s) s
  | _ =>
    match readiness i s, i.fields with
    | .wait, _ => false
    | .full, _ => decide (reclaimLsq s ≠ s)
    | .go _ _ _, .g f => !(rounds i && drawsWait s i f.rnd)
    | _, _ => true

/-- An instruction of a frame can still act for a tag: it is ready, or a stream of it has to emit. -/
def siteActive (s : State) (c : CtxId) (fr : Frame) (n : Nat) (tag : Tag) (e : Nat × Instr) : Bool :=
  let ready := readyAt (ctxAt s c) fr n e.1 tag e.2 != .wait
  match e.2 with
  | .lds f =>
    match streamNow fr e.1 with
    | some q => mayEmit fr e.2 q && !loadHeld (ctxAt s c) fr n e.1 f.lsid.toNat (.iter q.k)
    | none => ready
  | .isect _ => !(isectNow fr e.1).done && !fr.finalPh && decide (isectStep e.2 e.1 fr ≠ fr)
  | i => ready && acts { s with focus := ⟨c, n, e.1, tag⟩ } i

/-- A token on its way can arrive, or will be sent again; one that its sender holds is not on its way (R150). -/
def comes (fr : Frame) (f : Flight) : Bool := f.refused || (place fr f).isSome

/-- Something in a frame is ready or on its way. -/
def frameActive (s : State) (c : CtxId) (fr : Frame) (n : Nat) : Bool :=
  !fr.reads.isEmpty || fr.flight.any (comes fr)
    || (ctxAt s c).utoks.any (fun u => u.1 = fr.pos && (takeUniform fr u.2).isSome)
    || (liveTags fr).any (fun t => (instrs fr).any (siteActive s c fr n t))

/-- A load of a context's oldest block has its tokens and waits for its turn (R265, R267). -/
def loadDue (s : State) (c : CtxId) (fr : Frame) : Bool :=
  (liveTags fr).any (fun t => (instrs fr).any (fun e => (match e.2 with
    | .ld _ | .ldRc _ | .gath _ => true
    | _ => false) && (match readyAt (ctxAt s c) fr 0 e.1 t e.2 with
    | .go _ _ _ => true
    | _ => false)))

/-- An access of a context's oldest block is outstanding: a load that waits at the home of a counted line, a posted access that
a later operation waits for, or a load that waits for a message before it (R30). -/
def outstanding (s : State) (c : CtxId) (fr : Frame) : Bool :=
  s.rcQueue.any (fun q => q.c == c && q.pos = fr.pos) || postedLeft s c || (!(ctxAt s c).sendq.isEmpty && loadDue s c fr)

/-! ## The commit reservation (R28) -/

/-- An effect that takes an entry of the posted-store journal (R200). -/
def isPosted (e : Effect) : Bool :=
  match e with
  | .store bs _ _ _ => bs.any (fun b => match b.1 with
      | .host _ | .fab _ _ _ => true
      | _ => false)
  | .stq _ _ _ => true
  | _ => false

/-- The effects on accumulators in count order: follow-ons, then commands (R243). -/
def countedEffects (ps : List Pending) : List (Nat × Nat × MCmd × Nat) :=
  ps.filterMap (fun p => match p.eff with
    | .job d => d.follow.map (fun fo => (p.idx, followAcc fo, followCmd fo, 0x02))
    | .matrix a cmd => some (p.idx, a, cmd, 0x01)
    | _ => none)

/-- The count checks of a block, each against what the earlier effects leave (R243). -/
def countFaults (s : State) (core : Nat) : List (Nat × Nat × MCmd × Nat) → Tab AccCount → List FaultRec
  | [], _ => []
  | (idx, acc, cmd, cause) :: t, now =>
    let a := accAt s core acc
    let cur := ((now.find? (·.1 = acc)).map (·.2)).getD (a.n, a.c, a.round)
    match accCount cmd cur with
    | some q => countFaults s core t (tabPut acc q now)
    | none => ⟨accFaultClass cmd, cause, idx, false, .persist, 0, accStatus a acc⟩ :: countFaults s core t now

/-- Send entries that a block asks for. -/
def sendsOf (ps : List Pending) : List (Nat × Bool) :=
  ps.filterMap (fun p => match p.eff with
    | .send _ _ w => some (p.idx, w)
    | _ => none)

/-- The sends that find no entry. -/
def sendsOver (x : Ctx) (ps : List Pending) : List (Nat × Bool) := (sendsOf ps).drop (8 - x.sendq.length)

/-- The fault that an effect's reservation raises by itself (R181, R273, R275, R301, R307). DEDUCED (log entry 70): the
region of a count fill is tested again. -/
def effectFault (s : State) (c : CtxId) (p : Pending) : Option FaultRec :=
  let rec_ := fun (q : Nat × Nat) (h : Word) => (⟨q.1, q.2, p.idx, false, .persist, 0, h⟩ : FaultRec)
  match p.eff with
  | .trel h => (trelFault s c h.toNat).map (fun q => rec_ q h)
  | .thfree h => (thfreeFault s c h.toNat).map (fun q => rec_ q h)
  | .countFill l ptr _ _ =>
    match notCounted (partOf s c) l ptr with
    | some e => some ⟨e.cls, e.cause, p.idx, false, .persist, e.addr, e.arg⟩
    | none => if noWay s l then some ⟨clsCountCapacity, 0x01, p.idx, false, .persist, ptr, capacityArg s l⟩ else none
  | _ => none

/-- What the reservation of an effect leaves to those after it in its block: the pinned ways, and the handle that it
frees. -/
def reserveStep (c : CtxId) (s : State) (p : Pending) : State :=
  match p.eff with
  | .countFill (.pa a _) _ _ n => modL2 s (a / 64) (fun l => { l with n := n, v := 0 })
  | .consume l _ => spendUnit s l
  | .thfree h =>
    match findHandle (partOf s c) h.toNat with
    | .ok q => modPartOf s c (fun p => { p with handles := p.handles.filter (·.idx ≠ q.idx), gens := tabSet 1 p.gens q.idx (nextGen q.gen) })
    | .error _ => s
  | _ => s

/-- The faults that effects raise by themselves, each against what those before it leave. -/
def effectFaults (s : State) (c : CtxId) : List Pending → List FaultRec
  | [] => []
  | p :: ps => (effectFault s c p).toList ++ effectFaults (reserveStep c s p) c ps

/-- The faults of a commit reservation. -/
def reserveFaults (s : State) (c : CtxId) (core : Nat) (ps : List Pending) : List FaultRec :=
  effectFaults s c ps
    ++ ((sendsOver (ctxAt s c) ps).filter (fun e => !e.2)).map (fun e => ⟨clsSendFull, 0x01, e.1, false, .persist, 0, 0⟩)
    ++ countFaults s core (countedEffects ps) []

/-- Units of a line that the block itself spends before a place in its order. DEDUCED (log entry 93): a fill does not wait for
them. -/
def ownUnits (ps : List Pending) (l : Loc) (key : Nat) : Nat :=
  (ps.filter (fun p => effectKey ps p < key && (match p.eff with
    | .consume q _ => sameLine q l
    | _ => false))).length

/-- A count fill waits for other blocks' reserved units (R273). -/
def fillWaits (s : State) (ps : List Pending) (p : Pending) : Bool :=
  match p.eff with
  | .countFill l _ _ _ => ownUnits ps l (effectKey ps p) < (countAt s l).2
  | _ => false

/-- The turn and the room of the matrix commands of a block (R244): the follow-ons that earlier blocks counted have entered,
and every brick has room. A command behind a follow-on of its own block enters after it. -/
def matrixWaits (s : State) (core : Nat) (ps : List Pending) : Bool :=
  let cmds := (countedEffects ps).filter (fun e => e.2.2.2 = 0x01)
  cmds.any (fun e => (accAt s core e.2.1).ticket ≠ (accAt s core e.2.1).enter)
    || [7, 15].any (fun b =>
        let n := (cmds.filter (fun e => brickOf e.2.1 = b)).length
        n ≠ 0 && 16 < n + queueUsed (coreAt s core) b)

/-- A count fill, a release of tenure or a device write comes after the messages before it in its context's program (R265,
R267). -/
def afterMessages (e : Effect) : Bool :=
  match e with
  | .countFill _ _ _ _ | .trel _ => true
  | .store bs _ _ _ => bs.any (fun b => match b.1 with
      | .dev _ => true
      | _ => false)
  | _ => false

/-- The effects that wait behind the PHASEs of a core's contexts (R264). -/
def lateOf (k : Core) : List Effect := k.ctxs.flatMap (fun e => e.2.late.map (·.2.2.eff))

/-- A THFREE waits for another block's reservation of its handle (R301). -/
def freeWaits (s : State) (c : CtxId) (p : Pending) : Bool :=
  match p.eff with
  | .thfree h => retiring s c h.toNat false
  | _ => false

/-- How many effects of a block satisfy a test. -/
def countOf (ps : List Pending) (t : Effect → Bool) : Nat := (ps.filter (fun p => t p.eff)).length

/-- Some reservation cannot be granted yet (R28). -/
def reserveWaits (s : State) (c : CtxId) (core : Nat) (ps : List Pending) : Bool :=
  let x := ctxAt s c
  let posted := countOf ps isPosted
  let jobs := countOf ps (fun e => match e with
    | .job _ => true
    | _ => false)
  let cards := countOf ps (fun e => match e with
    | .task _ => true
    | _ => false)
  let colls := countOf ps (fun e => match e with
    | .coll _ _ _ => true
    | _ => false)
  let launches := countOf ps (fun e => match e with
    | .launch _ => true
    | _ => false)
  (posted ≠ 0 && 64 < posted + (coreAt s c.core).journal.length + ((lateOf (coreAt s c.core)).filter isPosted).length)
    || (jobs ≠ 0 && 16 < jobs + (coreAt s core).jobs.length)
    || (cards ≠ 0 && 64 < cards + (clusterAt s (clusterOf core)).cards.length)
    || (colls ≠ 0 && 4 < colls + (x.colls.filter (fun q => !q.done)).length)
    || (launches ≠ 0 && 64 < launches + (dieAt s (dieOf core)).lqueue.length + ((lateEffects s).filter (fun q =>
          dieOf q.1 = dieOf core && (match q.2 with
            | .launch _ => true
            | _ => false))).length)
    || !(sendsOver x ps).isEmpty
    || ps.any (fillWaits s ps)
    || matrixWaits s core ps
    || (!x.sendq.isEmpty && ps.any (fun p => afterMessages p.eff))
    || ps.any (freeWaits s c)

/-- While a block waits for its reservations, those that the homes of handles have granted stand (R28, R301). -/
def holdReservations (s : State) (c : CtxId) (ps : List Pending) : State :=
  ps.foldl (fun s p => match p.eff with
    | .thfree h => holdHandle s c h.toNat
    | _ => s) s

/-! ## Commit-time effects -/

/-- A free entry of a journal. -/
def freeSlot (k : Core) : Nat := ((List.range 64).find? (fun n => !k.journal.any (·.slot = n))).getD 0

/-- A posted access takes a journal entry (R200): of the core that holds its context, for a bond too (DESIGN CHOICE, log entry
106). -/
def postEntry (s : State) (c : CtxId) (kind : Nat) (ptr : Word) (bs : List (Loc × Byte)) (stq : Option (Word × Wide × Tab (Word × Word))) : State :=
  let x := ctxAt s c
  modCore s c.core (fun k =>
    { k with journal := k.journal ++ [⟨freeSlot k, c.ctx, 1, 0, kind, ptr, bs, stq, x.launch⟩] })

/-- The GEN bytes of a store by their key in an L1. -/
def genKeys (bs : List (Loc × Byte)) : List Nat :=
  bs.filterMap (fun b => match b.1 with
    | .pa a _ => some a
    | _ => none)

/-- A store whose policy keeps it out of the L1 goes on to its homes at once (R46). -/
def passThrough (s : State) (w : Who) (policy : Nat) (keys : List Nat) : State :=
  ((keys.map (l1Core s w.core)).eraseDups).foldl (fun s home =>
    let r := carryHomeBy policy s home (fun k d => keys.contains k && d == w.c) none
    asyncRecords r.1 r.2) s

/-- What other contexts have stored at some keys of an L1 and not published goes home before the context stores there itself, as
if it were evicted (R262; DESIGN CHOICE, log entry 104). -/
def othersHome (s : State) (w : Who) (keys : List Nat) : State :=
  ((keys.map (l1Core s w.core)).eraseDups).foldl (fun s home =>
    let r := carryHomeBy 0 s home (fun k d => keys.contains k && d != w.c) none
    asyncRecords r.1 (onceEach r.2)) s

/-- A committed store (R46, R200, R262, R263): posted bytes go to the journal, the others to the L1, the scratchpad or the
device; under policy 01 no L1 line is allocated, under 11 the L1 and the L2 are bypassed, and under 10 the L2 keeps the lines
with raised retention. A store to host memory leaves no clean copy behind in the thread's L1s. -/
def commitStore (s : State) (c : CtxId) (core : Nat) (bs : List (Loc × Byte)) (ptr : Word) (kind policy : Nat) : State :=
  let w := execCoreWho s c core
  let far := fun (b : Loc × Byte) => match b.1 with
    | .host _ | .fab _ _ _ => true
    | _ => false
  let near := bs.filter (fun b => !far b)
  let keys := genKeys near
  let keeps := policy % 2 = 0
  let s := othersHome s w keys
  let s := commitBytes w (if keeps then storeRoom s w ((keys.map (· / 64)).eraseDups) else s) near
  let s := controlStores (if keeps then s else passThrough s w policy keys) c near
  let s := if policy = 2 then (genLines (near.map (·.1))).foldl (retain 3) s else s
  if bs.any far then
    let s := bs.foldl (fun s b => match b.1 with
      | .host a => dropOwnClean s c (hostBase + a)
      | _ => s) s
    postEntry s c kind ptr (bs.filter far) none
  else s

/-- The dirty bytes of a line leave one L1 of a thread for their home; RWB keeps the line there, clean, and RINV does not
(R325). A counted line stands in no L1. -/
def writeBackAt (invalidate : Bool) (blk : Word) (c : CtxId) (line : Nat) (a : State × List (CtxId × RecordArgs)) (home : Nat) :
    State × List (CtxId × RecordArgs) :=
  let held := dirtyIn (coreAt a.1 home) line
  let q := carryHome a.1 home (fun k => k / 64 = line) (some (c, blk))
  let s := if invalidate || !held || (l2At q.1 line).n ≠ 0 then q.1 else modCore q.1 home (cacheClean line (homeLine q.1 line))
  (s, a.2 ++ q.2)

/-- A line of a range is written back from the thread's L1s, and with RINV leaves them; the records of what is refused are
gathered. -/
def writeBackLine (invalidate : Bool) (blk : Word) (c : CtxId) (a : State × List (CtxId × RecordArgs)) (line : Nat) :
    State × List (CtxId × RecordArgs) :=
  let r := (threadL1s a.1 c (64 * line)).foldl (writeBackAt invalidate blk c line) a
  (if invalidate then dropOwnClean r.1 c (64 * line) else r.1, r.2)

/-- The write-back of a range is one publication (R298, R325). -/
def writeBackRange (invalidate : Bool) (blk : Word) (c : CtxId) (s : State) (lines : List Nat) : State :=
  let r := lines.foldl (writeBackLine invalidate blk c) (s, [])
  asyncRecords r.1 (onceEach r.2)

/-- The card a TASK commits, with its edges to earlier cards (R223, R224). -/
def enterCard (s : State) (cluster : Nat) (c : CtxId) (ws : List Word) : State :=
  let region := fun (ws : List Word) (j : Nat) => cardRegion ws j
  let covers := fun (x y : Word × Nat × Nat × Nat) => (ptrAddr y.1 + 2 ^ 54 - ptrAddr x.1) % 2 ^ 54 < x.2.2.2
  let meets := fun (x y : Word × Nat × Nat × Nat) =>
    x.1.toNat / 2 ^ 54 = y.1.toNat / 2 ^ 54 && x.2.2.2 ≠ 0 && y.2.2.2 ≠ 0 && (covers x y || covers y x)
  let edge := fun (old : List Word) => (List.range 4).any (fun i => (List.range 4).any (fun j =>
    let x := region old i
    let y := region ws j
    x.2.1 ≠ 0 && y.2.1 ≠ 0 && (x.2.1 = 2 || y.2.1 = 2) && meets x y))
  let rank := (ctxAt s c).rank
  modCluster s cluster (fun k =>
    let es := (k.cards.filter (fun d => edge d.words)).map (·.num)
    { k with cards := k.cards ++ [⟨k.cardSeq, ws, c, rank, es, if es.isEmpty then 1 else 0, none, []⟩]
             cardSeq := k.cardSeq + 1 })

/-- A repartition is requested by a block mapped on a core (R124, R136, R178): the younger blocks of the issuer are squashed,
and a request that is refused at once sets REFUSED on the core that the block reads. -/
def requestRepart (s : State) (c : CtxId) (core : Nat) (v : Word) : State :=
  let k := coreAt s c.core
  let n := v.toNat % 32
  let bad := (ctxAt s c).rank = 0 || !([1, 2, 4, 8, 16].contains n) || v.toNat / 32 ≠ 0 || k.kind ≠ 0 || k.pend
    || k.ctxs.any (fun e => e.2.frames.any (fun fr => fr.mapped && isPinned fr))
  let s := squashYounger s c
  if bad then modCore s core (fun k => { k with refused := true })
  else modCore s c.core (fun k => { k with pend := true, repartBy := some (c.ctx, n) })

/-- A PHASE at its commit (R264): steps 1 and 2, and the wait for steps 3 and 4. -/
def commitPhase (s : State) (c : CtxId) (scope : Nat) (blk : Word) : State :=
  let s := publish s c scope blk
  squashYounger (modCtx s c (fun x => { x with phases := x.phases ++ [scope], phaseBlk := blk })) c

/-- The resumption of a RETT (R189, R211): of the context that it holds, in its place or standing aside. -/
def commitRett (s : State) (c t : CtxId) : State :=
  let held := fun (x : Ctx) => x.stopped && x.rettHold == some c
  let t := threadWhere s (ctxAt s c).part t held
  if held (threadAt s t) then resumeThread s t else s

/-- An entry naming a launch record (R191, R349). -/
def commitLaunch (s : State) (c : CtxId) (ptr blk : Word) : State :=
  let x := ctxAt s c
  let s := commitPhase s c 1 blk
  modDie s (dieOf c.core) (fun d => { d with lqueue := d.lqueue ++ [.pointer ptr x.part x.rank] })

/-- A GEN count fill at its commit (R273). The bytes that a live node area refuses keep what the home holds, with a record; a
line that lies in it whole takes no count either (R298, R329, R345). -/
def commitFill (s : State) (c : CtxId) (w : Who) (blk : Word) (l : Loc) (a : Nat) (data : Wide) (n : Nat) : State :=
  let bad := (List.range 64).filter (fun k => inNodeArea s (a / 64 * 64 + k))
  let s := flushOwn s w a
  let d := bad.foldl (fun v k => setByte v k (byteOf (homeLine s (a / 64)) k)) data
  let s := if bad.length = 64 then s else heal (fillLine s w l (some d) n) (if bad.isEmpty then [a / 64] else [])
  if bad.isEmpty then s else asyncRecord s c (areaRefused a blk)

/-- One commit-time effect (R27). What ends or stops the thread follows the commit step. -/
def applyEffect (c : CtxId) (core : Nat) (blk : Word) (s : State) (p : Pending) : State :=
  match p.eff with
  | .store bs ptr kind policy => commitStore s c core bs ptr kind policy
  | .countFill l _ data n =>
    let w := execCoreWho s c core
    match l with
    | .pa a _ => commitFill s c w blk l a data n
    | _ => fillLine s w l (some data) n
  | .consume l _ => spendUnit s l
  | .stq d payload wins => postEntry s c 2 d [] (some (d, payload, wins))
  | .phase scope => commitPhase s c scope blk
  | .rangeWb lines inv =>
    let s := writeBackRange inv blk c s lines
    if inv then squashYounger s c else s
  | .job d => enterJob (drainOwn s c) core c d none
  | .task card => enterCard s (clusterOf core) c card
  | .trel h => releaseTenure s c blk h.toNat
  | .thfree h => freeHandle s c h.toNat
  | .wset w w0 w1 => squashYounger (modCtx s c (fun x => { x with windows := tabSet (0, 0) x.windows w (w0, w1) })) c
  | .coll d ws ms => commitColl s c d ws ms
  | .send dsts payload _ =>
    if dsts.isEmpty then s
    else
      let h := msgHeader s c (dsts.headD (0, 0)).2
      countSent (modCtx s c (fun x => { x with sendq := x.sendq ++ [⟨dsts, payload, h⟩] })) c dsts.length
  | .spawn t addr args rank =>
    let x := ctxAt s c
    startThread s t addr rank x.part x.launch x.gang
      ((List.range 4).map (fun n => (n, (word args n).setWidth 512)))
  | .repart v => requestRepart s c core v
  | .setc n v => writeControl s c core n v
  | .rett t => commitRett s c t
  | .syncb => squashYounger (modCore s core (fun k => { k with bcache := [] })) c
  | .launch ptr => commitLaunch s c ptr blk
  | .matrix acc cmd => commitCommand (drainOwn s c) core acc cmd c
  | .quit | .taskDone | .yield_ | .trap _ _ => squashYounger s c

/-- An effect waits until the PHASEs before it in its block are finished: what reaches memory, its homes or other parties
(R264, R267, R389). Jobs and matrix commands enter their queues, and start when the PHASEs are. -/
def putOff (e : Effect) : Bool :=
  match e with
  | .store _ _ _ _ | .countFill _ _ _ _ | .consume _ _ | .stq _ _ _ | .phase _ | .rangeWb _ _ | .trel _ | .thfree _
  | .coll _ _ _ | .launch _ => true
  | _ => false

/-- An effect waits behind a PHASE of its block; the handle of a THFREE is retiring meanwhile (R301). -/
def deferEffect (c : CtxId) (core : Nat) (blk : Word) (s : State) (p : Pending) : State :=
  let s := match p.eff with
    | .thfree h => holdHandle s c h.toNat
    | _ => s
  modCtx s c (fun x => { x with late := x.late ++ [(core, blk, p)] })

/-- An effect takes place, or waits behind a PHASE of its block. -/
def applyInOrder (c : CtxId) (core : Nat) (blk : Word) (s : State) (p : Pending) : State :=
  if phasing (ctxAt s c) && putOff p.eff then deferEffect c core blk s p else applyEffect c core blk s p

/-- The effects of a tag take place. A release of WRITE tenure first publishes the stores of earlier blocks (R296). -/
def applyEffects (s : State) (c : CtxId) (core : Nat) (blk : Word) (ps : List Pending) : State :=
  let releases := ps.any (fun p => match p.eff with
    | .trel h => releasesWrite s c h.toNat
    | _ => false)
  let s := if releases then publish s c 2 blk else s
  ps.foldl (applyInOrder c core blk) s

/-- Flags and draws of a tag enter FPSTAT and SEED before any SETC of the same step (R73, R74, R77). -/
def commitFlags (s : State) (c : CtxId) (fr : Frame) (tag : Tag) (draws : Nat) : State :=
  let fl := (fr.flags.filter (·.1 == tag)).foldl (fun (a : BitVec 6) e => a ||| e.2) 0
  modCtx s c (fun x => { x with fpstat := x.fpstat ||| fl.setWidth 64,
                                seed := (afterDraws draws (x.seed.setWidth 32)).setWidth 64 })

/-! ## The commit of a block (R25, R27) -/

/-- A final instruction of a pinned block rounds stochastically. -/
def finalDraws (fr : Frame) (round : Word) : Nat :=
  if (instrs fr).any (fun e => isFinal fr e.1 && isStochastic round e.2) then drawsOf fr round else 0

/-- A block is complete (R25); a pinned one when its final phase has nothing left to do (R152). DEDUCED (log entry 79): what is
ready, or comes, is neither waiting nor without a place to go, so completion waits for it; else the state committed would
depend on latency (R11). Its reservations are not granted while a PHASE of the thread, or what follows one, is to be finished
(R28, R264). -/
def blockComplete (s : State) (c : CtxId) (fr : Frame) : Bool :=
  fr.mapped && !phasing (ctxAt s c) && fr.waiting.isEmpty && (dueFaults fr).isEmpty && !frameActive s c fr 0
    && (if isPinned fr then fr.finalPh && allResolved fr .final
        else !fr.exits.isEmpty && (wSlots fr).all (fun w => fr.wslots.any (·.1 = w)) && allResolved fr (.iter 0))

/-- The oldest iteration of a follower is above the one with which its leader left the block: the follower departs at the leader's
commit, and from then on fires its own uniform instructions for it (R159). -/
def pastLeader (x : Ctx) (fr : Frame) : Bool :=
  isPinned fr && !fr.finalPh && x.lexits.any (fun e => e.1 = fr.pos && (match e.2.tag with
    | .iter k => decide (k < fr.iter)
    | _ => false))

/-- The leader of a follower can still act in its block at a frame's position, for the follower's oldest iteration or an older
one, or has still to part from it (R159). DEDUCED (log entry 79): its uniform results are then still to come (R145), as tokens
on their way. -/
def leaderActive (s : State) (c : CtxId) (fr : Frame) : Bool :=
  let x := ctxAt s c
  let lead := mate s c x.lead
  x.course == .follower && fr.follows && (pastLeader x fr || (threadAt s lead).frames.zipIdx.any (fun (g, n) =>
    g.pos = fr.pos && g.mapped && (fr.finalPh || !isPinned fr || (!g.finalPh && g.iter ≤ fr.iter))
      && (phasing (threadAt s lead) || frameActive s lead.c g n)))

/-- A follower commits after its leader's block at the same position has fired its exit (R143). -/
def leaderDone (s : State) (c : CtxId) (fr : Frame) : Bool :=
  let x := ctxAt s c
  x.course != .follower || (x.lexits.any (·.1 = fr.pos) && !leaderActive s c fr)

/-- The registers that a block writes (R19). -/
def committedWrites (fr : Frame) : List (Nat × Wide) :=
  (wSlots fr).filterMap (fun w => match fr.wslots.find? (·.1 = w) with
    | some (_, t) => if t.null then none else some (writeDest fr w, t.value)
    | none => none)

/-- Mapped blocks that read a shared register see what an older block wrote (R18). -/
def passShared (ws : List (Nat × Wide)) (fr : Frame) : Frame :=
  { fr with shared := fr.shared.map (fun e => match ws.find? (·.1 = e.1) with
      | some q => q
      | none => e) }

/-- The frame is freed and the next block becomes the oldest (R27 step 4). -/
def dropOldest (s : State) (c : CtxId) (fr : Frame) (target : Word) : State :=
  let ws := committedWrites fr
  let s := modCtx s c (fun x =>
    let rest := (x.frames.drop 1).map (passShared ws)
    { x with
      frames := listSet rest 0 (fun g => { g with before := (x.round, x.seed, x.fpstat) })
      next := target
      pos := x.pos + 1
      log := []
      pinned := none
      watch := none
      tenWait := none
      gbarWait := none
      accWait := []
      cwait := none
      walk := none
      discWait := []
      passed := false
      fwd := x.fwd.filter (fun e => e.1 ≠ fr.pos)
      lexits := x.lexits.filter (fun e => e.1 ≠ fr.pos)
      utoks := x.utoks.filter (fun e => e.1 ≠ fr.pos) })
  let s := match (ctxAt s c).launch with
    | some (_, lid) => modPartOf s c (fun p => { p with launches := p.launches.map (fun l =>
        if l.lid = lid then { l with reported := false } else l) })
    | none => s
  endHolds s c

/-- A member is waiting at a muster address. -/
def waitsAt (addr : Word) (x : Ctx) : Bool := x.course == .waiting addr

/-- The members that wait at a muster address in the committing member's set (R148). -/
def waitingAt (s : State) (c : CtxId) (addr : Word) : List Nat := (mates s c).filter (fun k => waitsAt addr (mateAt s c k))

/-- A member takes its place in a course that is formed at a position (R147, R148): the lowest leads. The blocks from the
position on are fetched and forwarded again. DESIGN CHOICE (log entry 71): a member that is Saved takes part too. -/
def joinCourse (c : CtxId) (low pos : Nat) (alone : Bool) (s : State) (k : Nat) : State :=
  modMate (dropFrom c pos s k) c k (fun x =>
    let woken := match x.course with
      | .waiting _ => true
      | _ => false
    { x with course := if alone then .solo else if k = low then .leader else .follower
             lead := if alone then 0 else low
             pos := if woken then pos else x.pos
             passed := woken || x.pos = pos
             ready := x.ready || (woken && !x.stopped)
             readyHeld := x.readyHeld || (woken && x.stopped) })

/-- Members re-form a course. -/
def reform (s : State) (c : CtxId) (members : List Nat) (pos : Nat) : State :=
  members.foldl (joinCourse c (members.foldl min (2 ^ 20)) pos (members.length ≤ 1)) s

/-- A muster-check exit completes the muster it reaches (R148). -/
def musterCheck (s : State) (c : CtxId) (target : Word) : State :=
  let x := ctxAt s c
  if (coreAt s c.core).kind ≠ 2 || x.course == .follower then s
  else
    match fetchLine s (whoOf s c) target with
    | .error _ => s
    | .ok ws =>
      if !(ws.getD 0 0).toNat.testBit 47 then s
      else
        let mine := c.core :: (if x.course == .leader then followersOf s c.core else [])
        reform s c (mine ++ waitingAt s c target) x.pos

/-- A follower stays in its course or departs at its commit (R143, R146). -/
def followCourse (s : State) (c : CtxId) (lead : Option ExitRec) (target : Word) : State :=
  if (ctxAt s c).course != .follower || lead.any (·.target = target) then s
  else leaveCourse (squashFrom s c 0) c .solo

/-- The block has left by an iteration (R154). -/
def leftBy (t : Nat) (fr : Frame) : Bool :=
  fr.exits.any (fun e => match e.tag with
    | .iter k => decide (k ≤ t)
    | _ => false)

/-- A follower that has committed the iteration with which its leader left a pinned block, and has not left, departs
(R159). -/
def departBehind (pos t : Nat) (s : State) (k : Nat) : State :=
  match frameAt s ⟨k, 0⟩ 0 with
  | some g => if g.pos = pos && isPinned g && t < g.iter && !leftBy t g then leaveCourse (squashFrom s ⟨k, 0⟩ 0) ⟨k, 0⟩ .solo else s
  | none => s

/-- A leader's commit of a pinned block parts it from the followers that go on with it (R159). -/
def partBehind (s : State) (c : CtxId) (fr : Frame) (e : ExitRec) : State :=
  match (ctxAt s c).course, e.tag with
  | .leader, .iter t => (followersOf s c.core).foldl (departBehind fr.pos t) s
  | _, _ => s

/-- A thread ends at its commit, or behind the PHASEs of its last block, and what follows them there: till then its context is
Draining (R176, R239, R264). -/
def endAfter (s : State) (c : CtxId) (p : Pending) : State :=
  let s := squashFrom s c 0
  if phasing (ctxAt s c) then
    modCtx s c (fun x => { x with st := .draining, ready := false, late := x.late ++ [(c.core, 0, p)] })
  else quitThread s c

/-- What follows the commit step of a block: the end or the stop of its thread (R176, R177, R188, R202, R239). Of several
TRAPs the first in commit order is raised, and none beside QUIT or TDONE (DESIGN CHOICE, log entry 91). Its record names it in
INDEX (R194), and no iteration (DEDUCED, log entry 107). -/
def afterCommit (s : State) (c : CtxId) (ps : List Pending) : State :=
  let has := fun (t : Effect → Bool) => ps.any (fun p => t p.eff)
  match ps.find? (fun p => isEnd p.eff) with
  | some p => endAfter s c p
  | none =>
    let s := if has (fun e => match e with
        | .yield_ => true
        | _ => false) then modCtx s c (fun x => { x with yielding := true }) else s
    match ps.findSome? (fun p => match p.eff with
        | .trap code arg => some (p.idx, code, arg)
        | _ => none) with
    | some (idx, code, arg) =>
      stopContext s c { cls := clsTrap, cause := code, idx := idx, block := (ctxAt s c).next, arg := arg }
    | none => if (ctxAt s c).asyncs.isEmpty then s else haltContext (squashCourse s c 0) c

/-- The commit step (R27) of the oldest block, whose exit is known. -/
def commitBlock (s : State) (c : CtxId) (fr : Frame) (tag : Tag) (e : ExitRec) : State :=
  let core := execCore c fr s
  let ps := orderedEffects fr tag
  let draws := if isPinned fr then finalDraws fr (blockRound (ctxAt s c) fr) else drawsOf fr (blockRound (ctxAt s c) fr)
  let s := (committedWrites fr).foldl (fun s q => writeReg s c q.1 q.2) s
  let s := applyEffects (commitFlags s c fr tag draws) c core fr.addr ps
  let lead := ((ctxAt s c).lexits.find? (·.1 = fr.pos)).map (·.2)
  let s := followCourse (dropOldest (partBehind s c fr e) c fr e.target) c lead e.target
  let s := if e.mchk then musterCheck s c e.target else s
  settle (afterCommit s c ps)

/-- The instructions of a block behind which its loads fire again, by LSID, and whether they invalidate the context's clean
lines (R264, R325): a PHASE of cluster scope in a fused cluster does not. -/
def acquisitions (s : State) (c : CtxId) (ps : List Pending) : List (Nat × Bool) :=
  ps.filterMap (fun p => match p.eff with
    | .phase scope => some (p.lsid.getD 0, !(scope = 0 && 1 < (l1Group s c.core).length))
    | .rangeWb _ true => some (p.lsid.getD 0, true)
    | _ => none)

/-- Some load of the oldest block follows such an instruction, fired before it and found a byte that it would not find now
(R264); behind an invalidation, what stands at the point of coherence will do too. -/
def staleBehind (s : State) (c : CtxId) (core : Nat) (fr : Frame) (tag : Tag) (q : Nat × Bool) : Bool :=
  let w := execCoreWho s c core
  let s' := if q.2 then acquire s c 3 else s
  fr.loads.any (fun r => r.tag == tag && q.1 < r.lsid
    && ((loadBytes s w 0 tag r.lsid true r.locs).zip ((loadBytes s' w 0 tag r.lsid false r.locs).zip r.bytes)).any
      (fun e => !(q.2 && e.2.2 == e.1) && e.2.2 != e.2.1))

def staleLoads (s : State) (c : CtxId) (core : Nat) (fr : Frame) (tag : Tag) (ps : List Pending) : List (Nat × Bool) :=
  (acquisitions s c ps).filter (staleBehind s c core fr tag)

/-- The oldest block fires again, where an instruction of some invalidates with the clean lines of its context gone. -/
def refireStale (s : State) (c : CtxId) (qs : List (Nat × Bool)) : State :=
  restartAt (if qs.any (·.2) then acquire s c 3 else s) c 0 []

/-- The commit of some effects of the oldest block: a fault of the reservation, a wait, loads that fire again, or the commit
step. -/
def tryCommit (s : State) (c : CtxId) (fr : Frame) (tag : Tag) (ps : List Pending) (commit : State) : State :=
  let core := execCore c fr s
  match reserveFaults s c core ps with
  | [] =>
    if reserveWaits s c core ps then holdReservations s c ps
    else if !(staleLoads s c core fr tag ps).isEmpty then refireStale s c (staleLoads s c core fr tag ps)
    else commit
  | fs => modFrame s c 0 (fun fr => { fr with faults := fr.faults ++ fs })

/-- BLOCK_COMMIT (R27). -/
def execBlockCommit (c : CtxId) (s : State) : Result :=
  let x := ctxAt s c
  .next (match x.frames with
    | [] => s
    | fr :: _ =>
      let tag : Tag := if isPinned fr then .final else .iter 0
      let ps := orderedEffects fr tag
      if x.st != .running || !blockComplete s c fr || !leaderDone s c fr then s
      else
        match fr.exits with
        | e :: _ => tryCommit s c fr tag ps (commitBlock s c fr tag e)
        | [] => s)

/-! ## The commit of an iteration (R153, R154) -/

/-- An ISECT or a stream load has yet to emit for an iteration (R120, R153). DEDUCED (log entry 28): one that has emitted its
stop of level 3 owes nothing more, so a later iteration, whose consumers wait for it in vain, may commit without them. -/
def streamOwes (fr : Frame) (t : Nat) : Bool :=
  (instrs fr).any (fun e => match e.2 with
    | .lds _ =>
      match streamNow fr e.1 with
      | some q => !q.done && q.k ≤ t
      | none => true
    | .isect _ => !followsAt fr e.2 && !(isectNow fr e.1).done && (isectNow fr e.1).k ≤ t
    | _ => false)

/-- A token that the oldest iteration waits for is on its way: one of its own, a read value that every iteration uses (R153), or a
final token that the leader sent for it (R158). -/
def tokensDue (x : Ctx) (fr : Frame) : Bool :=
  fr.flight.any (fun f => f.tag == .iter fr.iter || f.tag == .persist)
    || x.utoks.any (fun u => u.1 = fr.pos && (u.2.tag == .iter fr.iter || (u.2.tag == .final && u.2.src == some fr.iter)))

/-- The oldest open iteration may commit. -/
def iterationDone (s : State) (c : CtxId) (fr : Frame) : Bool :=
  let x := ctxAt s c
  let tag : Tag := .iter fr.iter
  fr.mapped && isPinned fr && !fr.finalPh && !phasing x && (dueFaults fr).isEmpty && fr.reads.isEmpty
    && allResolved fr tag && !fr.waiting.any (·.2 == tag) && !tokensDue x fr
    && !streamOwes fr fr.iter && !leaderActive s c fr
    && (instrs fr).all (fun e => match e.2 with
        | .lds _ | .isect _ => true
        | i => readyAt x fr 0 e.1 tag i == .wait)

/-- The latest record of a producer stays, and those of open iterations. -/
def keepStreams (t : Nat) (fr : Frame) : Frame :=
  { fr with streams := fr.streams.filter (fun q => t ≤ q.k || streamNow fr q.idx == some q)
            isects := fr.isects.filter (fun q => t ≤ q.k || isectNow fr q.idx == q) }

/-- A final token of a committed iteration replaces the older one for its destination (R152). -/
def keepOuts (t : Nat) (fr : Frame) : Frame :=
  (fr.outs.filter (·.1 = t)).foldl (fun fr o => keepFinal fr o.2) { fr with outs := fr.outs.filter (·.1 ≠ t) }

/-- A stream token that an ISECT had consumed before an iteration began: no squash brings it back (R157). -/
def spentHead (fr : Frame) (t : Nat) (o : Operand) : Bool :=
  let before := fr.isects.filter (fun q => q.idx == o.idx && q.k ≤ t)
  isHead fr o.idx && o.slot != .p && (match o.tag with
    | .iter m => before.any (fun q => m < (if o.slot == .a then q.na else q.nb))
    | _ => false)

/-- A frame after its oldest open iteration has committed. Stream tokens at their heads go by number. -/
def pastIteration (t : Nat) (fr : Frame) : Frame :=
  let tag : Tag := .iter t
  let spent := spentHead fr (t + 1)
  let fr := keepStreams (t + 1) (keepOuts t fr)
  { fr with
    ops := fr.ops.filter (fun o => !spent o && (o.tag != tag || (isHead fr o.idx && o.slot != .p)))
    fired := fr.fired.filter (fun e => e.2 != tag)
    against := fr.against.filter (fun e => e.2 != tag)
    effects := fr.effects.filter (fun p => p.tag != tag)
    flags := fr.flags.filter (fun e => e.1 != tag)
    loads := fr.loads.filter (fun r => r.tag != tag)
    reserved := fr.reserved.filter (fun r => r.1 != tag)
    accs := fr.accs.filter (fun q => t < q.tag)
    iter := t + 1 }

/-- The final phase begins: what was meant for later iterations is discarded, and the kept tokens are delivered (R152,
R154). -/
def beginFinal (e : ExitRec) (fr : Frame) : Frame :=
  { fr with finalPh := true, exits := [e], ops := fr.ops.filter (fun o => !isIter o.tag)
            flight := fr.flight.filter (fun f => !isIter f.tag) ++ fr.kept }

/-- A follower that commits the iteration with which its leader left the pinned block, and does not leave, departs once the
leader's block has committed (R159). -/
def departPinned (s : State) (c : CtxId) (fr : Frame) (t : Nat) : State :=
  let x := ctxAt s c
  let past := x.lexits.any (fun e => e.1 = fr.pos && (match e.2.tag with
    | .iter k => decide (k ≤ t)
    | _ => false))
  if x.course == .follower && past && fr.pos < (mateAt s c x.lead).pos then leaveCourse (squashFrom s c 0) c .solo else s

/-- The bytes that the iterations of a frame from t on would have stored. -/
def droppedBytes (fr : Frame) (t : Nat) : List Loc :=
  (fr.effects.filter (fun p => (iterOf p.tag).any (t ≤ ·))).flatMap (fun p => (effectBytes p.eff).map (·.1))

/-- A pinned block has left: loads of younger blocks that found bytes of the iterations it discards, and would not find them now,
fire again (R23, R24, R154). -/
def reloadBehind (s : State) (c : CtxId) (ls : List Loc) : State :=
  let w := whoOf s c
  match laterLoads (ctxAt s c) 0 .final (2 ^ 32) (fun m r => r.locs.any (fun l => ls.any (sameByte l)) && wouldDiffer s w m r) with
  | some (m, _) => restartAt s c m []
  | none => s

/-- The commit of iteration t of a pinned block: its effects, and the leave or the next iteration. -/
def commitIteration (s : State) (c : CtxId) (fr : Frame) (ps : List Pending) : State :=
  let t := fr.iter
  let s := commitFlags s c fr (.iter t) (drawsOf fr (blockRound (ctxAt s c) fr))
  let stores := ps.any (fun p => match p.eff with
    | .phase _ | .rangeWb _ true | .launch _ => true
    | _ => false)
  let s := applyEffects s c (execCore c fr s) fr.addr ps
  let s := modCtx s c (fun x => { x with log := x.log.filter (fun e => e.tag != .iter t), watch := none, accWait := [] })
  let s := modFrame s c 0 (pastIteration t)
  match fr.exits.find? (·.tag == .iter t) with
  | some e =>
    let s := modFrame (discardIters s c 0 (t + 1)) c 0 (beginFinal e)
    reloadBehind (tellExit (followExit s c 0 e.target) c fr.pos e) c (droppedBytes fr (t + 1))
  | none =>
    let s := if stores then discardIters s c 0 (t + 1) else s
    if iterLimit fr ≠ 0 && t + 1 = iterLimit fr then
      modFrame s c 0 (fun fr => { fr with faults := fr.faults ++ [⟨clsBlockIncomplete, 0x02, 0, false, .persist, 0, 0⟩] })
    else departPinned s c fr t

/-- ITERATION_COMMIT (R153). -/
def execIterationCommit (c : CtxId) (s : State) : Result :=
  let x := ctxAt s c
  .next (match x.frames with
    | [] => s
    | fr :: _ =>
      let ps := orderedEffects fr (.iter fr.iter)
      if x.st != .running || !iterationDone s c fr then s
      else
        tryCommit s c fr (.iter fr.iter) ps (settle (afterCommit (commitIteration s c fr ps) c ps)))

/-! ## Faults of the oldest block (R29, R30, R202) -/

/-- FAULT_TAKEN (R29): the fault of the oldest block, or the stop that an asynchronous record asks for (R202). -/
def execFaultTaken (c : CtxId) (s : State) : Result :=
  let x := ctxAt s c
  .next (if x.st != .running && x.st != .parked then s
    else if !x.asyncs.isEmpty then haltContext (squashCourse s c 0) c
    else
      match x.frames with
      | [] => s
      | fr :: _ =>
        if x.st != .running then s
        else
          match firstFault (dueFaults fr) with
          | some f => stopContext s c (faultArgs fr f)
          | none => s)

/-- BLOCK_INCOMPLETE_TIMEOUT (R30). -/
def execBlockIncompleteTimeout (c : CtxId) (s : State) : Result :=
  let x := ctxAt s c
  .next (match x.frames with
    | [] => s
    | fr :: _ =>
      let late := !leaderDone s c fr
      if x.st != .running || !fr.mapped || !(dueFaults fr).isEmpty || !fr.waiting.isEmpty || frameActive s c fr 0
          || blockComplete s c fr || iterationDone s c fr || phasing x || outstanding s c fr || late then s
      else stopContext s c (faultArgs fr ⟨clsBlockIncomplete, 0x01, 0, false, .persist, 0, 0⟩))

/-! ## Parking (R122, R130) -/

/-- A course member waits at a muster. -/
def atMuster (x : Ctx) : Bool :=
  match x.course with
  | .waiting _ => true
  | _ => false

/-- CONTEXT_PARK (R122): the oldest block waits only on external events. -/
def execContextPark (c : CtxId) (s : State) : Result :=
  let x := ctxAt s c
  .next (if x.st != .running then s
    else
      match x.frames with
      | [] => if atMuster x then modCtx s c (fun x => { x with st := .parked }) else s
      | fr :: _ =>
        if !fr.mapped || fr.waiting.isEmpty || !(dueFaults fr).isEmpty || frameActive s c fr 0 || blockComplete s c fr
            || iterationDone s c fr then s
        else parkContext s c)

/-- CONTEXT_UNPARK (R122): the ready bit stays until the context is next granted a frame. -/
def execContextUnpark (c : CtxId) (s : State) : Result :=
  let x := ctxAt s c
  .next (if x.st == .parked && mayWake s x then
      modCtx s c (fun x => { x with st := .running })
    else s)

/-- YIELD_EXPIRY (R177). -/
def execYieldExpiry (c : CtxId) (s : State) : Result := .next (modCtx s c (fun x => { x with yielding := false }))

/-! ## Repartition (R123, R124) -/

/-- The register file in a new layout: contexts below n keep what both layouts hold. -/
def repartRegs (regs : Tab Wide) (old new : Nat) : Tab Wide :=
  let r0 := regsPerCtx old
  let r1 := regsPerCtx new
  (List.range (min old new)).foldl (fun t c =>
    (List.range (min r0 r1)).foldl (fun t i => tabSet 0 t (r1 * c + i) (tabGet 0 regs (r0 * c + i))) t) []

/-- The core takes a new layout. -/
def setLayout (n : Nat) (k : Core) : Core := { k with contexts := n, regs := repartRegs k.regs k.contexts n }

/-- REPART_APPLY (R124). -/
def execRepartApply (core : Nat) (s : State) : Result :=
  let k := coreAt s core
  .next (match k.repartBy with
    | none => s
    | some (by_, n) =>
      if k.ctxs.any (fun e => !e.2.frames.isEmpty || phasing e.2) || k.journal.any (·.state = 1) || !k.jobs.isEmpty || !k.mq.isEmpty then s
      else
        let refuse := n ≤ by_ || k.ctxs.any (fun e => n ≤ e.1 && e.2.st != .free)
        modCore s core (fun k =>
          { (if refuse then k else setLayout n k) with refused := refuse, pend := false, repartBy := none }))

/-! ## Musters (R147) -/

/-- A muster of one course set completes when every member that has not quit has arrived (R147); `core` is a member of it that
stands in its place. -/
def completeMuster (addr : Word) (s : State) (core : Nat) : State :=
  let c : CtxId := ⟨core, 0⟩
  let ms := (core :: mates s c).filter (fun k => (mateAt s c k).course != .quit)
  if (coreAt s core).kind ≠ 2 || !waitsAt addr (ctxAt s c) || !ms.all (fun k => waitsAt addr (mateAt s c k)) then s
  else reform s c ms ((ms.map (fun k => (mateAt s c k).pos)).foldl max 0)

/-- MUSTER_COMPLETE (R147). -/
def execMusterComplete (cluster : Nat) (address : Word) (s : State) : Result :=
  .next (((List.range 8).map (fun k => 8 * cluster + k)).foldl (completeMuster address) s)

/-! ## The end of a PHASE (R264) -/

/-- An effect that waited behind a PHASE cannot take place yet: a count fill waits for its line's units, and for a way (R273);
the end of a thread that has been saved meanwhile, for its restore. -/
def lateWaits (s : State) (c : CtxId) (e : Effect) : Bool :=
  match e with
  | .countFill l _ _ _ => (countAt s l).2 ≠ 0 || noWay s l
  | .quit | .taskDone => (ctxAt s c).st == .saved
  | _ => false

/-- The effects of a list, which waited behind a PHASE, take place in their order, as far as they can: up to the next PHASE among
them. The scratchpad stores among them reach their banks, for jobs and matrix commands that entered with them. -/
def applyLate (c : CtxId) : List (Nat × Word × Pending) → State → State
  | [], s => s
  | (core, blk, p) :: rest, s =>
    if !(ctxAt s c).phases.isEmpty || lateWaits s c p.eff then s
    else
      let s := modCtx s c (fun x => { x with late := rest })
      if isEnd p.eff then quitThread s c
      else
        let s := applyEffect c core blk s p
        applyLate c rest (if rest.isEmpty then drainOwn s c else s)

/-- PHASE_COMPLETE (R264 steps 3 and 4), and what waited behind it. -/
def execPhaseComplete (c : CtxId) (s : State) : Result :=
  .next (match (ctxAt s c).phases with
    | [] => applyLate c (ctxAt s c).late s
    | scope :: rest =>
      if scope = 3 && postedLeft s c then s
      else
        let s := modCtx (acquire s c scope) c (fun x => { x with phases := rest })
        applyLate c (ctxAt s c).late s)

end Sys2Proof.Machine
end

