-- ==== Sys2Proof/Machine/Compare.lean ====
section
/-! DEFINITION. Class 0x2, compares and predicates (R96 to R98): the value of each instruction on its operands, and
its meaning. -/

namespace Sys2Proof.Machine

open Sys2Proof

/-- A predicate token value, or a lane mask in the wide form (R96). -/
def relation (f : GFields) (a b : Wide) (r : Nat → Nat → Bool) : Wide × BitVec 6 :=
  let w := f.ty.width
  let t := fun i => r (laneN w a i) (bLane f b i)
  plain (if f.wide then fromLanes w (laneCount w) (fun i => if t i then 2 ^ w - 1 else 0) else if t 0 then 1 else 0)

/-- The order of two lanes of a type: an integer order, or a floating-point one in which NaN gives `nanGives`. -/
def ordered (ty : ElemType) (nanGives : Bool) (r : Int → Bool) (x y : Nat) : Bool :=
  if expBits ty = 0 then
    let a := readInt ty x
    let b := readInt ty y
    r (if a < b then -1 else if a = b then 0 else 1)
  else relF ty x y nanGives r

def valCeq (f : GFields) (a b : Wide) : Wide × BitVec 6 := relation f a b (ordered f.ty false (· == 0))
def valCne (f : GFields) (a b : Wide) : Wide × BitVec 6 := relation f a b (ordered f.ty true (· != 0))
def valClt (f : GFields) (a b : Wide) : Wide × BitVec 6 := relation f a b (ordered f.ty false (· < 0))
def valCle (f : GFields) (a b : Wide) : Wide × BitVec 6 := relation f a b (ordered f.ty false (· ≤ 0))
def valCgt (f : GFields) (a b : Wide) : Wide × BitVec 6 := relation f a b (ordered f.ty false (0 < ·))
def valCge (f : GFields) (a b : Wide) : Wide × BitVec 6 := relation f a b (ordered f.ty false (0 ≤ ·))
def valCuo (f : GFields) (a b : Wide) : Wide × BitVec 6 :=
  relation f a b (fun x y => isNaN (readF f.ty x) || isNaN (readF f.ty y))
def valTestz (f : GFields) (a b : Wide) : Wide × BitVec 6 := relation f a b (fun x y => x &&& y == 0)
def valTestnz (f : GFields) (a b : Wide) : Wide × BitVec 6 := relation f a b (fun x y => x &&& y != 0)

/-- A predicate operation on bit 0, or on all 512 bits (R98). -/
def predOp (f : GFields) (v : Wide) : Wide × BitVec 6 := plain (if f.wide then v else v &&& 1)

/-- The lanes of a token. -/
def lanesOf (ty : ElemType) (a : Wide) : List Nat := (List.range (laneCount ty.width)).map (laneN ty.width a)

def valAnyl (f : GFields) (a : Wide) : Wide × BitVec 6 := plain (if (lanesOf f.ty a).any (· != 0) then 1 else 0)
def valAlll (f : GFields) (a : Wide) : Wide × BitVec 6 := plain (if (lanesOf f.ty a).all (· != 0) then 1 else 0)

/-- CMASK (R98). -/
def valCmask (f : GFields) (a : Wide) : Wide × BitVec 6 :=
  let src := if f.imm then immN f else laneN 64 a 0
  let w := f.ty.width
  plain (fromLanes w (laneCount w) (fun i => if src.testBit i then 2 ^ w - 1 else 0))

/-! ## Meanings -/

/-- CEQ (R96). -/
def execCeq (f : GFields) (s : State) : Result := compute (.ceq f) s (fun _ a b _ => valCeq f a b)
/-- CNE (R96). -/
def execCne (f : GFields) (s : State) : Result := compute (.cne f) s (fun _ a b _ => valCne f a b)
/-- CLT (R96). -/
def execClt (f : GFields) (s : State) : Result := compute (.clt f) s (fun _ a b _ => valClt f a b)
/-- CLE (R96). -/
def execCle (f : GFields) (s : State) : Result := compute (.cle f) s (fun _ a b _ => valCle f a b)
/-- CGT (R96). -/
def execCgt (f : GFields) (s : State) : Result := compute (.cgt f) s (fun _ a b _ => valCgt f a b)
/-- CGE (R96). -/
def execCge (f : GFields) (s : State) : Result := compute (.cge f) s (fun _ a b _ => valCge f a b)
/-- CUO (R97). -/
def execCuo (f : GFields) (s : State) : Result := compute (.cuo f) s (fun _ a b _ => valCuo f a b)
/-- TESTZ (R96). -/
def execTestz (f : GFields) (s : State) : Result := compute (.testz f) s (fun _ a b _ => valTestz f a b)
/-- TESTNZ (R96). -/
def execTestnz (f : GFields) (s : State) : Result := compute (.testnz f) s (fun _ a b _ => valTestnz f a b)
/-- PAND (R98). -/
def execPand (f : GFields) (s : State) : Result := compute (.pand f) s (fun _ a b _ => predOp f (a &&& b))
/-- POR (R98). -/
def execPor (f : GFields) (s : State) : Result := compute (.por f) s (fun _ a b _ => predOp f (a ||| b))
/-- PXOR (R98). -/
def execPxor (f : GFields) (s : State) : Result := compute (.pxor f) s (fun _ a b _ => predOp f (a ^^^ b))
/-- PNOT (R98). -/
def execPnot (f : GFields) (s : State) : Result := compute (.pnot f) s (fun _ a _ _ => predOp f (~~~a))
/-- ANYL (R98). -/
def execAnyl (f : GFields) (s : State) : Result := compute (.anyl f) s (fun _ a _ _ => valAnyl f a)
/-- ALLL (R98). -/
def execAlll (f : GFields) (s : State) : Result := compute (.alll f) s (fun _ a _ _ => valAlll f a)
/-- CMASK (R98). -/
def execCmask (f : GFields) (s : State) : Result := compute (.cmask f) s (fun _ a _ _ => valCmask f a)

end Sys2Proof.Machine
end

