-- ==== Sys2Proof/Machine/DieEvents.lean ====
section
/-! DEFINITION. What the die's memory system does of itself: evictions (R257, R262, R272, R329), tenure (R268, R302), the end of
a counted region (R276), page walks and invalidations (R257, R281, R282), and accesses that come from the host and from other
modules (R370, R386, R393). -/

namespace Sys2Proof.Machine

open Sys2Proof

/-! ## Evictions -/

/-- L1_EVICTION (R262): the dirty bytes of a line go home, and its clean copy goes. A line of pending scratchpad stores stands
for all of its core, which reach their banks. -/
def execL1Eviction (core line : Nat) (s : State) : Result :=
  .next (if spadBase ≤ 64 * line then drainSpad s core (fun _ => true)
    else
      let r := carryHome s core (fun k => k / 64 = line) none
      modCore (asyncRecords r.1 r.2) core (fun k => { k with clean := tabDel line k.clean }))

/-- L2_EVICTION (R272): a counted line is pinned. -/
def execL2Eviction (line : Nat) (s : State) : Result := .next (if (l2At s line).n ≠ 0 then s else writeBack s line)

/-- NODE_CACHE_EVICTION (R329): the two nodes of a line are written at their home. -/
def execNodeCacheEviction (die arena node : Nat) (s : State) : Result :=
  .next (match (dieAt s die).arenas.find? (·.id = arena) with
    | none => s
    | some a => writeNodes s a ([node / 2 * 2, node / 2 * 2 + 1].filter (· < a.cap)))

/-! ## Tenure (R268, R302) -/

/-- What the home says to a waiting acquire whose turn has come. -/
inductive Answer where
  | grant
  | refuse (status : Nat)
  deriving DecidableEq, Repr

/-- The answer to an acquire that no earlier one holds back, where the home can give one (R290 to R292). -/
def answerFor (s : State) (p : Part) (a : Acquire) (h : Handle) : Option Answer :=
  if h.st ≠ 1 then none
  else if (tenureOf h a.holder).isSome then some (.refuse 0x01)
  else if 32 ≤ tenuresHeld p a.holder then some (.refuse 0x03)
  else if admitted p a.holder h a.kind a.op a.fmt && tenureRoom s h then some .grant
  else none

/-- The first waiting acquire that no earlier one holds back and that is answered (R291, R292). -/
def answerable (s : State) (p : Part) : List Acquire → List Acquire → Option (Acquire × Handle × Answer)
  | _, [] => none
  | before, a :: rest =>
    match p.handles.find? (·.idx = a.handle) with
    | none => answerable s p (before ++ [a]) rest
    | some h =>
      match (if before.any (fun b => waitsOver p b h) then none else answerFor s p a h) with
      | some v => some (a, h, v)
      | none => answerable s p (before ++ [a]) rest

/-- An answer reaches the requester: a waiting TACQ is answered, and acquires where it is granted; a job reads its source, or
suspends (R219, R306). -/
def deliverAnswer (s : State) (a : Acquire) (p : Part) (h : Handle) (v : Answer) : State :=
  match a.job, v with
  | some (core, seq), .grant => modJob s core seq (fun j => { j with held := true })
  | some (core, seq), .refuse _ =>
    match jobAt s core seq with
    | some j => suspendStart s core j clsTenureConflict 0x08 (BitVec.ofNat 64 (handleNum h))
    | none => s
  | none, v =>
    let w := match v with
      | .grant => grantWord p a.kind (handleNum h)
      | .refuse st => acqWord st 0 0 (handleNum h)
    let s := answerLater a.ctx a.idx a.tag (some (w.setWidth 512)) w (modCtx s a.ctx (fun x => { x with tenWait := none }))
    if v = .grant then acquireEffect s a.ctx 2 a.tag a.lsid else s

/-- The home serves its queue (R292, R302). -/
def serveQueue (s : State) (die part : Nat) : State :=
  let p := partAt s die part
  match answerable s p [] p.acquires with
  | none => s
  | some (a, h, v) =>
    let s := modPart s die part (fun p => { p with acquires := p.acquires.erase a })
    deliverAnswer (if v = .grant then grantTenure s die part h a.holder a.kind a.op a.fmt else s) a p h v

/-- TENURE_GRANT (R302). A handle that a squash has made live again is mirrored first (R287, R301). DESIGN CHOICE (log
entry 66): when that is. -/
def execTenureGrant (die part : Nat) (s : State) : Result :=
  .next (match (partAt s die part).handles.find? (·.due) with
    | some h => mirror (modHandle s die part h.idx (fun q => { q with due := false })) die part h.idx (descWords h h.gen 1)
    | none => serveQueue s die part)

/-- LEASE_EXPIRY (R268, R293): the tenure lapses and its holder's copies go. -/
def execLeaseExpiry (die part handle holder : Nat) (s : State) : Result :=
  .next (match (partAt s die part).handles.find? (fun h => h.idx = handle && (tenureOf h holder).any (fun t => t.kind = 1 && !t.lapsed)) with
    | none => s
    | some h =>
      let ends := tabGet 0 (dieAt s h.die).leaseBase h.slice + ((tenureOf h holder).map (·.leaseAt)).getD 0
      let s := modDie s h.die (fun d => { d with leaseNow := tabSet 0 d.leaseNow h.slice (max ends (tabGet 0 d.leaseNow h.slice)) })
      let s := modHandle s die part handle (fun h => { h with tens := h.tens.map (fun t =>
        if t.holder = holder && t.kind = 1 then { t with lapsed := true, leaseAt := 0 } else t) })
      dropSpan s die part (holderCore s die part holder) h.lo h.hi)

/-! ## Regions (R276) -/

/-- REGION_END (R276 steps 3 to 5). -/
def execRegionEnd (die part region : Nat) (s : State) : Result :=
  .next (match (partAt s die part).regions.find? (fun r => r.num = region && r.ending) with
    | none => s
    | some r =>
      match r.waiter with
      | none => s
      | some (c, idx, tag) =>
        if anyReserved s (regionLines s die part r) then s
        else
          let e := endRegion s c die part r
          answerLater c idx tag (some ((endWord 0 e.2).setWidth 512)) (endWord 0 e.2) e.1)

/-! ## Translations (R281, R282) -/

/-- PAGE_WALK (R281): the result of a walk is cached. -/
def execPageWalk (die part va : Nat) (s : State) : Result :=
  let p := partAt s die part
  .next (if p.tlb.any (fun e => e.va ≤ va && va < e.va + e.size) then s
    else
      match findPage s die part va with
      | none => s
      | some e => modPart s die part (fun p => { p with tlb := p.tlb ++ [e] }))

/-- HOST_ATS_INVALIDATE (R282). -/
def execHostAtsInvalidate (va bytes : Nat) (s : State) : Result :=
  .next { s with ats := s.ats.filter (fun p => !spansMeet p.va (p.va + p.size) va (va + bytes)) }

/-! ## Accesses that come from outside -/

/-- HOST_BACK_INVALIDATE (R257): a line of a peer module's memory leaves the module's caches, its data written back. -/
def execHostBackInvalidate (line : Nat) (s : State) : Result :=
  .next (if 64 * line < 2 ^ 40 then s else dropClean (writeBack s line) line)

/-- An HBM granule is read in error (R369): a single-bit error is corrected and counted, another poisons the line at its home
and is counted. A line that its slice holds dirty is not read from HBM. -/
def hbmError (s : State) (address : Nat) (corrected : Bool) : State :=
  let line := address / 64
  if 2 ^ 39 ≤ address || l2Holds s line then s
  else
    let die := homeDie s address
    if corrected then modDie s die (fun d => { d with hbmCe := min (2 ^ 22 - 1) (d.hbmCe + 1) })
    else modDie { s with poison := line :: s.poison.filter (· ≠ line) } die (fun d => { d with hbmUe := min (2 ^ 32 - 1) (d.hbmUe + 1) })

/-- HOST_MEM_REQUEST (R370): a CXL.mem write at the home of each byte; a read leaves the machine as it is, but for an error of
the HBM that it meets. DESIGN CHOICE (log entry 82): every HBM error is found by such a read. -/
def execHostMemRequest (address : Nat) (write : HostMem) (s : State) : Result :=
  .next (match write with
    | .read none => s
    | .read (some corrected) => hbmError s address corrected
    | .write bs =>
      if 2 ^ 39 < address + bs.length then s
      else
        let as := (List.range bs.length).map (address + ·)
        wakeWatches (homeWrite s (as.zip bs)) (as.map (fun a => Loc.pa a 0)))

/-- REMOTE_ACCESS (R386, R388): a write that the target does not refuse; a read or a refusal leaves the machine as it is. -/
def execRemoteAccess (die part va : Nat) (write : Option (List Byte)) (s : State) : Result :=
  .next (match write with
    | none => s
    | some bs =>
      let vas := (List.range bs.length).map (fun k => (va + k) % 2 ^ 54)
      if (vas.findSome? (ownRefusal s die part true)).isSome then s
      else
        let locs := (vas.zip bs).filterMap (fun e =>
          match translate s die part e.1 false .write false with
          | .ok pa => some (pa, e)
          | .error _ => none)
        wakeWatches (homeWrite s (locs.map (fun e => (e.1, e.2.2)))) (locs.map (fun e => Loc.pa e.1 e.2.1)))

/-- COLLECTIVE_COMPLETE (R393). -/
def execCollectiveComplete (c : CtxId) (n : Nat) (s : State) : Result := .next (settle (endCollective s c n))

end Sys2Proof.Machine
end

