-- ==== Sys2Proof/Machine/Launches.lean ====
section
/-! DEFINITION. Launch records and the distributor's choices: the fields of a record (R346), effective priority and the
launch a partition serves (R351, R353), and the cores of a gang (R138, R352). -/

namespace Sys2Proof.Machine

open Sys2Proof

/-! ## Fields of a launch record (R346) -/

/-- A field of a record's word. -/
def recField (ws : List Word) (n lo len : Nat) : Nat := field (ws.getD n 0).toNat lo len

def recUnits (ws : List Word) : Nat := recField ws 2 16 8
def recCtxs (ws : List Word) : Nat := recField ws 2 11 5
def recWidth (ws : List Word) : Nat := recField ws 2 7 4
def recKind (ws : List Word) : Nat := recField ws 2 5 2
def recFoot (ws : List Word) : Nat := recField ws 4 56 8
def recPrio (ws : List Word) : Nat := recField ws 4 31 3
def recRank (ws : List Word) : Nat := recField ws 4 28 3
def recQc (ws : List Word) : Bool := (ws.getD 4 0).getLsbD 27
def recWake (ws : List Word) : Bool := (ws.getD 4 0).getLsbD 26
def recFused (ws : List Word) : Bool := (ws.getD 4 0).getLsbD 25
def recPin (ws : List Word) : Bool := (ws.getD 4 0).getLsbD 24
def recAnyp (ws : List Word) : Bool := (ws.getD 4 0).getLsbD 40

/-- Cores of a gang. -/
def gangCores (ws : List Word) : Nat :=
  if recKind ws = 0 then (recUnits ws + recCtxs ws - 1) / max 1 (recCtxs ws) else recUnits ws * recWidth ws

/-- Gangs of a launch. -/
def gangTotal (ws : List Word) : Nat := recField ws 3 0 16 * recField ws 3 16 16 * recField ws 3 32 16

/-! ## The served launch (R351, R353) -/

/-- The effective priority of a launch. -/
def effPrio (l : Launch) : Nat := min 7 (recPrio l.words + l.aged)

/-- A launch has gangs to place or to restore. -/
def gangsLeft (l : Launch) : Bool := l.st ≠ 3 && (l.nextGang < gangTotal l.words || l.gangs.any (·.saved))

/-- The launch that a partition serves: the highest effective priority, the earliest among equals. -/
def served (p : Part) : Option Launch :=
  (p.launches.filter gangsLeft).foldl (fun (best : Option Launch) l =>
    match best with
    | none => some l
    | some b => if effPrio b < effPrio l || (effPrio b = effPrio l && l.order < b.order) then some l else some b) none

def modLaunch (s : State) (die part lid : Nat) (f : Launch → Launch) : State :=
  modPart s die part (fun p => { p with launches := p.launches.map (fun l => if l.lid = lid then f l else l) })

/-- A reservation is withdrawn when a launch of higher effective priority has become the served one: its launch is Waiting
(R353, R355). -/
def outrank (s : State) (die part : Nat) : State :=
  let p := partAt s die part
  match p.reserve, served p with
  | some r, some m =>
    match p.launches.find? (·.lid = r.lid) with
    | some l =>
      if effPrio l < effPrio m then
        modLaunch (modPart s die part (fun p => { p with reserve := none })) die part l.lid
          (fun l => { l with st := 0 })
      else s
    | none => modPart s die part (fun p => { p with reserve := none })
  | _, _ => s

/-! ## Cores for a gang (R138, R352) -/

/-- Core 0 of a relative cluster of a partition. -/
def clusterBase (s : State) (die part rel : Nat) : Nat := 256 * die + 8 * relToPhys (partAt s die part).cfg rel

/-- The cores of a gang among those of a cluster that satisfy a test: aligned groups for bonds, else the lowest. -/
def pickCores (ws : List Word) (base : Nat) (test : Nat → Bool) : Option (List Nat) :=
  if recKind ws = 1 then
    let w := max 1 (recWidth ws)
    let groups := ((List.range (8 / w)).map (fun j => (List.range w).map (fun k => base + w * j + k))).filter (·.all test)
    if recUnits ws ≤ groups.length then some (groups.take (recUnits ws)).flatten else none
  else
    let cores := ((List.range 8).map (base + ·)).filter test
    if gangCores ws ≤ cores.length then some (cores.take (gangCores ws)) else none

/-- A saved core may be given to other work (R205): no job in its queue or of its contexts is running, and no PHASE or posted
access of theirs is on its way. -/
def savedIdle (s : State) (n : Nat) : Bool :=
  let k := coreAt s n
  k.ctxs.all (fun e => (e.2.st == .saved || e.2.st == .free) && !e.2.reserved && !settling e.2 && !owesColl e.2)
    && k.jobs.all (·.st == .suspended) && k.journal.all (·.state ≠ 1)
    && (coreNums s).all (fun q => (coreAt s q).jobs.all (fun j => j.ownerOf ≠ n || j.st == .suspended))

/-- A core holds no context. -/
def coreEmpty (s : State) (n : Nat) : Bool :=
  let k := coreAt s n
  coreEnabled s n && (if k.saving then savedIdle s n
    else k.ctxs.all (fun e => e.2.st == .free && !e.2.reserved) && k.jobs.isEmpty && k.kind = 0 && !k.pend)

/-- The cores for the next gang of a launch, if it can be placed. -/
def placeFor (s : State) (die part : Nat) (l : Launch) : Option (List Nat) :=
  let size := cfgSize (partAt s die part).cfg
  let base := clusterBase s die part
  if recPin l.words then
    if size = 0 || l.gangs.any (fun q => q.num + size = l.nextGang) then none
    else
      match pickCores l.words (base (l.nextGang % size)) (coreEnabled s) with
      | some cs => if cs.all (coreEmpty s) then some cs else none
      | none => none
  else (List.range size).findSome? (fun c => pickCores l.words (base c) (coreEmpty s))

/-- Some cluster of a partition has enabled cores in the pattern of a gang (R347, cause 0x04). -/
def patternFits (s : State) (die part : Nat) (ws : List Word) : Bool :=
  (List.range (cfgSize (partAt s die part).cfg)).any (fun c => (pickCores ws (clusterBase s die part c) (coreEnabled s)).isSome)

/-! ## L1s at a change of hands -/

/-- Every dirty byte of an L1 goes home, with the records of what is refused; scratchpad stores reach their banks. -/
def flushCore (s : State) (core : Nat) : State :=
  let r := carryHome (drainSpad s core (fun _ => true)) core (fun _ => true) none
  r.2.foldl (fun s e => asyncRecord s e.1 e.2) r.1

/-- An L1 is written back and invalidated. -/
def emptyL1 (s : State) (core : Nat) : State := modCore (flushCore s core) core (fun k => { k with clean := [] })

end Sys2Proof.Machine
end

