-- ==== Sys2Proof/Machine/Loader.lean ====
section
/-! DEFINITION. Arrival of launches: the launch window (R349, R364, R373), the loader's checks and the status word (R196, R227,
R347), acceptance (R351), and the host's wakes (R361). -/

namespace Sys2Proof.Machine

open Sys2Proof

/-! ## The launch window -/

/-- A write of bytes of a die's window, each with its offset (R349): one of all of bytes 0x078 to 0x07F enqueues the record,
or is dropped by a full queue. -/
def windowWrite (s : State) (die : Nat) (bs : List (Nat × Byte)) : State :=
  let whole := (List.range 8).all (fun k => bs.any (·.1 = 0x78 + k))
  if whole && 64 ≤ (dieAt s die).lqueue.length then
    modDie s die (fun d => { d with winDrop := min (2 ^ 32 - 1) (d.winDrop + 1) })
  else
    modDie s die (fun d =>
      let win := bs.foldl (fun t e => if e.1 < 0x80 then tabSet 0 t e.1 e.2 else t) d.window
      let ws := chunksOf 8 16 ((List.range 128).map (tabGet 0 win))
      { d with window := win, lqueue := d.lqueue ++ (if whole then [.window (ws.map (BitVec.ofNat 64))] else []) })

/-- A write of WIN.DROP clears it (R365). -/
def clearDrops (s : State) (die : Nat) : State := modDie s die (fun d => { d with winDrop := 0 })

/-- A write of PART.WAKE (R361, R365): a partition whose wake is disarmed is judged on its next pair of samples. -/
def setWake (s : State) (die : Nat) (mask : Word) : State :=
  let old := (dieAt s die).wake
  let s := modDie s die (fun d => { d with wake := mask.setWidth 8 })
  (List.range 8).foldl (fun s p =>
    if old.getLsbD p && !mask.getLsbD p then modPart s die p (fun q => { q with sample := none }) else s) s

/-- WIN_DROP (R365). -/
def execWinDrop (die : Nat) (s : State) : Result := .next (clearDrops s die)

/-- PART_WAKE (R361, R365). -/
def execPartWake (die : Nat) (mask : Word) (s : State) : Result := .next (setWake s die mask)

/-- A register of a launch window as the host reads it (R364, R365): WIN.FREE, WIN.DROP, PART.WAKE; the rest reads as 0. -/
def windowReg (d : Die) (o : Nat) : Nat :=
  if o = 0x080 then 64 - d.lqueue.length else if o = 0x088 then d.winDrop else if o = 0x090 then d.wake.toNat else 0

/-- A byte of a launch window as the host reads it: the record as last written, then the registers. -/
def windowByte (d : Die) (o : Nat) : Byte :=
  if o < 0x80 then tabGet 0 d.window o else BitVec.ofNat 8 (windowReg d (o / 8 * 8) / 2 ^ (8 * (o % 8)))

/-! ## Reading at the point of coherence -/

/-- The device as a party in a partition: it reads at homes, privileged. -/
def deviceWho (die part : Nat) : Who := ⟨⟨1024 + die, 0⟩, 1024 + die, die, part, true⟩

/-- Bytes that the loader reads through a partition's tables; none where they cannot be read. -/
def loaderRead (s : State) (die part : Nat) (p : Word) (n : Nat) : Option (List Byte) :=
  if ptrPath p = pathSPAD || ptrPath p = pathDEV || ptrPath p = pathFAB || (basicCheck p).isSome then none
  else coherentRead s (deviceWho die part) p n

/-! ## Checks of a record (R347) -/

/-- Cause 0x01: a reserved field is nonzero, or a field is outside its values (R346). -/
def recFieldsBad (ws : List Word) : Bool :=
  let f := recField ws
  let kind := recKind ws
  f 2 24 40 ≠ 0 || f 2 0 5 ≠ 0 || recUnits ws = 0 || 128 < recUnits ws || kind = 3
    || (kind = 0 && (!([1, 2, 4, 8, 16].contains (recCtxs ws)) || recWidth ws ≠ 0))
    || (kind = 1 && (recCtxs ws ≠ 1 || !([2, 4, 8].contains (recWidth ws))))
    || (kind = 2 && (recCtxs ws ≠ 1 || recWidth ws < 2 || 8 < recWidth ws))
    || 8 < gangCores ws
    || f 3 48 16 ≠ 0 || f 3 0 16 = 0 || f 3 16 16 = 0 || f 3 32 16 = 0
    || 124 < recFoot ws || f 4 48 8 ≠ 0 || f 4 37 3 ≠ 0 || f 4 0 24 ≠ 0 || recRank ws = 7
    || (recAnyp ws && (f 4 44 4 = 0 || 8 < f 4 44 4 || f 4 41 3 = 0 || 4 < f 4 41 3 || f 4 34 3 ≠ 0))
    || f 9 16 48 ≠ 0 || f 12 48 16 ≠ 0 || f 13 0 64 ≠ 0 || f 14 0 64 ≠ 0 || f 15 0 64 ≠ 0

/-- A field of word 4 is out of range, so that no partition is known. -/
def recWord4Bad (ws : List Word) : Bool :=
  let f := recField ws
  124 < recFoot ws || f 4 48 8 ≠ 0 || f 4 37 3 ≠ 0 || f 4 0 24 ≠ 0 || recRank ws = 7
    || (recAnyp ws && (f 4 44 4 = 0 || 8 < f 4 44 4 || f 4 41 3 = 0 || 4 < f 4 41 3 || f 4 34 3 ≠ 0))

/-- DONE has a wrong path or alignment: it is not written (R347). -/
def doneAstray (p : Word) : Bool := (ptrPath p ≠ pathGEN && ptrPath p ≠ pathHOST) || ptrAddr p % 8 ≠ 0

/-- DONE has a wrong path, alignment or block length (R346, R347). -/
def doneBad (p : Word) : Bool := p ≠ 0 && (doneAstray p || ptrBlock p ≠ 0)

/-- Cause 0x02: CODE, SAVEAREA, THBASE or DONE. -/
def recPointersBad (ws : List Word) : Bool :=
  let w := fun n => ws.getD n 0
  ptrPath (w 0) = pathSPAD || 3 < ptrPath (w 0) || ptrAddr (w 0) % 128 ≠ 0 || ptrBlock (w 0) ≠ 0
    || ptrPath (w 10) ≠ pathGEN || ptrAddr (w 10) % 2 ^ 20 ≠ 0 || ptrBlock (w 10) ≠ 0
    || ptrPath (w 8) ≠ pathGEN || ptrAddr (w 8) % 64 ≠ 0 || ptrBlock (w 8) ≠ 0
    || doneBad (w 11)

/-- The partition that will run a record (R351). -/
def recPartition (d : Die) (ws : List Word) : Option Nat :=
  if recAnyp ws then
    let fit := (List.range 8).filter (fun p =>
      let c := (partIn d p).cfg
      cfgValid c && cfgW c = recField ws 4 44 4 && cfgH c = recField ws 4 41 3)
    match fit.find? (fun p => (partIn d p).launches.isEmpty) with
    | some p => some p
    | none => fit.foldl (fun (best : Option Nat) p =>
        match best with
        | none => some p
        | some b =>
          let queued := fun (q : Nat) => ((partIn d q).launches.filter (·.st = 0)).length
          if queued p < queued b then some p else some b) none
  else
    let p := recField ws 4 34 3
    if cfgValid (partIn d p).cfg then some p else none

/-- Entry c of row r of a routing image. -/
def imageEntry (bs : List Byte) (n : Nat) : Nat := ofBytes ((bs.drop (4 * n)).take 4)

/-- A routing image is refused (R195, R196): also where an entry of a code above 0x12, or a field that R195 makes zero, is not
zero (DEDUCED, log entry 111). -/
def routeBad (cfg : Word) (bs : List Byte) : Bool :=
  (List.range 256).any (fun n =>
    let e := imageEntry bs n
    let r := n / 32
    let hr := field e 28 3
    (e ≠ 0 && (r = 7 || 0x13 ≤ n % 32)) || field e 0 10 ≠ 0
      || e.testBit 10 != (hr == 7)
      || (e.testBit 31 && (hr ≤ r
        || (e.testBit 10 && field e 11 12 ≠ 0) || (!e.testBit 10 && cfgSize cfg ≤ field e 18 5))))

/-- The routing store that an image gives. -/
def routeOf (bs : List Byte) : Tab (BitVec 32) :=
  (List.range 256).foldl (fun t n => tabSet 0 t n (BitVec.ofNat 32 (imageEntry bs n))) []

/-- Word 0 of entry g of a group image, and its members. -/
def groupWord (bs : List Byte) (g : Nat) : Nat := ofBytes ((bs.drop (256 * g)).take 8)
def groupSlot (bs : List Byte) (g m : Nat) : Nat := ofBytes ((bs.drop (256 * g + 8 + 2 * m)).take 2)
def groupList (bs : List Byte) (g : Nat) : List Nat :=
  (List.range (field (groupWord bs g) 0 7)).map (fun m => groupSlot bs g m / 2)

/-- An entry breaks the layout of R227. -/
def groupEntryBad (cfg : Word) (bs : List Byte) (g : Nat) : Bool :=
  let w := groupWord bs g
  let n := field w 0 7
  let ms := groupList bs g
  if w.testBit 7 then
    w / 256 ≠ 0 || n = 0 || 124 < n
      || (List.range 124).any (fun m =>
        let v := groupSlot bs g m
        if m < n then v / 2 ^ 13 ≠ 0 || v % 2 = 0 || cfgSize cfg ≤ field v 8 5 else v ≠ 0)
      || ms.eraseDups.length ≠ ms.length
  else (List.range 256).any (fun k => bs.getD (256 * g + k) 0 ≠ 0)

/-- One member set is a proper subset of another. -/
def nests (xs ys : List Nat) : Bool := xs.all ys.contains && !ys.all xs.contains

/-- The valid groups of an image. -/
def groupsOf (bs : List Byte) : List Group :=
  ((List.range 256).filter (fun g => (groupWord bs g).testBit 7)).map (fun g => ⟨g, groupList bs g, 0, [], []⟩)

/-- A group image is refused (R227). -/
def groupsBad (cfg : Word) (bs : List Byte) : Bool :=
  let gs := groupsOf bs
  (List.range 256).any (groupEntryBad cfg bs)
    || (gs.flatMap (·.members)).any (fun m => 4 < (gs.filter (fun g => g.members.contains m)).length)
    || gs.any (fun x => gs.any (fun y => nests x.members y.members))

/-- The images of a record, read through the tables of its partition: none for one that cannot be read. -/
def readImage (s : State) (die part : Nat) (p : Word) (n : Nat) : Option (List Byte) :=
  if p = 0 then some (List.replicate n 0) else loaderRead s die part p n

/-- The causes that the loader finds in a record for a partition; `rank` is that of the issuer, if there is one. -/
def recCauses (s : State) (die part : Nat) (ws : List Word) (rank : Option Nat) : List Nat :=
  let cfg := (partAt s die part).cfg
  let gi := readImage s die part (ws.getD 5 0) 65536
  let ti := readImage s die part (ws.getD 6 0) 1024
  (if recFieldsBad ws then [0x01] else [])
    ++ (if recPointersBad ws then [0x02] else [])
    ++ (if patternFits s die part ws then [] else [0x04])
    ++ (if ti.any (routeBad cfg) then [0x05] else [])
    ++ (if gi.any (groupsBad cfg) then [0x06] else [])
    ++ (if rank.any (· < recRank ws) then [0x07] else [])
    ++ (if gi.isNone || ti.isNone then [0x08] else [])

/-! ## The status word (R347) -/

/-- The status word is written, where DONE can be. -/
def writeStatus (s : State) (die part : Nat) (ws : List Word) (status cause : Nat) : State :=
  let p := ws.getD 11 0
  let v := BitVec.ofNat 64 (status * 2 ^ 56 + cause * 2 ^ 48 + recField ws 12 0 48)
  if p = 0 || doneAstray p then s
  else if ptrPath p = pathGEN then (deviceWrite s die part p (wordBytes [v])).getD s
  else if (hostCheck s (ptrAddr p) .write).isSome then s
  else { s with hostMem := ((wordBytes [v]).zipIdx).foldl (fun t e => tabSet 0 t (ptrAddr p + e.2) e.1) s.hostMem }

/-- A record is refused: counted, and reported where there is a partition to translate DONE in. -/
def refuseRecord (s : State) (die : Nat) (part : Option Nat) (ws : List Word) (cause : Nat) : State :=
  let s := modDie s die (fun d => { d with refused := min 65535 (d.refused + 1) })
  match part with
  | some p => writeStatus s die p ws 0x01 cause
  | none => s

/-- A record is accepted: it waits in its partition's queue with a launch number (R351, R365). -/
def acceptRecord (s : State) (die part : Nat) (ws : List Word) : State :=
  let gi := (readImage s die part (ws.getD 5 0) 65536).getD []
  let ti := (readImage s die part (ws.getD 6 0) 1024).getD []
  let d := dieAt s die
  let l : Launch := ⟨d.nextLid, ws, part, 0, 0, d.order, 0, [], 0, false, false, false, groupsOf gi, routeOf ti⟩
  let s := modPart s die part (fun p => { p with launches := p.launches ++ [l] })
  let s := modDie s die (fun d =>
    { d with nextLid := (d.nextLid + 1) % 2 ^ 16, order := d.order + 1
             wake := if recWake ws then d.wake ||| (1 <<< part) else d.wake })
  outrank s die part

/-- The loader judges a record that it could read. -/
def judgeRecord (s : State) (die : Nat) (by_ : Option (Nat × Nat)) (ws : List Word) : State :=
  let target := if recWord4Bad ws then none else recPartition (dieAt s die) ws
  match target with
  | none => refuseRecord s die (by_.map (·.1)) ws (if recFieldsBad ws then 0x01 else if recPointersBad ws then 0x02 else 0x03)
  | some p =>
    match recCauses s die p ws (by_.map (·.2)) with
    | [] => acceptRecord s die p ws
    | cause :: _ => refuseRecord s die (some p) ws cause

/-- The words of a record named by a pointer. -/
def readRecord (s : State) (die part : Nat) (p : Word) : Option (List Word) :=
  if ptrAddr p % 128 ≠ 0 then none
  else (loaderRead s die part p 128).map (fun bs => (chunksOf 8 16 bs).map (BitVec.ofNat 64))

/-- LOADER_TAKE (R347): no die takes a launch before READY (R375). -/
def execLoaderTake (die : Nat) (s : State) : Result :=
  .next (if s.kiln.bootStep < 5 then s
    else
      match (dieAt s die).lqueue with
      | [] => s
      | e :: rest =>
        let s := modDie s die (fun d => { d with lqueue := rest })
        match e with
        | .window ws => judgeRecord s die none ws
        | .pointer p part rank =>
          match readRecord s die part p with
          | none => refuseRecord s die none [] 0x08
          | some ws => judgeRecord s die (some (part, rank)) ws)

/-- EFFECTIVE_PRIORITY_AGING (R351, R353). -/
def execEffectivePriorityAging (die lid : Nat) (s : State) : Result :=
  .next ((List.range 8).foldl (fun s p =>
    if (partAt s die p).launches.any (fun l => l.lid = lid && gangsLeft l) then
      outrank (modLaunch s die p lid (fun l => { l with aged := l.aged + 1 })) die p
    else s) s)

end Sys2Proof.Machine
end

