-- ==== Sys2Proof/Machine/Messages.lean ====
section
/-! DEFINITION. Messages on their way (R179, R182, R206, R207), fault records on their way (R197), and posted accesses at
their targets (R172, R200, R201). -/

namespace Sys2Proof.Machine

open Sys2Proof

/-! ## Spill areas (R206, R207) -/

/-- The ready bit of a context is set, or remembered while it is stopped (R122, R192). -/
def setReady (x : Ctx) : Ctx := { x with ready := x.ready || !x.stopped, readyHeld := x.readyHeld || x.stopped }

/-- The sixteen words of a spill record (R206). -/
def spillWords (m : QMsg) : List Word :=
  (List.range 8).map (word m.payload) ++ [m.header, BitVec.ofNat 64 m.seq] ++ List.replicate 6 0

/-- The lowest place of a spill area that holds no record. DESIGN CHOICE (log entry 73): the manual does not say where in the
area a record stands. -/
def freeRecord (x : Ctx) : Word :=
  (((List.range (x.spillAt.length + 1)).map (fun n => addrOf x.spillBase (128 * n : Nat))).find?
    (fun a => !x.spillAt.any (·.2.2 = a))).getD x.spillBase

/-- Spilling stops with SPILL-FAULT (R207), whose record names the address of a write that failed (R194). -/
def stopSpill (s : State) (t : Thread) (cause : Nat) (addr : Word) : State :=
  let s := modThread s t (fun x => { x with spillStop := true })
  let r : RecordArgs := { cls := clsSpillFault, cause := cause, addr := addr }
  if t.aside.isSome then asideRecord s t r else asyncRecord s t.c r

/-- A spill record is held, in its place by arrival number. -/
def withRecord (r : Nat × Nat × Word) (x : Ctx) : Ctx :=
  { x with spillAt := x.spillAt.filter (·.1 < r.1) ++ [r] ++ x.spillAt.filter (r.1 ≤ ·.1) }

/-- A message of a class goes to the spill area of a thread: whether it did, and the state. The area of a context that the
class is not bound to takes what room it has. -/
def spill (s : State) (t : Thread) (cls : Nat) (m : QMsg) : Bool × State :=
  let x := threadAt s t
  let stop := fun (cause : Nat) (addr : Word) =>
    (false, if binderIn (threadCore s t) cls = some t.c.ctx then stopSpill s t cause addr else s)
  if x.spillStop then (false, s)
  else if x.spillCap ≤ x.spillAt.length then stop 0x01 0
  else
    match deviceWrite s (dieOf t.c.core) x.part (freeRecord x) (wordBytes (spillWords m)) with
    | none => stop 0x02 (freeRecord x)
    | some s => (true, modThread s t (withRecord (m.seq, cls, freeRecord x)))

/-- The messages in the queues of a core whose classes are bound to a context. -/
def heldFor (k : Core) (n : Nat) : List (Nat × QMsg) :=
  (k.bound.filter (·.2 = n)).flatMap (fun b => (tabGet [] k.queues b.1).map (fun m => (b.1, m)))

/-- The one of them that arrived first. -/
def oldestHeld (k : Core) (n : Nat) : Option (Nat × QMsg) :=
  (heldFor k n).foldl (fun (best : Option (Nat × QMsg)) e => match best with
    | none => some e
    | some b => if e.2.seq < b.2.seq then some e else some b) none

/-- The oldest message that waits in its queue for a saved context goes to its spill area (R206): whether one did. -/
def spillOldest (s : State) (t : Thread) : Bool × State :=
  match oldestHeld (threadCore s t) t.c.ctx with
  | none => (false, s)
  | some (cls, m) =>
    let r := spill s t cls m
    (r.1, if r.1 then modThreadCore r.2 t (fun k => { k with queues := tabSet [] k.queues cls (tabGet [] k.queues cls).tail }) else r.2)

/-- The messages in the queues of a saved context go to its spill area in order of arrival, as far as spilling goes on. -/
def spillHeld : Nat → State → Thread → State
  | 0, s, _ => s
  | n + 1, s, t =>
    let r := spillOldest s t
    if r.1 then spillHeld n r.2 t else r.2

/-! ## Receive queues (R179, R182, R209) -/

/-- A message enters the queue of a class of a core, or a spill area; a full queue takes none. What waits in the queues of a
saved context goes to its area first. -/
def enqueue (s : State) (t : Thread) (cls : Nat) (payload : Wide) (header : Word) : Bool × State :=
  let k := threadCore s t
  let m : QMsg := ⟨payload, header, k.arrived⟩
  let count := fun (s : State) => modThreadCore s t (fun k => { k with arrived := k.arrived + 1 })
  match areaIn k cls with
  | some n =>
    if (ctxIn k n).st == .saved && !(heldFor k n).isEmpty then (false, s)
    else
      let r := spill s { t with c := ⟨t.c.core, n⟩ } cls m
      (r.1, if r.1 then count r.2 else r.2)
  | none =>
    let q := tabGet [] k.queues cls
    if 16 ≤ q.length then (false, s)
    else
      let s := count (modThreadCore s t (fun k => { k with queues := tabSet [] k.queues cls (q ++ [m]) }))
      (true, match binderIn k cls with
        | some n => modThread s { t with c := ⟨t.c.core, n⟩ } setReady
        | none => s)

/-- A message enters a queue at its place by arrival number. -/
def queueIn (m : QMsg) (q : List QMsg) : List QMsg := q.filter (·.seq < m.seq) ++ [m] ++ q.filter (m.seq ≤ ·.seq)

/-- The oldest spilled message of a context whose class queue has room refills it (R209). -/
def refill (s : State) (c : CtxId) : State :=
  let x := ctxAt s c
  match x.spillAt.find? (fun r => (tabGet [] (coreAt s c.core).queues r.2.1).length < 16) with
  | none => s
  | some (seq, cls, a) =>
    match coherentRead s (deviceWho (dieOf c.core) x.part) a 128 with
    | none => s
    | some bs =>
      let ws := (chunksOf 8 9 bs).map (BitVec.ofNat 64)
      let m : QMsg := ⟨ofWords (ws.take 8), ws.getD 8 0, seq⟩
      let s := modCore s c.core (fun k => { k with queues := tabSet [] k.queues cls (queueIn m (tabGet [] k.queues cls)) })
      let s := modCtx s c (fun x => { x with spillAt := x.spillAt.filter (·.1 ≠ seq) })
      match binderIn (coreAt s c.core) cls with
      | some n => modCtx s ⟨c.core, n⟩ setReady
      | none => s

/-- Spilled messages refill the class queues as far as they have room (R209). -/
def refillAll : Nat → State → CtxId → State
  | 0, s, _ => s
  | n + 1, s, c => refillAll n (refill s c) c

/-! ## MESSAGE_ARRIVAL (R182) -/

/-- An earlier entry of a list still waits for the same queue: its message comes first (R182). -/
def blocked (es : List SendEntry) (n : Nat) (d : Nat × Nat) : Bool := (es.take n).any (fun e => e.dsts.contains d)

/-- Messages of a partition that have entered a queue (R359). -/
def countIn (s : State) (die part : Nat) : State := modPart s die part (fun p => { p with received := p.received + 1 })

/-- The first copy of an entry that has not arrived enters its queue, at the core of its sender's launch; an entry without
copies left is freed. -/
def sendOne (s : State) (t : Thread) (es : List SendEntry) (n : Nat) : Option (State × List SendEntry) :=
  let x := threadAt s t
  match es[n]? with
  | none => none
  | some e =>
    match e.dsts with
    | [] => some (s, es.eraseIdx n)
    | d :: rest =>
      if blocked es n d then none
      else
        let r := enqueue s (coreWhere s x.part x.launch d.1) d.2 e.payload e.header
        let left := if rest.isEmpty then es.eraseIdx n else listSet es n (fun e => { e with dsts := rest })
        some (if r.1 then (countIn r.2 (dieOf t.c.core) x.part, left) else (r.2, es))

/-- The moves of the messages of a thread: its send entries, the notifications held for it (R318), and its spill area. -/
def messageMoves (x : Ctx) : Nat := x.sendq.length + x.notifs.length + 1

/-- One of them. A thread's messages arrive in the order of its program, whatever queues they are for (R265, R267; DEDUCED, log
entry 103). A send waits while its sender is Saved (R206), and until the sender's PHASEs have published (R264, log entry 59). -/
def moveMessage (s : State) (t : Thread) (n : Nat) : State :=
  let x := threadAt s t
  if n < x.sendq.length then
    if x.st == .saved || phasing x || n ≠ 0 then s
    else match sendOne s t x.sendq n with
      | some (s, es) => modThread s t (fun x => { x with sendq := es })
      | none => s
  else if n < x.sendq.length + x.notifs.length then
    match sendOne s t x.notifs (n - x.sendq.length) with
    | some (s, es) => modThread s t (fun x => { x with notifs := es })
    | none => s
  else if x.st == .saved then (spillOldest s t).2
  else if t.aside.isNone then refill s t.c
  else s

/-- Move n of the messages of some threads, counted through. -/
def moveAmong : List Thread → Nat → State → State
  | [], _, s => s
  | t :: ts, n, s =>
    if n < messageMoves (threadAt s t) then moveMessage s t n else moveAmong ts (n - messageMoves (threadAt s t)) s

/-- MESSAGE_ARRIVAL (R182): number n counts the messages of the context's threads. -/
def execMessageArrival (c : CtxId) (n : Nat) (s : State) : Result := .next (moveAmong (threadsOf s c) n s)

/-! ## TRAP_RECORD_DELIVERY (R197) -/

/-- A journal entry whose refusal has reached its handler is freed (R200). -/
def freeRefusal (s : State) (t : Thread) (r : Record) : State :=
  let w0 := (r.words.getD 0 0).toNat
  if w0 / 2 ^ 56 = clsRemoteRefused && !w0.testBit 31 && w0.testBit 39 then
    modThreadCore s t (fun k => { k with journal := k.journal.filter (fun j =>
      !(j.slot = (r.words.getD 3 0).toNat && j.state = 2)) })
  else s

/-- A record has reached its handler: it leaves its slot, and its thread is stopped for that handler where the record stops
it (R189). -/
def recordGone (s : State) (t : Thread) (r : Record) (h : CtxId) : State :=
  let s := modThread s t (fun x =>
    { x with slot := x.slot.tail, handlers := if r.stops then x.handlers ++ [h] else x.handlers })
  freeRefusal (countIn s (dieOf t.c.core) r.part) t r

/-- The oldest record of a thread goes to its handler (R197). -/
def deliverRecord (s : State) (t : Thread) : State :=
  match (threadAt s t).slot with
  | [] => s
  | r :: _ =>
    let die := dieOf t.c.core
    let w0 := (r.words.getD 0 0).toNat
    let cls := w0 / 2 ^ 56
    let rank := field w0 32 3
    match routeFor s die r.part rank cls with
    | none =>
      let r' := if misrouted s die r.part rank cls then { r with words := r.words.set 0 ((r.words.getD 0 0) ||| (1 <<< 35)) } else r
      modDie (recordGone s t r ⟨1024 + die, 0⟩) die (fun d => { d with mgmt := d.mgmt ++ [(t.c, r')] })
    | some (h, tcls) =>
      let q := enqueue s h tcls (ofWords r.words) (headerFrom s t.c r.part tcls)
      if q.1 then recordGone q.2 t r h.c else q.2

/-- TRAP_RECORD_DELIVERY (R197): of the context's thread, else of one that stands aside (R202). -/
def execTrapRecordDelivery (c : CtxId) (s : State) : Result :=
  .next (match (threadsOf s c).find? (fun t => !(threadAt s t).slot.isEmpty) with
    | none => s
    | some t => deliverRecord s t)

/-! ## Posted accesses (R172, R200, R201, R386) -/

/-- The queue a posted access takes its turn in: host memory, or a window. -/
def postedWay (p : Word) : Nat × Nat := (ptrPath p, if ptrPath p = pathFAB then ptrAddr p / 2 ^ 48 else 0)

/-- An older posted access of the same context takes the same way (R267). -/
def postedBehind (k : Core) (j : JEntry) : Bool :=
  (k.journal.takeWhile (fun q => q.slot ≠ j.slot)).any (fun q =>
    q.ctx = j.ctx && q.state = 1 && postedWay q.ptr = postedWay j.ptr)

/-- The window that a pointer names among those of a context as they stood at the firing (R386). -/
def postedWindow (wins : Tab (Word × Word)) (p : Word) : Word × Word := tabGet (0, 0) wins (ptrAddr p / 2 ^ 48)

/-- Eight bytes at the target of a posted access, as a number. -/
def targetWord (s : State) (wins : Tab (Word × Word)) (p : Word) : Nat :=
  let w := postedWindow wins p
  ofBytes ((List.range 8).map (fun k =>
    if ptrPath p = pathHOST then tabGet 0 s.hostMem ((ptrAddr p + k) % 2 ^ 54)
    else fabByte s w.1 (fabVa w (ptrAddr p % 2 ^ 48 + k))))

/-- Why a host access that was checked at its firing is refused when it is issued (R282): its translation, made again, is
refused or no longer permits writing. -/
def hostRefusal (s : State) (a : Nat) (write : Bool) : Option Nat :=
  (hostCheck s a (if write then .write else .read)).map (fun cause => if cause = 0x04 then 0x01 else cause)

/-- Why the target refuses n bytes (R201, R386). A window that is not valid for writing is refused as the pointer's own check
fails (R172). DEDUCED (log entry 94): with cause 0x04. -/
def targetRefusal (s : State) (wins : Tab (Word × Word)) (p : Word) (n : Nat) (write : Bool) : Option Nat :=
  if ptrPath p = pathHOST then
    (List.range n).findSome? (fun k => hostRefusal s ((ptrAddr p + k) % 2 ^ 54) write)
  else
    let w := postedWindow wins p
    if !w.1.getLsbD 41 || (write && !w.1.getLsbD 40) then some 0x04
    else fabRefusal s w.1 write ((List.range n).map (fun k => fabVa w (ptrAddr p % 2 ^ 48 + k)))

/-- Bytes written at the target. -/
def targetWrite (s : State) (wins : Tab (Word × Word)) (p : Word) (bs : List Byte) : State :=
  if ptrPath p = pathHOST then
    { s with hostMem := (bs.zipIdx).foldl (fun t e => tabSet 0 t ((ptrAddr p + e.2) % 2 ^ 54) e.1) s.hostMem }
  else
    let w := postedWindow wins p
    fabWrite s w.1 (bs.zipIdx.map (fun e => (fabVa w (ptrAddr p % 2 ^ 48 + e.2), e.1)))

/-- What an STQ finds at its target (R161, R172): the cause of a refusal, or the record pointer and the new TAIL. -/
def stqLook (s : State) (wins : Tab (Word × Word)) (d : Word) : Except Nat (Word × Nat) :=
  match targetRefusal s wins d 32 true with
  | some cause => .error cause
  | none =>
    let base := BitVec.ofNat 64 (targetWord s wins d)
    let w1 := targetWord s wins (addrOf d 8)
    let head := targetWord s wins (addrOf d 16)
    let tail := targetWord s wins (addrOf d 24)
    let cap := w1 % 2 ^ 32
    if ptrAddr d % 32 ≠ 0 || w1 / 2 ^ 32 ≠ 0 || cap = 0 || (basicCheck base).isSome || ptrAddr base % 8 ≠ 0
        || ptrPath base ≠ ptrPath d then .error 0x04
    else if cap ≤ (tail + 2 ^ 64 - head) % 2 ^ 64 then .error 0x03
    else
      let rec_ := addrOf base (64 * (tail % cap) : Nat)
      match targetRefusal s wins rec_ 64 true with
      | some cause => .error cause
      | none => .ok (rec_, (tail + 1) % 2 ^ 64)

/-- The bytes of a journal entry at the target: whether they are refused, and why. -/
def entryRefusal (s : State) (j : JEntry) : Option Nat :=
  match j.stq with
  | some (d, _, wins) =>
    match stqLook s wins d with
    | .error cause => some cause
    | .ok _ => none
  | none =>
    j.bytes.findSome? (fun b => match b.1 with
      | .host a => hostRefusal s a true
      | .fab w0 w1 o => fabRefusal s w0 true [fabVa (w0, w1) o]
      | _ => none)

/-- The host lines that a posted access of a context writes. -/
def hostLines (s : State) (j : JEntry) : List Nat :=
  match j.stq with
  | some (d, _, wins) =>
    match stqLook s wins d with
    | .ok (p, _) =>
      if ptrPath d = pathHOST then
        (([0, 63].map (fun k => (ptrAddr p + k) % 2 ^ 54 / 64)) ++ [ptrAddr d / 64]).eraseDups
      else []
    | .error _ => []
  | none => (j.bytes.filterMap (fun b => match b.1 with
      | .host a => some (a / 64)
      | _ => none)).eraseDups

/-- The bytes of a posted access are performed at their target, those through a window in one access (R387, R388). -/
def performBytes (s : State) (j : JEntry) : State :=
  match j.stq with
  | some (d, payload, wins) =>
    match stqLook s wins d with
    | .error _ => s
    | .ok (p, tail) =>
      targetWrite (targetWrite s wins p ((List.range 64).map (byteOf payload))) wins (addrOf d 24) (toBytes 8 tail)
  | none =>
    let s := j.bytes.foldl (fun s b => match b.1 with
      | .host a => { s with hostMem := tabSet 0 s.hostMem a b.2 }
      | _ => s) s
    (fabWindows j.bytes).foldl (fun s w0 => fabWrite s w0 (fabPart w0 j.bytes)) s

/-- A posted access is performed at its target. Clean copies of the host lines it wrote leave the L1s of its thread, whose
later loads see its store (R23). -/
def performPosted (s : State) (t : Thread) (j : JEntry) : State :=
  let s' := performBytes s j
  if t.aside.isSome then s'
  else (hostLines s j).foldl (fun s line => dropOwnClean s t.c (hostBase + 64 * line)) s'

/-- The journals of a core number: in its place, and those that stand aside. -/
def journalThread (s : State) (core entry : Nat) : Option Thread :=
  (threadsOf s ⟨core, 0⟩).find? (fun t => (threadCore s t).journal.any (fun j => j.slot = entry && j.state = 1))

/-- A posted access that may be answered now, with its thread. -/
def postedDue (s : State) (core entry : Nat) : Option (Thread × JEntry) :=
  (journalThread s core entry).bind (fun t =>
    let k := threadCore s t
    (k.journal.find? (fun j => j.slot = entry && j.state = 1 && !postedBehind k j)).map (fun j =>
      ({ t with c := ⟨core, j.ctx⟩ }, j)))

/-- POSTED_ACK (R200): the target takes the access. -/
def execPostedAck (core : Nat) (entry : Nat) (s : State) : Result :=
  .next (match postedDue s core entry with
    | none => s
    | some (t, j) =>
      if (entryRefusal s j).isSome then s
      else modThreadCore (performPosted s t j) t (fun k => { k with journal := k.journal.filter (·.slot ≠ entry) }))

/-- POSTED_REFUSAL (R201): the host may complete any access with an error (cause 0x06, R282); otherwise a target refuses
for a cause it finds. -/
def execPostedRefusal (core : Nat) (entry : Nat) (cause : Nat) (s : State) : Result :=
  .next (match postedDue s core entry with
    | none => s
    | some (t, j) =>
      if !((ptrPath j.ptr = pathHOST && cause = 0x06) || entryRefusal s j = some cause) then s
      else
        let s := modThreadCore s t (fun k => { k with journal := k.journal.map (fun q =>
          if q.slot = entry then { q with state := 2, cause := cause } else q) })
        let r : RecordArgs := { cls := clsRemoteRefused, cause := cause, addr := j.ptr, where_ := BitVec.ofNat 64 entry }
        if t.aside.isSome then asideRecord s t r else asyncRecord s t.c r)

end Sys2Proof.Machine
end

