-- ==== Sys2Proof/Machine/Preempt.lean ====
section
/-! DEFINITION. Pre-emption (R203 to R207), the place of a saved core given to other work (R205), restore (R209) and the end of
a quantum (R358). -/

namespace Sys2Proof.Machine

open Sys2Proof

/-! ## The save record (R204) -/

/-- The sections of a save record: offset, length and bytes. Firmware sets the layout of those with context state, replay
logs and counts: DESIGN CHOICE (log entry 75), their bytes are free. -/
def saveSections (n core : Nat) (k : Core) : List (Nat × Nat × (Nat → Byte)) :=
  [(0x00000, 0x1000, Config.saveByte n core),
   (0x01000, 0x8000, fun o => byteOf (tabGet 0 k.regs (o / 64)) (o % 64)),
   (0x09000, 0x2000, fun o => byteOf (tabGet 0 k.shared (o / 64)) (o % 64)),
   (0x0B000, 0x40000, fun o => Config.saveByte n core (0xB000 + o)),
   (0x4B000, 0x20000, fun o =>
     (tabGet 0 (tabGet Acc.blank k.accs (o / 0x4000)).vals (o % 0x4000 / 4)).extractLsb' (8 * (o % 4)) 8),
   (0x6B000, 0x1000, fun o => Config.saveByte n core (0x6B000 + o)),
   (0x6C000, 0x4000, fun o =>
     let w := windowIn (ctxIn k (o / 0x400)) (o % 0x400 / 16)
     (if o % 16 < 8 then w.1 else w.2).extractLsb' (8 * (o % 8)) 8)]

/-- The scratchpad image of a core's footprint. -/
def imageSection (k : Core) : Nat × Nat × (Nat → Byte) := (0x80000, 4096 * k.foot, tabGet 0 k.spad)

/-- Writes a section, 4 KiB at a time; what has no translation is not written. -/
def writeSection (s : State) (die part : Nat) (base : Word) (e : Nat × Nat × (Nat → Byte)) : State :=
  (List.range ((e.2.1 + 4095) / 4096)).foldl (fun s n =>
    (deviceWrite s die part (addrOf base (e.1 + 4096 * n : Nat))
      ((List.range (min 4096 (e.2.1 - 4096 * n))).map (fun o => e.2.2 (4096 * n + o)))).getD s) s

def writeSections (s : State) (core : Nat) (es : List (Nat × Nat × (Nat → Byte))) : State :=
  es.foldl (fun s e => writeSection s (dieOf core) (partHolding s core) (coreAt s core).saveBase e) s

/-- The save record of a core is written; its scratchpad image once no job of the core is running (R205). -/
def writeRecord (s : State) (core : Nat) : State :=
  let n := s.freeCounter
  let k := coreAt s core
  writeSections { s with freeCounter := n + 1 } core
    (saveSections n core k ++ (if k.jobs.all (·.st == .suspended) then [imageSection k] else []))

/-- The image of a saved core is written when the last of its jobs has ended (R205). -/
def writeImage (s : State) (core : Nat) : State :=
  let k := coreAt s core
  if k.saving && k.jobs.all (·.st == .suspended) then writeSections s core [imageSection k] else s

/-! ## Pre-emption of a core (R203) -/

/-- Requests of a context that wait on another party are withdrawn at their homes (R203 step 3, R276, R297). -/
def withdraw (s : State) (c : CtxId) : State :=
  let me := memberNum s c
  let bar := (ctxAt s c).gbarWait
  let s := modPartOf s c (fun p =>
    { p with acquires := p.acquires.filter (fun a => !(a.ctx == c && a.job.isNone))
             regions := p.regions.map (fun r => match r.waiter with
               | some (w, _, _) => if w == c then { r with ending := false, waiter := none } else r
               | none => r)
             groups := p.groups.map (fun g => match bar with
               | some (n, _, _) => if g.num = n then { g with arrived := g.arrived.filter (· ≠ me) } else g
               | none => g) })
  modCtx s c (fun x => { x with watch := none, tenWait := none, gbarWait := none, accWait := [], cwait := none })

/-- A context that holds a thread and is not Saved. -/
def isLive (x : Ctx) : Bool := x.st == .running || x.st == .parked || x.st == .draining

/-- A context becomes Saved (R203 steps 2, 3 and 6). An asynchronous record that would stop it has done so, and enters the
delivery slot (R197, R202). -/
def saveCtx (s : State) (c : CtxId) : State :=
  let x := ctxAt s c
  if !isLive x then s
  else
    let s := releaseAsyncs (leaveCourse (withdraw (squashCourse s c 0) c) c .solo) c
    let halts := !x.asyncs.isEmpty
    modCtx s c (fun y =>
      { y with st := .saved, prior := if halts then .parked else x.st, stopped := x.stopped || halts,
               readyHeld := y.readyHeld || (halts && y.ready), ready := y.ready && !halts, yielding := false })

/-- Started matrix commands finish (R205). -/
def finishStarted : Nat → State → Nat → State
  | 0, s, _ => s
  | n + 1, s, core =>
    if (coreAt s core).mq.any (·.started) then finishStarted n (finishCommand (finishCommand s core 7) core 15) core else s

/-- One member core is saved. DESIGN CHOICE (log entry 74): a repartition that it still waits for is dropped. -/
def saveCore (s : State) (core : Nat) : State :=
  let s := finishStarted (coreAt s core).mq.length s core
  let s := (coreAt s core).ctxs.foldl (fun s e => saveCtx s ⟨core, e.1⟩) s
  let s := (coreAt s core).ctxs.foldl (fun s e =>
    if (ctxAt s ⟨core, e.1⟩).st == .saved then
      spillHeld (heldFor (coreAt s core) e.1).length s ⟨⟨core, e.1⟩, partHolding s core, none⟩
    else s) s
  let s := modCore s core (fun k => { k with saving := true, pend := false, repartBy := none })
  writeRecord s core

/-- Changes the gang of a partition that a core belongs to. -/
def modGang (s : State) (die part : Nat) (gang : Option (Nat × Nat)) (f : Gang → Gang) : State :=
  match gang with
  | none => s
  | some (lid, n) => modLaunch s die part lid (fun l =>
      { l with gangs := l.gangs.map (fun g => if g.num = n then f g else g) })

/-- A core that holds a live context is pre-empted, a bond whole (R203). A launch with gangs to restore may now be the served
one (R353). -/
def preemptCore (s : State) (core : Nat) : State :=
  let ms := bondMembers s core
  let part := partHolding s core
  if (coreAt s core).saving || !(ms.any (fun k => (coreAt s k).ctxs.any (fun e => isLive e.2))) then s
  else outrank (modGang (ms.foldl saveCore s) (dieOf core) part (coreAt s core).gang (fun g => { g with saved := true })) (dieOf core) part

/-- PREEMPTION (R203). -/
def execPreemption (core : Nat) (s : State) : Result := .next (preemptCore s core)

/-! ## The place of a saved core -/

/-- A mark of a gang. -/
def gangMark (gang : Option (Nat × Nat)) : Nat :=
  match gang with
  | none => 1
  | some (lid, n) => 2 + lid + 2 ^ 16 * n

/-- What the mark of a gang adds to the holder numbers of a core that stands aside: the numbers are its own again after the
restore. -/
def asideMark (gang : Option (Nat × Nat)) : Nat := 2 ^ 20 * gangMark gang

/-- Holder numbers of a core's contexts are changed in the handles of a partition. -/
def relabel (s : State) (die part : Nat) (f : Nat → Nat) : State :=
  let g := fun (t : Tenure) => { t with holder := f t.holder }
  modPart s die part (fun p => { p with handles := p.handles.map (fun h => { h with tens := h.tens.map g, lodged := h.lodged.map g }) })

/-- {CLUSTER, CORE} of a core in a partition as the upper bits of a holder number. -/
def holderBase (s : State) (die part core : Nat) : Nat :=
  let (cl, co) := relName s die part core
  cl * 8 + co

/-- The queues of the classes that satisfy a test. -/
def queuesOf (k : Core) (test : Nat → Bool) : Tab (List QMsg) := k.queues.filter (fun e => test e.1)

/-- A saved core gives its place to other work: its L1 is emptied, and all it holds stands aside but the messages of classes
that are not bound (R180, R204, R205). -/
def standAside (s : State) (core : Nat) : State :=
  let die := dieOf core
  let part := partHolding s core
  let s := writeRecord (emptyL1 s core) core
  let b := holderBase s die part core
  let k := coreAt s core
  let mark := asideMark k.gang
  let s := relabel s die part (fun h => if 0 < h && h < 2 ^ 20 && (h - 1) / 16 = b then h + mark else h)
  let bound := fun (cls : Nat) => (binderIn k cls).isSome
  let s := modPart s die part (fun p => { p with
    saves := p.saves ++ [(core, { k with queues := queuesOf k bound })]
    regions := p.regions.map (fun r => if r.by_.core = core && r.by_.ctx < 16 then
        { r with rcLog := (ctxIn k r.by_.ctx).rcLog, rcLogctl := (ctxIn k r.by_.ctx).rcLogctl
                 by_ := ⟨core, r.by_.ctx + 32 * gangMark k.gang⟩ }
      else r) })
  setCore s core { Core.blank with
    contexts := k.contexts, noGate := k.noGate, gated := k.gated, secded := k.secded, refusals := k.refusals
    regs := k.regs, shared := k.shared, bcache := k.bcache, spad := k.spad, srcost := k.srcost
    lastGrant := k.lastGrant, rotation := k.rotation, arrived := k.arrived, queues := queuesOf k (fun cls => !bound cls) }

/-! ## The arrangement of a cluster's L1s (R217) -/

/-- The L1s of a cluster pass to the other arrangement (R217). -/
def convertCluster (s : State) (cluster : Nat) (fused : Bool) : State :=
  let s := ((List.range 8).map (fun k => 8 * cluster + k)).foldl emptyL1 s
  modCluster s cluster (fun k => { k with fused := fused })

/-- Every core of a cluster is free. -/
def clusterFree (s : State) (cluster : Nat) : Bool :=
  (List.range 8).all (fun k => (coreAt s (8 * cluster + k)).ctxs.all (fun e => !isLive e.2))

/-! ## Restore (R209) -/

/-- What is saved of a place: still in it, and standing aside. -/
def savedPieces (s : State) (core : Nat) : List Thread :=
  (if (coreAt s core).saving then [⟨⟨core, 0⟩, partHolding s core, none⟩] else [])
    ++ (threadsOf s ⟨core, 0⟩).filter (·.aside.isSome)

/-- What is saved of a place for a gang. -/
def pieceOf (s : State) (gang : Option (Nat × Nat)) (core : Nat) : Option Thread :=
  (savedPieces s core).find? (fun t => (threadCore s t).gang = gang)

/-- The launch of a gang. -/
def launchOf (s : State) (die part : Nat) (gang : Option (Nat × Nat)) : Option Launch :=
  gang.bind (fun g => (partAt s die part).launches.find? (·.lid = g.1))

/-- The L1s of a cluster are, or may be put, in the arrangement of a gang (R217). -/
def arrangementFits (s : State) (die part : Nat) (gang : Option (Nat × Nat)) (cluster : Nat) : Bool :=
  match launchOf s die part gang with
  | none => true
  | some l => (clusterAt s cluster).fused == recFused l.words || clusterFree s cluster

/-- A saved core may come back: its place is reserved for no gang (R352) and free, or held by another saved core that may stand
aside (R205, R209), and the L1s of its cluster can take its arrangement (R217). -/
def mayRestore (s : State) (t : Thread) : Bool :=
  let core := t.c.core
  !coreReserved s core && (t.aside.isNone || (coreEmpty s core && ((coreAt s core).saving || ((coreAt s core).mq.isEmpty && (coreAt s core).journal.isEmpty))))
    && arrangementFits s (dieOf core) t.part (threadCore s t).gang (clusterOf core)

/-- Bytes of the save record as memory holds them. -/
def readSection (s : State) (die part : Nat) (base : Word) (off n : Nat) : Option (List Byte) :=
  coherentRead s (deviceWho die part) (addrOf base (off : Nat)) n

/-- A table of tokens read from a section; what it was where the section cannot be read. -/
def tokensFrom (bs : Option (List Byte)) (n : Nat) (old : Tab Wide) : Tab Wide :=
  match bs with
  | none => old
  | some b => (chunksOf 64 n b).zipIdx.foldl (fun t e => tabSet 0 t e.2 (BitVec.ofNat 512 e.1)) []

/-- Registers, accumulators and windows are reloaded, and the scratchpad image where the footprint is not resident. -/
def reload (s : State) (core : Nat) (image : Bool) : State :=
  let k := coreAt s core
  let rd := readSection s (dieOf core) (partHolding s core) k.saveBase
  let accs := (List.range 8).foldl (fun t a => match rd (0x4B000 + 0x4000 * a) 0x4000 with
    | none => t
    | some b => tabSet Acc.blank t a { tabGet Acc.blank t a with
        vals := (chunksOf 4 4096 b).zipIdx.foldl (fun t e => tabSet 0 t e.2 (BitVec.ofNat 32 e.1)) [] }) k.accs
  let wins := fun (x : Nat) (old : Tab (Word × Word)) => match rd (0x6C000 + 0x400 * x) 0x400 with
    | none => old
    | some b =>
      let ws := chunksOf 8 128 b
      (List.range 64).foldl (fun t n =>
        tabSet (0, 0) t n (BitVec.ofNat 64 (ws.getD (2 * n) 0), BitVec.ofNat 64 (ws.getD (2 * n + 1) 0))) []
  let spad := match (if image then rd 0x80000 (4096 * k.foot) else none) with
    | none => k.spad
    | some b => (b.zipIdx).foldl (fun t e => tabSet 0 t e.2 e.1) k.spad
  setCore s core { k with
    regs := tokensFrom (rd 0x1000 0x8000) 512 k.regs
    shared := tokensFrom (rd 0x9000 0x2000) 128 k.shared
    accs := accs
    ctxs := k.ctxs.map (fun e => (e.1, { e.2 with windows := wins e.1 e.2.windows }))
    spad := spad }

/-- Messages that a place took meanwhile join those that a core brings back. -/
def mergeQueues (back here : Tab (List QMsg)) : Tab (List QMsg) :=
  here.foldl (fun t e => tabSet [] t e.1 (tabGet [] t e.1 ++ e.2)) back

/-- What stood aside returns to its place. -/
def bringBack (s : State) (t : Thread) : State :=
  let core := t.c.core
  let die := dieOf core
  match t.aside with
  | none => reload s core false
  | some n =>
    let k := threadCore s t
    let mark := gangMark k.gang
    let s := modPart s die t.part (fun p => { p with saves := p.saves.eraseIdx n })
    let s := emptyL1 (if (coreAt s core).saving then standAside s core else s) core
    let b := holderBase s die t.part core
    let s := relabel s die t.part (fun h =>
      if h / 2 ^ 20 = mark && 0 < h % 2 ^ 20 && (h % 2 ^ 20 - 1) / 16 = b then h % 2 ^ 20 else h)
    let s := modPart s die t.part (fun p => { p with
      regions := p.regions.map (fun r => if r.by_.core = core && r.by_.ctx / 32 = mark then
          { r with by_ := ⟨core, r.by_.ctx % 32⟩ } else r) })
    let here := coreAt s core
    reload (setCore s core { k with
      bcache := here.bcache, spad := here.spad, clean := [], dirty := []
      arrived := max k.arrived here.arrived, queues := mergeQueues k.queues here.queues }) core true

/-- One member core of a gang is restored, and its spilled messages refill their queues. -/
def restoreCore (gang : Option (Nat × Nat)) (cycles : Nat) (s : State) (core : Nat) : State :=
  match pieceOf s gang core with
  | none => s
  | some t =>
    let s := modCore (bringBack s t) core (fun k => { k with saving := false, srcost := min (2 ^ 32 - 1) cycles })
    (coreAt s core).ctxs.foldl (fun s e => refillAll (ctxAt s ⟨core, e.1⟩).spillAt.length s ⟨core, e.1⟩) s

/-- The launch of a gang is one the distributor may restore now: the served one, where it waits (R351, R358). -/
def restoreDue (s : State) (die part : Nat) (gang : Option (Nat × Nat)) : Bool :=
  match launchOf s die part gang with
  | none => true
  | some l => l.st ≠ 0 || (served (partAt s die part)).any (·.lid = l.lid)

/-- The cores of the bond that a core belongs to, else the core itself. -/
def unitOf (k : Core) (core : Nat) : List Nat :=
  if k.kind = 1 then (maskCores k.set).map (fun m => 8 * (core / 8) + m) else [core]

/-- What is saved of a place may be restored now, with the members of its bond. -/
def restorable (s : State) (t : Thread) : Bool :=
  let k := threadCore s t
  (unitOf k t.c.core).all (fun m => (pieceOf s k.gang m).any (mayRestore s)) && restoreDue s (dieOf t.c.core) t.part k.gang

/-- A gang runs again when none of its cores is saved; a launch with no saved gang is Running. -/
def gangBack (s : State) (die part : Nat) (gang : Option (Nat × Nat)) : State :=
  let s' := modGang s die part gang (fun g =>
    if g.cores.any (fun k => (pieceOf s gang k).isSome) then g else { g with saved := false })
  match gang with
  | none => s'
  | some (lid, _) => modLaunch s' die part lid (fun l =>
      { l with st := if l.st = 0 && !l.gangs.isEmpty && !l.gangs.any (·.saved) then 2 else l.st })

/-- The L1s of a cluster take the arrangement of a gang (R217). -/
def arrangeFor (s : State) (die part : Nat) (gang : Option (Nat × Nat)) (cluster : Nat) : State :=
  match launchOf s die part gang with
  | none => s
  | some l => if (clusterAt s cluster).fused == recFused l.words then s else convertCluster s cluster (recFused l.words)

/-- CONTEXT_RESTORE (R208, R209): the time the save and the restore took is measured. -/
def execContextRestore (core cycles : Nat) (s : State) : Result :=
  .next (match (savedPieces s core).find? (restorable s) with
    | none => s
    | some t =>
      let k := threadCore s t
      let die := dieOf core
      let s := (unitOf k core).foldl (restoreCore k.gang cycles) (arrangeFor s die t.part k.gang (clusterOf core))
      settle (modPart (gangBack s die t.part k.gang) die t.part (fun p => { p with pmax := max p.pmax (min (2 ^ 32 - 1) cycles) })))

/-! ## QUANTUM_END (R358) -/

/-- A gang of a launch is on its cores. -/
def runsOn (s : State) (l : Launch) : Bool :=
  l.gangs.any (fun g => g.cores.any (fun k => (coreAt s k).gang = some (l.lid, g.num) && !(coreAt s k).saving))

/-- The resident launch of the lowest priority, the latest committed among equals. -/
def quantumVictim (s : State) (die part : Nat) : Option Launch :=
  ((partAt s die part).launches.filter (fun l => l.st ≠ 3 && runsOn s l)).foldl (fun (best : Option Launch) l =>
    match best with
    | none => some l
    | some b =>
      if recPrio l.words < recPrio b.words || (recPrio l.words = recPrio b.words && b.placedAt < l.placedAt) then some l
      else some b) none

/-- A saved gang can be placed: every core of it that is saved may come back. -/
def gangReturns (s : State) (l : Launch) (g : Gang) : Bool :=
  g.cores.all (fun k => (pieceOf s (some (l.lid, g.num)) k).all (mayRestore s))

/-- No gang of a waiting launch can be placed (R358): none of those it has saved, which come before its new ones, else no new
one. -/
def unplaceable (s : State) (die part : Nat) (l : Launch) : Bool :=
  if l.gangs.any (·.saved) then !(l.gangs.filter (·.saved)).any (gangReturns s l) else (placeFor s die part l).isNone

/-- QUANTUM_END (R358). -/
def execQuantumEnd (die part : Nat) (s : State) : Result :=
  let p := partAt s die part
  .next (match quantumVictim s die part with
    | none => s
    | some v =>
      let waits := fun (l : Launch) => l.lid ≠ v.lid && gangsLeft l && l.st ≠ 1 && recPrio v.words ≤ effPrio l
        && unplaceable s die part l
      if !p.launches.any waits then s
      else
        let s := ((v.gangs.flatMap (·.cores)).filter (fun k => (coreAt s k).gang.any (·.1 = v.lid))).foldl preemptCore s
        let s := modPart s die part (fun p => { p with reserve := p.reserve.filter (·.lid ≠ v.lid) })
        outrank (modLaunch s die part v.lid (fun l => { l with st := 0, aged := 0 })) die part)

end Sys2Proof.Machine
end

