-- ==== Sys2Proof/Machine/Placement.lean ====
section
/-! DEFINITION. Placing gangs: reservation and commit (R348, R352), and the powering of clusters (R354, R380). -/

namespace Sys2Proof.Machine

open Sys2Proof

/-! ## Power (R354, R380) -/

/-- A cluster holds nothing: no context, no gang placed, no reservation. -/
def clusterIdle (s : State) (cluster : Nat) : Bool :=
  let die := cluster / 32
  let cores := (List.range 8).map (fun k => 8 * cluster + k)
  cores.all (fun k => !(coreAt s k).saving && (coreAt s k).jobs.isEmpty
      && (coreAt s k).ctxs.all (fun e => e.2.st == .free && !e.2.reserved))
    && (List.range 8).all (fun p =>
      let q := partAt s die p
      q.launches.all (fun l => l.gangs.all (fun g => !(g.cores.any cores.contains)))
        && q.reserve.all (fun r => !(r.cores.any cores.contains)))

/-- What a scratchpad holds once its power has gone (R380): nothing is said, so each byte is free. -/
def lostSpad (n core : Nat) : Tab Byte :=
  (List.range (2 ^ 19)).filterMap (fun o => if Config.lostByte n core o = 0 then none else some (o, Config.lostByte n core o))

/-- CLUSTER_POWER_DOWN (R380): dirty L1 lines are written back; scratchpad, L1 and accumulators are lost. -/
def execClusterPowerDown (cluster : Nat) (s : State) : Result :=
  .next (if !(clusterAt s cluster).powered || !clusterIdle s cluster then s
    else
      let cores := (List.range 8).map (fun k => 8 * cluster + k)
      let s := cores.foldl emptyL1 s
      let n := s.freeCounter
      let s := cores.foldl (fun s k => modCore s k (fun q => { q with spad := lostSpad n k, accs := [] })) s
      modCluster { s with freeCounter := n + 1 } cluster (fun k => { k with powered := false }))

/-! ## Reservation (R352) -/

/-- The layout that a gang's cores take. -/
def gangLayout (ws : List Word) : Nat := if recKind ws = 0 then recCtxs ws else 1

/-- A core is made ready for a gang: what is saved in it stands aside, and it is repartitioned (R124). -/
def prepareCore (n : Nat) (s : State) (core : Nat) : State :=
  let s := if (coreAt s core).saving then standAside s core else s
  let s := modCluster s (clusterOf core) (fun k => { k with powered := true })
  modCore s core (fun k => { setLayout n k with refused := false })

/-- GANG_RESERVE (R352): the served launch's saved gangs come first (R358). -/
def execGangReserve (die part : Nat) (s : State) : Result :=
  let p := partAt s die part
  .next (match p.reserve, served p with
    | none, some l =>
      if l.gangs.any (·.saved) || gangTotal l.words ≤ l.nextGang then s
      else
        match placeFor s die part l with
        | none => s
        | some cs =>
          let s := cs.foldl (prepareCore (gangLayout l.words)) s
          let s := modPart s die part (fun p => { p with reserve := some ⟨l.lid, l.nextGang, cs⟩ })
          modLaunch s die part l.lid (fun l => { l with st := 1 })
    | _, _ => s)

/-! ## Commit (R348, R352) -/

/-- What a partition takes over at the launch of a record (R195, R227, R269, R311, R401): FAB.ACCEPT.EN is 0 at every launch.
LEASE is as at launch where no other launch is resident. -/
def installTables (s : State) (die part : Nat) (l : Launch) : State :=
  let alone := (partAt s die part).launches.all (fun q => q.gangs.isEmpty)
  modPart s die part (fun p =>
    { p with route := l.route, groups := l.groups, trapImg := l.words.getD 6 0
             thBase := l.words.getD 8 0, thCap := recField l.words 9 0 16
             lease := if alone then 16 else p.lease, fabAccept := p.fabAccept &&& ~~~1, collEnded := [] })

/-- The units of a gang: the cores of each bond or course. -/
def gangUnits (ws : List Word) (cs : List Nat) : List (List Nat) :=
  if recKind ws = 0 then cs.map (fun k => [k])
  else (List.range (recUnits ws)).map (fun u => (cs.drop (recWidth ws * u)).take (recWidth ws))

/-- The member mask of a unit. -/
def unitMask (u : List Nat) : BitVec 8 := BitVec.ofNat 8 ((u.map (fun k => 2 ^ (k % 8))).sum)

/-- A core takes its arrangement, footprint and save area; accumulators and job numbers begin anew (R218, R243, R346). -/
def armCore (s : State) (die part : Nat) (ws : List Word) (gang : Nat × Nat) (u : List Nat) (core : Nat) : State :=
  let (cl, co) := relName s die part core
  modCore s core (fun k =>
    { k with kind := recKind ws, set := if recKind ws = 0 then 0 else unitMask u, foot := recFoot ws
             saveBase := addrOf (ws.getD 10 0) (2 ^ 20 * (8 * cl + co) : Nat)
             gang := some gang, accs := [], jobSeq := 0, bound := [], ctxs := k.ctxs.map (fun e => (e.1, { e.2 with course := .solo })) })

/-- The threads of a gang: context, and x2 (R348). -/
def gangThreads (ws : List Word) (cs : List Nat) : List (CtxId × Nat) :=
  match recKind ws with
  | 0 => (List.range (recUnits ws)).map (fun t => (⟨cs.getD (t / max 1 (recCtxs ws)) 0, t % max 1 (recCtxs ws)⟩, t))
  | 1 => (gangUnits ws cs).zipIdx.map (fun e => (⟨e.1.headD 0, 0⟩, e.2))
  | _ => (gangUnits ws cs).zipIdx.flatMap (fun e => e.1.zipIdx.map (fun m => (⟨m.1, 0⟩, 8 * e.2 + m.2)))

/-- One thread starts (R348). -/
def startGangThread (die part : Nat) (l : Launch) (g : Nat) (cs : List Nat) (s : State) (e : CtxId × Nat) : State :=
  let ws := l.words
  let s := startThread s e.1 (ws.getD 0 0) (recRank ws) part (some (die, l.lid)) g
    [(0, (ws.getD 1 0).setWidth 512), (1, BitVec.ofNat 512 g), (2, BitVec.ofNat 512 e.2), (3, BitVec.ofNat 512 (l.lid * 2 ^ 48))]
  let s := if recKind ws = 2 then
      modCtx s e.1 (fun x => { x with course := (if e.2 % 8 = 0 then .leader else .follower)
                                      lead := cs.getD (recWidth ws * (e.2 / 8)) 0 })
    else s
  acquire s e.1 2

/-- A reserved gang starts. -/
def startGang (s : State) (die part : Nat) (l : Launch) (r : Reservation) : State :=
  let s := if l.nextGang = 0 then installTables s die part l else s
  let s := (gangUnits l.words r.cores).foldl (fun s u => u.foldl (fun s k => armCore s die part l.words (l.lid, r.gang) u k) s) s
  let s := (gangThreads l.words r.cores).foldl (startGangThread die part l r.gang r.cores) s
  let order := (dieAt s die).order
  let s := modDie s die (fun d => { d with order := d.order + 1 })
  let s := modPart s die part (fun p => { p with reserve := none })
  modLaunch s die part l.lid (fun l =>
    { l with st := 2, nextGang := l.nextGang + 1, gangs := l.gangs ++ [⟨r.gang, r.cores, false⟩], placedAt := order })

/-- GANG_COMMIT (R352): a cluster in the other L1 arrangement is converted once every core of it is free. A reservation that a
launch of higher priority overtook is withdrawn instead (R353). -/
def execGangCommit (die part : Nat) (s : State) : Result :=
  let s := outrank s die part
  let p := partAt s die part
  .next (match p.reserve with
    | none => s
    | some r =>
      match p.launches.find? (·.lid = r.lid) with
      | none => s
      | some l =>
        let cluster := clusterOf (r.cores.headD 0)
        if (clusterAt s cluster).fused == recFused l.words then startGang s die part l r
        else if !clusterFree s cluster then s
        else startGang (convertCluster s cluster (recFused l.words)) die part l r)

end Sys2Proof.Machine
end

