-- ==== Sys2Proof/Machine/Completion.lean ====
section
/-! DEFINITION. The end of a launch (R350, R362) and quiescence (R359 to R361). -/

namespace Sys2Proof.Machine

open Sys2Proof

/-! ## The end of a launch (R350, R362) -/

/-- The cores of a partition. -/
def partCores (s : State) (die part : Nat) : List Nat :=
  (coreNums s).filter (fun k => !isMgmt k && dieOf k = die && (cfgClusters (partAt s die part).cfg).contains (pclusterOf k))

/-- Contexts of a launch that hold a thread. -/
def launchContexts (s : State) (die part lid : Nat) : List CtxId :=
  (partCores s die part).flatMap (fun k => ((coreAt s k).ctxs.filter (fun e =>
    e.2.st != .free && e.2.launch == some (die, lid))).map (fun e => (⟨k, e.1⟩ : CtxId)))

/-- A launch may end: the management core ends it, it is quiescent with QC set, or its last gang has retired. -/
def mayEnd (l : Launch) : Bool :=
  l.killed || l.quiesced || (l.gangs.isEmpty && gangTotal l.words ≤ l.nextGang)

/-- Posted stores of a launch's contexts are still on their way, or effects of theirs that wait behind a PHASE (R350 step 1). -/
def launchPosted (s : State) (die part lid : Nat) : Bool :=
  (partCores s die part).any (fun k => (coreAt s k).journal.any (fun j =>
    j.state = 1 && j.launch == some (die, lid)))
    || (launchContexts s die part lid).any (fun c => settling (ctxAt s c))

/-- Copies of messages of a context that have not arrived. -/
def copiesLeft (x : Ctx) : Nat := ((x.sendq ++ x.notifs).map (·.dsts.length)).sum

/-- Messages of a partition that are discarded have not been sent, so that its totals meet again (R359). DESIGN CHOICE (log
entry 76). -/
def unsend (s : State) (die part n : Nat) : State := modPart s die part (fun p => { p with sent := p.sent - n })

/-- What is left of the records in a delivery slot when their thread has ended: they go to their handlers (R197). -/
def lastRecords (rs : List Record) : List Record := rs.map (fun r => { r with stops := false })

/-- A context ends as at QUIT (R176, R362): what it had in flight is squashed, its messages and watch are discarded. -/
def endThread (s : State) (c : CtxId) : State :=
  let s := withdraw (squashCourse s c 0) c
  let x := ctxAt s c
  let mine := fun (cls : Nat) => binderIn (coreAt s c.core) cls = some c.ctx
  let s := unsend s (dieOf c.core) x.part (copiesLeft x)
  let s := modCtx s c (fun x =>
    { x with sendq := [], notifs := [], slot := lastRecords x.slot, stopped := false, phases := [], late := [], spillAt := [] })
  let s := modCore s c.core (fun k => { k with saving := false, queues := queuesOf k (fun cls => !mine cls) })
  if x.st == .draining && x.late.isEmpty then abandonJobs s c else quitThread s c

/-- What a thread that stands aside leaves: its records (R197), and none of its messages. -/
def dropThread (s : State) (t : Thread) : State :=
  let x := threadAt s t
  modCtx (unsend s (dieOf t.c.core) t.part (copiesLeft x)) t.c (fun y => { y with slot := y.slot ++ lastRecords x.slot })

/-- What a core that stands aside holds ends with its launch: threads, cards its jobs fetched for, and tenures (R222, R226,
R297, R362). -/
def dropPiece (s : State) (t : Thread) : State :=
  let die := dieOf t.c.core
  let k := threadCore s t
  let b := holderBase s die t.part t.c.core
  let s := k.ctxs.foldl (fun s e => dropThread s { t with c := ⟨t.c.core, e.1⟩ }) s
  let s := (k.jobs.filterMap (·.card)).foldl (fun s n => cancelCard s (clusterOf t.c.core) n) s
  let held := (partAt s die t.part).handles.flatMap (fun h => (h.tens.filter (fun q =>
    q.holder / 2 ^ 20 = gangMark k.gang && (q.holder % 2 ^ 20 - 1) / 16 = b)).map (fun q => (h.idx, q.holder)))
  held.foldl (fun s q => match (partAt s die t.part).handles.find? (·.idx = q.1) with
    | some h => releaseRecord s die t.part h q.2 none
    | none => s) s

/-- What stands aside for a launch ends with it. -/
def dropAside (s : State) (die part lid : Nat) : State :=
  let saves := (partAt s die part).saves
  let gone := fun (e : Nat × Core) => e.2.gang.any (·.1 = lid)
  let s := (List.range saves.length).foldl (fun s n => match saves[n]? with
    | some e => if gone e then dropPiece s ⟨⟨e.1, 0⟩, part, some n⟩ else s
    | none => s) s
  modPart s die part (fun p => { p with saves := p.saves.filter (fun e => !gone e) })

/-- A context of a launch that the management core ends runs no block any more (R362). -/
def haltThread (s : State) (c : CtxId) : State :=
  let s := squashCourse s c 0
  if (ctxAt s c).st == .running then modCtx s c (fun x => { x with st := .parked, stopped := true, ready := false }) else s

/-- The collectives that a launch would have taken part in next, each by the CID that a context of it used and the number due
(R394; log entry 96). -/
def nextColls (s : State) (die part lid : Nat) : List (Nat × Nat) :=
  (((partContexts s die part).filter (fun c => (ctxAt s c).launch == some (die, lid))).flatMap (fun c =>
    let cids := (ctxAt s c).colls.map (fun q => collCid q.words)
    cids.eraseDups.map (fun d => (d, (cids.filter (· = d)).length)))).eraseDups

/-- Every gang of a launch is no longer Saved. -/
def forgetSaved (s : State) (die part lid : Nat) : State :=
  modLaunch s die part lid (fun l => { l with st := 3, gangs := l.gangs.map (fun g => { g with saved := false }) })

/-- Its regions are undeclared, its arenas destroyed; its tables go, or another resident launch's are in force again
(R362). The partition's last resident launch retires every live handle. -/
def clearLaunch (s : State) (die part : Nat) (l : Launch) : State :=
  let mine := some (die, l.lid)
  let s := ((partAt s die part).regions.filter (·.lid == mine)).foldl (fun s r => undeclareRegion s die part r) s
  let s := ((dieAt s die).arenas.filter (·.lid == mine)).foldl (fun s a => destroyArena s die a) s
  let s := modPart s die part (fun p =>
    { p with launches := p.launches.filter (·.lid ≠ l.lid), reserve := p.reserve.filter (·.lid ≠ l.lid)
             collEnded := p.collEnded ++ nextColls s die part l.lid })
  let others := (partAt s die part).launches.filter (fun q => !q.gangs.isEmpty)
  match others.foldl (fun (best : Option Launch) q => match best with
      | none => some q
      | some b => if b.placedAt < q.placedAt then some q else some b) none with
  | some q => modPart s die part (fun p => { p with route := q.route, groups := q.groups, trapImg := q.words.getD 6 0 })
  | none =>
    let s := (partAt s die part).handles.foldl (fun s h => answerRetired (retireHandle s die part h) die part h.idx (handleNum h)) s
    modPart s die part (fun p => { p with route := [], groups := [], pmax := 0, sample := none, quiet := false })

/-- The status word, and the successor (R347, R350). A queue that is full holds the push behind it. -/
def reportLaunch (s : State) (die part : Nat) (l : Launch) : State :=
  let s := if l.killed then writeStatus s die part l.words 0x02 0
    else writeStatus s die part l.words 0x00 (if l.quiesced then 0x02 else 0x01)
  let succ := l.words.getD 7 0
  if succ = 0 then s
  else modDie s die (fun d => { d with lqueue := d.lqueue ++ [.pointer succ part (recRank l.words)] })

/-- Some line of the counted regions of a launch is reserved by a block (R276 step 3). -/
def regionsReserved (s : State) (die part lid : Nat) : Bool :=
  (partAt s die part).regions.any (fun r => r.lid == some (die, lid) && anyReserved s (regionLines s die part r))

/-- The counted regions of a launch are Ending (R276 step 2). -/
def regionsEnding (s : State) (die part lid : Nat) : State :=
  modPart s die part (fun p => { p with regions := p.regions.map (fun r =>
    if r.lid == some (die, lid) then { r with ending := true } else r) })

/-- The steps of R350 for a launch that may end. One that the management core ends has its blocks squashed first (R362).
Contexts that drain hold it at step 2, and reservations of other blocks in its regions. -/
def endLaunch (s : State) (die part : Nat) (l : Launch) : State :=
  let cores := partCores s die part
  let s := if l.killed then (launchContexts s die part l.lid).foldl haltThread s else s
  let s := cores.foldl flushCore s
  if launchPosted s die part l.lid then s
  else
    let s := (launchContexts s die part l.lid).foldl endThread s
    let s := settle (forgetSaved (dropAside s die part l.lid) die part l.lid)
    if !(launchContexts s die part l.lid).isEmpty then s
    else if regionsReserved s die part l.lid then regionsEnding s die part l.lid
    else reportLaunch (clearLaunch (retireGangs s die part) die part l) die part l

/-- LAUNCH_COMPLETE (R350, R355, R362). -/
def execLaunchComplete (die lid : Nat) (s : State) : Result :=
  .next (match (List.range 8).findSome? (fun p =>
      ((partAt s die p).launches.find? (fun l => l.lid = lid && mayEnd l)).map (fun l => (p, l))) with
    | none => s
    | some (p, l) => endLaunch s die p l)

/-! ## Quiescence (R359 to R361) -/

/-- A resident launch: gangs of it are placed. -/
def resident (p : Part) : List Launch := p.launches.filter (fun l => !l.gangs.isEmpty)

/-- A context of a resident launch stands still: Parked, and nothing about to wake it. -/
def stillParked (s : State) (x : Ctx) : Bool := x.st == .free || (x.st == .parked && !mayWake s x)

/-- A context is stopped with its record owed to, or held by, the management core. -/
def mgmtHolds (die : Nat) (x : Ctx) : Bool := x.stopped && x.handlers.contains ⟨1024 + die, 0⟩

/-- A core of the partition holds nothing that moves; a collective counts as an engine operation (R394). -/
def coreQuiet (s : State) (die : Nat) (k : Core) : Bool :=
  k.jobs.isEmpty && k.mq.isEmpty && k.journal.isEmpty && !k.saving
    && k.ctxs.all (fun e => stillParked s e.2 && e.2.sendq.isEmpty && e.2.slot.isEmpty && !phasing e.2 && !mgmtHolds die e.2
      && !owesColl e.2)

/-- A sample of a partition (R359). -/
def takeSample (s : State) (die part : Nat) : Sample :=
  let p := partAt s die part
  let idle := (partCores s die part).all (fun k => coreQuiet s die (coreAt s k))
    && (cfgClusters p.cfg).all (fun c => (clusterAt s (32 * die + c)).cards.isEmpty)
    && p.reserve.isNone && p.saves.isEmpty && (p.launches.all (fun l => !l.gangs.any (·.saved)))
  ⟨idle, p.sent, p.received⟩

/-- Two samples show quiescence (R360). -/
def quietPair (a b : Sample) : Bool :=
  a.idle && b.idle && a.sent = a.received && a.sent = b.sent && b.sent = b.received

/-- The number of a context in its partition. -/
def contextOrder (s : State) (c : CtxId) : Nat := memberNum s c

/-- The lowest-numbered context of a list. -/
def lowestContext (s : State) (cs : List CtxId) : Option CtxId :=
  cs.foldl (fun (best : Option CtxId) c =>
    match best with
    | none => some c
    | some b => if contextOrder s c < contextOrder s b then some c else some b) none

/-- DEADLOCK is reported for a launch (R361): to the handler of its lowest Parked context that is not stopped, or to the
management core with MISROUTE set. -/
def reportDeadlock (s : State) (die part : Nat) (l : Launch) (cause : Nat) : State :=
  let cs := (launchContexts s die part l.lid).filter (fun c => (ctxAt s c).st == .parked)
  let r : RecordArgs := { cls := clsDeadlock, cause := cause, arg := BitVec.ofNat 64 cs.length, async := true }
  let s := modLaunch s die part l.lid (fun l => { l with reported := true })
  match lowestContext s (cs.filter (fun c => !(ctxAt s c).stopped)), lowestContext s cs with
  | some c, _ => asyncRecord s c r
  | none, some c =>
    let ws := recordWords s c { r with block := (ctxAt s c).next }
    modDie s die (fun d => { d with mgmt := d.mgmt ++ [(c, ⟨ws.set 0 (ws.getD 0 0 ||| (1 <<< 35)), part, false⟩)] })
  | none, none => s

/-- What follows for one resident launch of a quiescent partition; one that completes is past it. -/
def judgeQuiet (die part : Nat) (s : State) (l : Launch) : State :=
  if l.st = 3 then s
  else if l.nextGang < gangTotal l.words then (if l.reported then s else reportDeadlock s die part l 0x02)
  else if recQc l.words then modLaunch s die part l.lid (fun l => { l with st := 3, quiesced := true })
  else if l.reported then s
  else reportDeadlock s die part l 0x01

/-- QUIESCENCE_SAMPLE (R360, R361): sampling repeats while the partition has resident launches. -/
def execQuiescenceSample (die part : Nat) (s : State) : Result :=
  let p := partAt s die part
  .next (if (resident p).isEmpty then s
    else
      let now := takeSample s die part
      let quiet := p.sample.any (fun old => quietPair old now)
      let s := modPart s die part (fun p => { p with sample := some now, quiet := quiet })
      if !quiet || (dieAt s die).wake.getLsbD part then s
      else (resident p).foldl (judgeQuiet die part) s)

end Sys2Proof.Machine
end

