-- ==== Sys2Proof/Machine/Jobs.lean ====
section
/-! DEFINITION. What a cluster does of itself: mortar jobs (R218 to R222), the dispatch of task cards (R225), and the start
and finish of matrix commands (R245, R251). -/

namespace Sys2Proof.Machine

open Sys2Proof

/-! ## Mortar jobs (R220, R222) -/

/-- A Suspended job whose owner is Draining or Free, or Saved from Draining, is Abandoned (R210, R222). -/
def abandonDue (s : State) (core seq : Nat) : State :=
  match jobAt s core seq with
  | some j => if j.st == .suspended && ctxGone (ctxAt s (jobOwner j)) then abandonJobs s (jobOwner j) else s
  | none => s

/-- A job of a queue takes its turn, contexts that owe nothing any more become Free, and a saved core whose last job has
ended has its image written (R205). -/
def jobTurn (core seq : Nat) (turn : State → Nat → Job → State) (s : State) : State :=
  match jobAt s core seq with
  | none => s
  | some j => settle (writeImage (abandonDue (turn s core j) core seq) core)

/-- JOB_START (R222). -/
def execJobStart (core seq : Nat) (s : State) : Result := .next (jobTurn core seq startJob s)

/-- JOB_LAND (R220 steps 1 and 2). -/
def execJobLand (core seq : Nat) (s : State) : Result := .next (jobTurn core seq landJob s)

/-- JOB_COMPLETE (R220 steps 3 to 5). -/
def execJobComplete (core seq : Nat) (s : State) : Result := .next (jobTurn core seq completeJob s)

/-- JOB_FAULT (R222). -/
def execJobFault (core seq : Nat) (s : State) : Result := .next (jobTurn core seq faultJob s)

/-! ## Task cards (R225) -/

/-- The fetched regions of a card: base, scratchpad offset and length. -/
def fetchedRegions (ws : List Word) : List (Word × Nat × Nat) :=
  ((List.range 4).map (cardRegion ws)).filterMap (fun r => if r.2.1 = 1 then some (r.1, r.2.2.1, r.2.2.2) else none)

/-- A fetched region of a card overlaps a range that a running task of the core holds pinned (R225). -/
def pinnedMeets (k : Cluster) (core : Nat) (ws : List Word) : Bool :=
  k.cards.any (fun d => d.st = 3 && d.target.any (·.core = core) && (fetchedRegions d.words).any (fun a =>
    (fetchedRegions ws).any (fun b => spansMeet a.2.1 (a.2.1 + a.2.2) b.2.1 (b.2.1 + b.2.2))))

/-- The context in which a core would run a card, where the core qualifies (R225). -/
def cardContext (s : State) (core : Nat) (d : Card) : Option CtxId :=
  if pinnedMeets (clusterAt s (clusterOf core)) core d.words then none
  else ((List.range 16).find? (freeContext s core)).map (fun n => ⟨core, n⟩)

/-- The context that a card of a cluster is placed on: its named core, or the lowest core that qualifies. -/
def cardPlace (s : State) (cluster : Nat) (d : Card) : Option CtxId :=
  let w2 := (d.words.getD 2 0).toNat
  if w2.testBit 3 then (List.range 8).findSome? (fun k => cardContext s (8 * cluster + k) d)
  else cardContext s (8 * cluster + w2 % 8) d

/-- The fat pointer of an offset in a core's own scratchpad (R57). -/
def ownSpad (o : Nat) : Word := BitVec.ofNat 64 (2 ^ 61 + 2 ^ 22 + o)

/-- The job that fetches a region. -/
def fetchJob (r : Word × Nat × Nat) : JobDesc :=
  { blankJob with src := r.1, dest := ownSpad r.2.1, n0 := r.2.2, n1 := 1, n2 := 1 }

/-- Changes one card of a cluster. -/
def modCard (s : State) (cluster num : Nat) (f : Card → Card) : State :=
  modCluster s cluster (fun k => { k with cards := k.cards.map (fun q => if q.num = num then f q else q) })

/-- The regions of a placed card whose fetch jobs have not been issued. -/
def fetchesLeft (d : Card) : List (Word × Nat × Nat) := (fetchedRegions d.words).drop d.jobs.length

/-- The fetch job of a region enters the mortar queue of a core, owned by the submitter, if it has room (R218, R225). -/
def issueFetch (cluster : Nat) (d : Card) (t : CtxId) (s : State) (r : Word × Nat × Nat) : State :=
  let k := coreAt s t.core
  if 16 ≤ k.jobs.length then s
  else
    modCard (enterJob s t.core d.owner (fetchJob r) (some d.num)) cluster d.num (fun q => { q with jobs := q.jobs ++ [k.jobSeq] })

/-- The fetch jobs of a placed card are issued, as far as the queue of its core has room. -/
def issueFetches (s : State) (cluster : Nat) (d : Card) (t : CtxId) : State :=
  (fetchesLeft d).foldl (issueFetch cluster d t) s

/-- A card is placed: the context is reserved, and its fetch jobs are issued (R225). -/
def placeCard (s : State) (cluster : Nat) (d : Card) (t : CtxId) : State :=
  let s := modCard (modCtx s t (fun x => { x with reserved := true })) cluster d.num (fun q => { q with st := 2, target := some t, jobs := [] })
  issueFetches s cluster { d with jobs := [] } t

/-- The oldest placed card that has fetch jobs to issue, with its context, where that core's queue has room. -/
def fetchDue (s : State) (cluster : Nat) : Option (Card × CtxId) :=
  (clusterAt s cluster).cards.findSome? (fun d =>
    if d.st = 2 && !(fetchesLeft d).isEmpty then
      (d.target.filter (fun t => (coreAt s t.core).jobs.length < 16)).map (fun t => (d, t))
    else none)

/-- CARD_DISPATCH (R225): fetch jobs of a placed card that waited for room are issued; else the oldest Ready card with a core
that qualifies is placed. -/
def execCardDispatch (cluster : Nat) (s : State) : Result :=
  let ready := (clusterAt s cluster).cards.filter (·.st = 1)
  .next (match fetchDue s cluster, ready.findSome? (fun d => (cardPlace s cluster d).map (fun t => (d, t))) with
    | some (d, t), _ => issueFetches s cluster d t
    | none, some (d, t) => placeCard s cluster d t
    | none, none => s)

/-- The values of x0 to x4 in a task's context (R225). -/
def taskRegs (ws : List Word) : List (Nat × Wide) :=
  (0, (ws.getD 1 0).setWidth 512)
    :: (List.range 4).map (fun j =>
      let r := cardRegion ws j
      (j + 1, if r.2.1 = 1 then (ownSpad r.2.2.1).setWidth 512 else 0))

/-- The thread of a card starts in its reserved context, and joins its submitter's launch. -/
def startTask (s : State) (cluster : Nat) (d : Card) (c : CtxId) : State :=
  let o := ctxAt s d.owner
  let s := startThread s c (d.words.getD 0 0) d.rank o.part o.launch o.gang (taskRegs d.words)
  let s := acquire (modCtx s c (fun x => { x with task := some d.num })) c 1
  modCluster s cluster (fun k => { k with cards := k.cards.map (fun q => if q.num = d.num then { q with st := 3 } else q) })

/-- TASK_START (R225): the fetch jobs of the card are Done. -/
def execTaskStart (c : CtxId) (s : State) : Result :=
  let cluster := clusterOf c.core
  .next (match (clusterAt s cluster).cards.find? (fun d => d.st = 2 && d.target == some c) with
    | none => s
    | some d =>
      if !(fetchesLeft d).isEmpty || (coreAt s c.core).jobs.any (fun j => j.card == some d.num) then s else startTask s cluster d c)

/-! ## Matrix commands (R245, R249, R252, R253) -/

/-- MATRIX_COMMAND_START (R245). -/
def execMatrixCommandStart (core brick : Nat) (s : State) : Result := .next (modCore s core (fun k => startCommand s k brick))

/-- MATRIX_COMMAND_FINISH (R251). -/
def execMatrixCommandFinish (core brick : Nat) (s : State) : Result := .next (settle (finishCommand s core brick))

end Sys2Proof.Machine
end

