-- ==== Sys2Proof/Machine/Move.lean ====
section
/-! DEFINITION. Class 0x7, moves, lanes, constants and reductions (R109 to R111): the value of each instruction on
its operands, and its meaning. -/

namespace Sys2Proof.Machine

open Sys2Proof

/-- SEL (R109). -/
def valSel (f : GFields) (a b c : Wide) : Wide × BitVec 6 :=
  plain (if f.wide then (a &&& c) ||| (b &&& ~~~c) else if c.getLsbD 0 then a else b)

/-- CONST (R109, R45): the scalar result extends as R62 states. -/
def valConst (f : GFields) : Wide × BitVec 6 := perLane f.ty f.wide (fun i => (immLane f.ty (immN f) i, 0))

/-- CONSTH (R109). -/
def valConsth (f : GFields) (a : Wide) : Wide × BitVec 6 := plain (scalar64 (laneN 48 a 0 * 2 ^ 16 + immN f))

/-- The lane index of LANE, INSL and LROT (R109). -/
def laneIndex (f : GFields) (b : Wide) : Nat := if f.imm then immN f else laneN f.ty.width b 0

def valLane (f : GFields) (a b : Wide) : Wide × BitVec 6 :=
  plain (scalarOf f.ty (dataLane f.ty a (laneIndex f b % laneCount f.ty.width)))

def valInsl (f : GFields) (a b c : Wide) : Wide × BitVec 6 :=
  let w := f.ty.width
  let k := laneIndex f b % laneCount w
  plain (fromLanes w (laneCount w) (fun i => if i = k then dataLane f.ty c 0 else dataLane f.ty a i))

def valBcast (f : GFields) (a : Wide) : Wide × BitVec 6 :=
  plain (fromLanes f.ty.width (laneCount f.ty.width) (fun _ => dataLane f.ty a 0))

def valPerm (f : GFields) (a b : Wide) : Wide × BitVec 6 :=
  let w := f.ty.width
  plain (fromLanes w (laneCount w) (fun i => dataLane f.ty a (laneN w b i % laneCount w)))

def valLrot (f : GFields) (a b : Wide) : Wide × BitVec 6 :=
  let w := f.ty.width
  plain (fromLanes w (laneCount w) (fun i => dataLane f.ty a ((i + laneIndex f b) % laneCount w)))

/-- One level of the pairwise tree of R81, numbering the additions from k; the results and their flags. -/
def pairUp (op : Nat → Nat → Nat → LaneRes) : Nat → List Nat → List Nat × BitVec 6
  | k, x :: y :: t =>
    let r := op k x y
    let rest := pairUp op (k + 1) t
    (r.1 :: rest.1, r.2 ||| rest.2)
  | _, _ => ([], 0)

/-- The pairwise reduction of R81, with fuel for its levels. -/
def reduceTree (op : Nat → Nat → Nat → LaneRes) : Nat → Nat → List Nat → LaneRes
  | 0, _, l => (l.headD 0, 0)
  | n + 1, k, l =>
    if l.length ≤ 1 then (l.headD 0, 0)
    else
      let r := pairUp op k l
      let rest := reduceTree op n (k + l.length / 2) r.1
      (rest.1, r.2 ||| rest.2)

/-- A reduction of all lanes to a scalar (R110). -/
def valReduce (ty : ElemType) (a : Wide) (op : Nat → Nat → Nat → LaneRes) : Wide × BitVec 6 :=
  let r := reduceTree op 6 0 ((List.range (laneCount ty.width)).map (laneN ty.width a))
  (scalarOf ty r.1, r.2)

def valRedadd (f : GFields) (a : Wide) : Wide × BitVec 6 :=
  valReduce f.ty a (fun _ x y => fitInt f.ty f.sat (readInt f.ty x + readInt f.ty y))

def valRedminmax (f : GFields) (less : Bool) (a : Wide) : Wide × BitVec 6 :=
  valReduce f.ty a (fun _ x y =>
    if expBits f.ty = 0 then
      let p := readInt f.ty x
      let q := readInt f.ty y
      (if (if less then p ≤ q else q ≤ p) then x else y, 0)
    else (minMaxF f.ty less x y, 0))

def valFredadd (f : GFields) (r : Rounding) (a : Wide) : Wide × BitVec 6 :=
  valReduce f.ty a (fun k x y =>
    deliverF f.ty r.mode f.sat (r.draw k) (exactAdd (isDown r) (readF f.ty x) (readF f.ty y)))

/-! ## Meanings -/

/-- MOV (R109). -/
def execMov (f : GFields) (s : State) : Result := compute (.mov f) s (fun _ a _ _ => plain a)
/-- SEL (R109). -/
def execSel (f : GFields) (s : State) : Result := compute (.sel f) s (fun _ => valSel f)
/-- CONST (R109, R111). -/
def execConstI (f : GFields) (s : State) : Result := compute (.constI f) s (fun _ _ _ _ => valConst f)
/-- CONSTH (R109). -/
def execConsth (f : GFields) (s : State) : Result := compute (.consth f) s (fun _ a _ _ => valConsth f a)
/-- NUL (R111): a null token to every target. -/
def execNul (f : GFields) (s : State) : Result :=
  fire (.nul f) s (fun _ _ _ s => fired (.nul f) { r0 := some nullTok, r1 := some nullTok } s)
/-- LANE (R109). -/
def execLane (f : GFields) (s : State) : Result := compute (.lane f) s (fun _ a b _ => valLane f a b)
/-- INSL (R109). -/
def execInsl (f : GFields) (s : State) : Result := compute (.insl f) s (fun _ => valInsl f)
/-- BCAST (R109). -/
def execBcast (f : GFields) (s : State) : Result := compute (.bcast f) s (fun _ a _ _ => valBcast f a)
/-- PERM (R109). -/
def execPerm (f : GFields) (s : State) : Result := compute (.perm f) s (fun _ a b _ => valPerm f a b)
/-- LROT (R109). -/
def execLrot (f : GFields) (s : State) : Result := compute (.lrot f) s (fun _ a b _ => valLrot f a b)
/-- REDADD (R110). -/
def execRedadd (f : GFields) (s : State) : Result := compute (.redadd f) s (fun _ a _ _ => valRedadd f a)
/-- REDMIN (R110). -/
def execRedmin (f : GFields) (s : State) : Result := compute (.redmin f) s (fun _ a _ _ => valRedminmax f true a)
/-- REDMAX (R110). -/
def execRedmax (f : GFields) (s : State) : Result := compute (.redmax f) s (fun _ a _ _ => valRedminmax f false a)
/-- FREDADD (R110). -/
def execFredadd (f : GFields) (s : State) : Result := computeR (.fredadd f) s f.rnd (fun r a _ _ => valFredadd f r a)

end Sys2Proof.Machine
end

