-- ==== Sys2Proof/Machine/Package.lean ====
section
/-! DEFINITION. Kiln: boot, images, recovery and attestation (R374 to R378); power (R380); links and ports (R366, R370, R383,
R384). -/

namespace Sys2Proof.Machine

open Sys2Proof

/-! ## Firmware images (R376) -/

/-- Bytes of an image from an offset. -/
def imagePart (im : List Byte) (off n : Nat) : List Byte := (im.drop off).take n
def imageLen (im : List Byte) : Nat := ofBytes (imagePart im 0x0C 4)
def imagePayload (im : List Byte) : List Byte := imagePart im 0x2000 (imageLen im)
def imageSvn (im : List Byte) : Nat := ofBytes (imagePart im 0x08 4)

/-- The checks of R376 in the order of its table. -/
def imageChecks (im : List Byte) : List Bool :=
  [0x2000 ≤ im.length && ofBytes (imagePart im 0 8) = 0x4A52443446570001,
   Config.fusedSvn ≤ imageSvn im,
   imageLen im % 4096 = 0 && 4096 ≤ imageLen im && imageLen im ≤ 2 ^ 25 && 0x2000 + imageLen im ≤ im.length,
   imagePart im 0x10 64 == Config.sha512 (imagePayload im),
   Config.sha512 (imagePart im 0x50 32) == Config.fusedEdKey,
   Config.sha512 (imagePart im 0x70 1952) == Config.fusedMlKey,
   Config.edVerify (imagePart im 0x50 32) (imagePart im 0 0x810) (imagePart im 0x810 64),
   Config.mldsaVerify (imagePart im 0x70 1952) (imagePart im 0 0x810) (imagePart im 0x850 3309),
   (imagePart im 0x153D 2755).all (· = 0)]

/-- The number of the first check that an image fails; none for an accepted image. -/
def imageFault (im : List Byte) : Option Nat := (imageChecks im).findIdx? (· = false)

/-! ## Boot (R375, R377) -/

/-- A width code of CAP.PKG (R382); a number that is none stands for x16. -/
def widthCode (w : Nat) : Nat := if w = 0x0 || w = 0x4 || w = 0x8 then w else 0xF

/-- The host ports train, each at a width of its own (R370, R375, R377). -/
def trainPorts (s : State) : State :=
  let n := s.freeCounter
  { s with freeCounter := n + 1
           pkg := { s.pkg with p0w := widthCode (Config.trainedWidth n 0), p1w := widthCode (Config.trainedWidth n 1) } }

/-- A fabric port (R384). -/
def portAt (s : State) (n : Nat) : Port := tabGet Port.blank s.pkg.ports n
def modPort (s : State) (n : Nat) (f : Port → Port) : State :=
  { s with pkg := { s.pkg with ports := tabSet Port.blank s.pkg.ports n (f (portAt s n)) } }

/-- The lanes at which a port has trained: 8, 4 or 2, or none where it is down (R384). -/
def portLanes (n : Nat) : Nat := if n = 8 || n = 4 || n = 2 then n else 0

/-- What the management cores set up at bring-up (R383): the node number, the routing table, and the ports as they trained
(log entry 95). -/
def bringUp (s : State) : State :=
  let s := (List.range 16).foldl (fun s n =>
    modPort s n (fun q => { q with peer := Config.fabricPeer n % 2 ^ 17, lanes := portLanes (Config.fabricLanes n) })) s
  { s with pkg := { s.pkg with node := Config.fabricNode % 2 ^ 17, routes := Config.fabricRoutes } }

/-- An image is accepted (R375 step 1, R376, R377): its DIGEST and SVN are what a report carries (R378). -/
def acceptImage (im : List Byte) (s : State) : State :=
  { s with kiln := { s.kiln with digest := imagePart im 0x10 64, svn := imageSvn im } }

/-- Each die's management core takes its firmware from the image (R375 step 2). -/
def loadFirmware (im : List Byte) (s : State) : State :=
  (List.range 4).foldl (fun s d => modDie s d (fun q => { q with firmware := imagePayload im })) s

/-- A die takes its fuses (R375 step 4). Its management core is in no partition, at rank 7 (R363; log entries 12, 51). -/
def readyDie (s : State) (d : Nat) : State :=
  modCtx (modDie s d (fun q => { q with coreMask := Config.coreFuses d })) ⟨1024 + d, 0⟩
    (fun x => { x with rank := 7, part := noPart })

/-- The end of boot with an accepted image: the host ports train, the fuses are read, READY. -/
def readyBoot (s : State) : State :=
  let s := bringUp ((List.range 4).foldl readyDie (trainPorts s))
  { s with kiln := { s.kiln with bootStep := 5, status := Config.kilnStatus 5 0 }
           pkg := { s.pkg with dies := 0xF } }

/-- Boot stops at a step with a cause. -/
def stopBoot (at_ cause : Nat) (s : State) : State :=
  { s with kiln := { s.kiln with bootStep := at_, status := Config.kilnStatus at_ cause } }

/-- Boot stops at step 1: kiln trains the ports for the recovery (R377). -/
def stopFirst (cause : Nat) (s : State) : State := trainPorts (stopBoot 1 cause s)

/-- The step at which a boot with an accepted image fails; none where it comes to READY. -/
def bootFails (s : State) : Option Nat :=
  let k := Config.trainingFault s.freeCounter
  if 2 ≤ k && k ≤ 4 then some k else none

/-- Steps 2 to 4 of boot with an accepted image: the firmware is loaded, memory, links and host ports train. A step that
fails leaves what the steps before it did. -/
def finishBoot (im : List Byte) (s : State) : State :=
  let t := acceptImage im { s with freeCounter := s.freeCounter + 1 }
  match bootFails s with
  | some k => stopBoot k 0 (if 2 < k then loadFirmware im t else t)
  | none => readyBoot (loadFirmware im t)

/-- BOOT (R375). -/
def execBoot (s : State) : Result :=
  .next (if s.kiln.bootStep ≠ 0 then s
    else
      match imageFault s.kiln.flash with
      | some cause => stopFirst cause s
      | none => finishBoot s.kiln.flash s)

/-- Request 0x1 (R377): a boot stopped at step 1 goes on with an accepted image. -/
def requestRecovery (s : State) : State :=
  let s := { s with kiln := { s.kiln with request := 1 } }
  if s.kiln.bootStep ≠ 1 then s
  else
    match imageFault s.kiln.recovery with
    | some cause => stopBoot 1 cause s
    | none => finishBoot s.kiln.recovery s

/-- Request 0x2 (R377): only an accepted image rewrites the boot flash. -/
def requestRewrite (s : State) : State :=
  let s := { s with kiln := { s.kiln with request := 2 } }
  match imageFault s.kiln.recovery with
  | some cause => { s with kiln := { s.kiln with status := Config.kilnStatus s.kiln.bootStep cause } }
  | none => { s with kiln := { s.kiln with flash := s.kiln.recovery } }

/-- KILN_RECOVERY_REQUEST (R377). -/
def execKilnRecoveryRequest (s : State) : Result := .next (requestRecovery s)

/-- KILN_FLASH_REWRITE (R377). -/
def execKilnFlashRewrite (s : State) : Result := .next (requestRewrite s)

/-! ## BAR0 (R373) -/

/-- Bytes of the recovery buffer: an 8 KiB header and the largest payload. -/
def recoverySize : Nat := 0x2002000

/-- The bytes of an access at an offset that fall in a region, each with its offset in the region. -/
def barSpan (o : Nat) (data : List Byte) (base n : Nat) : List (Nat × Byte) :=
  (data.zipIdx).filterMap (fun e => if base ≤ o + e.2 && o + e.2 < base + n then some (o + e.2 - base, e.1) else none)

/-- A write to the launch window of a die: its record, WIN.DROP and PART.WAKE (R349, R364, R365). -/
def barWindow (bs : List (Nat × Byte)) (die : Nat) (s : State) : State :=
  let s := windowWrite s die (bs.filter (·.1 < 0x80))
  let s := if bs.any (fun e => e.1 / 8 = 0x11) then clearDrops s die else s
  match bs.find? (·.1 = 0x90) with
  | some e => setWake s die (e.2.setWidth 64)
  | none => s

/-- A write of bytes of the request word, which kiln then obeys (R373, R377). -/
def barRequest (bs : List (Nat × Byte)) (s : State) : State :=
  if bs.isEmpty then s
  else
    let v : Word := (bs.foldl (fun (w : Wide) e => setByte w e.1 e.2) (s.kiln.request.setWidth 512)).setWidth 64
    if v = 1 then requestRecovery s
    else if v = 2 then requestRewrite s
    else { s with kiln := { s.kiln with request := v } }

/-- A list of bytes with some of them written; it grows with zeros. -/
def writeBytes (l : List Byte) (bs : List (Nat × Byte)) : List Byte :=
  bs.foldl (fun l e => (l ++ List.replicate (e.1 + 1 - l.length) 0).set e.1 e.2) l

/-- A write of the recovery buffer (R373, R377). -/
def barRecovery (bs : List (Nat × Byte)) (s : State) : State :=
  { s with kiln := { s.kiln with recovery := writeBytes s.kiln.recovery bs } }

/-- A write of the host to BAR0 (R373); DIE.ERR and the status word are read only, and what is reserved is ignored. -/
def barWrite (s : State) (o : Nat) (data : List Byte) : State :=
  let s := (List.range 4).foldl (fun s d =>
    let bs := barSpan o data (0x1000 * d) 0x1000
    if bs.isEmpty then s else barWindow bs d s) s
  barRecovery (barSpan o data 0x300000 recoverySize) (barRequest (barSpan o data 0x200008 8) s)

/-- A byte of BAR0 as the host reads it (R373). -/
def barByte (s : State) (o : Nat) : Byte :=
  let at_ := fun (w : Nat) => BitVec.ofNat 8 (w / 2 ^ (8 * (o % 8)))
  if o < 0x4000 then windowByte (dieAt s (o / 0x1000)) (o % 0x1000)
  else if 0x100000 ≤ o && o < 0x104000 then (if o % 0x1000 < 8 then at_ (dieErr (dieAt s (o % 0x100000 / 0x1000))) else 0)
  else if 0x200000 ≤ o && o < 0x200008 then at_ s.kiln.status.toNat
  else if 0x200008 ≤ o && o < 0x200010 then at_ s.kiln.request.toNat
  else if 0x300000 ≤ o && o < 0x300000 + recoverySize then s.kiln.recovery.getD (o - 0x300000) 0
  else 0

/-- LAUNCH_WINDOW_WRITE (R349, R364, R373): an access of the host to BAR0, at an offset from a die's launch window. What a read
is given stands in State.kiln.given. -/
def execLaunchWindowWrite (die offset : Nat) (access : BarAccess) (s : State) : Result :=
  let o := 0x1000 * die + offset
  .next (match access with
    | .write data => barWrite s o data
    | .read n => { s with kiln := { s.kiln with given := (List.range n).map (fun k => barByte s (o + k)) } })

/-- MODULE_NUMBER_SET (R374). A number of 16 or more is ignored (DESIGN CHOICE, log entry 99). -/
def execModuleNumberSet (m : Nat) (s : State) : Result :=
  .next (if m < 16 then { s with pkg := { s.pkg with mod := m } } else s)

/-- What an attestation report says before its signatures (R378). -/
def reportBody (s : State) (nonce : List Byte) : List Byte :=
  nonce ++ s.kiln.digest ++ toBytes 4 s.kiln.svn
    ++ (List.range 4).flatMap (fun d => toBytes 32 (dieAt s d).coreMask.toNat) ++ toBytes 8 (capPkg s.pkg)

/-- Morwald's identity certificate (R378): both public keys under both of its signatures. -/
def identityCert : List Byte :=
  let keys := Config.identityEdKey ++ Config.identityMlKey
  keys ++ Config.makerEdSign keys ++ Config.makerMldsaSign keys

/-- ATTESTATION_REPORT (R378): the host obtains the certificate and a report. -/
def execAttestationReport (nonce : List Byte) (s : State) : Result :=
  let body := reportBody s nonce
  .next { s with kiln := { s.kiln with report := body ++ Config.edSign body ++ Config.mldsaSign body, cert := identityCert } }

/-! ## Power (R380) -/

/-- POWER_LIMIT_SET (R380): a limit of 1 to 3,200 W. -/
def execPowerLimitSet (watts : Nat) (s : State) : Result :=
  .next (if 1 ≤ watts && watts ≤ 3200 then { s with pkg := { s.pkg with limit := watts } } else s)

/-- The clock after one judgement of the 1 ms average, in units of 0.5 MHz. -/
def nextClock (limit clock averageMilliwatts : Nat) : Nat :=
  if 1000 * limit < averageMilliwatts then max 1250 (clock - 125)
  else if averageMilliwatts < 950 * limit then min 2500 (clock + 125) else clock

/-- POWER_THROTTLE (R380). -/
def execPowerThrottle (averageMilliwatts : Nat) (s : State) : Result :=
  let clock := nextClock s.pkg.limit s.pkg.clock averageMilliwatts
  .next { s with pkg := { s.pkg with clock := clock, throt := clock < 2500 } }

/-! ## Links and ports -/

/-- LINK_RETRAIN (R366): a link that cannot retrain stops every die. -/
def execLinkRetrain (die neighbour : Nat) (succeeds : Bool) (s : State) : Result :=
  .next (if succeeds || 4 ≤ die || (neighbour ≠ die ^^^ 1 && neighbour ≠ die ^^^ 2) then s
    else
      let s := (List.range 4).foldl (fun s d => modDie s d (fun q => { q with linkErr := true })) s
      { s with pkg := { s.pkg with failed := true } })

/-- HOST_PORT_RETRAIN (R370): a trained port comes back at x8 or x4. -/
def execHostPortRetrain (port width : Nat) (s : State) : Result :=
  .next (if width ≠ 0x8 && width ≠ 0x4 then s
    else if port = 0 && width < s.pkg.p0w then { s with pkg := { s.pkg with p0w := width } }
    else if port = 1 && width < s.pkg.p1w then { s with pkg := { s.pkg with p1w := width } }
    else s)

/-- FLIT_RETRY (R383): no flit is lost; the port counts it. -/
def execFlitRetry (port : Nat) (s : State) : Result :=
  .next (if 16 ≤ port then s else modPort s port (fun q => { q with retries := min 65535 (q.retries + 1) }))

/-- PORT_RETRAIN (R384): a port that loses lanes comes back at 4 or 2, or is down. -/
def execPortRetrain (port lanes : Nat) (s : State) : Result :=
  .next (if 16 ≤ port || (portAt s port).lanes ≤ lanes || !([4, 2, 0].contains lanes) then s
    else modPort s port (fun q => { q with lanes := lanes }))

end Sys2Proof.Machine
end

