-- ==== Sys2Proof/Machine/Dispatch.lean ====
section
/-! DEFINITION. One arm per instruction, event and action: each is one direct call of its meaning. -/

namespace Sys2Proof.Machine

open Sys2Proof

/-- The effect of an instruction at the site of the state, or of an event or action on the machine. -/
def exec (i : Instr) (s : State) : Host.Outcome State Fault Refusal :=
  match i with
  | .add f => Sys2Proof.Machine.execAdd f s
  | .sub f => Sys2Proof.Machine.execSub f s
  | .neg f => Sys2Proof.Machine.execNeg f s
  | .abs f => Sys2Proof.Machine.execAbs f s
  | .mul f => Sys2Proof.Machine.execMul f s
  | .mulh f => Sys2Proof.Machine.execMulh f s
  | .mad f => Sys2Proof.Machine.execMad f s
  | .div f => Sys2Proof.Machine.execDiv f s
  | .rem f => Sys2Proof.Machine.execRem f s
  | .minI f => Sys2Proof.Machine.execMinI f s
  | .maxI f => Sys2Proof.Machine.execMaxI f s
  | .clamp f => Sys2Proof.Machine.execClamp f s
  | .absd f => Sys2Proof.Machine.execAbsd f s
  | .avg f => Sys2Proof.Machine.execAvg f s
  | .addc f => Sys2Proof.Machine.execAddc f s
  | .subb f => Sys2Proof.Machine.execSubb f s
  | .dot4 f => Sys2Proof.Machine.execDot4 f s
  | .sad f => Sys2Proof.Machine.execSad f s
  | .addp f => Sys2Proof.Machine.execAddp f s
  | .subp f => Sys2Proof.Machine.execSubp f s
  | .ptrf f => Sys2Proof.Machine.execPtrf f s
  | .ptrx f => Sys2Proof.Machine.execPtrx f s
  | .andB f => Sys2Proof.Machine.execAndB f s
  | .orB f => Sys2Proof.Machine.execOrB f s
  | .xorB f => Sys2Proof.Machine.execXorB f s
  | .andn f => Sys2Proof.Machine.execAndn f s
  | .orn f => Sys2Proof.Machine.execOrn f s
  | .notB f => Sys2Proof.Machine.execNotB f s
  | .shl f => Sys2Proof.Machine.execShl f s
  | .shr f => Sys2Proof.Machine.execShr f s
  | .sar f => Sys2Proof.Machine.execSar f s
  | .rol f => Sys2Proof.Machine.execRol f s
  | .ror f => Sys2Proof.Machine.execRor f s
  | .popc f => Sys2Proof.Machine.execPopc f s
  | .clz f => Sys2Proof.Machine.execClz f s
  | .ctz f => Sys2Proof.Machine.execCtz f s
  | .brev f => Sys2Proof.Machine.execBrev f s
  | .bswap f => Sys2Proof.Machine.execBswap f s
  | .bext f => Sys2Proof.Machine.execBext f s
  | .bins f => Sys2Proof.Machine.execBins f s
  | .ceq f => Sys2Proof.Machine.execCeq f s
  | .cne f => Sys2Proof.Machine.execCne f s
  | .clt f => Sys2Proof.Machine.execClt f s
  | .cle f => Sys2Proof.Machine.execCle f s
  | .cgt f => Sys2Proof.Machine.execCgt f s
  | .cge f => Sys2Proof.Machine.execCge f s
  | .cuo f => Sys2Proof.Machine.execCuo f s
  | .testz f => Sys2Proof.Machine.execTestz f s
  | .testnz f => Sys2Proof.Machine.execTestnz f s
  | .pand f => Sys2Proof.Machine.execPand f s
  | .por f => Sys2Proof.Machine.execPor f s
  | .pxor f => Sys2Proof.Machine.execPxor f s
  | .pnot f => Sys2Proof.Machine.execPnot f s
  | .anyl f => Sys2Proof.Machine.execAnyl f s
  | .alll f => Sys2Proof.Machine.execAlll f s
  | .cmask f => Sys2Proof.Machine.execCmask f s
  | .fadd f => Sys2Proof.Machine.execFadd f s
  | .fsub f => Sys2Proof.Machine.execFsub f s
  | .fmul f => Sys2Proof.Machine.execFmul f s
  | .fdiv f => Sys2Proof.Machine.execFdiv f s
  | .fma f => Sys2Proof.Machine.execFma f s
  | .fms f => Sys2Proof.Machine.execFms f s
  | .fnma f => Sys2Proof.Machine.execFnma f s
  | .fnms f => Sys2Proof.Machine.execFnms f s
  | .fmin f => Sys2Proof.Machine.execFmin f s
  | .fmax f => Sys2Proof.Machine.execFmax f s
  | .fabs f => Sys2Proof.Machine.execFabs f s
  | .fneg f => Sys2Proof.Machine.execFneg f s
  | .fsqrt f => Sys2Proof.Machine.execFsqrt f s
  | .fclass f => Sys2Proof.Machine.execFclass f s
  | .fcpys f => Sys2Proof.Machine.execFcpys f s
  | .frcp f => Sys2Proof.Machine.execFrcp f s
  | .frsq f => Sys2Proof.Machine.execFrsq f s
  | .fexp2 f => Sys2Proof.Machine.execFexp2 f s
  | .flog2 f => Sys2Proof.Machine.execFlog2 f s
  | .fsin f => Sys2Proof.Machine.execFsin f s
  | .fcos f => Sys2Proof.Machine.execFcos f s
  | .ftanh f => Sys2Proof.Machine.execFtanh f s
  | .fsig f => Sys2Proof.Machine.execFsig f s
  | .frnd f => Sys2Proof.Machine.execFrnd f s
  | .cvtf f => Sys2Proof.Machine.execCvtf f s
  | .cvtfi f => Sys2Proof.Machine.execCvtfi f s
  | .cvtif f => Sys2Proof.Machine.execCvtif f s
  | .cvti f => Sys2Proof.Machine.execCvti f s
  | .pack8 f => Sys2Proof.Machine.execPack8 f s
  | .unpk8 f => Sys2Proof.Machine.execUnpk8 f s
  | .packh f => Sys2Proof.Machine.execPackh f s
  | .unpkh f => Sys2Proof.Machine.execUnpkh f s
  | .ql6 f => Sys2Proof.Machine.execQl6 f s
  | .dql6 f => Sys2Proof.Machine.execDql6 f s
  | .l6mul f => Sys2Proof.Machine.execL6mul f s
  | .scalex f => Sys2Proof.Machine.execScalex f s
  | .scalea f => Sys2Proof.Machine.execScalea f s
  | .hash32 f => Sys2Proof.Machine.execHash32 f s
  | .hash64 f => Sys2Proof.Machine.execHash64 f s
  | .hcomb f => Sys2Proof.Machine.execHcomb f s
  | .bucket f => Sys2Proof.Machine.execBucket f s
  | .bkhist f => Sys2Proof.Machine.execBkhist f s
  | .bkscat f => Sys2Proof.Machine.execBkscat f s
  | .slen f => Sys2Proof.Machine.execSlen f s
  | .scmp f => Sys2Proof.Machine.execScmp f s
  | .spfx f => Sys2Proof.Machine.execSpfx f s
  | .sfind f => Sys2Proof.Machine.execSfind f s
  | .shash f => Sys2Proof.Machine.execShash f s
  | .isect f => Sys2Proof.Machine.execIsect f s
  | .mov f => Sys2Proof.Machine.execMov f s
  | .sel f => Sys2Proof.Machine.execSel f s
  | .constI f => Sys2Proof.Machine.execConstI f s
  | .consth f => Sys2Proof.Machine.execConsth f s
  | .nul f => Sys2Proof.Machine.execNul f s
  | .lane f => Sys2Proof.Machine.execLane f s
  | .insl f => Sys2Proof.Machine.execInsl f s
  | .bcast f => Sys2Proof.Machine.execBcast f s
  | .perm f => Sys2Proof.Machine.execPerm f s
  | .lrot f => Sys2Proof.Machine.execLrot f s
  | .redadd f => Sys2Proof.Machine.execRedadd f s
  | .redmin f => Sys2Proof.Machine.execRedmin f s
  | .redmax f => Sys2Proof.Machine.execRedmax f s
  | .fredadd f => Sys2Proof.Machine.execFredadd f s
  | .br f => Sys2Proof.Machine.execBr f s
  | .brLeave f => Sys2Proof.Machine.execBrLeave f s
  | .brMchk f => Sys2Proof.Machine.execBrMchk f s
  | .bri f => Sys2Proof.Machine.execBri f s
  | .ld f => Sys2Proof.Machine.execLd f s
  | .ldRc f => Sys2Proof.Machine.execLdRc f s
  | .st f => Sys2Proof.Machine.execSt f s
  | .stCnt f => Sys2Proof.Machine.execStCnt f s
  | .gath f => Sys2Proof.Machine.execGath f s
  | .scat f => Sys2Proof.Machine.execScat f s
  | .stm f => Sys2Proof.Machine.execStm f s
  | .pref f => Sys2Proof.Machine.execPref f s
  | .prefCode f => Sys2Proof.Machine.execPrefCode f s
  | .lds f => Sys2Proof.Machine.execLds f s
  | .stq f => Sys2Proof.Machine.execStq f s
  | .spawn f => Sys2Proof.Machine.execSpawn f s
  | .quit f => Sys2Proof.Machine.execQuit f s
  | .yield f => Sys2Proof.Machine.execYield f s
  | .repart f => Sys2Proof.Machine.execRepart f s
  | .bind f => Sys2Proof.Machine.execBind f s
  | .unbind f => Sys2Proof.Machine.execUnbind f s
  | .send f => Sys2Proof.Machine.execSend f s
  | .recv f => Sys2Proof.Machine.execRecv f s
  | .mcast f => Sys2Proof.Machine.execMcast f s
  | .waita f => Sys2Proof.Machine.execWaita f s
  | .getc f => Sys2Proof.Machine.execGetc f s
  | .setc f => Sys2Proof.Machine.execSetc f s
  | .trap f => Sys2Proof.Machine.execTrap f s
  | .rett f => Sys2Proof.Machine.execRett f s
  | .syncb f => Sys2Proof.Machine.execSyncb f s
  | .launch f => Sys2Proof.Machine.execLaunch f s
  | .mcopy f => Sys2Proof.Machine.execMcopy f s
  | .mput f => Sys2Proof.Machine.execMput f s
  | .mget f => Sys2Proof.Machine.execMget f s
  | .mquery f => Sys2Proof.Machine.execMquery f s
  | .task f => Sys2Proof.Machine.execTask f s
  | .tdone f => Sys2Proof.Machine.execTdone f s
  | .gbar f => Sys2Proof.Machine.execGbar f s
  | .gmcast f => Sys2Proof.Machine.execGmcast f s
  | .mma f => Sys2Proof.Machine.execMma f s
  | .accinit f => Sys2Proof.Machine.execAccinit f s
  | .accout f => Sys2Proof.Machine.execAccout f s
  | .accclr f => Sys2Proof.Machine.execAccclr f s
  | .accq f => Sys2Proof.Machine.execAccq f s
  | .aadd f => Sys2Proof.Machine.execAadd f s
  | .amin f => Sys2Proof.Machine.execAmin f s
  | .amax f => Sys2Proof.Machine.execAmax f s
  | .aand f => Sys2Proof.Machine.execAand f s
  | .aor f => Sys2Proof.Machine.execAor f s
  | .axor f => Sys2Proof.Machine.execAxor f s
  | .axchg f => Sys2Proof.Machine.execAxchg f s
  | .acas f => Sys2Proof.Machine.execAcas f s
  | .afadd f => Sys2Proof.Machine.execAfadd f s
  | .afmin f => Sys2Proof.Machine.execAfmin f s
  | .afmax f => Sys2Proof.Machine.execAfmax f s
  | .phase f => Sys2Proof.Machine.execPhase f s
  | .rcdecl f => Sys2Proof.Machine.execRcdecl f s
  | .rcend f => Sys2Proof.Machine.execRcend f s
  | .rcq f => Sys2Proof.Machine.execRcq f s
  | .rwb f => Sys2Proof.Machine.execRwb f s
  | .rinv f => Sys2Proof.Machine.execRinv f s
  | .rdisc f => Sys2Proof.Machine.execRdisc f s
  | .thnew f => Sys2Proof.Machine.execThnew f s
  | .thfree f => Sys2Proof.Machine.execThfree f s
  | .tacq f => Sys2Proof.Machine.execTacq f s
  | .trel f => Sys2Proof.Machine.execTrel f s
  | .tsplit f => Sys2Proof.Machine.execTsplit f s
  | .tquery f => Sys2Proof.Machine.execTquery f s
  | .tarena f => Sys2Proof.Machine.execTarena f s
  | .tarenaDestroy f => Sys2Proof.Machine.execTarenaDestroy f s
  | .tselect f => Sys2Proof.Machine.execTselect f s
  | .tbatch f => Sys2Proof.Machine.execTbatch f s
  | .texpand f => Sys2Proof.Machine.execTexpand f s
  | .tbackup f => Sys2Proof.Machine.execTbackup f s
  | .treroot f => Sys2Proof.Machine.execTreroot f s
  | .tstat f => Sys2Proof.Machine.execTstat f s
  | .wset f => Sys2Proof.Machine.execWset f s
  | .wget f => Sys2Proof.Machine.execWget f s
  | .coll f => Sys2Proof.Machine.execColl f s
  | .cwait f => Sys2Proof.Machine.execCwait f s
  | .flink f => Sys2Proof.Machine.execFlink f s
  | .round f => Sys2Proof.Machine.execRound f s
  | .seed f => Sys2Proof.Machine.execSeed f s
  | .feCtl f => Sys2Proof.Machine.execFeCtl f s
  | .coreErr f => Sys2Proof.Machine.execCoreErr f s
  | .tlbInv f => Sys2Proof.Machine.execTlbInv f s
  | .ptRoot f => Sys2Proof.Machine.execPtRoot f s
  | .rcLogctl f => Sys2Proof.Machine.execRcLogctl f s
  | .spillCtl f => Sys2Proof.Machine.execSpillCtl f s
  | .partCfg f => Sys2Proof.Machine.execPartCfg f s
  | .distKill f => Sys2Proof.Machine.execDistKill f s
  | .launchWindowWrite die offset data => Sys2Proof.Machine.execLaunchWindowWrite die offset data s
  | .winDrop die => Sys2Proof.Machine.execWinDrop die s
  | .partWake die mask => Sys2Proof.Machine.execPartWake die mask s
  | .kilnRecoveryRequest => Sys2Proof.Machine.execKilnRecoveryRequest s
  | .kilnFlashRewrite => Sys2Proof.Machine.execKilnFlashRewrite s
  | .moduleNumberSet m => Sys2Proof.Machine.execModuleNumberSet m s
  | .powerLimitSet watts => Sys2Proof.Machine.execPowerLimitSet watts s
  | .attestationReport nonce => Sys2Proof.Machine.execAttestationReport nonce s
  | .frameGrant c predicted => Sys2Proof.Machine.execFrameGrant c predicted s
  | .blockMap c => Sys2Proof.Machine.execBlockMap c s
  | .blockFetchFill c line => Sys2Proof.Machine.execBlockFetchFill c line s
  | .tokenArrival c frame n upset => Sys2Proof.Machine.execTokenArrival c frame n upset s
  | .tokenResend c frame n parityError => Sys2Proof.Machine.execTokenResend c frame n parityError s
  | .blockCommit c => Sys2Proof.Machine.execBlockCommit c s
  | .faultTaken c => Sys2Proof.Machine.execFaultTaken c s
  | .blockIncompleteTimeout c => Sys2Proof.Machine.execBlockIncompleteTimeout c s
  | .contextPark c => Sys2Proof.Machine.execContextPark c s
  | .contextUnpark c => Sys2Proof.Machine.execContextUnpark c s
  | .yieldExpiry c => Sys2Proof.Machine.execYieldExpiry c s
  | .brickGate core brick => Sys2Proof.Machine.execBrickGate core brick s
  | .repartApply core => Sys2Proof.Machine.execRepartApply core s
  | .iterationCommit c => Sys2Proof.Machine.execIterationCommit c s
  | .ldsEmit c index => Sys2Proof.Machine.execLdsEmit c index s
  | .musterComplete cluster address => Sys2Proof.Machine.execMusterComplete cluster address s
  | .messageArrival c n => Sys2Proof.Machine.execMessageArrival c n s
  | .trapRecordDelivery c => Sys2Proof.Machine.execTrapRecordDelivery c s
  | .postedAck core entry => Sys2Proof.Machine.execPostedAck core entry s
  | .postedRefusal core entry cause => Sys2Proof.Machine.execPostedRefusal core entry cause s
  | .preemption core => Sys2Proof.Machine.execPreemption core s
  | .contextRestore core cycles => Sys2Proof.Machine.execContextRestore core cycles s
  | .quantumEnd die part => Sys2Proof.Machine.execQuantumEnd die part s
  | .jobStart core seq => Sys2Proof.Machine.execJobStart core seq s
  | .jobLand core seq => Sys2Proof.Machine.execJobLand core seq s
  | .jobComplete core seq => Sys2Proof.Machine.execJobComplete core seq s
  | .jobFault core seq => Sys2Proof.Machine.execJobFault core seq s
  | .cardDispatch cluster => Sys2Proof.Machine.execCardDispatch cluster s
  | .taskStart c => Sys2Proof.Machine.execTaskStart c s
  | .matrixCommandStart core brick => Sys2Proof.Machine.execMatrixCommandStart core brick s
  | .matrixCommandFinish core brick => Sys2Proof.Machine.execMatrixCommandFinish core brick s
  | .phaseComplete c => Sys2Proof.Machine.execPhaseComplete c s
  | .l1Eviction core line => Sys2Proof.Machine.execL1Eviction core line s
  | .tenureGrant die part => Sys2Proof.Machine.execTenureGrant die part s
  | .leaseExpiry die part handle holder => Sys2Proof.Machine.execLeaseExpiry die part handle holder s
  | .regionEnd die part region => Sys2Proof.Machine.execRegionEnd die part region s
  | .pageWalk die part va => Sys2Proof.Machine.execPageWalk die part va s
  | .hostAtsInvalidate va bytes => Sys2Proof.Machine.execHostAtsInvalidate va bytes s
  | .hostBackInvalidate line => Sys2Proof.Machine.execHostBackInvalidate line s
  | .hostMemRequest address write => Sys2Proof.Machine.execHostMemRequest address write s
  | .remoteAccess die part va write => Sys2Proof.Machine.execRemoteAccess die part va write s
  | .collectiveComplete c n => Sys2Proof.Machine.execCollectiveComplete c n s
  | .flitRetry port => Sys2Proof.Machine.execFlitRetry port s
  | .portRetrain port lanes => Sys2Proof.Machine.execPortRetrain port lanes s
  | .loaderTake die => Sys2Proof.Machine.execLoaderTake die s
  | .gangReserve die part => Sys2Proof.Machine.execGangReserve die part s
  | .gangCommit die part => Sys2Proof.Machine.execGangCommit die part s
  | .launchComplete die lid => Sys2Proof.Machine.execLaunchComplete die lid s
  | .quiescenceSample die part => Sys2Proof.Machine.execQuiescenceSample die part s
  | .clusterPowerDown cluster => Sys2Proof.Machine.execClusterPowerDown cluster s
  | .powerThrottle averageMilliwatts => Sys2Proof.Machine.execPowerThrottle averageMilliwatts s
  | .linkRetrain die neighbour succeeds => Sys2Proof.Machine.execLinkRetrain die neighbour succeeds s
  | .boot => Sys2Proof.Machine.execBoot s
  | .effectivePriorityAging die lid => Sys2Proof.Machine.execEffectivePriorityAging die lid s
  | .nodeCacheEviction die arena node => Sys2Proof.Machine.execNodeCacheEviction die arena node s
  | .l2Eviction line => Sys2Proof.Machine.execL2Eviction line s
  | .hostPortRetrain port width => Sys2Proof.Machine.execHostPortRetrain port width s

end Sys2Proof.Machine
end

