-- ==== Sys2Proof/Machine/Schedule.lean ====
section
/-! DEFINITION. Fetching an instruction from a mapped block, and which of the machine's possible next moves a step
takes when the agenda names none. The rules fix no order among them (R19, R24, R130): log entry 8. -/

namespace Sys2Proof.Machine

open Sys2Proof

/-- The instruction a site names: the word at its index of its frame's image, decoded (R33). -/
def fetch (s : State) (t : Site) : Option (Except DecodeError Instr) :=
  match frameAt s t.c t.frame with
  | none => none
  | some fr => if fr.mapped && instrWord fr t.idx ≠ 0 then some (decode (instrWord fr t.idx)) else none

/-- An instruction that a brick fires; the others are events of the machine and actions of the host. -/
def isBrick (i : Instr) : Bool :=
  match i.fields with
  | .event => false
  | _ => true

/-- What stands at a site: the outcome of its instruction, when it changes the machine. -/
def siteMove (s : State) (t : Site) : Option Result :=
  match fetch s t with
  | none => none
  | some (.error _) => some (.refused .noInstruction)
  | some (.ok i) =>
    let r := exec i { s with focus := t }
    if moves r { s with focus := t } then some r else none

/-- An event that may be due when the agenda names none. -/
inductive Due where
  | boot
  | tokenArrival (c : CtxId) (frame n : Nat)
  | tokenResend (c : CtxId) (frame n : Nat)
  | ldsEmit (c : CtxId) (index : Nat)
  | iterationCommit (c : CtxId)
  | blockCommit (c : CtxId)
  | faultTaken (c : CtxId)
  | phaseComplete (c : CtxId)
  | trapRecordDelivery (c : CtxId)
  | taskStart (c : CtxId)
  | contextUnpark (c : CtxId)
  | blockMap (c : CtxId)
  | blockFetchFill (c : CtxId) (line : Word)
  | messageArrival (c : CtxId) (n : Nat)
  | collectiveComplete (c : CtxId) (n : Nat)
  | frameGrant (c : CtxId)
  | yieldExpiry (c : CtxId)
  | musterComplete (cluster : Nat) (address : Word)
  | jobStart (core seq : Nat)
  | jobLand (core seq : Nat)
  | jobFault (core seq : Nat)
  | jobComplete (core seq : Nat)
  | matrixCommandStart (core brick : Nat)
  | matrixCommandFinish (core brick : Nat)
  | repartApply (core : Nat)
  | postedAck (core entry : Nat)
  | postedRefusal (core entry cause : Nat)
  | cardDispatch (cluster : Nat)
  | tenureGrant (die part : Nat)
  | regionEnd (die part region : Nat)
  | launchComplete (die lid : Nat)
  | gangCommit (die part : Nat)
  | gangReserve (die part : Nat)
  | loaderTake (die : Nat)
  | contextRestore (core : Nat)
  | contextPark (c : CtxId)
  | blockIncompleteTimeout (c : CtxId)
  | quiescenceSample (die part : Nat)
  deriving DecidableEq, Repr

/-- The meaning of an event that is due. -/
def dueMove (d : Due) (s : State) : Result :=
  match d with
  | .boot => execBoot s
  | .tokenArrival c f n => execTokenArrival c f n .none s
  | .tokenResend c f n => execTokenResend c f n false s
  | .ldsEmit c n => execLdsEmit c n s
  | .iterationCommit c => execIterationCommit c s
  | .blockCommit c => execBlockCommit c s
  | .faultTaken c => execFaultTaken c s
  | .phaseComplete c => execPhaseComplete c s
  | .trapRecordDelivery c => execTrapRecordDelivery c s
  | .taskStart c => execTaskStart c s
  | .contextUnpark c => execContextUnpark c s
  | .blockMap c => execBlockMap c s
  | .blockFetchFill c l => execBlockFetchFill c ⟨l, none⟩ s
  | .messageArrival c n => execMessageArrival c n s
  | .collectiveComplete c n => execCollectiveComplete c n s
  | .frameGrant c => execFrameGrant c none s
  | .yieldExpiry c => execYieldExpiry c s
  | .musterComplete k a => execMusterComplete k a s
  | .jobStart k n => execJobStart k n s
  | .jobLand k n => execJobLand k n s
  | .jobFault k n => execJobFault k n s
  | .jobComplete k n => execJobComplete k n s
  | .matrixCommandStart k b => execMatrixCommandStart k b s
  | .matrixCommandFinish k b => execMatrixCommandFinish k b s
  | .repartApply k => execRepartApply k s
  | .postedAck k n => execPostedAck k n s
  | .postedRefusal k n v => execPostedRefusal k n v s
  | .cardDispatch k => execCardDispatch k s
  | .tenureGrant d p => execTenureGrant d p s
  | .regionEnd d p r => execRegionEnd d p r s
  | .launchComplete d l => execLaunchComplete d l s
  | .gangCommit d p => execGangCommit d p s
  | .gangReserve d p => execGangReserve d p s
  | .loaderTake d => execLoaderTake d s
  | .contextRestore k => execContextRestore k 0 s
  | .contextPark c => execContextPark c s
  | .blockIncompleteTimeout c => execBlockIncompleteTimeout c s
  | .quiescenceSample d p => execQuiescenceSample d p s

/-- The first of some events that changes the machine. -/
def firstEvent (s : State) : List Due → Option Result
  | [] => none
  | d :: t => if moves (dueMove d s) s then some (dueMove d s) else firstEvent s t

/-! ## What is due -/

/-- The context at which the rotation pointer of a core stands in the next cycle: the next that holds a mapped frame, in
ascending number modulo the context count (R130). -/
def nextRotation (k : Core) : Nat :=
  let mapped := k.ctxs.filter (fun e => e.2.frames.any (·.mapped))
  match mapped.find? (fun e => k.rotation < e.1), mapped with
  | some e, _ => e.1
  | none, e :: _ => e.1
  | none, [] => k.rotation

/-- The contexts of a core in rotation order from a pointer. -/
def inRotation (k : Core) (p : Nat) : List (Nat × Ctx) :=
  k.ctxs.filter (fun e => p ≤ e.1) ++ k.ctxs.filter (fun e => e.1 < p)

/-- The cores of a module, those above the one in focus first: each has its turn. -/
def coresInTurn (s : State) : Tab Core :=
  s.cores.filter (fun k => s.focus.c.core < k.1) ++ s.cores.filter (fun k => k.1 ≤ s.focus.c.core)

/-- Every place of every mapped frame where an instruction may stand ready: for each core in rotation order, within a context
the oldest block first, then the lowest tag, then the lowest slot (R17, R130, R150). -/
def allSites (s : State) : List Site :=
  (coresInTurn s).flatMap (fun k => (inRotation k.2 (nextRotation k.2)).flatMap (fun e =>
    (e.2.frames.zipIdx).flatMap (fun fr =>
      if fr.1.mapped then
        (liveTags fr.1).flatMap (fun t => (indices fr.1).map (fun n => ⟨⟨k.1, e.1⟩, fr.2, n, t⟩))
      else [])))

/-- The next cycle of a core: its rotation pointer advances (R130). -/
def rotate (s : State) (core : Nat) : State := modCore s core (fun k => { k with rotation := nextRotation k })

/-- The first of some sites whose instruction changes the machine, in a cycle of its core. -/
def firstSite (s : State) : List Site → Option Result
  | [] => none
  | t :: ts =>
    match siteMove (rotate s t.c.core) t with
    | some r => some r
    | none => firstSite s ts

/-- The messages of a context's threads that may move. -/
def messageEvents (s : State) (c : CtxId) : List Due :=
  (List.range (((threadsOf s c).map (fun t => messageMoves (threadAt s t))).sum)).map (.messageArrival c ·)

/-- The posted accesses of a core that may be answered. -/
def journalEvents (s : State) (n : Nat) (k : Core) : List Due :=
  k.journal.flatMap (fun j => [.postedAck n j.slot]
    ++ ((entryRefusal s j).map (fun v => Due.postedRefusal n j.slot v)).toList)

/-- What may happen next for a core that stands aside. -/
def asideEvents (s : State) (e : Nat × Core) : List Due :=
  e.2.ctxs.flatMap (fun x => [.trapRecordDelivery ⟨e.1, x.1⟩] ++ messageEvents s ⟨e.1, x.1⟩) ++ journalEvents s e.1 e.2

/-- What may happen next in one context. -/
def ctxEvents (s : State) (c : CtxId) (x : Ctx) : List Due :=
  (x.frames.zipIdx).flatMap (fun fr =>
      (List.range (fr.1.flight.length + fr.1.reads.length + x.utoks.length)).flatMap (fun n =>
        [.tokenArrival c fr.2 n, .tokenResend c fr.2 n])
      ++ (if fr.1.streams.isEmpty then [] else (indices fr.1).map (.ldsEmit c ·)))
  ++ [.iterationCommit c, .blockCommit c, .faultTaken c, .phaseComplete c, .trapRecordDelivery c, .taskStart c,
      .contextUnpark c, .blockMap c]
  ++ (match (mappingFrame x).bind (x.frames[·]?) with
      | some fr => (imageLines s c fr).map (.blockFetchFill c ·)
      | none => [])
  ++ messageEvents s c
  ++ (List.range x.colls.length).map (.collectiveComplete c ·)
  ++ (match x.course with
      | .waiting a => [.musterComplete (clusterOf c.core) a]
      | _ => [])
  ++ [.frameGrant c, .yieldExpiry c]

/-- What may happen next in one core. -/
def coreEvents (s : State) (n : Nat) (k : Core) : List Due :=
  k.jobs.flatMap (fun j => [.jobStart n j.seq, .jobLand n j.seq, .jobFault n j.seq, .jobComplete n j.seq])
  ++ [.matrixCommandStart n 7, .matrixCommandFinish n 7, .matrixCommandStart n 15, .matrixCommandFinish n 15, .repartApply n]
  ++ journalEvents s n k

/-- What may happen next in one die. -/
def dieEvents (s : State) (n : Nat) (d : Die) : List Due :=
  d.parts.flatMap (fun p =>
      p.2.saves.flatMap (asideEvents s) ++ [.tenureGrant n p.1] ++ p.2.regions.map (fun r => .regionEnd n p.1 r.num)
      ++ p.2.launches.flatMap (fun l =>
        [.launchComplete n l.lid] ++ ((l.gangs.filter (·.saved)).flatMap (·.cores)).map (.contextRestore ·)) ++ [.gangCommit n p.1, .gangReserve n p.1])
  ++ [.loaderTake n]

/-- What happens only when nothing else does: a context parks, a block times out, a partition is sampled. -/
def lateEvents (s : State) : List Due :=
  s.cores.flatMap (fun k => k.2.ctxs.map (fun e => .contextPark ⟨k.1, e.1⟩))
  ++ s.cores.flatMap (fun k => k.2.ctxs.map (fun e => .blockIncompleteTimeout ⟨k.1, e.1⟩))
  ++ s.dies.flatMap (fun d => d.2.parts.map (fun p => .quiescenceSample d.1 p.1))

/-- The events that may be due, in the order in which they are tried. -/
def dueEvents (s : State) : List Due :=
  [.boot] ++ s.cores.flatMap (fun k => k.2.ctxs.flatMap (fun e => ctxEvents s ⟨k.1, e.1⟩ e.2))
  ++ s.cores.flatMap (fun k => coreEvents s k.1 k.2)
  ++ s.clusters.map (fun k => .cardDispatch k.1)
  ++ s.dies.flatMap (fun d => dieEvents s d.1 d.2)

/-- The move of a step whose agenda is empty: the instruction at the focus, else an event that is due, else another
instruction that stands ready, else what happens only when nothing else does; a machine in which nothing is due stays as it
is. -/
def chosen (s : State) : Result :=
  match siteMove s s.focus with
  | some r => r
  | none =>
    match firstEvent s (dueEvents s) with
    | some r => r
    | none =>
      match firstSite s (allSites s) with
      | some r => r
      | none => (firstEvent s (lateEvents s)).getD (.next s)

/-- The head of the agenda: an event happens, or what stands at a site fires if it can. -/
def agendaMove (m : Move) (s : State) : Result :=
  match m with
  | .happens i => if isBrick i then (siteMove s s.focus).getD (.next s) else exec i s
  | .fires t => (siteMove (rotate s t.c.core) t).getD (.next s)

/-! ## Placing an instruction for a test -/

/-- An index at which a word may stand (R9, R49): an L-format instruction at 0, a matrix one at 7 or 15 as its
accumulator demands, the others at 1. -/
def placeIndex (w : Word) : Nat :=
  match decodeLenient w with
  | some (i, _) =>
    match i.fields with
    | .l _ => 0
    | .x f => if f.acc.toNat < 4 then 7 else 15
    | _ => 1
  | none => 1

/-- The effect map of a block of one instruction (R36). -/
def placeEffects (w : Word) : Nat :=
  match (decodeLenient w).bind (fun e => lsidOf e.1) with
  | some n => 2 ^ n
  | none => 0

/-- A block of one chunk with one instruction, in a pinned block where the entry demands one (R156, R119, R171). Its
effect map names the instruction's own LSID, so that no order holds it back (R21, R28). -/
def placeImage (w : Word) (idx : Nat) (pinned : Bool) : List Word :=
  (List.range 32).map (fun k =>
    if k = 0 then BitVec.ofNat 64 (2 ^ 52 + 31 * 2 ^ 23 + bit pinned 48)
    else if k = 1 then BitVec.ofNat 64 (32 * 2 ^ 32 + placeEffects w)
    else if k = 16 + idx then w else 0)

/-- The instruction belongs in a pinned block only. -/
def wantsPinned (i : Instr) : Bool :=
  match i with
  | .lds _ | .isect _ | .brLeave _ => true
  | _ => false

/-- A mapped frame holding one instruction, a zero token in every slot and a predicate that lets it fire. -/
def placeFrame (w : Word) : Frame :=
  let idx := placeIndex w
  let i := (decodeLenient w).map (·.1)
  let pinned := i.any wantsPinned
  let p : Token := predTok (i.any (fun i => predMode i == .onTrue))
  { blankFrame with
    image := placeImage w idx pinned
    mapped := true
    ops := [⟨idx, .a, .iter 0, Token.zero, none⟩, ⟨idx, .b, .iter 0, Token.zero, none⟩,
            ⟨idx, .c, .iter 0, Token.zero, none⟩, ⟨idx, .p, .iter 0, p, none⟩] }

/-- The state with a word where the step fetches next: context 0 of core 0, its oldest frame, at the focus. -/
def placeWord (s : State) (w : Word) : State :=
  let s := { s with agenda := [], focus := ⟨⟨0, 0⟩, 0, placeIndex w, .iter 0⟩ }
  modCtx s ⟨0, 0⟩ (fun x => { x with st := .running, stopped := false, frames := [placeFrame w], log := [] })

end Sys2Proof.Machine
end

