-- ==== Sys2Proof/Machine/Step.lean ====
section
/-! DEFINITION. One step of the machine, and the state with a given instruction as the next one. -/

namespace Sys2Proof.Machine

open Sys2Proof

/-- One step: a module whose dies have stopped stays stopped (R366); otherwise what the agenda says happens next, or
what the machine does of itself. -/
def step (s : State) : Host.Outcome State Fault Refusal :=
  if s.pkg.failed then .fault .packageFailed
  else
    match s.agenda with
    | m :: rest => agendaMove m { s with agenda := rest }
    | [] => chosen s

/-- The state with an instruction word placed where the step fetches next. An instruction is one word (R33). -/
def State.withFetchWord (s : State) (_nbits w : Nat) : State := placeWord s (BitVec.ofNat 64 w)

end Sys2Proof.Machine
end

