-- ==== Sys2Proof/Safety.lean ====
section
/-! DEFINITION. What counts as a safe run, in the terms the statements use: completion, the canonical form of every
memory, the legal values of the package registers, the read of one byte, and what a step leaves alone. -/

namespace Sys2Proof.Machine

open Sys2Proof

/-- The outcome is a next state. -/
def completes (r : Result) : Prop := ∃ t, r = .next t

/-- Every memory is in its canonical form: keys rising, nothing listed at the value an unlisted address reads as. -/
def memoryWf (s : State) : Bool :=
  tabCanon 0 s.hbm && tabCanon 0 s.hostMem && s.cores.all (fun e => tabCanon 0 e.2.spad)

/-- The widths that a trained port, or one that is down, reports (R382). -/
def portWidthLegal (w : Nat) : Bool := w = 0x0 || w = 0x4 || w = 0x8 || w = 0xF

/-- The package registers hold values of R382, and boot stands at a step of R375 (0 not begun, 1 to 4 stopped
there, 5 READY): no die is booted before READY. -/
def packageLegal (s : State) : Bool :=
  s.pkg.mod < 16 && 1 ≤ s.pkg.limit && s.pkg.limit ≤ 3200 && 1250 ≤ s.pkg.clock && s.pkg.clock ≤ 2500
    && s.pkg.throt == decide (s.pkg.clock < 2500) && portWidthLegal s.pkg.p0w && portWidthLegal s.pkg.p1w
    && s.kiln.bootStep ≤ 5 && (s.kiln.bootStep = 5 || s.pkg.dies = 0)

/-- What every step keeps. -/
def Legal (s : State) : Prop := memoryWf s = true ∧ packageLegal s = true

/-- One byte of memory as the model reads it at its place: HBM through its home, a scratchpad, host memory. -/
def readByte (s : State) (l : Loc) : Option Byte :=
  match l with
  | .pa a _ => some (homeByte s a)
  | .spad c o => some (tabGet 0 (coreAt s c).spad o)
  | .host a => some (tabGet 0 s.hostMem a)
  | _ => none

/-- Every byte of every memory reads as before. -/
def SameMemory (s t : State) : Prop := ∀ l, readByte t l = readByte s l

/-- Every byte outside a list of places reads as before. -/
def SameMemoryBut (ls : List Loc) (s t : State) : Prop :=
  ∀ l, ls.any (sameByte l) = false → readByte t l = readByte s l

/-- Every register of every core is as before. -/
def SameRegs (s t : State) : Prop := ∀ k, (coreAt t k).regs = (coreAt s k).regs ∧ (coreAt t k).shared = (coreAt s k).shared

/-- The two contexts differ at most in their frames, and in the uniform tokens waiting for a course follower. -/
def sameButFrames (x y : Ctx) : Prop := y = { x with frames := y.frames, utoks := y.utoks }

/-- Two saved cores that differ at most in the uniform tokens that wait for their threads. -/
def sameButTokens (k k' : Core) : Prop :=
  k' = { k with ctxs := k'.ctxs } ∧ ∀ m, ctxIn k' m = { ctxIn k m with utoks := (ctxIn k' m).utoks }

/-- The saved cores that stand aside in a partition are as before but for such tokens. -/
def sameSaves (p q : Part) : Prop :=
  q = { p with saves := q.saves } ∧ q.saves.length = p.saves.length
    ∧ ∀ (n : Nat) (e : Nat × Core), p.saves[n]? = some e → ∃ k, q.saves[n]? = some (e.1, k) ∧ sameButTokens e.2 k

/-- The dies are as before but for the uniform tokens that wait for threads standing aside. -/
def SameDies (s t : State) : Prop :=
  ∀ d, dieAt t d = { dieAt s d with parts := (dieAt t d).parts } ∧ ∀ p, sameSaves (partAt s d p) (partAt t d p)

/-- The machine is as before but for the frame of the site and the uniform tokens sent to course followers: every
register, accumulator, special register, queue and memory byte is unchanged, and so is every other frame. -/
def OnlySiteFrame (s t : State) : Prop :=
  t = { s with cores := t.cores, dies := t.dies } ∧ SameDies s t
    ∧ (∀ k, coreAt t k = { coreAt s k with ctxs := (coreAt t k).ctxs })
    ∧ (∀ c, sameButFrames (ctxAt s c) (ctxAt t c))
    ∧ (∀ c, (c ≠ s.focus.c → (ctxAt t c).frames = (ctxAt s c).frames))
    ∧ (∀ n, n ≠ s.focus.frame → frameAt t s.focus.c n = frameAt s s.focus.c n)

end Sys2Proof.Machine
end

