-- ==== Sys2Proof/Certificates/Slice0/Obligations.lean ====
section
/-! DEFINITION. The statements. Each says which rule of the spec it formalises; where it rests on a choice of the model
it names the log entry. -/

open Sys2Proof Sys2Proof.Machine

/-! ## What the statements say of a result -/

namespace Sys2Proof.Machine

/-- The result r, with flags, that R88 gives an exact integer x in a type: x itself where the type holds it, else the
nearer bound with Saturated under saturate, else x modulo 2^w. -/
def IntResult (ty : ElemType) (sat : Bool) (x : Int) (r : LaneRes) : Prop :=
  r.1 < 2 ^ ty.width
    ∧ (minOf ty ≤ x → x ≤ maxOf ty → readInt ty r.1 = x ∧ r.2 = 0)
    ∧ (sat = true → x < minOf ty → readInt ty r.1 = minOf ty ∧ r.2 = fSaturated)
    ∧ (sat = true → maxOf ty < x → readInt ty r.1 = maxOf ty ∧ r.2 = fSaturated)
    ∧ (sat = false → r.1 = wrapTo ty.width x ∧ r.2 = 0)

/-- The instruction completes, its token to both targets holds `lane k` in each lane (the wide form) or element 0
extended as R62 says (the scalar form), and its flags are those of the lanes. -/
def DeliversLanes (i : Instr) (s : State) (ty : ElemType) (wide : Bool) (lane : Nat → LaneRes) : Prop :=
  ∃ v fl, exec i s = .next (fired i { r0 := some (wideTok v), r1 := some (wideTok v), flags := fl } s)
    ∧ (wide = true → (∀ k, k < laneCount ty.width → laneN ty.width v k = (lane k).1 % 2 ^ ty.width)
        ∧ fl = orFlags ((List.range (laneCount ty.width)).map (fun k => (lane k).2)))
    ∧ (wide = false → v = scalarOf ty (lane 0).1 ∧ fl = (lane 0).2)

/-- The instruction completes and delivers one value to both targets, with no flag. -/
def DeliversValue (i : Instr) (s : State) (v : Wide) : Prop :=
  exec i s = .next (fired i { r0 := some (wideTok v), r1 := some (wideTok v) } s)

/-- The instruction completes with no token and only these effects, which wait for the commit step (R27). -/
def LeavesEffects (i : Instr) (s : State) (effs : List Effect) : Prop :=
  exec i s = .next (fired i { effs := effs } s)

/-- Operands of lane k read in an integer type (R62, R45). -/
def intA (f : GFields) (a : Token) (k : Nat) : Int := readInt f.ty (laneN f.ty.width a.value k)
def intB (f : GFields) (b : Token) (k : Nat) : Int := readInt f.ty (bLane f b.value k)

end Sys2Proof.Machine

/-! ## Encoding -/

/-- R411, R416, R425, the worked examples of the manual: words that the spec writes out decode to the instruction
they stand for, with its fields. Tier 1. -/
def Obligations.WorkedWordsDecode : Prop :=
  decode 0xB180000000000000 = .ok (.gbar ⟨.i8, .always, .none, 0, 0, 0, 0, 0⟩)
  ∧ decode 0xA300000000000000
      = .ok (.rett ⟨.i8, .always, .none, .none, .same, .same, false, false, .context, false, false, 0⟩)
  ∧ decode 0x903C502208000000 = .ok (.ldRc ⟨.l6s, .always, .operand .b 1, 2, 0, 0, 8, 0⟩)
  ∧ decode 0xD300508000000000 = .ok (.rcdecl ⟨.i8, .always, .operand .b 4, 0, 0, 0, 0, 0⟩)
  ∧ decode 0x60DC422000020010
      = .ok (.bucket ⟨.n64, .always, .operand .a 17, .none, .same, .same, false, false, .context, true, false, 0x10⟩)
  ∧ decode 0xD19C000108000040 = .ok (.axchg ⟨.n64, .always, .none, 1, 0, 0, 8, 0x40⟩)
  ∧ decode 0xC02A800000000000 = .ok (.mma ⟨.bf16, .bf16, 0, .none, 0, .always, false, 0⟩)
  ∧ decode 0xE480800300000040 = .ok (.tbatch ⟨.i8, .always, .write 0, 3, 0, 0, 0, 0x40⟩)

/-- R40 to R52: decoding the encoding of any well-formed instruction gives that instruction, with every field at every
value. Tier 3. -/
def Obligations.DecodeOfEncode : Prop :=
  ∀ i : Instr, i.wf = true → decode (encode i) = .ok i

/-- R40 to R52: a word that decodes is the encoding of what it decodes to, so no two words are one instruction and no bit
of a word is ignored. Tier 2. -/
def Obligations.EncodeOfDecode : Prop :=
  ∀ (w : Word) (i : Instr), decode w = .ok i → encode i = w

/-- R50: the word with every bit zero is the empty encoding, which raises no cause; a word with opcode 0x000 and any
other bit nonzero fails validation (with the cause 0x04 of an unassigned opcode). Tier 2. -/
def Obligations.EmptyEncoding : Prop :=
  decode 0 = .error .empty ∧ wordCauses 0 = []
  ∧ ∀ w : Word, w ≠ 0 → w.toNat / 2 ^ 54 = 0 → decode w = .error .unassigned ∧ wordCauses w = [0x04]

/-- R52, R53: an opcode that the map does not list is unassigned. The map's low bits run without a gap from the class's
first to its last, but for class 0xE, which has two runs. Tier 2. -/
def Obligations.UnassignedOpcodesRefused : Prop :=
  ∀ w : Word, w ≠ 0 →
    (let cls := w.toNat / 2 ^ 60
     let low := w.toNat / 2 ^ 54 % 64
     let last := [0x16, 0x11, 0x0F, 0x0E, 0x0C, 0x08, 0x0B, 0x0D, 0x01, 0x07, 0x0E, 0x07, 0x04, 0x11, 0x16, 0x04].getD cls 0
     last < low ∨ (cls = 0 ∧ low = 0) ∨ (cls = 0xE ∧ 0x05 < low ∧ low < 0x10)) →
    decode w = .error .unassigned ∧ wordCauses w = [0x04]

/-! ## Reset and the step -/

/-- R73, R122, R123, R327, R365, R385: what die reset leaves: every context Free and not ready, with the values of a
created one in ROUND (nearest-even), SEED (1) and the windows (not valid); every core one context; QUANTUM 1,221,
DIST.AGE 10,000; every arena entry empty with generation 1. That FPSTAT is 0, and FAB.ACCEPT before a launch, is the
model's choice (log entry 1). Tier 1. -/
def Obligations.ResetValues : Prop :=
  (∀ c, (ctxAt State.reset c).st = .free ∧ (ctxAt State.reset c).ready = false ∧ (ctxAt State.reset c).round = 0
      ∧ (ctxAt State.reset c).seed = 1 ∧ (ctxAt State.reset c).fpstat = 0 ∧ (ctxAt State.reset c).frames = []
      ∧ ∀ n, windowOf State.reset c n = (0, 0))
  ∧ (∀ k, (coreAt State.reset k).contexts = 1)
  ∧ (∀ d p, (partAt State.reset d p).quantum = 1221 ∧ (partAt State.reset d p).fabAccept = 0)
  ∧ (∀ d, (dieAt State.reset d).age = 10000 ∧ (dieAt State.reset d).arenas = []
      ∧ ∀ n, tabGet 1 (dieAt State.reset d).arenaGen n = 1)

/-- The state after reset is legal: its memories are canonical and its package registers hold legal values. Tier 1. -/
def Obligations.ResetLegal : Prop := Legal State.reset

/-- Every step keeps the memories in canonical form and the package registers within R375, R380 and R382: the module number
below 16, the limit 1 to 3,200 W, the clock 625 to 1,250 MHz with THROT exactly when it is lowered, the port widths
those of a trained or absent port, and no die booted before READY. Tier 3. -/
def Obligations.StepKeepsLegal : Prop :=
  ∀ s t : State, Legal s → step s = .next t → Legal t

/-- No instruction that a brick fires changes kiln's registers, the package registers, the host's page tables or what the
outside does next (R381: CAP.PKG, CAP.SAVE and PKG.PWR are written by no instruction). Tier 2. -/
def Obligations.BricksLeaveThePackage : Prop :=
  ∀ (i : Instr) (s t : State), Legal s → isBrick i = true → exec i s = .next t →
    t.kiln = s.kiln ∧ t.pkg = s.pkg ∧ t.iommu = s.iommu ∧ t.agenda = s.agenda

/-- A step runs the instruction whose word stands at the site in focus: where that word decodes and its instruction
moves the machine, the step is exec of it. Nothing is added around it: a block's instructions have no order (R11). That,
with an empty agenda, the site in focus fires first, before the events that are due in the machine, is the model's choice
of order (log entry 8), as is the focus itself. Tier 1. -/
def Obligations.StepRunsTheDecodedInstruction : Prop :=
  ∀ (s : State) (fr : Frame) (i : Instr), s.pkg.failed = false → s.agenda = [] →
    frameAt s s.focus.c s.focus.frame = some fr → fr.mapped = true →
    decode (instrWord fr s.focus.idx) = .ok i → exec i s ≠ .next s →
    step s = exec i s

/-- A step with an agenda takes its head: an event of the machine or an action of the host happens; or the instruction
at a site that it names fires, in whatever context the site lies, if it would change the machine there, else nothing
does. Which of these the agenda names is the model's choice of order (log entry 8). R366: after a die-to-die link has
failed to retrain every die has stopped: no step has a next state. Tier 1. -/
def Obligations.StepTakesTheAgenda : Prop :=
  ((∀ (s : State) (i : Instr) (rest : List Move), s.pkg.failed = false → s.agenda = .happens i :: rest → isBrick i = false →
    step s = exec i { s with agenda := rest })
  ∧ (∀ (s : State) (u : Site) (fr : Frame) (i : Instr) (rest : List Move), s.pkg.failed = false →
    s.agenda = .fires u :: rest → frameAt s u.c u.frame = some fr → fr.mapped = true →
    decode (instrWord fr u.idx) = .ok i →
    let s' := { rotate { s with agenda := rest } u.c.core with focus := u }
    exec i s' ≠ .next s' → step s = exec i s'))
  ∧ (∀ s : State, s.pkg.failed = true → step s = .fault .packageFailed)

/-! ## Firing (R13 to R16, R155, R199) -/

namespace Sys2Proof.Machine

/-- The instruction at the site in focus may fire there for the tag (R14, R22, R131, R145, R150, R152): its context runs,
its frame is mapped, the tag is open and is of the kind the instruction fires for, it has not fired and is not decided
against for that tag, no leader fires it, its p slot, if it has one in use, holds a plain token that matches, and the
load-store queue has room for it. -/
def Supplied (i : Instr) (s : State) (fr : Frame) : Prop :=
  frameAt s s.focus.c s.focus.frame = some fr ∧ (ctxAt s s.focus.c).st = .running ∧ fr.mapped = true
  ∧ tagOpen fr s.focus.tag = true
  ∧ (isPinned fr = true → (isFinal fr s.focus.idx = true ↔ s.focus.tag = .final))
  ∧ hasFired fr s.focus.idx s.focus.tag = false ∧ isAgainst fr s.focus.idx s.focus.tag = false
  ∧ followsAt fr i = false
  ∧ (predMode i ≠ .always → ∃ p, slotToken fr s.focus.idx .p s.focus.tag = some p ∧ p.null = false ∧ p.stop = none
        ∧ (p.value.getLsbD 0 = true ↔ predMode i = .onTrue))
  ∧ ((lsidOf i).isSome = true → lsqUsed s s.focus.c.core fr < 64
        ∧ (isOldest fr s.focus.frame s.focus.tag = false → lsqUsed s s.focus.c.core fr ≤ 48))

/-- Every data slot the instruction uses holds a token that is no stop token. -/
def DataSlotsHold (i : Instr) (s : State) (fr : Frame) : Prop :=
  ∀ sl ∈ dataSlots i, ∃ t, slotToken fr s.focus.idx sl s.focus.tag = some t ∧ t.stop = none

/-- The instruction has no entry in the replay log that it could deliver (R198, R199). -/
def NotLogged (s : State) : Prop :=
  s.focus.frame = 0 → logged (ctxAt s s.focus.c) s.focus.idx s.focus.tag = none

end Sys2Proof.Machine

/-- R14: an instruction of a mapped block, pinned or not, with every slot it uses holding a plain token for the tag, its
predicate matching, not fired before for that tag, and no order to wait for, is ready with the tokens of its data slots,
whatever else of the block has fired. "No order to wait for" is: no other holder of its effect LSID and, for an exit, no
other exit has fired for the tag (R13); it waits for no answer; and an irrevocable instruction is the oldest, with the
lower LSIDs settled (R28) and no PHASE of its context under way (R264). Tier 2. -/
def Obligations.ReadyWhenEverySlotHolds : Prop :=
  ∀ (i : Instr) (s : State) (fr : Frame) (a b c : Token),
    Supplied i s fr → DataSlotsHold i s fr → NotLogged s →
    (∀ sl ∈ dataSlots i, ∀ t, slotToken fr s.focus.idx sl s.focus.tag = some t → t.null = false) →
    lsidTaken fr i s.focus.tag = false → (s.focus.idx, s.focus.tag) ∉ fr.waiting →
    (isExit i = true → exitFired fr s.focus.tag = false) →
    (alwaysIrrevocable i = true → phasing (ctxAt s s.focus.c) = false ∧ isOldest fr s.focus.frame s.focus.tag = true
        ∧ ∀ k, lsidOf i = some k → lowerResolved fr k s.focus.tag = true
            ∧ loadsBelow isSyncLoad fr k s.focus.idx s.focus.tag = false) →
    a = (slotToken fr s.focus.idx .a s.focus.tag).getD nullTok →
    b = (slotToken fr s.focus.idx .b s.focus.tag).getD nullTok →
    c = (slotToken fr s.focus.idx .c s.focus.tag).getD nullTok →
    readiness i s = .go a b c

/-- R15: with a p token that does not match its mode (null, or bit 0 against the mode), an instruction that has not
fired never fires: it is decided against firing, it delivers nothing, and its holders' decision settles its LSID
(R22). R16: an instruction that every slot supplies, with a null token in a data slot, delivers null to every target:
it makes no access, records no fault, sets no flag and has no effect at the commit. R13: a second exit, or a second
resolution of a store LSID, by an instruction that every slot supplies, is recorded as BLOCK-INVALID with the cause
"duplicate"; the instruction delivers no token. R199: an instruction of the context's oldest block that every slot
supplies, and whose result stands in the replay log, delivers it and issues no request; RETT, whose logged status 0
requests the resumption again, is not among those meant. Tier 2. -/
def Obligations.ReadinessDecides : Prop :=
  (∀ (i : Instr) (s : State) (fr : Frame) (p : Token),
    frameAt s s.focus.c s.focus.frame = some fr →
    (ctxAt s s.focus.c).st = .running → fr.mapped = true → isPinned fr = false → s.focus.tag = .iter 0 →
    hasFired fr s.focus.idx s.focus.tag = false → isAgainst fr s.focus.idx s.focus.tag = false →
    fr.follows = false → isBrick i = true → (∀ f, i ≠ .isect f) →
    predMode i ≠ .always → slotToken fr s.focus.idx .p s.focus.tag = some p → p.stop = none →
    (p.null = true ∨ (p.value.getLsbD 0 = true ↔ predMode i = .onFalse)) →
    exec i s = .next (decideAgainst s)
    ∧ ∃ fr', frameAt (decideAgainst s) s.focus.c s.focus.frame = some fr' ∧ fr'.flight = fr.flight ∧ fr'.fired = fr.fired
        ∧ isAgainst fr' s.focus.idx s.focus.tag = true
        ∧ ∀ k, lsidOf i = some k → lsidHolders fr k = [s.focus.idx] → lsidResolved fr' k s.focus.tag = true)
  ∧ ((∀ (i : Instr) (s : State) (fr : Frame),
    Supplied i s fr → DataSlotsHold i s fr → NotLogged s →
    lsidTaken fr i s.focus.tag = false → (s.focus.idx, s.focus.tag) ∉ fr.waiting →
    (∃ sl ∈ dataSlots i, ∃ t, slotToken fr s.focus.idx sl s.focus.tag = some t ∧ t.null = true) →
    readiness i s = .null)
  ∧ (∀ (i : Instr) (s : State), isBrick i = true → (∀ f, i ≠ .isect f) → readiness i s = .null →
    exec i s = .next (fired i { r0 := some nullTok, r1 := some nullTok } s)))
  ∧ ((∀ (i : Instr) (s : State) (fr : Frame),
    Supplied i s fr → DataSlotsHold i s fr → NotLogged s → lsidTaken fr i s.focus.tag = true → readiness i s = .dup)
  ∧ (∀ (i : Instr) (s : State) (fr : Frame),
    Supplied i s fr → DataSlotsHold i s fr → NotLogged s → (s.focus.idx, s.focus.tag) ∉ fr.waiting →
    (∀ sl ∈ dataSlots i, ∀ t, slotToken fr s.focus.idx sl s.focus.tag = some t → t.null = false) →
    isExit i = true → lsidTaken fr i s.focus.tag = false → exitFired fr s.focus.tag = true → readiness i s = .dup)
  ∧ (∀ (i : Instr) (s : State), isBrick i = true → (∀ f, i ≠ .isect f) → readiness i s = .dup →
    exec i s = .next (faulted clsBlockInvalid 0x0E 0 (dupLocator false s.focus.idx) s)))
  ∧ ((∀ (i : Instr) (s : State) (fr : Frame) (e : LogEntry),
    Supplied i s fr → DataSlotsHold i s fr → s.focus.frame = 0 →
    logged (ctxAt s s.focus.c) s.focus.idx s.focus.tag = some e → readiness i s = .logged e)
  ∧ (∀ (i : Instr) (s : State) (e : LogEntry), isBrick i = true → (∀ f, i ≠ .isect f) → (∀ f, i ≠ .rett f) →
    readiness i s = .logged e →
    exec i s = .next (fired i { r0 := some (match e.t0 with | some v => wideTok v | none => nullTok),
                                r1 := some (scalar e.t1) } s)))

/-- What a firing changes: the frame of the site alone (and the uniform tokens that followers wait for, R145). The
frame keeps its image, registers read and operands, and its faults but for a second final token of one iteration
(R150, R152); it records the firing. Every register, memory byte, special register, accumulator, queue and other block
is unchanged. R12, R40: the tokens of a firing of a non-pinned block leave for the targets that the instruction names:
the first result for target 0 and the second for target 1, none for a target of kind none. Tier 2. -/
def Obligations.FiringChangesItsFrameOnly : Prop :=
  (∀ (i : Instr) (r : Firing) (s : State), OnlySiteFrame s (fired i r s)
    ∧ ∀ fr, frameAt s s.focus.c s.focus.frame = some fr →
        ∃ fr', frameAt (fired i r s) s.focus.c s.focus.frame = some fr'
          ∧ fr'.fired = fr.fired ++ [(s.focus.idx, s.focus.tag)]
          ∧ fr'.effects = fr.effects ++ r.effs.map (fun e => ⟨s.focus.idx, lsidOf i, s.focus.tag, e⟩)
          ∧ fr'.ops = fr.ops ∧ fr'.image = fr.image ∧ fr'.reads = fr.reads
          ∧ (∃ ds, fr'.faults = fr.faults ++ ds ∧ ((∀ t ∈ targetsOf i, t.2 ≠ .out) → ds = []))
          ∧ fr'.exits = fr.exits ∧ fr'.loads = fr.loads ∧ fr'.wslots = fr.wslots)
  ∧ (∀ (i : Instr) (r : Firing) (s : State) (fr fr' : Frame),
    frameAt s s.focus.c s.focus.frame = some fr → isPinned fr = false → s.focus.tag = .iter 0 →
    (∀ t ∈ targetsOf i, t.2 = .same) →
    frameAt (fired i r s) s.focus.c s.focus.frame = some fr' →
    fr'.flight = fr.flight ++ ((targetsOf i).zip [r.r0, r.r1]).flatMap (fun e =>
      match e.2 with
      | some tok => if e.1.1 = .none then [] else [⟨e.1.1, .iter 0, tok, some 0, 0, false⟩]
      | none => [])
    ∧ fr'.outs = fr.outs)

/-- The arithmetic classes 0x0 to 0x7 but ISECT change only the frame of the site, whatever their readiness: no register, no
special register, no byte of memory; their flags wait in the frame for the commit (R74). Tier 2. -/
def Obligations.ComputeFrame : Prop :=
  ∀ (i : Instr) (s t : State), isBrick i = true → i.opcode < 0x200 → (∀ f, i ≠ .isect f) → exec i s = .next t →
    OnlySiteFrame s t ∧ SameMemory s t

/-! ## Integer arithmetic (class 0x0) -/

/-- R88: ADD, SUB, NEG, ABS, MUL, MAD, MIN, MAX, CLAMP, ABSD and AVG compute exactly on each lane (lane 0 in the
scalar form) and then wrap modulo 2^w; with saturate the exact result is clamped to the type's range, and Saturated is
set when the clamp changed it. Each completes whenever it is ready. MULH delivers bits [2w-1:w] of the product. R89:
DIV truncates toward zero and REM takes the sign of the dividend; a division by zero delivers all ones and the
dividend, and sets no flag; the quotient of the least value by -1 wraps, or is clamped under saturate. Tier 2. -/
def Obligations.IntegerResults : Prop :=
  (∀ e ∈ ([(.add, fun _ x y _ => x + y), (.sub, fun _ x y _ => x - y), (.neg, fun _ x _ _ => -x),
          (.abs, fun _ x _ _ => |x|), (.mul, fun _ x y _ => x * y), (.mad, fun _ x y z => x * y + z),
          (.mulh, fun w x y _ => x * y / 2 ^ w), (.minI, fun _ x y _ => min x y), (.maxI, fun _ x y _ => max x y),
          (.clamp, fun _ x y z => min (max x y) z), (.absd, fun _ x y _ => |x - y|),
          (.avg, fun _ x y _ => (x + y + 1) / 2)] : List ((GFields → Instr) × (Nat → Int → Int → Int → Int))),
    ∀ (f : GFields) (s : State) (a b c : Token), readiness (e.1 f) s = .go a b c →
      ∃ r : Nat → LaneRes,
        (∀ k, IntResult f.ty f.sat (e.2 f.ty.width (intA f a k) (intB f b k) (intA f c k)) (r k))
        ∧ DeliversLanes (e.1 f) s f.ty f.wide r)
  ∧ (∀ (f : GFields) (s : State) (a b c : Token),
    (readiness (.div f) s = .go a b c →
      ∃ r : Nat → LaneRes, DeliversLanes (.div f) s f.ty f.wide r ∧ ∀ k,
        (intB f b k = 0 → r k = (2 ^ f.ty.width - 1, 0))
        ∧ (intB f b k ≠ 0 → IntResult f.ty f.sat ((intA f a k).tdiv (intB f b k)) (r k)))
    ∧ (readiness (.rem f) s = .go a b c →
      ∃ r : Nat → LaneRes, DeliversLanes (.rem f) s f.ty f.wide r ∧ ∀ k,
        (r k).2 = 0 ∧ readInt f.ty (r k).1 = (if intB f b k = 0 then intA f a k else (intA f a k).tmod (intB f b k))))

/-- R91: ADDC delivers the sum with the carry-in modulo 2^w to target 0 and the carry to target 1; SUBB the difference
and the borrow. In each lane the two results together are the exact value. The types are the unsigned ones (R88). R90:
DOT4 adds four exact byte products to each 32-bit lane of c, wrapping or clamping once; SAD adds eight absolute byte
differences to each 64-bit lane of c modulo 2^64. Tier 2. -/
def Obligations.CarryAndSumResults : Prop :=
  (∀ (f : GFields) (s : State) (a b c : Token), f.ty ∈ tUInt →
    (readiness (.addc f) s = .go a b c → ∃ v w : Wide,
      exec (.addc f) s = .next (fired (.addc f) { r0 := some (wideTok v), r1 := some (wideTok w) } s)
      ∧ (f.wide = true → ∀ k, k < laneCount f.ty.width →
          laneN f.ty.width v k + 2 ^ f.ty.width * laneN f.ty.width w k
            = laneN f.ty.width a.value k + bLane f b.value k + laneN f.ty.width c.value k % 2)
      ∧ (f.wide = false → v = scalarOf f.ty ((laneN f.ty.width a.value 0 + bLane f b.value 0 + laneN f.ty.width c.value 0 % 2) % 2 ^ f.ty.width)
          ∧ w = scalar64 ((laneN f.ty.width a.value 0 + bLane f b.value 0 + laneN f.ty.width c.value 0 % 2) / 2 ^ f.ty.width)))
    ∧ (readiness (.subb f) s = .go a b c → ∃ v w : Wide,
      exec (.subb f) s = .next (fired (.subb f) { r0 := some (wideTok v), r1 := some (wideTok w) } s)
      ∧ (f.wide = true → ∀ k, k < laneCount f.ty.width →
          (laneN f.ty.width v k : Int) - 2 ^ f.ty.width * (laneN f.ty.width w k : Int)
            = (laneN f.ty.width a.value k : Int) - bLane f b.value k - (laneN f.ty.width c.value k % 2 : Nat))
      ∧ (f.wide = false → v = scalarOf f.ty (wrapTo f.ty.width
            ((laneN f.ty.width a.value 0 : Int) - bLane f b.value 0 - (laneN f.ty.width c.value 0 % 2 : Nat)))
          ∧ w = scalar64 (if laneN f.ty.width a.value 0 < bLane f b.value 0 + laneN f.ty.width c.value 0 % 2 then 1 else 0))))
  ∧ (∀ (f : GFields) (s : State) (a b c : Token),
    (readiness (.dot4 f) s = .go a b c →
      let out : ElemType := if f.ty.signed then .i32 else .n32
      ∃ r : Nat → LaneRes, DeliversLanes (.dot4 f) s out f.wide r ∧ ∀ j,
        IntResult out f.sat (readInt out (laneN 32 c.value j)
          + (byteVal f.ty.signed a.value (4 * j) * byteVal f.ty.signed b.value (4 * j)
            + byteVal f.ty.signed a.value (4 * j + 1) * byteVal f.ty.signed b.value (4 * j + 1)
            + byteVal f.ty.signed a.value (4 * j + 2) * byteVal f.ty.signed b.value (4 * j + 2)
            + byteVal f.ty.signed a.value (4 * j + 3) * byteVal f.ty.signed b.value (4 * j + 3))) (r j))
    ∧ (readiness (.sad f) s = .go a b c →
      ∃ r : Nat → LaneRes, DeliversLanes (.sad f) s .n64 f.wide r ∧ ∀ j,
        r j = ((laneN 64 c.value j + ((List.range 8).map (fun k =>
          ((laneN 8 a.value (8 * j + k) : Int) - (laneN 8 b.value (8 * j + k) : Int)).natAbs)).sum) % 2 ^ 64, 0)))

/-- R92: ADDP keeps bits [63:54] of the pointer and adds to its address field modulo 2^54; SUBP delivers the difference of
two address fields modulo 2^54, sign-extended from bit 53; PTRF replaces bits [63:54]; PTRX extracts a field. Tier 2. -/
def Obligations.PointerResults : Prop :=
  ∀ (f : GFields) (s : State) (a b c : Token),
    (readiness (.addp f) s = .go a b c → ∃ v : Word, DeliversValue (.addp f) s (v.setWidth 512)
      ∧ v.extractLsb' 54 10 = (word a.value 0).extractLsb' 54 10
      ∧ v.extractLsb' 0 54 = (word a.value 0).extractLsb' 0 54
          + (if f.imm then f.imm16.signExtend 54 else (word b.value 0).extractLsb' 0 54))
    ∧ (readiness (.subp f) s = .go a b c → DeliversValue (.subp f) s
        ((((word a.value 0).extractLsb' 0 54 - (word b.value 0).extractLsb' 0 54).signExtend 64).setWidth 512))
    ∧ (readiness (.ptrf f) s = .go a b c → ∃ v : Word, DeliversValue (.ptrf f) s (v.setWidth 512)
      ∧ v.extractLsb' 54 10 = (if f.imm then f.imm16.extractLsb' 0 10 else (word b.value 0).extractLsb' 0 10)
      ∧ v.extractLsb' 0 54 = (word a.value 0).extractLsb' 0 54)
    ∧ (readiness (.ptrx f) s = .go a b c →
      (f.imm16 = 0 → DeliversValue (.ptrx f) s (((word a.value 0).extractLsb' 54 10).setWidth 512))
      ∧ (f.imm16 = 1 → DeliversValue (.ptrx f) s (((word a.value 0).extractLsb' 0 54).setWidth 512))
      ∧ (f.imm16 = 2 → DeliversValue (.ptrx f) s (((word a.value 0).extractLsb' 61 3).setWidth 512)))

/-! ## Logic, shifts, fields (class 0x1) and compares (class 0x2) -/

/-- R93: AND, OR, XOR, ANDN, ORN and NOT act on each bit of a lane, BREV moves bit k to bit w-1-k, BSWAP byte k to
byte w/8-1-k, ROL and ROR rotate by b mod w; none sets a flag. R93: POPC counts the one bits of a lane, CLZ its
leading and CTZ its trailing zeros, which are w for zero. Tier 2. -/
def Obligations.LogicResults : Prop :=
  ((∀ e ∈ ([(.andB, fun _ x y j => x.testBit j && y.testBit j), (.orB, fun _ x y j => x.testBit j || y.testBit j),
           (.xorB, fun _ x y j => x.testBit j ^^ y.testBit j), (.andn, fun _ x y j => x.testBit j && !y.testBit j),
           (.orn, fun _ x y j => x.testBit j || !y.testBit j), (.notB, fun _ x _ j => !x.testBit j),
           (.brev, fun w x _ j => x.testBit (w - 1 - j)),
           (.bswap, fun w x _ j => x.testBit (8 * (w / 8 - 1 - j / 8) + j % 8)),
           (.rol, fun w x y j => x.testBit ((j + w - y % w) % w)),
           (.ror, fun w x y j => x.testBit ((j + y) % w))]
        : List ((GFields → Instr) × (Nat → Nat → Nat → Nat → Bool))),
    ∀ (f : GFields) (s : State) (a b c : Token), readiness (e.1 f) s = .go a b c →
      ∃ r : Nat → LaneRes, DeliversLanes (e.1 f) s f.ty f.wide r ∧ ∀ k, (r k).1 < 2 ^ f.ty.width ∧ (r k).2 = 0
        ∧ ∀ j, j < f.ty.width → (r k).1.testBit j
            = e.2 f.ty.width (laneN f.ty.width a.value k) (bLane f b.value k) j))
  ∧ (∀ (f : GFields) (s : State) (a b c : Token),
    (readiness (.popc f) s = .go a b c → ∃ r : Nat → LaneRes, DeliversLanes (.popc f) s f.ty f.wide r ∧ ∀ k,
      r k = (((List.range f.ty.width).filter (fun j => (laneN f.ty.width a.value k).testBit j)).length, 0))
    ∧ (readiness (.clz f) s = .go a b c → ∃ r : Nat → LaneRes, DeliversLanes (.clz f) s f.ty f.wide r ∧ ∀ k,
      (r k).2 = 0 ∧ (r k).1 ≤ f.ty.width
      ∧ (∀ j, f.ty.width - (r k).1 ≤ j → j < f.ty.width → (laneN f.ty.width a.value k).testBit j = false)
      ∧ ((r k).1 < f.ty.width → (laneN f.ty.width a.value k).testBit (f.ty.width - 1 - (r k).1) = true))
    ∧ (readiness (.ctz f) s = .go a b c → ∃ r : Nat → LaneRes, DeliversLanes (.ctz f) s f.ty f.wide r ∧ ∀ k,
      (r k).2 = 0 ∧ (r k).1 ≤ f.ty.width
      ∧ (∀ j, j < (r k).1 → (laneN f.ty.width a.value k).testBit j = false)
      ∧ ((r k).1 < f.ty.width → (laneN f.ty.width a.value k).testBit (r k).1 = true)))

/-- R94: a shift count is the lane of b read unsigned. SHL and SHR deliver 0 for counts of w or more, SAR copies of the
sign; SHL under saturate delivers the clamp of the exact value a times 2^count. Tier 2. -/
def Obligations.ShiftResults : Prop :=
  ∀ (f : GFields) (s : State) (a b c : Token),
    (readiness (.shl f) s = .go a b c → ∃ r : Nat → LaneRes, DeliversLanes (.shl f) s f.ty f.wide r ∧ ∀ k,
      (f.sat = false → r k = (laneN f.ty.width a.value k * 2 ^ bLane f b.value k % 2 ^ f.ty.width, 0))
      ∧ (f.sat = true → IntResult f.ty true (intA f a k * 2 ^ bLane f b.value k) (r k)))
    ∧ (readiness (.shr f) s = .go a b c → ∃ r : Nat → LaneRes, DeliversLanes (.shr f) s f.ty f.wide r ∧ ∀ k,
      r k = (laneN f.ty.width a.value k / 2 ^ bLane f b.value k, 0))
    ∧ (readiness (.sar f) s = .go a b c → ∃ r : Nat → LaneRes, DeliversLanes (.sar f) s f.ty f.wide r ∧ ∀ k,
      (r k).1 < 2 ^ f.ty.width ∧ (r k).2 = 0
      ∧ toSigned f.ty.width (r k).1 = toSigned f.ty.width (laneN f.ty.width a.value k) / 2 ^ bLane f b.value k)

/-- R95: the descriptor is imm16, or the low 16 bits of the lane of b (of b itself for 8-bit lanes). BEXT delivers bits [pos+len-1:pos] of the lane, zero- or sign-extended by the type; BINS replaces them by the low
len bits of c. A length above w is taken as w; positions at or beyond w read as 0 or as the sign and are dropped in an
insertion. Tier 2. -/
def Obligations.FieldResults : Prop :=
  ∀ (f : GFields) (s : State) (a b c : Token),
    (readiness (.bext f) s = .go a b c → ∃ r : Nat → LaneRes, DeliversLanes (.bext f) s f.ty f.wide r ∧ ∀ k,
      (r k).2 = 0 ∧ (r k).1 < 2 ^ f.ty.width
      ∧ ((fieldDesc f b.value k).2 = 0 → (r k).1 = 0)
      ∧ ∀ j, j < f.ty.width → (fieldDesc f b.value k).2 ≠ 0 →
        (r k).1.testBit j =
          (let pos := (fieldDesc f b.value k).1
           let j' := if j < (fieldDesc f b.value k).2 then j else (fieldDesc f b.value k).2 - 1
           if j < (fieldDesc f b.value k).2 ∨ f.ty.signed = true then
             (if pos + j' < f.ty.width then (laneN f.ty.width a.value k).testBit (pos + j')
              else f.ty.signed && (laneN f.ty.width a.value k).testBit (f.ty.width - 1))
           else false))
    ∧ (readiness (.bins f) s = .go a b c → ∃ r : Nat → LaneRes, DeliversLanes (.bins f) s f.ty f.wide r ∧ ∀ k,
      (r k).2 = 0 ∧ (r k).1 < 2 ^ f.ty.width
      ∧ ∀ j, j < f.ty.width → (r k).1.testBit j =
          (let pos := (fieldDesc f b.value k).1
           if pos ≤ j ∧ j < pos + (fieldDesc f b.value k).2 then (laneN f.ty.width c.value k).testBit (j - pos)
           else (laneN f.ty.width a.value k).testBit j))
    ∧ ∀ k, (f.imm = true → fieldDesc f b.value k = (f.imm16.toNat % 256, min (f.imm16.toNat / 256) f.ty.width))
      ∧ (f.imm = false → f.ty.width = 8 → fieldDesc f b.value k = (laneN 8 b.value 0, min (laneN 8 b.value 1) 8))
      ∧ (f.imm = false → f.ty.width ≠ 8 → fieldDesc f b.value k
          = (laneN f.ty.width b.value k % 256, min (laneN f.ty.width b.value k / 256 % 256) f.ty.width))

/-- A compare delivers a predicate, or a mask with every bit of a lane set where the relation holds (R96). -/
def Sys2Proof.Machine.DeliversRelation (i : Instr) (s : State) (ty : ElemType) (wide : Bool) (rel : Nat → Bool) : Prop :=
  ∃ v, DeliversValue i s v
    ∧ (wide = false → v = if rel 0 then 1 else 0)
    ∧ (wide = true → ∀ k, k < laneCount ty.width → laneN ty.width v k = if rel k then 2 ^ ty.width - 1 else 0)

namespace Sys2Proof.Machine

/-- The number a finite floating-point value stands for; both zeros are 0 (R64). -/
def realOf : FVal → ℚ
  | .fin neg m e => (if neg then -1 else 1) * (m : ℚ) * (2 : ℚ) ^ e
  | _ => 0

/-- x is below y, for values that are no NaN: the infinities lie outside the finite values, which are ordered as numbers. -/
def belowF : FVal → FVal → Prop
  | .inf true, .inf true => False
  | .inf true, .inf false => True
  | .inf true, .fin _ _ _ => True
  | .inf false, _ => False
  | .fin _ _ _, .inf neg => neg = false
  | .fin n m e, .fin n' m' e' => realOf (.fin n m e) < realOf (.fin n' m' e')
  | _, _ => False

end Sys2Proof.Machine

/-- R96, R97: on integer types the compares hold as the integers do. On floating-point types a NaN operand makes CEQ,
CLT, CLE, CGT and CGE false and CNE and CUO true; two operands that are no NaN compare as the numbers they stand for,
so +0 and −0 are equal and a subnormal counts by its value, with −infinity below and +infinity above every other
value. TESTZ and TESTNZ look at a AND b. R96, R98: the predicate operations act on bit 0, or on all 512 bits in the
wide form; ANYL and ALLL read every lane; CMASK spreads the bits of a, or of imm16, over the lanes. Tier 2. -/
def Obligations.CompareAndPredicateResults : Prop :=
  ((∀ e ∈ ([(.ceq, fun x y => x = y, false, fun l g => ¬ l ∧ ¬ g), (.cne, fun x y => x ≠ y, true, fun l g => l ∨ g),
           (.clt, fun x y => x < y, false, fun l _ => l), (.cle, fun x y => x ≤ y, false, fun _ g => ¬ g),
           (.cgt, fun x y => y < x, false, fun _ g => g), (.cge, fun x y => y ≤ x, false, fun l _ => ¬ l)]
        : List ((GFields → Instr) × (Int → Int → Prop) × Bool × (Prop → Prop → Prop))),
    ∀ (f : GFields) (s : State) (a b c : Token), readiness (e.1 f) s = .go a b c →
      ∃ rel : Nat → Bool, DeliversRelation (e.1 f) s f.ty f.wide rel ∧ ∀ k,
        (expBits f.ty = 0 → (rel k = true ↔ e.2.1 (intA f a k) (intB f b k)))
        ∧ (expBits f.ty ≠ 0 → (isNaN (readF f.ty (laneN f.ty.width a.value k)) || isNaN (readF f.ty (bLane f b.value k))) = true →
            rel k = e.2.2.1)
        ∧ (expBits f.ty ≠ 0 → isNaN (readF f.ty (laneN f.ty.width a.value k)) = false →
            isNaN (readF f.ty (bLane f b.value k)) = false →
            (rel k = true ↔ e.2.2.2
              (belowF (readF f.ty (laneN f.ty.width a.value k)) (readF f.ty (bLane f b.value k)))
              (belowF (readF f.ty (bLane f b.value k)) (readF f.ty (laneN f.ty.width a.value k))))))
  ∧ ∀ (f : GFields) (s : State) (a b c : Token),
    (readiness (.cuo f) s = .go a b c → DeliversRelation (.cuo f) s f.ty f.wide (fun k =>
      isNaN (readF f.ty (laneN f.ty.width a.value k)) || isNaN (readF f.ty (bLane f b.value k))))
    ∧ (readiness (.testz f) s = .go a b c → DeliversRelation (.testz f) s f.ty f.wide (fun k =>
      decide (laneN f.ty.width a.value k &&& bLane f b.value k = 0)))
    ∧ (readiness (.testnz f) s = .go a b c → DeliversRelation (.testnz f) s f.ty f.wide (fun k =>
      decide (laneN f.ty.width a.value k &&& bLane f b.value k ≠ 0))))
  ∧ ((∀ e ∈ ([(.pand, fun x y => x && y), (.por, fun x y => x || y), (.pxor, fun x y => x ^^ y), (.pnot, fun x _ => !x)]
        : List ((GFields → Instr) × (Bool → Bool → Bool))),
    ∀ (f : GFields) (s : State) (a b c : Token), readiness (e.1 f) s = .go a b c →
      ∃ v, DeliversValue (e.1 f) s v ∧ ∀ j, j < 512 → v.getLsbD j
        = ((f.wide || decide (j = 0)) && e.2 (a.value.getLsbD j) (b.value.getLsbD j)))
  ∧ ∀ (f : GFields) (s : State) (a b c : Token),
    (readiness (.anyl f) s = .go a b c → ∃ q : Bool, DeliversValue (.anyl f) s (if q then 1 else 0)
      ∧ (q = true ↔ ∃ k, k < laneCount f.ty.width ∧ laneN f.ty.width a.value k ≠ 0))
    ∧ (readiness (.alll f) s = .go a b c → ∃ q : Bool, DeliversValue (.alll f) s (if q then 1 else 0)
      ∧ (q = true ↔ ∀ k, k < laneCount f.ty.width → laneN f.ty.width a.value k ≠ 0))
    ∧ (readiness (.cmask f) s = .go a b c → ∃ v, DeliversValue (.cmask f) s v ∧ ∀ k, k < laneCount f.ty.width →
        laneN f.ty.width v k = if (if f.imm then f.imm16.getLsbD k else (word a.value 0).getLsbD k) then 2 ^ f.ty.width - 1 else 0))

/-! ## Floating point (classes 0x3 and 0x4), conversions and narrow formats (classes 0x4 and 0x5) -/

namespace Sys2Proof.Machine

/-- A rounding instruction may round now: its mode draws nothing, or its block, and in a pinned block its iteration, is the
oldest, so that SEED is committed (R77; waiting for that is the model's, log entry 8). -/
def MayRound (i : Instr) (s : State) (f : GFields) : Prop :=
  (roundingAt s i f.rnd).mode ≠ .stochastic
    ∨ ∃ fr, frameAt s s.focus.c s.focus.frame = some fr ∧ isOldest fr s.focus.frame s.focus.tag = true

/-- Operands of lane k as floating-point values. -/
def floatA (f : GFields) (a : Token) (k : Nat) : FVal := readF f.ty (laneN f.ty.width a.value k)
def floatB (f : GFields) (b : Token) (k : Nat) : FVal := readF f.ty (bLane f b.value k)

/-- The instruction completes with a value and flags. -/
def DeliversFlagged (i : Instr) (s : State) (v : Wide × BitVec 6) : Prop :=
  exec i s = .next (fired i { r0 := some (wideTok v.1), r1 := some (wideTok v.1), flags := v.2 } s)

/-- The instruction completes; its token to both targets holds `lane k` in lane k of n lanes of width w, and its flags are
those of the lanes that `counted` names. -/
def DeliversToken (i : Instr) (s : State) (w n : Nat) (counted : List Nat) (lane : Nat → LaneRes) : Prop :=
  ∃ v, DeliversFlagged i s (v, orFlags (counted.map (fun k => (lane k).2)))
    ∧ ∀ k, k < n → laneN w v k = (lane k).1 % 2 ^ w

/-- The instruction completes as a conversion (R103): with ws and wd the widths of source and destination, element p·n + k
of the wider count's selection converts as `one k`. Narrowing fills destination elements p·n to p·n + n - 1 and leaves
every other bit zero; widening reads source elements p·n to p·n + n - 1; the scalar form converts element 0. -/
def Converts (i : Instr) (s : State) (f : GFields) (a : Token) (one : Nat → Nat → LaneRes) : Prop :=
  let ws := (srcType f).width
  let wd := f.ty.width
  let n := 512 / max ws wd
  let p := f.imm16.toNat / 16 % 8
  let source := fun (k : Nat) => laneN ws a.value ((if ws < wd then p * n else 0) + k)
  ∃ v fl, DeliversFlagged i s (v, fl)
    ∧ (f.wide = false → v = scalarOf f.ty (one 0 (laneN ws a.value 0)).1 ∧ fl = (one 0 (laneN ws a.value 0)).2)
    ∧ (f.wide = true → fl = orFlags ((List.range n).map (fun k => (one k (source k)).2))
        ∧ ∀ j, j < laneCount wd →
          laneN wd v j = if (if wd < ws then p * n else 0) ≤ j ∧ j < (if wd < ws then p * n else 0) + n then
              (one (j - (if wd < ws then p * n else 0)) (source (j - (if wd < ws then p * n else 0)))).1 % 2 ^ wd
            else 0)

/-- The result of a conversion of a floating-point value to an integer type (R78, R104): the value rounded to an integer in
the mode where the type holds it; else Invalid with 0x80…0 (signed) or 0 (unsigned), or under saturate the nearer bound
(0 for a NaN), with Saturated where saturate changed the value. -/
def ToInteger (ty : ElemType) (mode : Mode) (sat : Bool) (draw : Nat) (x : FVal) (r : LaneRes) : Prop :=
  let bad := if ty.signed then 2 ^ (ty.width - 1) else 0
  let outside := fun (bound : Int) =>
    if sat then r.1 < 2 ^ ty.width ∧ readInt ty r.1 = bound ∧ r.2 = (fInvalid ||| if r.1 = bad then 0 else fSaturated)
    else r = (bad, fInvalid)
  match x with
  | .nan => outside 0
  | .inf n => outside (if n then minOf ty else maxOf ty)
  | .fin n m e =>
    let t := (roundInt mode draw n m e).1
    if t < minOf ty then outside (minOf ty)
    else if maxOf ty < t then outside (maxOf ty)
    else r.1 < 2 ^ ty.width ∧ readInt ty r.1 = t ∧ r.2 = if (roundInt mode draw n m e).2 then fInexact else 0

/-- The values of 2^d neighbouring lanes, those of group j, combined pairwise in lane order (R81): the applications of one
level are numbered after those of the levels below it, of n lanes in all. -/
def pairwise (op : Nat → Nat → Nat → LaneRes) (n : Nat) (v : Nat → Nat) : Nat → Nat → LaneRes
  | 0, j => (v j, 0)
  | d + 1, j =>
    let x := pairwise op n v d (2 * j)
    let y := pairwise op n v d (2 * j + 1)
    let r := op (n - n / 2 ^ d + j) x.1 y.1
    (r.1, x.2 ||| y.2 ||| r.2)

/-- The instruction completes with the reduction of all lanes of its type, a scalar (R110). -/
def Reduces (i : Instr) (s : State) (ty : ElemType) (a : Token) (op : Nat → Nat → Nat → LaneRes) : Prop :=
  let r := pairwise op (laneCount ty.width) (laneN ty.width a.value) (Nat.log2 (laneCount ty.width)) 0
  DeliversFlagged i s (scalarOf ty r.1, r.2)

/-- The instruction completes and delivers a string state (R116): H, D, O, R and N, every other bit zero. -/
def DeliversScan (i : Instr) (s : State) (h : Nat) (d : Bool) (o r n : Nat) : Prop :=
  ∃ v, DeliversFlagged i s (v, 0) ∧ laneN 64 v 0 = n + 2 ^ 24 * r + 2 ^ 61 * o + (if d then 2 ^ 63 else 0)
    ∧ laneN 64 v 1 = h ∧ ∀ k, 2 ≤ k → laneN 64 v k = 0

/-- The limit that is left before byte j of a token, of a scan whose state gives R (R116). -/
def limitAt (c : Token) (j : Nat) : Nat :=
  if field (laneN 64 c.value 0) 24 24 = 2 ^ 24 - 1 then 2 ^ 24 - 1 else field (laneN 64 c.value 0) 24 24 - j

/-- String x ends before its byte j (R117): the limit is used up, or the byte is the terminator and that is enabled. -/
def endsAt (f : GFields) (c x : Token) (j : Nat) : Prop :=
  limitAt c j = 0 ∨ (f.imm16.getLsbD 8 = true ∧ laneN 8 x.value j = f.imm16.toNat % 256)

/-- A string scan (R116, R117). A state with D set passes with its fields unchanged. Else the scan consumes m bytes, where m is
the first with `stop m` (64 where there is none): N rises by m modulo 2^24, R falls by m unless it is 0xFF_FFFF, H
becomes `hash m`; D is set exactly when it stopped, with `out m` as its outcome where that is one, and O (11 read as 00)
unchanged else. -/
def ScansTo (i : Instr) (s : State) (c : Token) (stop : Nat → Prop) (out : Nat → Option Nat) (hash : Nat → Nat) : Prop :=
  let w := laneN 64 c.value 0
  let o := if field w 61 2 = 3 then 0 else field w 61 2
  if w.testBit 63 then DeliversScan i s (laneN 64 c.value 1) true (field w 61 2) (field w 24 24) (field w 0 24)
  else ∃ m, m ≤ 64 ∧ (∀ j, j < m → ¬ stop j) ∧ (m < 64 → stop m)
    ∧ DeliversScan i s (hash m) (decide (m < 64)) (if m < 64 then (out m).getD o else o) (limitAt c m)
        ((field w 0 24 + m) % 2 ^ 24)

end Sys2Proof.Machine

/-- R99, R101: each of these instructions delivers in each lane its exact result rounded once to the element type, in the
mode of its override field or of ROUND (R72), with lane k's own draw (R77). Tier 2. -/
def Obligations.FloatResults : Prop :=
  ∀ e ∈ ([(.fadd, fun d x y _ => exactAdd d x y), (.fsub, fun d x y _ => exactAdd d x (flipSign y)),
          (.fmul, fun _ x y _ => exactMul x y), (.fdiv, fun _ x y _ => exactDiv x y),
          (.fma, fun d x y z => exactFma d x y z), (.fms, fun d x y z => exactFma d x y (flipSign z)),
          (.fnma, fun d x y z => exactFma d (flipSign x) y z), (.fnms, fun d x y z => exactFma d (flipSign x) y (flipSign z)),
          (.fsqrt, fun _ x _ _ => exactSqrt x), (.frcp, fun _ x _ _ => exactRcp x), (.frsq, fun _ x _ _ => exactRsq x),
          (.fexp2, fun _ x _ _ => exactExp2 x), (.flog2, fun _ x _ _ => exactLog2 x), (.fsin, fun _ x _ _ => exactSin x),
          (.fcos, fun _ x _ _ => exactCos x), (.ftanh, fun _ x _ _ => exactTanh x), (.fsig, fun _ x _ _ => exactSig x)]
        : List ((GFields → Instr) × (Bool → FVal → FVal → FVal → Exact))),
    ∀ (f : GFields) (s : State) (a b c : Token), readiness (e.1 f) s = .go a b c → MayRound (e.1 f) s f →
      DeliversLanes (e.1 f) s f.ty f.wide (fun k =>
        deliverF f.ty (roundingAt s (e.1 f) f.rnd).mode f.sat ((roundingAt s (e.1 f) f.rnd).draw k)
          (e.2 (isDown (roundingAt s (e.1 f) f.rnd)) (floatA f a k) (floatB f b k) (floatA f c k)))

/-- R65: a NaN operand makes every arithmetic result the canonical NaN of the format, whatever the mode and saturate. Tier
2. -/
def Obligations.NanGivesCanonicalNan : Prop :=
  ∀ (ty : ElemType) (mode : Mode) (sat : Bool) (draw : Nat) (d : Bool) (x y z : FVal),
    (x = .nan ∨ y = .nan →
      ∀ e ∈ [exactAdd d x y, exactAdd d x (flipSign y), exactMul x y, exactDiv x y],
        (deliverF ty mode sat draw e).1 = nanOf ty)
    ∧ (x = .nan ∨ y = .nan ∨ z = .nan → (deliverF ty mode sat draw (exactFma d x y z)).1 = nanOf ty)
    ∧ ∀ e ∈ [exactSqrt .nan, exactRcp .nan, exactRsq .nan, exactExp2 .nan, exactLog2 .nan, exactSin .nan, exactCos .nan,
             exactTanh .nan, exactSig .nan], (deliverF ty mode sat draw e).1 = nanOf ty

namespace Sys2Proof.Machine

/-- The FCLASS bit of a pattern (R100), from its sign, exponent field e and fraction field m (R64). -/
def classBit (ty : ElemType) (x : Nat) : Nat :=
  let neg := x.testBit (ty.width - 1)
  let e := x / 2 ^ fracBits ty % 2 ^ expBits ty
  let m := x % 2 ^ fracBits ty
  if e = 2 ^ expBits ty - 1 ∧ ty ≠ .e4m3 then (if m ≠ 0 then 8 else if neg then 0 else 7)
  else if ty = .e4m3 ∧ x % 128 = 127 then 8
  else if e = 0 then (if m = 0 then (if neg then 3 else 4) else if neg then 2 else 5)
  else if neg then 1 else 6

/-- x lies before y in the order of FMIN and FMAX (R100), for patterns that are no NaN: below it, or −0 where y is +0. -/
def beforeF (ty : ElemType) (x y : Nat) : Prop :=
  belowF (readF ty x) (readF ty y) ∨ (classBit ty x = 3 ∧ classBit ty y = 4)

end Sys2Proof.Machine

/-- R100: for an operand that is no NaN, FABS clears the sign bit of a lane, FNEG inverts it and FCPYS takes that of b, and
nothing else changes; for a NaN they deliver the canonical NaN with the sign so produced. FCLASS sets exactly one of
bits [8:0], the one of the pattern's class. FMIN and FMAX deliver the other operand where exactly one is a NaN, the
canonical NaN where both are, and of two operands that are no NaN the lesser or the greater, with −0 below +0. None sets
a flag. Tier 2. -/
def Obligations.FloatSignResults : Prop :=
  ∀ (f : GFields) (s : State) (a b c : Token), f.ty ∈ tFP →
    (∀ e ∈ ([(.fabs, fun _ _ => false), (.fneg, fun x _ => !x), (.fcpys, fun _ y => y)]
          : List ((GFields → Instr) × (Bool → Bool → Bool))),
      readiness (e.1 f) s = .go a b c → ∃ r : Nat → LaneRes, DeliversLanes (e.1 f) s f.ty f.wide r ∧ ∀ k,
        (r k).2 = 0 ∧ (r k).1 < 2 ^ f.ty.width
        ∧ (r k).1.testBit (f.ty.width - 1)
            = e.2 ((laneN f.ty.width a.value k).testBit (f.ty.width - 1)) ((bLane f b.value k).testBit (f.ty.width - 1))
        ∧ (r k).1 % 2 ^ (f.ty.width - 1)
            = if isNaN (floatA f a k) then nanOf f.ty else laneN f.ty.width a.value k % 2 ^ (f.ty.width - 1))
    ∧ (readiness (.fclass f) s = .go a b c → ∃ r : Nat → LaneRes, DeliversLanes (.fclass f) s f.ty f.wide r ∧ ∀ k,
        (r k).2 = 0 ∧ (r k).1 = 2 ^ classBit f.ty (laneN f.ty.width a.value k)
          ∧ (classBit f.ty (laneN f.ty.width a.value k) = 8 ↔ isNaN (floatA f a k) = true))
    ∧ (∀ e ∈ ([(.fmin, fun x y => beforeF f.ty x y), (.fmax, fun x y => beforeF f.ty y x)]
          : List ((GFields → Instr) × (Nat → Nat → Prop))),
      readiness (e.1 f) s = .go a b c →
        ∃ r : Nat → LaneRes, DeliversLanes (e.1 f) s f.ty f.wide r ∧ ∀ k, (r k).2 = 0
          ∧ (isNaN (floatA f a k) = true → isNaN (floatB f b k) = false → (r k).1 = bLane f b.value k)
          ∧ (isNaN (floatA f a k) = false → isNaN (floatB f b k) = true → (r k).1 = laneN f.ty.width a.value k)
          ∧ (isNaN (floatA f a k) = true → isNaN (floatB f b k) = true → (r k).1 = nanOf f.ty)
          ∧ (isNaN (floatA f a k) = false → isNaN (floatB f b k) = false →
              (r k).1 = laneN f.ty.width a.value k ∨ (r k).1 = bLane f b.value k)
          ∧ (isNaN (floatA f a k) = false → isNaN (floatB f b k) = false →
              (e.2 (laneN f.ty.width a.value k) (bLane f b.value k) → (r k).1 = laneN f.ty.width a.value k)
              ∧ (e.2 (bLane f b.value k) (laneN f.ty.width a.value k) → (r k).1 = bLane f b.value k)))

/-- R102, R104, R106 to R108: FRND delivers the integral value in its own format; CVTF rounds each source value once
to the destination format, CVTFI to an integer, CVTIF the integer to a format; PACK8 rounds 64 BF16 lanes to FP8; QL6
replaces blocks 4p to 4p + 3 of b by the quantisation of the FP32 lanes of a, four to a block; DQL6 delivers the
values of elements 16p to 16p + 15 in FP32; L6MUL rounds the exact product of two codes with scale 127 (q = -16 by
R79: log entry 78); SCALEX rounds a times 2^n. Each rounds in the mode in force, lane k with its own draw. R104, R106,
R108: CVTI, PACKH and UNPKH wrap or clamp each element in the type they convert to; UNPK8 widens each FP8 value to
BF16; SCALEA adds n to every block scale below 0xFF, within 0 to 254, and leaves the codes. Tier 2. -/
def Obligations.ConversionResults : Prop :=
  (∀ (f : GFields) (s : State) (a b c : Token),
    (readiness (.frnd f) s = .go a b c → MayRound (.frnd f) s f →
      let r := roundingAt s (.frnd f) f.rnd
      DeliversLanes (.frnd f) s f.ty f.wide (fun k => (match floatA f a k with
        | .nan => nanOf f.ty
        | .inf _ => laneN f.ty.width a.value k
        | .fin n m e => if 0 ≤ e then laneN f.ty.width a.value k
          else (roundNum f.ty .zero false 0 n (roundAt r.mode n (r.draw k) m e false 0).1 0 false).1, 0)))
    ∧ (readiness (.cvtf f) s = .go a b c → MayRound (.cvtf f) s f →
      let r := roundingAt s (.cvtf f) f.rnd
      Converts (.cvtf f) s f a (fun k x => deliverAny f.ty r.mode f.sat (r.draw k) (readAny (srcType f) x).exact))
    ∧ (readiness (.cvtfi f) s = .go a b c → MayRound (.cvtfi f) s f → f.ty ∈ tInt →
      let r := roundingAt s (.cvtfi f) f.rnd
      ∃ one : Nat → Nat → LaneRes, Converts (.cvtfi f) s f a one
        ∧ ∀ k x, ToInteger f.ty r.mode f.sat (r.draw k) (readF (srcType f) x) (one k x))
    ∧ (readiness (.cvtif f) s = .go a b c → MayRound (.cvtif f) s f →
      let r := roundingAt s (.cvtif f) f.rnd
      Converts (.cvtif f) s f a (fun k x =>
        let n := readInt (srcType f) x
        deliverF f.ty r.mode f.sat (r.draw k) (.num (n < 0) n.natAbs 0 false)))
    ∧ (readiness (.pack8 f) s = .go a b c → MayRound (.pack8 f) s f →
      let r := roundingAt s (.pack8 f) f.rnd
      DeliversToken (.pack8 f) s 8 64 (List.range 64) (fun k => deliverAny f.ty r.mode f.sat (r.draw k)
        (readAny .bf16 (if k < 32 then laneN 16 a.value k else laneN 16 b.value (k - 32))).exact))
    ∧ (readiness (.ql6 f) s = .go a b c → MayRound (.ql6 f) s f →
      let p := f.imm16.toNat % 4
      DeliversToken (.ql6 f) s 32 16 [4 * p, 4 * p + 1, 4 * p + 2, 4 * p + 3] (fun k =>
        if 4 * p ≤ k ∧ k < 4 * p + 4 then
          quantise (roundingAt s (.ql6 f) f.rnd).mode f.sat
            ([0, 1, 2, 3].map (fun j => readF .f32 (laneN 32 a.value (4 * (k - 4 * p) + j))))
        else (laneN 32 b.value k, 0)))
    ∧ (readiness (.dql6 f) s = .go a b c → MayRound (.dql6 f) s f →
      let r := roundingAt s (.dql6 f) f.rnd
      DeliversToken (.dql6 f) s 32 16 (List.range 16) (fun k =>
        let block := laneN 32 a.value (4 * (f.imm16.toNat % 4) + k / 4)
        deliverF .f32 r.mode f.sat (r.draw k) (readL6 (block / 2 ^ (6 * (k % 4))) (block / 2 ^ 24)).exact))
    ∧ (readiness (.l6mul f) s = .go a b c → MayRound (.l6mul f) s f →
      DeliversLanes (.l6mul f) s f.ty f.wide (fun k => deliverL6 (roundingAt s (.l6mul f) f.rnd).mode f.sat
        (lnsProduct (laneN f.ty.width a.value k) 127 (bLane f b.value k) 127).exact))
    ∧ (readiness (.scalex f) s = .go a b c → MayRound (.scalex f) s f →
      let r := roundingAt s (.scalex f) f.rnd
      DeliversLanes (.scalex f) s f.ty f.wide (fun k =>
        let n : Int := if f.imm then f.imm16.toInt else toSigned f.ty.width (laneN f.ty.width b.value k)
        deliverF f.ty r.mode f.sat (r.draw k) (match floatA f a k with
          | .fin neg m e => .num neg m (e + n) false
          | .inf neg => .opInf neg false
          | .nan => .nan false))))
  ∧ (∀ (f : GFields) (s : State) (a b c : Token),
    (readiness (.cvti f) s = .go a b c → ∃ one : Nat → Nat → LaneRes, Converts (.cvti f) s f a one
      ∧ ∀ k x, IntResult f.ty f.sat (readInt (srcType f) x) (one k x))
    ∧ (readiness (.packh f) s = .go a b c → f.ty ∈ [ElemType.i16, .i32, .i64, .n16, .n32, .n64] →
        ∃ r : Nat → LaneRes, DeliversToken (.packh f) s (f.ty.width / 2) (2 * laneCount f.ty.width)
            (List.range (2 * laneCount f.ty.width)) r
          ∧ ∀ k, IntResult (halfType f.ty) f.sat (readInt f.ty (if k < laneCount f.ty.width then laneN f.ty.width a.value k
              else laneN f.ty.width b.value (k - laneCount f.ty.width))) (r k))
    ∧ (readiness (.unpkh f) s = .go a b c → f.ty ∈ [ElemType.i8, .i16, .i32, .n8, .n16, .n32] →
        ∃ v, DeliversValue (.unpkh f) s v ∧ ∀ k, k < laneCount (2 * f.ty.width) →
          readInt (doubleType f.ty) (laneN (2 * f.ty.width) v k)
            = readInt f.ty (laneN f.ty.width a.value (f.imm16.toNat % 2 * laneCount (2 * f.ty.width) + k)))
    ∧ (readiness (.unpk8 f) s = .go a b c → ∃ v, DeliversValue (.unpk8 f) s v ∧ ∀ k, k < 32 →
        laneN 16 v k = (deliverAny .bf16 .nearest false 0
          (readAny f.ty (laneN 8 a.value (32 * (f.imm16.toNat % 2) + k))).exact).1 % 2 ^ 16)
    ∧ (readiness (.scalea f) s = .go a b c → ∃ r : Nat → LaneRes, DeliversToken (.scalea f) s 32 16 (List.range 16) r
        ∧ ∀ k, let scale : Int := (laneN 32 a.value k / 2 ^ 24 : Nat) + toSigned 64 (laneN 64 b.value 0)
          (r k).1 % 2 ^ 24 = laneN 32 a.value k % 2 ^ 24
          ∧ (laneN 32 a.value k / 2 ^ 24 = 255 → (r k).1 / 2 ^ 24 = 255 ∧ (r k).2 = 0)
          ∧ (laneN 32 a.value k / 2 ^ 24 ≠ 255 →
              (254 < scale → (r k).1 / 2 ^ 24 = (if f.sat then 254 else 255) ∧ (r k).2 = if f.sat then fSaturated else fOverflow)
              ∧ (scale < 0 → (r k).1 / 2 ^ 24 = 0 ∧ (r k).2 = fUnderflow ||| fInexact)
              ∧ (0 ≤ scale → scale ≤ 254 → (((r k).1 / 2 ^ 24 : Nat) : Int) = scale ∧ (r k).2 = 0))))

/-! ## Hashes, partitions and strings (class 0x6), moves and lanes (class 0x7) -/

/-- R114, R115: the hashes of the manual on each lane; BUCKET multiplies the hash by the number of buckets and keeps
the high half. R115: BKHIST adds to counter j of its window the number of lanes of a that hold bucket base + j, modulo
2^32, or up to 2^32 - 1 with Saturated under saturate; BKSCAT gives the lane of each key in the window the cursor of
its bucket plus the number of lanes before it with the same key, every other lane all ones, and delivers the advanced
cursors to target 1. R116, R117: SLEN, SHASH, SCMP, SPFX and SFIND on any operands: where the scan stops, with which
outcome, and what SHASH makes of the bytes before it. R116: a string scan that is done stays where it is: a state with
D set passes with its fields unchanged, whatever the bytes. Tier 2. -/
def Obligations.HashAndScanResults : Prop :=
  (∀ (f : GFields) (s : State) (a b c : Token),
    (readiness (.hash32 f) s = .go a b c → DeliversLanes (.hash32 f) s f.ty f.wide (fun k =>
      (mix32 (laneN f.ty.width a.value k ^^^ seedLane f b.value k * 0x9B3F71A5 % 2 ^ 32), 0)))
    ∧ (readiness (.hash64 f) s = .go a b c → DeliversLanes (.hash64 f) s f.ty f.wide (fun k =>
      (mix64 (laneN f.ty.width a.value k ^^^ seedLane f b.value k * 0x8F1B4D2A6C3E5F71 % 2 ^ 64), 0)))
    ∧ (readiness (.hcomb f) s = .go a b c → DeliversLanes (.hcomb f) s f.ty f.wide (fun k =>
      (if f.ty = .n32 then mix32 (rolLane 32 (laneN f.ty.width a.value k) 13 ^^^ seedLane f b.value k)
       else mix64 (rolLane 64 (laneN f.ty.width a.value k) 27 ^^^ seedLane f b.value k), 0)))
    ∧ (readiness (.bucket f) s = .go a b c → DeliversLanes (.bucket f) s f.ty f.wide (fun k =>
      ((if f.ty = .n32 then laneN f.ty.width a.value k else laneN f.ty.width a.value k / 2 ^ 32)
        * (if f.imm then f.imm16.toNat else laneN 32 b.value 0) / 2 ^ 32, 0))))
  ∧ (∀ (f : GFields) (s : State) (a b c : Token),
    let base := windowBase f b.value
    let hits := fun (j n : Nat) => ((List.range n).filter (fun k => laneN 32 a.value k = base + j)).length
    (readiness (.bkhist f) s = .go a b c → ∃ v fl, DeliversFlagged (.bkhist f) s (v, fl)
      ∧ (f.sat = false → fl = 0 ∧ ∀ j, j < 16 → laneN 32 v j = (laneN 32 c.value j + hits j 16) % 2 ^ 32)
      ∧ (f.sat = true → (∀ j, j < 16 → laneN 32 v j = min (laneN 32 c.value j + hits j 16) (2 ^ 32 - 1))
          ∧ fl = if (List.range 16).any (fun j => decide (2 ^ 32 - 1 < laneN 32 c.value j + hits j 16)) then fSaturated else 0))
    ∧ (readiness (.bkscat f) s = .go a b c → ∃ v w : Wide,
      exec (.bkscat f) s = .next (fired (.bkscat f) { r0 := some (wideTok v), r1 := some (wideTok w) } s)
      ∧ (∀ j, j < 16 → laneN 32 w j = (laneN 32 c.value j + hits j 16) % 2 ^ 32)
      ∧ ∀ k, k < 16 →
          (∀ j, j < 16 → laneN 32 a.value k = base + j → laneN 32 v k = (laneN 32 c.value j + hits j k) % 2 ^ 32)
          ∧ ((∀ j, j < 16 → laneN 32 a.value k ≠ base + j) → laneN 32 v k = 2 ^ 32 - 1)))
  ∧ (∀ (f : GFields) (s : State) (a b c : Token),
    let h := laneN 64 c.value 1
    (readiness (.slen f) s = .go a b c → ScansTo (.slen f) s c (endsAt f c a) (fun _ => none) (fun _ => h))
    ∧ (readiness (.shash f) s = .go a b c → ScansTo (.shash f) s c (endsAt f c a) (fun _ => none) (fun m =>
        (List.range m).foldl (fun h j => (h ^^^ laneN 8 a.value j) * 0x0000010000000233 % 2 ^ 64) h))
    ∧ (readiness (.scmp f) s = .go a b c → ∃ out : Nat → Option Nat,
        ScansTo (.scmp f) s c (fun j => endsAt f c a j ∨ endsAt f c b j ∨ laneN 8 a.value j ≠ laneN 8 b.value j) out (fun _ => h)
        ∧ ∀ j, (endsAt f c a j → endsAt f c b j → out j = none) ∧ (endsAt f c a j → ¬ endsAt f c b j → out j = some 1)
          ∧ (¬ endsAt f c a j → endsAt f c b j → out j = some 2)
          ∧ (¬ endsAt f c a j → ¬ endsAt f c b j → out j = some (if laneN 8 a.value j < laneN 8 b.value j then 1 else 2)))
    ∧ (readiness (.spfx f) s = .go a b c → ∃ out : Nat → Option Nat,
        ScansTo (.spfx f) s c (fun j => endsAt f c b j ∨ endsAt f c a j ∨ laneN 8 a.value j ≠ laneN 8 b.value j) out (fun _ => h)
        ∧ ∀ j, (endsAt f c b j → out j = none) ∧ (¬ endsAt f c b j → out j = some 1))
    ∧ (readiness (.sfind f) s = .go a b c → ∃ out : Nat → Option Nat,
        ScansTo (.sfind f) s c (fun j => endsAt f c a j ∨ laneN 8 a.value j = laneN 8 b.value 0) out (fun _ => h)
        ∧ ∀ j, (endsAt f c a j → out j = none) ∧ (¬ endsAt f c a j → out j = some 1)))
  ∧ (∀ (f : GFields) (a b c : Wide), (word c 0).getLsbD 63 = true →
    ∀ v ∈ [valSlen f a c, valScmp f a b c, valSpfx f a b c, valSfind f a b c, valShash f a c],
      v.2 = 0 ∧ laneN 64 v.1 1 = laneN 64 c 1 ∧ (word v.1 0).getLsbD 63 = true
      ∧ (word v.1 0).extractLsb' 61 2 = (word c 0).extractLsb' 61 2
      ∧ (word v.1 0).extractLsb' 0 48 = (word c 0).extractLsb' 0 48)

/-- R63, R109, R111: MOV, SEL, CONST, CONSTH, NUL, LANE, INSL, BCAST, PERM and LROT. CONST and NUL fire without
operands. A lane of `.l6` is read without its bits [7:6]. R81, R110: the reductions combine all lanes pairwise in lane
order: REDADD wraps or clamps each sum, without saturate to the sum of all lanes modulo 2^w; REDMIN and REDMAX deliver
a lane that no other integer lane is below, or above, and on floating-point types apply FMIN and FMAX; FREDADD rounds
each sum in the mode in force with its own draw. Tier 2. -/
def Obligations.MoveAndReductionResults : Prop :=
  (∀ (f : GFields) (s : State) (a b c : Token),
    let w := f.ty.width
    let n := laneCount w
    let lane := fun (t : Token) (k : Nat) => if f.ty = .l6 then laneN w t.value k % 64 else laneN w t.value k
    (readiness (.mov f) s = .go a b c → DeliversValue (.mov f) s a.value)
    ∧ (readiness (.sel f) s = .go a b c → ∃ v, DeliversValue (.sel f) s v ∧ ∀ j, j < 512 → v.getLsbD j
        = if c.value.getLsbD (if f.wide then j else 0) then a.value.getLsbD j else b.value.getLsbD j)
    ∧ (readiness (.constI f) s = .go a b c → DeliversLanes (.constI f) s f.ty f.wide (fun k => (immLane f.ty f.imm16.toNat k, 0)))
    ∧ (readiness (.consth f) s = .go a b c → ∃ v : Word, DeliversValue (.consth f) s (v.setWidth 512)
        ∧ v = ((word a.value 0) <<< 16) ||| f.imm16.setWidth 64)
    ∧ (readiness (.nul f) s = .go a b c →
        exec (.nul f) s = .next (fired (.nul f) { r0 := some nullTok, r1 := some nullTok } s))
    ∧ (readiness (.lane f) s = .go a b c →
        DeliversValue (.lane f) s (scalarOf f.ty (lane a (laneIndex f b.value % n))))
    ∧ (readiness (.insl f) s = .go a b c → ∃ v, DeliversValue (.insl f) s v ∧ ∀ k, k < n →
        laneN w v k = if k = laneIndex f b.value % n then lane c 0 else lane a k)
    ∧ (readiness (.bcast f) s = .go a b c → ∃ v, DeliversValue (.bcast f) s v ∧ ∀ k, k < n → laneN w v k = lane a 0)
    ∧ (readiness (.perm f) s = .go a b c → ∃ v, DeliversValue (.perm f) s v ∧ ∀ k, k < n →
        laneN w v k = lane a (laneN w b.value k % n))
    ∧ (readiness (.lrot f) s = .go a b c → ∃ v, DeliversValue (.lrot f) s v ∧ ∀ k, k < n →
        laneN w v k = lane a ((k + laneIndex f b.value) % n)))
  ∧ (∀ (f : GFields) (s : State) (a b c : Token),
    let w := f.ty.width
    let n := laneCount w
    (readiness (.redadd f) s = .go a b c →
      (∃ op, Reduces (.redadd f) s f.ty a op ∧ ∀ k x y, IntResult f.ty f.sat (readInt f.ty x + readInt f.ty y) (op k x y))
      ∧ (f.sat = false → DeliversFlagged (.redadd f) s
          (scalarOf f.ty (((List.range n).map (laneN w a.value)).sum % 2 ^ w), 0)))
    ∧ (∀ e ∈ ([(.redmin, true), (.redmax, false)] : List ((GFields → Instr) × Bool)), readiness (e.1 f) s = .go a b c →
        (expBits f.ty ≠ 0 → Reduces (e.1 f) s f.ty a (fun _ x y => (minMaxF f.ty e.2 x y, 0)))
        ∧ (expBits f.ty = 0 → ∃ k, k < n ∧ DeliversFlagged (e.1 f) s (scalarOf f.ty (laneN w a.value k), 0)
            ∧ ∀ j, j < n → if e.2 then readInt f.ty (laneN w a.value k) ≤ readInt f.ty (laneN w a.value j)
                else readInt f.ty (laneN w a.value j) ≤ readInt f.ty (laneN w a.value k)))
    ∧ (readiness (.fredadd f) s = .go a b c → MayRound (.fredadd f) s f →
      let r := roundingAt s (.fredadd f) f.rnd
      Reduces (.fredadd f) s f.ty a (fun k x y =>
        deliverF f.ty r.mode f.sat (r.draw k) (exactAdd (r.mode = .down) (readF f.ty x) (readF f.ty y)))))

/-- R119: ISECT in a pinned block compares the heads of its two streams: it discards the lesser, or emits the pair or the
stop for its open iteration and consumes both; after the last stop it is done. What it sends reaches its targets, and the
followers' blocks where it is uniform and its core leads. Tier 1. -/
def Obligations.IsectComparesHeads : Prop :=
  ∀ (f : GFields) (s : State) (fr : Frame) (ta tb : Token),
    frameAt s s.focus.c s.focus.frame = some fr → (ctxAt s s.focus.c).st = .running → fr.mapped = true →
    (isectNow fr s.focus.idx).done = false → fr.finalPh = false → fr.follows = false →
    headToken fr s.focus.idx .a (isectNow fr s.focus.idx).na = some ta →
    headToken fr s.focus.idx .b (isectNow fr s.focus.idx).nb = some tb →
    isOpen fr (isectNow fr s.focus.idx).k = true →
    (∃ sent, exec (.isect f) s
        = .next (broadcast (.isect f) (modFrame s s.focus.c s.focus.frame (isectStep (.isect f) s.focus.idx)) sent)
      ∧ sent = (isectStep (.isect f) s.focus.idx fr).flight.drop fr.flight.length
          ++ ((isectStep (.isect f) s.focus.idx fr).outs.drop fr.outs.length).map (·.2))
    ∧ ((ctxAt s s.focus.c).course ≠ .leader →
        exec (.isect f) s = .next (modFrame s s.focus.c s.focus.frame (isectStep (.isect f) s.focus.idx)))
    ∧ ((streamKey ta < streamKey tb → (isectNow (isectStep (.isect f) s.focus.idx fr) s.focus.idx).na = (isectNow fr s.focus.idx).na + 1
          ∧ (isectStep (.isect f) s.focus.idx fr).flight = fr.flight)
      ∧ (streamKey tb < streamKey ta → (isectNow (isectStep (.isect f) s.focus.idx fr) s.focus.idx).nb = (isectNow fr s.focus.idx).nb + 1
          ∧ (isectStep (.isect f) s.focus.idx fr).flight = fr.flight)
      ∧ (streamKey ta = streamKey tb →
          isectNow (isectStep (.isect f) s.focus.idx fr) s.focus.idx
            = ⟨s.focus.idx, (isectNow fr s.focus.idx).k + 1, (isectNow fr s.focus.idx).na + 1,
               (isectNow fr s.focus.idx).nb + 1, ta.stop == some 3⟩
          ∧ (isectStep (.isect f) s.focus.idx fr).flight = fr.flight
              ++ (flightsOf (.isect f) (.iter (isectNow fr s.focus.idx).k) (some ta) (some { tb with coord := ta.coord })).filter
                  (fun e => !isOut (.iter (isectNow fr s.focus.idx).k) e)))

/-! ## Exits (class 0x8) and memory accesses (class 0x9) -/

/-- R20, R32, R160: an exit that fires is recorded with its target: the address field of the own block address plus 128
times the offset with bits [63:54] kept (BR, BR.leave, BR.mchk), or bits [63:0] of slot a (BRI). Younger blocks at
another address are squashed; where there is none, only the frame of the site changes. In a pinned block the exit waits
for its iteration. Tier 2. -/
def Obligations.ExitResults : Prop :=
  ∀ (f : BFields) (s : State) (fr : Frame) (a b c : Token), frameAt s s.focus.c s.focus.frame = some fr →
    (∀ e ∈ ([(.br f, brTarget fr f), (.brLeave f, brTarget fr f), (.brMchk f, brTarget fr f), (.bri f, word a.value 0)]
          : List (Instr × Word)),
      readiness e.1 s = .go a b c → ∃ t fr', exec e.1 s = .next t ∧ frameAt t s.focus.c s.focus.frame = some fr'
        ∧ fr'.exits = fr.exits ++ [⟨e.2, s.focus.tag, f.leave, f.mchk⟩]
        ∧ ((ctxAt s s.focus.c).course = .solo →
            (isPinned fr = true ∨ ∀ g, frameAt s s.focus.c (s.focus.frame + 1) = some g → g.addr = e.2) → OnlySiteFrame s t)
        ∧ ((ctxAt s s.focus.c).course = .solo → isPinned fr = false →
            (∃ g, frameAt s s.focus.c (s.focus.frame + 1) = some g ∧ g.addr ≠ e.2) →
            (ctxAt t s.focus.c).frames.length = s.focus.frame + 1))
    ∧ (brTarget fr f).extractLsb' 54 10 = fr.addr.extractLsb' 54 10
    ∧ (brTarget fr f).extractLsb' 0 54 = fr.addr.extractLsb' 0 54 + BitVec.ofInt 54 (128 * f.off.toInt)

namespace Sys2Proof.Machine

/-- The bytes that a load at the site delivers: those its context's program order gives the places (R23), from the point of
coherence where `coherent` is set (R265). -/
def siteBytes (s : State) (f : LFields) (coherent : Bool) (ls : List Loc) : List Byte :=
  loadBytes s (whoAt s) s.focus.frame s.focus.tag f.lsid.toNat coherent ls

/-- The instruction completes as a load: it delivers `tok` of the bytes that the context's program order gives the
places (R23, R162), and records the places and the bytes, which leaves s', for the tests against later stores and writes
(R24, R221). Later loads of the context that fired before it and may have found older values fire again (R263). No byte
of memory and no register changes; caches and cached translations may. -/
def TakesLoad (i : Instr) (f : LFields) (s : State) (ls : List Loc) (tok : List Byte → Token) (effs : List Effect) (s' : State) : Prop :=
  let bytes := siteBytes s f (f.cache = 3 || !effs.isEmpty) ls
  let sync : Bool := bypasses f ls || !effs.isEmpty
  let t := keepOrder (fired i { r0 := some (tok bytes), effs := effs } s') (whoAt s) s.focus.frame s.focus.tag f.lsid.toNat sync
    (ls.zip bytes)
  exec i s = .next t ∧ SameMemory s t ∧ SameRegs s t ∧ s'.focus = s.focus
    ∧ ∀ fr, frameAt s s.focus.c s.focus.frame = some fr →
        ∃ fr', frameAt s' s.focus.c s.focus.frame = some fr'
          ∧ fr'.loads = fr.loads ++ [⟨s.focus.idx, f.lsid.toNat, s.focus.tag, ls, bytes⟩]
          ∧ fr'.flight = fr.flight ∧ fr'.effects = fr.effects ∧ fr'.exits = fr.exits

def DeliversLoad (i : Instr) (f : LFields) (s : State) (ls : List Loc) (tok : List Byte → Token) (effs : List Effect) : Prop :=
  ∃ s', TakesLoad i f s ls tok effs s'

end Sys2Proof.Machine

/-- R23, R161, R163, R164, R167, R265, R387: an ordinary load whose checks pass, that need not wait and meets no poison
delivers the bytes its context's program order gives the places, read in its element type; GATH delivers them lane by
lane, 0 where the index is the least value. A load of DEV or FAB fires in the order of R28, is logged and answers the
same bytes, or records the refusal of its target. A load that meets poison records it. Where the loads that stand behind one
fired before it and all found what they would find now, nothing fires again (R263). Tier 2. -/
def Obligations.LoadResults : Prop :=
  ∀ (f : LFields) (s : State) (fr : Frame) (a b c : Token), frameAt s s.focus.c s.focus.frame = some fr →
    let p := addrOf (word a.value 0) (offsetOf f)
    let far := ptrPath p = pathDEV ∨ ptrPath p = pathFAB
    let refusal := if ptrPath p = pathFAB then
        fabRefusal s (windowOf s s.focus.c (ptrAddr p / 2 ^ 48)).1 false
          ((List.range (accessSize f.ty)).map (fun k => fabVa (windowOf s s.focus.c (ptrAddr p / 2 ^ 48)) (ptrAddr p % 2 ^ 48 + k)))
      else none
    (∀ ls, readiness (.ld f) s = .go a b c → checkAccess f.ty servesAll .read (accessSize f.ty) s p = .ok ls →
      (¬ far → holdLoad s fr f.lsid.toNat = false → (bypasses f ls = true → syncHeld s fr (.ld f) = false) →
        (poisonAt s (whoAt s) (f.cache = 3) ls = none → DeliversLoad (.ld f) f s ls (loadToken f.ty) [])
        ∧ (poisonAt s (whoAt s) (f.cache = 3) ls ≠ none → ∃ line, exec (.ld f) s = .next (faulted clsTokenParity 0x04 line 0 s)))
      ∧ (far → irrevocableMay fr s.focus.frame s.focus.idx (.ld f) s.focus.tag = true → farHeld s fr (.ld f) = false →
        (refusal = none → ∃ s', exec (.ld f) s
            = .next (answered (.ld f) (some (loadToken f.ty (siteBytes s f true ls)).value) 0 s')
          ∧ s' = { s with freeCounter := s'.freeCounter })
        ∧ ∀ cause, refusal = some cause → exec (.ld f) s = .next (faulted clsRemoteRefused cause p 0 s)))
    ∧ (∀ r, readiness (.gath f) s = .go a b c → holdLoad s fr f.lsid.toNat = false →
      checkLanes f.ty servesLanes .read s (indexedLanes f a.value b.value) = .ok r →
      (bypasses f (r.flatMap (·.2)) = true → syncHeld s fr (.gath f) = false) →
      poisonAt s (whoAt s) (f.cache = 3) (r.flatMap (·.2)) = none →
      ∃ tok, DeliversLoad (.gath f) f s (r.flatMap (·.2)) tok [] ∧ ∀ bs k, k < laneCount f.ty.width →
        laneN f.ty.width (tok bs).value k
          = match r.findIdx? (·.1 == k) with
            | some m => ofBytes ((bs.drop (accessSize f.ty * m)).take (accessSize f.ty)) % 2 ^ f.ty.width
            | none => 0)
    ∧ ∀ (w : Who) (bs : List (Loc × Byte)) (sync : Bool),
      (∀ n g r, frameAt s w.c n = some g → r ∈ g.loads → loadBytes s w n r.tag r.lsid false r.locs = r.bytes
        ∧ ∀ q ∈ r.locs.zip r.bytes, memByte s w true q.1 = q.2) →
      keepOrder s w s.focus.frame s.focus.tag f.lsid.toNat sync bs = s

/-- R165, R274: a consuming load of a counted line with a unit left for it, beside the loads that wait there before it,
delivers the bytes, reserves the unit at its firing (v rises by one, n stays) and spends it at the commit. With none left
the oldest block's load is OVER-READ, a younger one's waits at the line; on a line that is not counted the oldest block's
load is NOT-COUNTED. Tier 2. -/
def Obligations.ConsumingLoads : Prop :=
  ∀ (f : LFields) (s : State) (fr : Frame) (a b c : Token) (ls : List Loc) (l : Loc),
    let p := addrOf (word a.value 0) (offsetOf f)
    let oldest := isOldest fr s.focus.frame s.focus.tag = true
    frameAt s s.focus.c s.focus.frame = some fr →
    readiness (.ldRc f) s = .go a b c → basicCheck p = none → formatCheck f.ty p = none →
    (ptrPath p = pathGEN ∨ ptrPath p = pathSPAD) → locate s (whoAt s) .write p (accessSize f.ty) = .ok ls →
    ptrAddr p % 64 + accessSize f.ty ≤ 64 → holdLoad s fr f.lsid.toNat = false → syncHeld s fr (.ldRc f) = false →
    ls.head? = some l → fillDue s l = false →
    (notCounted (partAt s (whoAt s).die (whoAt s).part) l p = none →
      ((countAt s l).2 + aheadAt s fr l < (countAt s l).1 → poisonAt s (whoAt s) true ls = none →
        ∃ s', TakesLoad (.ldRc f) f s ls (loadToken f.ty) [.consume l p] s'
          ∧ countAt s' l = ((countAt s l).1, (countAt s l).2 + 1))
      ∧ ((countAt s l).1 ≤ (countAt s l).2 → oldest →
        ∃ arg, exec (.ldRc f) s = .next (faulted clsOverRead 0x01 p arg (rcServed s fr)))
      ∧ ((countAt s l).1 ≤ (countAt s l).2 + aheadAt s fr l → ((countAt s l).1 ≤ (countAt s l).2 → ¬ oldest) →
        exec (.ldRc f) s = .next (rcWait s fr l)))
    ∧ (∀ e, notCounted (partAt s (whoAt s).die (whoAt s).part) l p = some e → oldest →
        e.cls = clsNotCounted ∧ exec (.ldRc f) s = .next (faulted e.cls e.cause e.addr e.arg (rcServed s fr)))

namespace Sys2Proof.Machine

/-- The instruction completes as a store: its bytes wait for the commit step, and loads that follow it in order and
have read one of them fire again (R24). Only cached host translations change with it (R282). -/
def LeavesStore (i : Instr) (f : LFields) (s : State) (e : Effect) (ls : List Loc) : Prop :=
  ∃ s', exec i s = .next (resolveWrite (fired i { effs := [e] } s') ls f.lsid.toNat)
    ∧ s' = { s with ats := s'.ats }

end Sys2Proof.Machine

/-- R24, R161, R166 to R168, R172: a store whose checks pass completes: its bytes, at the places its address gives, wait
for the commit step. SCAT stores the lanes whose index is no least value, STM those whose mask bit is set; ST.cnt waits
with a whole line and its count; STQ with its descriptor and payload. Tier 2. -/
def Obligations.StoreResults : Prop :=
  ∀ (f : LFields) (s : State) (a b c : Token),
    let p := addrOf (word a.value 0) (offsetOf f)
    (∀ ls, readiness (.st f) s = .go a b c → checkAccess f.ty servesStore .write (accessSize f.ty) s p = .ok ls →
      LeavesStore (.st f) f s (.store (ls.zip (storeBytes f.ty b.value)) p 0 f.cache.toNat)
        ((ls.zip (storeBytes f.ty b.value)).map (·.1)))
    ∧ (∀ e ∈ ([(.scat f, indexedLanes f a.value b.value, c.value), (.stm f, maskedLanes f a.value c.value, b.value)]
          : List (Instr × List (Nat × Word) × Wide)), ∀ r,
      readiness e.1 s = .go a b c → checkLanes f.ty servesScatter .write s e.2.1 = .ok r →
      ∃ q, LeavesStore e.1 f s
        (.store (r.flatMap (fun l => l.2.zip (toBytes (accessSize f.ty) (laneN f.ty.width e.2.2 l.1)))) q 1 f.cache.toNat)
        ((r.flatMap (fun l => l.2.zip (toBytes (accessSize f.ty) (laneN f.ty.width e.2.2 l.1)))).map (·.1)))
    ∧ (∀ ls l, readiness (.stCnt f) s = .go a b c → checkAccess f.ty servesFill .write 64 s p = .ok ls → ls.head? = some l →
      ptrAddr p % 64 = 0 → 0 < (word c.value 0).toNat → (word c.value 0).toNat < 255 →
      notCounted (partAt s (whoAt s).die (whoAt s).part) l p = none →
      LeavesStore (.stCnt f) f s (.countFill l p b.value (word c.value 0).toNat) ls)
    ∧ (∀ ls, readiness (.stq f) s = .go a b c → checkAccess f.ty servesStq .write 32 s p = .ok ls →
      LeavesEffects (.stq f) s [.stq p b.value (ctxAt s s.focus.c).windows])

/-- R132, R169, R170: PREF and PREF.code complete on any address, without a token, a fault, or a change of a byte of
memory or a register; LDS with a well-formed descriptor starts one stream at emission 0. Tier 2. -/
def Obligations.HintResults : Prop :=
  ∀ (f : LFields) (s : State) (a b c : Token),
    (∀ i ∈ [Instr.pref f, .prefCode f], readiness i s = .go a b c →
      ∃ t, exec i s = .next t ∧ SameMemory s t ∧ SameRegs s t
        ∧ ∀ d n, frameAt t d n = frameAt (fired i {} s) d n)
    ∧ (∀ fr, readiness (.lds f) s = .go a b c → frameAt s s.focus.c s.focus.frame = some fr →
      (∀ q ∈ fr.streams, q.idx ≠ s.focus.idx) → (∀ q ∈ fr.faults, q.idx ≠ s.focus.idx) → streamBad b.value = false →
      ∃ t, exec (.lds f) s = .next t ∧ OnlySiteFrame s t ∧ ∃ fr', frameAt t s.focus.c s.focus.frame = some fr'
        ∧ fr'.streams = fr.streams ++
            [⟨s.focus.idx, addrOf (word a.value 0) (offsetOf f), b.value, 0, 0, 0, 0, false⟩])

/-- R58: pointer arithmetic in an address keeps bits [63:54] and wraps in the address field: `addrOf` is the pointer
with the signed offset added modulo 2^54. R2, R265: a write at the home of bytes: each byte written last reads back,
every other byte of memory reads as before. Tier 2. -/
def Obligations.AddressesAndHomeWrites : Prop :=
  (∀ (p : Word) (off : Int),
    (addrOf p off).extractLsb' 54 10 = p.extractLsb' 54 10
    ∧ (addrOf p off).extractLsb' 0 54 = p.extractLsb' 0 54 + BitVec.ofInt 54 off)
  ∧ (∀ (s : State) (bs : List (Nat × Byte)),
    (∀ pre a v post, bs = pre ++ (a, v) :: post → (∀ e ∈ post, e.1 ≠ a) → homeByte (homeWrite s bs) a = v)
    ∧ (∀ a, (∀ e ∈ bs, e.1 ≠ a) → homeByte (homeWrite s bs) a = homeByte s a)
    ∧ (∀ k, coreAt (homeWrite s bs) k = coreAt s k) ∧ (homeWrite s bs).hostMem = s.hostMem
    ∧ ∀ n v, ofBytes (toBytes n v) = v % 256 ^ n)

/-! ## Contexts, messages, control registers (class 0xA) -/

namespace Sys2Proof.Machine

/-- The instruction completes and delivers a word now, which also enters the replay log (R198): an irrevocable result. -/
def Answers (i : Instr) (s : State) (v : Word) (s' : State) : Prop :=
  exec i s = .next (answered i (some (v.setWidth 512)) v s')

/-- The instruction completes and delivers one word to both targets. -/
def DeliversWord (i : Instr) (s : State) (v : Word) : Prop := DeliversValue i s (v.setWidth 512)

end Sys2Proof.Machine

/-- R27, R176 to R178, R181, R188, R190, R191, R239, R252, R264: these instructions complete on any operands; they deliver no
token and their effect waits for the commit step. SEND does so where its core lies in the partition and is
PARTITION-BORDER where not (R357); LAUNCH where its record can be read. Tier 2. -/
def Obligations.EffectsWaitForTheCommit : Prop :=
  ∀ (f : GFields) (l : LFields) (x : XFields) (s : State) (a b c : Token),
    (∀ e ∈ ([(.quit f, .quit), (.yield f, .yield_), (.repart f, .repart (word a.value 0)),
             (.trap f, .trap (f.imm16.toNat % 256) (word a.value 0)), (.syncb f, .syncb), (.tdone l, .taskDone),
             (.phase l, .phase (l.off.toNat % 4)), (.accinit x, .matrix x.acc.toNat (.accInit x.shape.toNat)),
             (.accclr x, .matrix x.acc.toNat .accClr),
             (.mcast f, .send ((groupCores s s.focus.c (field (word a.value 0).toNat 8 8)).map
               (fun k => (k, (word a.value 0).toNat % 32))) b.value (f.imm16.getLsbD 0))] : List (Instr × Effect)),
      readiness e.1 s = .go a b c → LeavesEffects e.1 s [e.2])
    ∧ (readiness (.send f) s = .go a b c →
      (∀ core, sendCore s s.focus.c s.focus.c.core (word a.value 0).toNat = some core →
        LeavesEffects (.send f) s [.send [(core, (word a.value 0).toNat % 32)] b.value (f.imm16.getLsbD 0)])
      ∧ ((word a.value 0).getLsbD 13 = false → cfgSize (partOf s s.focus.c).cfg ≤ field (word a.value 0).toNat 8 5 →
        exec (.send f) s = .next (faulted clsPartitionBorder 0x01 0 (word a.value 0) s)))
    ∧ (∀ ls, readiness (.launch f) s = .go a b c → basicCheck (word a.value 0) = none →
      (ptrPath (word a.value 0) = pathGEN ∨ ptrPath (word a.value 0) = pathCONST) → ptrAddr (word a.value 0) % 128 = 0 →
      locate s (whoAt s) .read (word a.value 0) 128 = .ok ls → LeavesEffects (.launch f) s [.launch (word a.value 0)])

namespace Sys2Proof.Machine

/-- Context n of a core can take a thread (R175): the core has no layout change on its way, is no member of a bond or a
course, and its context count takes in n, which is Free and not reserved. The core also has to be enabled (R382), not on
its way to being pre-empted (R203) and in no gang's reservation (R352). -/
def CanStart (s : State) (core n : Nat) : Prop :=
  n < (coreAt s core).contexts ∧ (coreAt s core).kind = 0 ∧ (coreAt s core).pend = false
  ∧ (ctxIn (coreAt s core) n).st = .free ∧ (ctxIn (coreAt s core) n).reserved = false
  ∧ (coreAt s core).saving = false
  ∧ (isMgmt core = true ∨ (dieAt s (dieOf core)).coreMask.getLsbD (core % 256) = true)
  ∧ ∀ q ∈ (dieAt s (dieOf core)).parts, ∀ r ∈ q.2.reserve, core ∉ r.cores

end Sys2Proof.Machine

/-- R175: SPAWN of an aligned GEN, CONST or HOST block names the core it fires on, with SELF, or a core of its
partition; a cluster outside is PARTITION-BORDER. Without ANY it names the context CTX, with ANY the lowest that can
start. Where that context can start and RANK is not above the issuer's rank, SPAWN reserves it and delivers {CTX,
CLUSTER, CORE}, and the thread starts at the commit; otherwise, or with ANY where no context can start, it delivers
all ones and does nothing. That a context cannot start on a core that is not enabled, that is being pre-empted or that
a gang has reserved is the model's choice (log entry 109). R185: WAITA on an aligned GEN or SPAD word, once the PHASEs
and messages before it are done (R264, R265), delivers the word at its point of coherence where it differs from b;
where it is equal, a watch is armed on it and the instruction waits. That it checks no format is read by inference
(log entry 26, DEDUCED). R189, R211: RETT of a context in the partition, in its place or standing aside, delivers 2
unless its rank is above that context's, else 0 where the context is stopped for a record routed to the caller and no
RETT holds it, else 1; with status 0 the hold is taken and the resumption waits for the commit. Tier 2. -/
def Obligations.ContextResults : Prop :=
  (∀ (f : GFields) (s : State) (a b c : Token),
    readiness (.spawn f) s = .go a b c → basicCheck (word a.value 0) = none → ptrAddr (word a.value 0) % 128 = 0 →
    ptrPath (word a.value 0) ∈ [0, 2, 3] →
    let d := (word b.value 0).toNat
    let self := d.testBit 8 = true
    let any := d.testBit 13 = true
    (¬ self → cfgSize (partOf s s.focus.c).cfg ≤ field d 3 5 →
      exec (.spawn f) s = .next (faulted clsPartitionBorder 0x01 0 (word b.value 0) s))
    ∧ ∀ core, (self → core = (whoAt s).core) →
      (¬ self → field d 3 5 < cfgSize (partOf s s.focus.c).cfg ∧ core = coreNamed s s.focus.c (field d 3 5) (field d 0 3)) →
      ((ctxAt s s.focus.c).rank < field d 14 3 ∨ (¬ any ∧ ¬ CanStart s core (field d 9 4))
          ∨ (any ∧ ∀ n, n < 16 → ¬ CanStart s core n) →
        DeliversWord (.spawn f) s (BitVec.allOnes 64))
      ∧ ∀ n, field d 14 3 ≤ (ctxAt s s.focus.c).rank → CanStart s core n → (¬ any → n = field d 9 4) →
        (any → n < 16 ∧ ∀ m, m < n → ¬ CanStart s core m) →
        let name := relName s (dieOf core) (ctxAt s s.focus.c).part core
        let r := scalar (BitVec.ofNat 64 (n * 2 ^ 9 + name.1 * 2 ^ 3 + name.2))
        exec (.spawn f) s = .next (fired (.spawn f) { r0 := some r, r1 := some r, effs :=
            [.spawn ⟨core, n⟩ (word a.value 0) c.value (field d 14 3)] }
          (modCtx s ⟨core, n⟩ (fun x => { x with reserved := true }))))
  ∧ (∀ (f : GFields) (s : State) (a b c : Token) (ls : List Loc),
    readiness (.waita f) s = .go a b c → basicCheck (word a.value 0) = none → ptrPath (word a.value 0) ≤ 1 →
    ptrAddr (word a.value 0) % 8 = 0 → locate s (whoAt s) .read (word a.value 0) 8 = .ok ls →
    readPending s = false → poisonHome s ls = none →
    (coherentWord s (whoAt s) ls ≠ (word b.value 0).toNat →
      ∃ s', exec (.waita f) s = .next (answered (.waita f) (some (BitVec.ofNat 512 (coherentWord s (whoAt s) ls)))
          (BitVec.ofNat 64 (coherentWord s (whoAt s) ls)) s') ∧ s'.focus = s.focus ∧ SameMemory s s')
    ∧ (coherentWord s (whoAt s) ls = (word b.value 0).toNat → (ctxAt s s.focus.c).watch = none →
      exec (.waita f) s = .next (awaiting (modCtx s s.focus.c (fun x =>
        { x with watch := some ⟨ls.headD (.dev 0), s.focus.idx, s.focus.tag⟩ })))))
  ∧ (∀ (f : GFields) (s : State) (a b c : Token), readiness (.rett f) s = .go a b c →
    field (word a.value 0).toNat 8 5 < cfgSize (partOf s s.focus.c).cfg →
    let t := rettTarget s s.focus.c (word a.value 0).toNat
    let th := stoppedThread s s.focus.c t
    let x := threadAt s th
    let st : Nat := if (ctxAt s s.focus.c).rank ≤ x.rank then 2
      else if x.stopped = true ∧ s.focus.c ∈ x.handlers ∧ x.rettHold = none then 0 else 1
    let r := some (scalar (BitVec.ofNat 64 st))
    ∃ s', exec (.rett f) s = .next (fired (.rett f) { r0 := r, r1 := r, effs := if st = 0 then [.rett t] else [] } s')
      ∧ s'.focus = s.focus ∧ SameMemory s s' ∧ SameRegs s s' ∧ (st = 0 → (threadAt s' th).rettHold = some s.focus.c))

/-- R180, R183: BIND takes a class that no context of the core has bound (status 0), or answers 0 for its own and 1 for
another's; UNBIND gives up its own (0) or answers 2; RECV of a bound class, once no PHASE is pending (R264) and no message of
its own is still to arrive (R265; log entry 103, DEDUCED), takes its oldest message, and without one
delivers null where it may not block, spends the ready bit, or parks. Tier 2. -/
def Obligations.MessageResults : Prop :=
  ∀ (f : GFields) (s : State) (a b c : Token),
    let k := coreAt s s.focus.c.core
    let cls := f.imm16.toNat % 32
    (readiness (.bind f) s = .go a b c →
      (k.bound.find? (·.1 = cls) = none → Answers (.bind f) s 0
        (modCore s s.focus.c.core (fun k => { k with bound := k.bound ++ [(cls, s.focus.c.ctx)] })))
      ∧ (∀ e, k.bound.find? (·.1 = cls) = some e → Answers (.bind f) s (if e.2 = s.focus.c.ctx then 0 else 1) s))
    ∧ (readiness (.unbind f) s = .go a b c →
      (k.bound.contains (cls, s.focus.c.ctx) = true → Answers (.unbind f) s 0
        (modCore s s.focus.c.core (fun k => { k with bound := k.bound.filter (· != (cls, s.focus.c.ctx)) })))
      ∧ (k.bound.contains (cls, s.focus.c.ctx) = false → Answers (.unbind f) s 2 s))
    ∧ (readiness (.recv f) s = .go a b c → readPending s = false →
      (∀ m rest, k.bound.contains (cls, s.focus.c.ctx) = true → tabGet [] k.queues cls = m :: rest →
        exec (.recv f) s = .next (answered (.recv f) (some m.payload) m.header
          (modCore s s.focus.c.core (fun k => { k with queues := tabSet [] k.queues cls rest }))))
      ∧ (k.bound.contains (cls, s.focus.c.ctx) = false ∨ (tabGet [] k.queues cls = [] ∧ f.imm16.getLsbD 8 = true) →
        exec (.recv f) s = .next (answered (.recv f) none 0 s))
      ∧ (k.bound.contains (cls, s.focus.c.ctx) = true → tabGet [] k.queues cls = [] → f.imm16.getLsbD 8 = false →
        ((ctxAt s s.focus.c).ready = true → exec (.recv f) s = .next (modCtx s s.focus.c (fun x => { x with ready := false })))
        ∧ ((ctxAt s s.focus.c).ready = false → ∃ t, exec (.recv f) s = .next t ∧ (ctxAt t s.focus.c).st = .parked)))

/-- R186, R187: GETC delivers the value of a register, 0 for a reserved number and for one above the reader's rank; SETC
and its named forms answer 0 and write at the commit, or answer 1 and write nothing. Only rank 7 writes the distributor's
registers and DIE.ERR, only rank 6 or 7 PT.ROOT and DIST.QUANTUM; the identity registers are never written. Tier 2. -/
def Obligations.ControlRegisterAccess : Prop :=
  (∀ (f : GFields) (s : State) (fr : Frame) (a b c : Token), readiness (.getc f) s = .go a b c →
    frameAt s s.focus.c s.focus.frame = some fr → (f.imm16.toNat ∈ [0x008, 0x009, 0x00A] → s.focus.frame = 0) →
    DeliversWord (.getc f) s (getControl s s.focus.c fr (execCore s.focus.c fr s) f.imm16.toNat)
    ∧ (regRule f.imm16.toNat = none → DeliversWord (.getc f) s 0)
    ∧ (∀ q, regRule f.imm16.toNat = some q → (ctxAt s s.focus.c).rank < q.1 → DeliversWord (.getc f) s 0))
  ∧ (∀ e ∈ ([.setc, .round, .seed, .feCtl, .coreErr, .tlbInv, .ptRoot, .rcLogctl, .spillCtl, .partCfg, .distKill]
        : List (GFields → Instr)), ∀ (f : GFields) (s : State) (a b c : Token), readiness (e f) s = .go a b c →
      (setcAllowed s s.focus.c f.imm16.toNat (word a.value 0) = true → exec (e f) s = .next (fired (e f)
        { r0 := some (scalar 0), r1 := some (scalar 0), effs := [.setc f.imm16.toNat (word a.value 0)] } s))
      ∧ (setcAllowed s s.focus.c f.imm16.toNat (word a.value 0) = false → DeliversWord (e f) s 1))
  ∧ (∀ (s : State) (c : CtxId) (v : Word),
      (∀ n ∈ [0x031, 0x035, 0x038, 0x03F, 0x087], (ctxAt s c).rank < 7 → setcAllowed s c n v = false)
      ∧ (∀ n ∈ [0x025, 0x030], (ctxAt s c).rank < 6 → setcAllowed s c n v = false)
      ∧ (∀ n ∈ [0x005, 0x006, 0x012, 0x013, 0x021, 0x022, 0x023, 0x024, 0x091], (ctxAt s c).rank < 1 → setcAllowed s c n v = false)
      ∧ (∀ n ∈ [0x000, 0x001, 0x002, 0x003, 0x007, 0x00B, 0x010, 0x011, 0x040, 0x080, 0x084, 0x090], setcAllowed s c n v = false)
      ∧ (∀ n ∈ [0x004, 0x008, 0x009, 0x00A], setcAllowed s c n v = true))

/-- R73, R126, R207, R285, R358, R365: what the committed write of a register leaves: ROUND, SEED and FPSTAT keep their
fields, reserved bits read as zero, a lease, a quantum or an age of 0 is taken as 1, a new PT.ROOT empties the TLB, and
SPILL.BASE and SPILL.CTL let spilling go on. That any write of either does, whatever its value, is read from R207 by
inference (log entry 34, DEDUCED). Tier 2. -/
def Obligations.ControlRegisterWrites : Prop :=
  ∀ (s : State) (c : CtxId) (core : Nat) (v : Word),
    (ctxAt (writeControl s c core 0x008 v) c).round = roundStored v
    ∧ (ctxAt (writeControl s c core 0x009 v) c).seed = seedStored v
    ∧ (ctxAt (writeControl s c core 0x00A v) c).fpstat = fpstatStored v
    ∧ (ctxAt (writeControl s c core 0x004 v) c).feCtl = v &&& 0x3
    ∧ (ctxAt (writeControl s c core 0x022 v) c).rcLog = v &&& ~~~0xF
    ∧ (ctxAt (writeControl s c core 0x023 v) c).rcLogctl = v &&& ~~~0xFFFFFFFFFF
    ∧ ((ctxAt (writeControl s c core 0x012 v) c).spillBase = v &&& ~~~0x7F
        ∧ (ctxAt (writeControl s c core 0x012 v) c).spillStop = false)
    ∧ ((ctxAt (writeControl s c core 0x013 v) c).spillCap = v.toNat / 2 ^ 32
        ∧ (ctxAt (writeControl s c core 0x013 v) c).spillStop = false)
    ∧ (partOf (writeControl s c core 0x021 v) c).lease = max 1 (v.toNat % 2 ^ 16)
    ∧ (partOf (writeControl s c core 0x030 v) c).quantum = max 1 (v.toNat % 2 ^ 32)
    ∧ (dieAt (writeControl s c core 0x031 v) (dieOf c.core)).age = max 1 (v.toNat % 2 ^ 32)
    ∧ (partOf (writeControl s c core 0x025 v) c).tlb = []
    ∧ ∀ n, SameMemory s (writeControl s c core n v) ∧ SameRegs s (writeControl s c core n v)

/-! ## Atomics, counted regions, range maintenance (class 0xD) -/

namespace Sys2Proof.Machine

/-- The eleven atomics with the new value each computes of the old one, b and c (R315). -/
def atomicTable (f : LFields) : List (Instr × (Nat → Nat → Nat → Nat)) :=
  [(.aadd f, fun m b _ => m + b), (.amin f, fun m b _ => if readInt f.ty m ≤ readInt f.ty b then m else b),
   (.amax f, fun m b _ => if readInt f.ty m ≤ readInt f.ty b then b else m), (.aand f, fun m b _ => m &&& b),
   (.aor f, fun m b _ => m ||| b), (.axor f, fun m b _ => m ^^^ b), (.axchg f, fun _ b _ => b),
   (.acas f, fun m b c => if m = b then c else m),
   (.afadd f, fun m b _ => (deliverF f.ty .nearest false 0 (exactAdd false (readF f.ty m) (readF f.ty b))).1),
   (.afmin f, fun m b _ => minMaxF f.ty true m b), (.afmax f, fun m b _ => minMaxF f.ty false m b)]

end Sys2Proof.Machine

/-- R314, R315, R318: an atomic whose checks pass, that nothing holds and no tenure refuses is performed at the point of
coherence at once, with its operation on the old word, b and c in the element's width; one on an address that is no
multiple of its size is PATH-RESERVED 0x13. Tier 2. -/
def Obligations.AtomicsComplete : Prop :=
  ∀ (f : LFields), ∀ e ∈ atomicTable f, ∀ (s : State) (a b c : Token) (ls : List Loc) (dst : Option (Nat × Nat)),
    let p := addrOf (word a.value 0) (offsetOf f)
    readiness e.1 s = .go a b c → checkAccess f.ty servesAtomic .write (f.ty.width / 8) s p = .ok ls →
    (ptrAddr p % (f.ty.width / 8) ≠ 0 → exec e.1 s = .next (faulted clsPathReserved 0x13 p 0 s))
    ∧ (ptrAddr p % (f.ty.width / 8) = 0 →
      (f.mc.getLsbD 0 = false ∧ dst = none ∨ f.mc.getLsbD 0 = true ∧ ∃ k,
        sendCore s s.focus.c s.focus.c.core (word c.value 0).toNat = some k ∧ dst = some (k, (word c.value 0).toNat % 32)) →
      atomicHeld s f ls = false → poisonHome s ls = none → atomicRefusal s (whoAt s) ls = none →
      exec e.1 s = .next (performAtomic e.1 f e.2 s p ls (b.value.toNat % 2 ^ f.ty.width) (c.value.toNat % 2 ^ f.ty.width) dst))

/-- R315, R316, R318: an atomic performed on one GEN word, HOST word, or word of the own scratchpad, once the stores that its
point of coherence has taken before it are there (with RELEASE, all that its context publishes first, R317): the word
holds the operation of its old value and the operands, with RET the old value is logged as its result, no other byte of
any memory changes, and no register. So it is with ACQUIRE and with a notification too. Tier 2. -/
def Obligations.AtomicValues : Prop :=
  ∀ (i : Instr) (f : LFields) (op : AtomicNew) (s : State) (p : Word) (ls : List Loc) (b c : Nat) (dst : Option (Nat × Nat)),
    ((∃ pa va n, ls = (List.range n).map (fun k => Loc.pa (pa + k) (va + k)))
      ∨ (∃ va n, ls = (List.range n).map (fun k => Loc.host (va + k)))
      ∨ (∃ o n, ls = (List.range n).map (fun k => Loc.spad (whoAt s).core (o + k)))) →
    ls ≠ [] →
    let s0 := if f.mc.getLsbD 1 = true then
        publish s s.focus.c (atomicScope ls) (((frameAt s s.focus.c 0).map (·.addr)).getD 0) else s
    let before := settleLoc s0 (whoAt s) (ls.headD (.dev 0))
    let old := ofBytes (ls.map (fun l => (readByte before l).getD 0))
    let t := performAtomic i f op s p ls b c dst
    ls.map (readByte t) = (toBytes ls.length (op old b c % 2 ^ (8 * ls.length))).map some
    ∧ SameMemoryBut ls before t
    ∧ SameRegs s t
    ∧ (ctxAt t s.focus.c).log.getLast?
        = some ⟨s.focus.idx, s.focus.tag, if f.mc.getLsbD 3 then some (scalarOf f.ty old) else none, 0⟩

/-- R322: RCDECL of a well-formed GEN or SPAD range answers status 2 where it meets a declared region, else status 1
where all 64 numbers are in use, else the lowest free number, and declares the range for the context's log. R276, R323
to R326: RCEND of a number in no use, or of a region that is Ending, answers status 1, and of a region with no
reserved unit ends it; RCQ reports a line's count, and checks the byte at its address and no format (log entry 14,
DEDUCED); RWB and RINV of a checked range wait with the range's lines for the commit; RDISC of one that no tenure and
no reserved unit holds drops its lines at once, and loads that follow it fire again (R284). Tier 2. -/
def Obligations.RegionAndRangeResults : Prop :=
  (∀ (f : LFields) (s : State) (a b c : Token) (sp : Option Nat) (lo : Nat),
    let p := word a.value 0
    let len := (word b.value 0).toNat
    readiness (.rcdecl f) s = .go a b c → basicCheck p = none → ptrAddr p % 64 = 0 → len % 64 = 0 → 0 < len → len ≤ 2 ^ 32 →
    (ptrPath p = pathGEN ∧ sp = none ∧ lo = ptrAddr p
        ∧ (∃ l, locateByte s (whoAt s) .write p 0 = .ok l) ∧ (∃ l, locateByte s (whoAt s) .write p (len - 64) = .ok l)
      ∨ ptrPath p = pathSPAD ∧ sp = some (spadLoc (whoAt s) (ptrAddr p)).1 ∧ lo = (spadLoc (whoAt s) (ptrAddr p)).2
        ∧ lo + len ≤ 0x7C000) →
    let rs := (partOf s s.focus.c).regions
    let meets := rs.any (fun r => r.spad == sp && decide (lo < r.lo + r.len ∧ r.lo < lo + len))
    (meets = true → Answers (.rcdecl f) s 0x0200000000000000 s)
    ∧ (meets = false → (∀ n, n < 64 → ∃ r ∈ rs, r.num = n) → Answers (.rcdecl f) s 0x0100000000000000 s)
    ∧ (∀ n, meets = false → n < 64 → (∀ r ∈ rs, r.num ≠ n) → (∀ m, m < n → ∃ r ∈ rs, r.num = m) →
      Answers (.rcdecl f) s (BitVec.ofNat 64 n) (modPartOf s s.focus.c (fun q => { q with regions := q.regions ++
        [⟨n, sp, lo, len, false, s.focus.c, (ctxAt s s.focus.c).rcLog, (ctxAt s s.focus.c).rcLogctl, none,
          (ctxAt s s.focus.c).launch⟩] }))))
  ∧ (∀ (f : LFields) (s : State) (a b c : Token),
    let p := addrOf (word a.value 0) (offsetOf f)
    let len := (word b.value 0).toNat
    let part := partOf s s.focus.c
    (readiness (.rcend f) s = .go a b c → (word a.value 0).toNat < 64 →
      ((∀ r ∈ part.regions, r.num ≠ (word a.value 0).toNat) → Answers (.rcend f) s 0x0100000000000000 s)
      ∧ (∀ r, part.regions.find? (·.num = (word a.value 0).toNat) = some r → r.ending = true →
        r.waiter ≠ some (s.focus.c, s.focus.idx, s.focus.tag) → Answers (.rcend f) s 0x0100000000000000 s)
      ∧ (∀ r fr, part.regions.find? (·.num = (word a.value 0).toNat) = some r → r.ending = false → r.waiter = none →
        frameAt s s.focus.c s.focus.frame = some fr → fr.reserved = [] →
        anyReserved s (regionLines s (dieOf s.focus.c.core) (ctxAt s s.focus.c).part r) = false →
        let e := endRegion s s.focus.c (dieOf s.focus.c.core) (ctxAt s s.focus.c).part r
        Answers (.rcend f) s (BitVec.ofNat 64 e.2) e.1))
    ∧ (∀ l, readiness (.rcq f) s = .go a b c → basicCheck p = none → ptrPath p ≤ 1 →
      locateByte s (whoAt s) .read p 0 = .ok l →
      exec (.rcq f) s = .next (fired (.rcq f) { r0 := some (scalar (BitVec.ofNat 64
        ((match regionAt part l with
          | none => 2 ^ 56
          | some r => (if r.ending then 2 else 0) * 2 ^ 56 + r.num * 2 ^ 16) + (countAt s l).2 * 2 ^ 8 + (countAt s l).1))) } s))
    ∧ (readiness (.rwb f) s = .go a b c → checkRange .read s p len = none →
      LeavesEffects (.rwb f) s [.rangeWb ((rangeLines s (whoAt s) p len).map (·.1)) false])
    ∧ (readiness (.rinv f) s = .go a b c → checkRange .write s p len = none →
      LeavesEffects (.rinv f) s [.rangeWb ((rangeLines s (whoAt s) p len).map (·.1)) true])
    ∧ (∀ fr, readiness (.rdisc f) s = .go a b c → checkRange .write s p len = none →
      frameAt s s.focus.c s.focus.frame = some fr → fr.reserved = [] →
      (∀ q ∈ rangeLines s (whoAt s) p len, foreignTenure (partAt s (whoAt s).die (whoAt s).part) (holderOf s (whoAt s)) q.2 = false
        ∧ (l2At s q.1).v = 0) →
      exec (.rdisc f) s = .next (reloadLater (answered (.rdisc f) none 0 ((rangeLines s (whoAt s) p len).foldl
        (fun s' q => discardLine s' s.focus.c (l1Group s (whoAt s).core) q) (modCtx s s.focus.c (fun x => { x with discWait := [] }))))
        s.focus.c s.focus.tag f.lsid.toNat)))

/-! ## Mortar (class 0xB) and the matrix unit (class 0xC) -/

/-- R218, R223, R228, R232, R233, R236 to R238, R240, R241: a job that passes the checks of R233 waits for the commit, one that
fails them records the first fault; GMCAST and TASK wait with their payload; MQUERY delivers the oldest unfinished
sequence number and the next; GBAR of a group without its issuer delivers all ones, else the member arrives. Tier 2. -/
def Obligations.MortarResults : Prop :=
  ∀ (f : LFields) (s : State) (a b c : Token),
    (∀ e ∈ ([(.mcopy f, 0), (.mput f, 1), (.mget f, 2)] : List (Instr × Nat)), readiness e.1 s = .go a b c →
      (∀ d, checkJob s e.2 f a.value b.value = .ok d → LeavesEffects e.1 s [.job d])
      ∧ (∀ x, checkJob s e.2 f a.value b.value = .error x → exec e.1 s = .next (faulted x.cls x.cause x.addr x.arg s)))
    ∧ (readiness (.mquery f) s = .go a b c →
      let k := coreAt s (if f.off.getLsbD 3 then siteCore s else 8 * (siteCore s / 8) + f.off.toNat % 8)
      exec (.mquery f) s = .next (fired (.mquery f) { r0 := some (scalar (BitVec.ofNat 64
        ((match k.jobs with | j :: _ => j.seq | [] => k.jobSeq) * 2 ^ 32 + k.jobSeq))) } s))
    ∧ (readiness (.gmcast f) s = .go a b c → basicCheck (word a.value 0) = none → ptrPath (word a.value 0) = pathSPAD →
      ptrAddr (word a.value 0) % 64 = 0 → ptrAddr (word a.value 0) % 2 ^ 19 < 0x7C000 →
      LeavesEffects (.gmcast f) s [.job { blankJob with
        kind := 3, dest := BitVec.ofNat 64 (ptrAddr (word a.value 0) % 2 ^ 19),
        payload := (groupCores s s.focus.c (f.off.toNat % 256)).map (fun k => (k, b.value)) }])
    ∧ (∀ ls fr, readiness (.task f) s = .go a b c → frameAt s s.focus.c s.focus.frame = some fr →
      (let p := addrOf (word a.value 0) (offsetOf f)
       basicCheck p = none ∧ (ptrPath p = pathGEN ∨ ptrPath p = pathCONST) ∧ ptrAddr p % 128 = 0
         ∧ locate s (whoAt s) .read p 128 = .ok ls) →
      holdLoad s fr f.lsid.toNat = false → poisonAt s (whoAt s) (f.cache = 3) ls = none →
      let bytes := loadBytes s (whoAt s) s.focus.frame s.focus.tag f.lsid.toNat (f.cache = 3) ls
      let ws := (List.range 16).map (fun k => BitVec.ofNat 64 (ofBytes ((bytes.drop (8 * k)).take 8)))
      (cardBad ws = true → exec (.task f) s = .next (faulted clsPathReserved 0x0F (addrOf (word a.value 0) (offsetOf f)) 0 s))
      ∧ (∀ base, cardBad ws = false → cardStaging ws = some base →
          exec (.task f) s = .next (faulted clsPathReserved 0x0D base 0 s))
      ∧ (cardBad ws = false → cardStaging ws = none → ∃ s', exec (.task f) s = .next (fired (.task f) { effs := [.task ws] } s')
          ∧ s'.focus = s.focus ∧ SameMemory s s' ∧ SameRegs s s'))
    ∧ (readiness (.gbar f) s = .go a b c →
      ((groupMembers s s.focus.c (f.off.toNat % 256)).contains (memberNum s s.focus.c) = false →
        Answers (.gbar f) s (BitVec.allOnes 64) s)
      ∧ ((groupMembers s s.focus.c (f.off.toNat % 256)).contains (memberNum s s.focus.c) = true →
        (ctxAt s s.focus.c).gbarWait = none → syncPending s = false →
        ∃ s', exec (.gbar f) s = .next (completeBarrier s' (dieOf s.focus.c.core) (ctxAt s s.focus.c).part (f.off.toNat % 256) s.focus.c)
          ∧ (ctxAt s' s.focus.c).gbarWait = some (f.off.toNat % 256, s.focus.idx, s.focus.tag)))

/-- R246 to R248, R253, R255: MMA in token form, and in tile form where its tiles pass their checks, and ACCOUT where its tile and
its completion word do, wait for the commit as a command of their accumulator. ACCQ of an accumulator with no command in
the queue delivers the status word, whose fields are those of R255, and younger blocks, which may have read its output
before it was there, fire again (R254); with a command it waits. Tier 2. -/
def Obligations.MatrixResults : Prop :=
  ∀ (f : XFields) (s : State) (a b c : Token),
    let acc := f.acc.toNat
    let row := field f.shape.toNat 10 6
    let col := field f.shape.toNat 4 6
    (readiness (.mma f) s = .go a b c →
      (f.flags.getLsbD 0 = false → LeavesEffects (.mma f) s [.matrix acc (.mmaToken f.ta f.tb row col a.value b.value)])
      ∧ (f.flags.getLsbD 0 = true → checkMma f.ta f.tb row col (word a.value 0) (word b.value 0) = none →
        LeavesEffects (.mma f) s [.matrix acc (.mmaTile f.ta f.tb row col (word a.value 0) (word b.value 0))]))
    ∧ (readiness (.accout f) s = .go a b c →
      let rows := field f.shape.toNat 6 6 + 1
      let cols := f.shape.toNat % 64 + 1
      let addr := word a.value 0
      checkTiles (addrWordBad addr) (tileAddr addr) (tilePitch addr) (f.shape.toNat / 2 ^ 12)
        [⟨(tileAddr addr % 2 ^ 19 : Nat), rows, if f.ta = .l6s then cols else cols * (f.ta.width / 8)⟩] = none →
      outWordFault (word b.value 0) = none →
      LeavesEffects (.accout f) s [.matrix acc
        (.accOut f.ta (f.shape.toNat / 2 ^ 12) rows cols (f.flags.getLsbD 4) (f.flags.getLsbD 3) addr (word b.value 0))])
    ∧ (readiness (.accq f) s = .go a b c → (ctxAt s s.focus.c).accWait = [] →
      ((∀ q ∈ (coreAt s (whoAt s).core).mq, q.acc = acc → q.entered = false) →
        Answers (.accq f) s (accStatus (accAt s (whoAt s).core acc) acc) (squashYounger s s.focus.c))
      ∧ (∀ q ∈ (coreAt s (whoAt s).core).mq, q.acc = acc → q.entered = true → exec (.accq f) s
        = .next (awaiting (modCtx s s.focus.c (fun x => { x with accWait := x.accWait ++
            [((whoAt s).core, acc, (accAt s (whoAt s).core acc).enter, s.focus.idx, s.focus.tag)] })))))
    ∧ (∀ (q : Acc), q.n < 2 ^ 16 → q.c < 2 ^ 16 → q.e < 2 ^ 16 → acc < 8 →
      field (accStatus q acc).toNat 48 16 = q.n ∧ field (accStatus q acc).toNat 32 16 = q.c
      ∧ field (accStatus q acc).toNat 16 16 = q.e ∧ field (accStatus q acc).toNat 8 8 = q.round % 256
      ∧ field (accStatus q acc).toNat 5 3 = acc ∧ field (accStatus q acc).toNat 2 3 = 0
      ∧ ((accStatus q acc).getLsbD 1 = true ↔ q.n = 0) ∧ ((accStatus q acc).getLsbD 0 = true ↔ 0 < q.n ∧ q.c = q.n))

/-! ## Tiles and the search tree (class 0xE) -/

namespace Sys2Proof.Machine

/-- Descriptor words d' are those of d with the base moved, and with dimension j cut to n elements (R299): every stride, every
other extent and words 4 and on are copied. -/
def CutOf (d d' : List Word) (j n : Nat) : Prop :=
  (∀ i, i < 4 → (descDims d').getD i (1, 0)
      = if i = j then (n, ((descDims d).getD i (1, 0)).2) else (descDims d).getD i (1, 0))
  ∧ ∀ m, 2 ≤ m → d'.getD m 0 = d.getD m 0

/-- A handle made by a split (R299): live, at the home of the handle h, with its tenures, and the span of its own descriptor. -/
def HalfOf (h g : Handle) : Prop :=
  g.st = 1 ∧ g.die = h.die ∧ g.slice = h.slice ∧ g.tens = h.tens
  ∧ g.lo = (spanOf g.desc).1.toNat ∧ g.hi = (spanOf g.desc).2.toNat

end Sys2Proof.Machine

/-- R291, R299, R300, R304 to R310: a stale handle is STALE-HANDLE in every instruction that reads one. THNEW makes a live
handle of a good descriptor, at the lowest free index; THFREE and TREL wait for the commit; TACQ of a held tile answers 1,
at the limit of 32 tenures 3 and with a format of another width 4 (which of these comes first is DEDUCED, log entry 17),
and an admitted request on a live handle whose home has a record and that no other waits over is granted, else it waits.
TSPLIT answers 3 where it cannot cut at k, 1 where another holds or awaits tenure or its own is no WRITE, 2 without a free
index (that order too is the model's, log entry 17); else the low half keeps the index with the next generation and k
elements, the high half takes the lowest free index with the rest of them and a base moved by k strides, both with the
splitter's WRITE tenure where it holds it, and acquires that wait on the old handle end. TQUERY delivers. Two tenures of
different holders stand together only as READ with READ, a lapsed READ with any, or REDUCE with REDUCE of one operation
and format. Tier 2. -/
def Obligations.TileResults : Prop :=
  ∀ (f : LFields) (s : State) (a b c : Token),
    let p := partOf s s.focus.c
    let hnum := handleOf a.value
    let holder := holderOf s (whoOf s s.focus.c)
    (∀ i ∈ [Instr.thfree f, .tacq f, .trel f, .tsplit f, .tquery f], ∀ cause, readiness i s = .go a b c →
      ((∃ g, i = .tacq g) → (ctxAt s s.focus.c).tenWait = none ∧ syncPending s = false) →
      findHandle p hnum = .error cause → exec i s = .next (faulted clsStaleHandle cause 0 (BitVec.ofNat 64 hnum) s))
    ∧ (∀ h, findHandle p hnum = .ok h →
      (readiness (.thfree f) s = .go a b c → LeavesEffects (.thfree f) s [.thfree (BitVec.ofNat 64 hnum)])
      ∧ (readiness (.trel f) s = .go a b c →
        ((tenureOf h holder).isSome = true → LeavesEffects (.trel f) s [.trel (BitVec.ofNat 64 hnum)])
        ∧ (tenureOf h holder = none →
          exec (.trel f) s = .next (faulted clsTenureConflict 0x05 0 (BitVec.ofNat 64 hnum) s)))
      ∧ (readiness (.tquery f) s = .go a b c → exec (.tquery f) s = .next (fired (.tquery f)
          { r0 := some (scalar (if f.off.toNat % 16 < 8 then (descWords h h.gen h.st).getD (f.off.toNat % 16) 0
              else BitVec.ofNat 64 (tenureSummary p h holder hnum))) } s))
      ∧ (readiness (.tacq f) s = .go a b c → (ctxAt s s.focus.c).tenWait = none → syncPending s = false →
        let kind := f.off.toNat % 4
        let op := field f.off.toNat 2 2
        let fmt := field f.off.toNat 4 4
        ((tenureOf h holder).isSome = true → Answers (.tacq f) s (BitVec.ofNat 64 (2 ^ 56 + hnum)) s)
        ∧ (tenureOf h holder = none → 32 ≤ tenuresHeld p holder → Answers (.tacq f) s (BitVec.ofNat 64 (3 * 2 ^ 56 + hnum)) s)
        ∧ (tenureOf h holder = none → tenuresHeld p holder < 32 → kind = 3 → (elemOfCode fmt).width ≠ 8 * elemBytes h →
          Answers (.tacq f) s (BitVec.ofNat 64 (4 * 2 ^ 56 + hnum)) s)
        ∧ (tenureOf h holder = none → tenuresHeld p holder < 32 →
          (kind = 3 → (elemOfCode fmt).width = 8 * elemBytes h) → h.st = 1 → tenureRoom s h = true →
          admitted p holder h kind op fmt = true → (∀ q ∈ p.acquires, waitsOver p q h = false) →
          exec (.tacq f) s = .next (acquireEffect
            (answered (.tacq f) (some ((grantWord p kind hnum).setWidth 512)) (grantWord p kind hnum)
              (grantTenure s (dieOf s.focus.c.core) (ctxAt s s.focus.c).part h holder kind op fmt))
            s.focus.c 2 s.focus.tag f.lsid.toNat))
        ∧ (tenureOf h holder = none → tenuresHeld p holder < 32 →
          (kind = 3 → (elemOfCode fmt).width = 8 * elemBytes h) →
          (h.st ≠ 1 ∨ tenureRoom s h = false ∨ admitted p holder h kind op fmt = false ∨ ∃ q ∈ p.acquires, waitsOver p q h = true) →
          ∃ t, exec (.tacq f) s = .next t
            ∧ (partOf t s.focus.c).acquires = p.acquires ++
                [⟨h.idx, holder, s.focus.c, kind, op, fmt, s.focus.idx, s.focus.tag, f.lsid.toNat, none⟩]
            ∧ (ctxAt t s.focus.c).tenWait = some (hnum, s.focus.idx, s.focus.tag)))
      ∧ (readiness (.tsplit f) s = .go a b c → h.st ≠ 2 →
        let d := f.off.toNat % 4
        let dim := (descDims h.desc).getD d (1, 0)
        let size : Int := 2 ^ field (h.desc.getD 4 0).toNat 8 4
        let k := field f.off.toNat 8 16
        let cuts := d ≤ field (h.desc.getD 4 0).toNat 0 2 ∧ 0 < k ∧ k < dim.1
        let alone := (h.tens = [] ∧ ∀ q ∈ p.acquires, q.handle ≠ h.idx)
          ∨ (∀ t ∈ h.tens, t.holder = holder) ∧ ∃ t, tenureOf h holder = some t ∧ t.kind = 2
        (¬ cuts → Answers (.tsplit f) s 0x0300000000000000 s)
        ∧ (cuts → ¬ alone → Answers (.tsplit f) s 0x0100000000000000 s)
        ∧ (cuts → alone → freeIndex p = none → Answers (.tsplit f) s 0x0200000000000000 s)
        ∧ (∀ idx, cuts → alone → freeIndex p = some idx → ∃ s' lo hi,
          Answers (.tsplit f) s (BitVec.ofNat 64 ((idx * 256 + genOf p idx) * 2 ^ 32 + (h.idx * 256 + nextGen h.gen))) s'
          ∧ (partOf s' s.focus.c).handles = p.handles.filter (fun g => g.idx ≠ h.idx) ++ [lo, hi]
          ∧ lo.idx = h.idx ∧ lo.gen = nextGen h.gen ∧ HalfOf h lo ∧ CutOf h.desc lo.desc d k
          ∧ lo.desc.getD 0 0 = addrOf (h.desc.getD 0 0) 0
          ∧ hi.idx = idx ∧ hi.gen = genOf p idx ∧ HalfOf h hi ∧ CutOf h.desc hi.desc d (dim.1 - k)
          ∧ hi.desc.getD 0 0 = addrOf (h.desc.getD 0 0) (size * k * dim.2)
          ∧ (partOf s' s.focus.c).acquires = p.acquires.filter (fun q => q.handle ≠ h.idx))))
    ∧ (∀ pa va, readiness (.thnew f) s = .go a b c →
      let ws := (List.range 5).map (word a.value)
      basicCheck (word a.value 0) = none → (∀ n ∈ [5, 6, 7], word a.value n = 0) → descBad ws = false →
      locateByte s (whoAt s) .read (withAddr (word a.value 0) (spanOf ws).1.toNat) 0 = .ok (.pa pa va) →
      overlapping p (spanOf ws).1.toNat (spanOf ws).2.toNat = [] →
      (freeIndex p = none → Answers (.thnew f) s 0x0100000000000000 s)
      ∧ (∀ idx, freeIndex p = some idx → ∃ s', Answers (.thnew f) s (BitVec.ofNat 64 (idx * 256 + genOf p idx)) s'
          ∧ (partOf s' s.focus.c).handles.map (·.idx) = p.handles.map (·.idx) ++ [idx]
          ∧ (partOf s' s.focus.c).handles.getLast? = some ⟨idx, genOf p idx, ws, (spanOf ws).1.toNat, (spanOf ws).2.toNat,
              homeDie s pa, homeSlice pa, 1, [], [], [], none, false⟩))
    ∧ ∀ (h : Handle) (kind op fmt : Nat), admitted p holder h kind op fmt = true ↔
      ∀ g ∈ p.handles, (h.lo < g.hi ∧ g.lo < h.hi) → ∀ t ∈ g.tens, t.holder ≠ holder →
        (t.kind = 1 ∧ (t.lapsed = true ∨ kind = 1)) ∨ (t.kind = 3 ∧ kind = 3 ∧ t.op = op ∧ t.fmt = fmt)

namespace Sys2Proof.Machine

/-- Arena a' is a with these free slots and this queue, and with node n changed by `f n`; nothing else of it differs. -/
def ArenaFrom (a a' : Arena) (pslots : Nat) (queue : List Nat) (f : Nat → Node → Node) : Prop :=
  a' = { a with pslots := pslots, queue := queue, nodes := a'.nodes } ∧ ∀ n, nodeAt a' n = f n (nodeAt a n)

/-- A score stands above another (R332): it is a number, and the other NaN or below it. -/
def Beats (u v : Nat) : Prop :=
  isNaN (readF .f32 u) = false ∧ (isNaN (readF .f32 v) = true ∨ belowF (readF .f32 v) (readF .f32 u))

/-- Node n lies in the subtree of y: parents lead from n to y, none of them the root before y, in no more steps than there are
nodes. -/
def Under (a : Arena) (y n : Nat) : Prop :=
  ∃ c : List Nat, c.length ≤ a.cap + 1 ∧ c.head? = some n ∧ c.getLast? = some y
    ∧ ∀ q ∈ c.zip c.tail, q.1 ≠ a.root ∧ q.1 < a.cap ∧ q.2 = (nodeAt a q.1).parent.toNat

/-- The k nodes from `first` on are the lowest run of k free nodes (R330). -/
def LowestRun (a : Arena) (k first : Nat) : Prop :=
  first + k ≤ a.cap ∧ (∀ j, j < k → (nodeAt a (first + j)).free = true)
  ∧ ∀ m, m < first → ∃ j, j < k ∧ (nodeAt a (m + j)).free = false

/-- The instruction at the site takes one step of an engine operation (R335), which leaves the arena and a stage, or delivers. -/
def StepsTo (i : Instr) (s : State) (ar : Arena) (r : Arena × Walked) : Prop :=
  let t := modArena s (dieOf s.focus.c.core) ar.id (fun _ => r.1)
  (∀ st, r.2 = .inl st →
    exec i s = .next (modCtx t s.focus.c (fun x => { x with walk := some ⟨s.focus.idx, s.focus.tag, ar.id, st⟩ })))
  ∧ ∀ status m node, r.2 = .inr (status, m, node) →
    Answers i s (BitVec.ofNat 64 (status * 2 ^ 56 + m * 2 ^ 40 + node)) (modCtx t s.focus.c (fun x => { x with walk := none }))

/-- What each step of a descent does (R332, R333, R335). -/
def DescentSteps (a : Arena) : Prop :=
  let root := nodeAt a a.root
  (root.vl = 65535 → selectStart a = (a, .inr (3, 0, a.root)))
  ∧ (root.vl ≠ 65535 → a.pslots = 64 → selectStart a = (a, .inr (4, 0, a.root)))
  ∧ (root.vl ≠ 65535 → a.pslots ≠ 64 → ∃ a', selectStart a = (a', .inl (.read a.root 0))
      ∧ ArenaFrom a a' (a.pslots + 1) a.queue (fun n q => if n = a.root then { q with vl := q.vl + 1 } else q))
  ∧ ∀ x depth, let nd := nodeAt a x
    (nd.terminal = true → walkStep a (.read x depth) = ({ a with pslots := a.pslots - 1 }, .inr (2, depth, x)))
    ∧ (nd.terminal = false → nd.expanded = true → walkStep a (.read x depth) = (a, .inl (.score x depth nd 0 none)))
    ∧ (nd.terminal = false → nd.expanded = false → ∃ a',
      walkStep a (.read x depth) = (a', .inr (if nd.pending then 1 else 0, depth, x))
      ∧ (nd.pending = true → ArenaFrom a a' (a.pslots - 1) a.queue (fun n q =>
          if n = x then { q with holders := q.holders + 1 } else q))
      ∧ (nd.pending = false → ArenaFrom a a' a.pslots (a.queue ++ [x]) (fun n q =>
          if n = x then { q with pending := true, queued := true, holders := 1 } else q)))
    ∧ ∀ (seen : Node) (n : Nat) (best : Option (Nat × Nat)), let k := seen.first.toNat + n
      let v := score a seen (nodeAt a k)
      (n < seen.count.toNat → ∃ b, walkStep a (.score x depth seen n best) = (a, .inl (.score x depth seen (n + 1) (some b)))
        ∧ (best = none → b = (k, v))
        ∧ ∀ b0, best = some b0 → (Beats v b0.2 → b = (k, v)) ∧ (¬ Beats v b0.2 → b = b0))
      ∧ (∀ y u, seen.count.toNat ≤ n → best = some (y, u) → ∃ a',
        walkStep a (.score x depth seen n best) = (a', .inl (.read y (min (depth + 1) 65535)))
        ∧ ArenaFrom a a' a.pslots a.queue (fun n q => if n = y then { q with vl := q.vl + 1 } else q))

/-- A backup's update of one node, with N, W and VL together, and its way on (R334). -/
def BackupUpdates (a : Arena) (r : Arena × Walked) (x m v leaf pslots : Nat) (queue : List Nat) (flags : Node → Node) : Prop :=
  ArenaFrom a r.1 pslots queue (fun n q => if n = x then flags { q with
      n := BitVec.ofNat 32 (min (q.n.toNat + m) (2 ^ 32 - 1))
      w := BitVec.ofNat 32 (engAdd q.w.toNat (engMul (engCvt m) v)), vl := q.vl - BitVec.ofNat 16 m } else q)
  ∧ (x = a.root → r.2 = .inr (0, m, leaf))
  ∧ (x ≠ a.root → r.2 = .inl (.backup (nodeAt a x).parent.toNat m (if a.twopl then engNeg v else v) leaf))

/-- What each step of a backup does (R334, R335). -/
def BackupSteps (a : Arena) : Prop :=
  (∀ x v, let nd := nodeAt a x
    (nd.pending = true → BackupUpdates a (backupStart a x v) x nd.holders.toNat v x (a.pslots - 1) (a.queue.filter (fun n => n ≠ x))
      (fun q => { q with pending := false, queued := false, holders := 0 }))
    ∧ (nd.pending = false → nd.terminal = true → nd.vl ≠ 0 →
      BackupUpdates a (backupStart a x v) x 1 v x a.pslots a.queue (fun q => q))
    ∧ (nd.pending = false → nd.terminal = true → nd.vl = 0 → backupStart a x v = (a, .inr (1, 0, x)))
    ∧ (nd.pending = false → nd.terminal = false → backupStart a x v = (a, .inr (2, 0, x))))
  ∧ ∀ x m v leaf, BackupUpdates a (walkStep a (.backup x m v leaf)) x m v leaf a.pslots a.queue (fun q => q)

/-- What TREROOT does to an arena (R343). -/
def Reroots (a : Arena) (y : Nat) : Prop :=
  ((nodeAt a a.root).vl ≠ 0 ∨ a.pslots ≠ 0 → rerootIn a y = (a, 1, 0))
  ∧ ((nodeAt a a.root).vl = 0 → a.pslots = 0 → ¬ Under a a.root y → rerootIn a y = (a, 2, 0))
  ∧ ((nodeAt a a.root).vl = 0 → a.pslots = 0 → Under a a.root y → ∃ a' gone, rerootIn a y = (a', 0, List.length gone)
    ∧ (∀ n, n ∈ gone ↔ n ∈ a.nodes.map (·.1) ∧ ¬ Under a y n)
    ∧ a' = { a with root := y, nodes := a'.nodes }
    ∧ ∀ n, (¬ Under a y n → nodeAt a' n = Node.freeNode)
      ∧ (Under a y n → nodeAt a' n = if n = y then { nodeAt a n with parent := 0xFFFFFFFF } else nodeAt a n))

end Sys2Proof.Machine

/-- R327, R330 to R335, R337 to R344: an engine instruction whose turn has come and whose arena word is stale is STALE-HANDLE
0x03. With a live arena TSELECT and TBACKUP take one step at a firing, a node read or updated at a time, and deliver with
the last one; TREROOT is one step of the arena, and so is TEXPAND, which installs the entries of its list, as read at
their point of coherence, in the lowest run of free nodes (ARENA-FULL, or status 1, where there is none); TBATCH takes the
oldest leaves from the queue, clears their QUEUED flags and writes their indices; TSTAT reads; TARENA makes or destroys an
arena. What each step leaves in the arena is said in the helpers. That each read and update of a node by a descent or a
backup is one firing of its instruction, so that those of other contexts come between them, is how the model shows R335
(log entry 80). Tier 2. -/
def Obligations.SearchResults : Prop :=
  (∀ a, DescentSteps a ∧ BackupSteps a ∧ ∀ y, Reroots a y)
  ∧ ∀ (f : LFields) (s : State) (a b c : Token), engineTurn s f.lsid.toNat = true →
    let w := word a.value 0
    let die := dieOf s.focus.c.core
    (∀ i ∈ [Instr.tarenaDestroy f, .tselect f, .tbatch f, .texpand f, .tbackup f, .treroot f, .tstat f],
      readiness i s = .go a b c → findArena s s.focus.c w = none → exec i s = .next (faulted clsStaleHandle 0x03 0 w s))
    ∧ (∀ ar, findArena s s.focus.c w = some ar →
      (readiness (.tarenaDestroy f) s = .go a b c →
        ((nodeAt ar ar.root).vl ≠ 0 ∨ ar.pslots ≠ 0 → Answers (.tarenaDestroy f) s 0x0300000000000000 s)
        ∧ ((nodeAt ar ar.root).vl = 0 → ar.pslots = 0 → Answers (.tarenaDestroy f) s 0 (destroyArena s die ar)))
      ∧ (readiness (.tselect f) s = .go a b c →
        ((ctxAt s s.focus.c).walk = none → StepsTo (.tselect f) s ar (selectStart ar))
        ∧ ∀ st, (ctxAt s s.focus.c).walk = some ⟨s.focus.idx, s.focus.tag, ar.id, st⟩ →
          StepsTo (.tselect f) s ar (walkStep ar st))
      ∧ (∀ ls, readiness (.tbatch f) s = .go a b c → engineList s f.ty (word b.value 0) .write (4 * (f.off.toNat % 128)) = .ok ls →
        let out := ar.queue.take (f.off.toNat % 128)
        let bs := ls.zip (out.flatMap (toBytes 4))
        let places := bs.map (·.1)
        ∃ ar', ArenaFrom ar ar' ar.pslots (ar.queue.drop (f.off.toNat % 128))
            (fun n q => if n ∈ out then { q with queued := false } else q)
          ∧ let before := bs.foldl (fun t q => match q.1 with
              | .pa k _ => flushLine t (whoAt t) k
              | _ => t) (modArena s die ar.id (fun _ => ar'))
            let s' := coherentWrite before (whoAt before) bs
            exec (.tbatch f) s = .next (resolveWrite (answered (.tbatch f)
                (some ((BitVec.ofNat 64 (min (f.off.toNat % 128) ar.queue.length)).setWidth 512))
                (BitVec.ofNat 64 (min (f.off.toNat % 128) ar.queue.length)) s') places f.lsid.toNat)
            ∧ (∀ pa va n, places = (List.range n).map (fun k => Loc.pa (pa + k) (va + k)) →
              places.map (readByte s') = bs.map (fun q => some q.2) ∧ SameMemoryBut places before s')
            ∧ ∀ o n, 0 < n → places = (List.range n).map (fun k => Loc.spad (whoAt before).core (o + k)) →
              places.map (readByte s') = bs.map (fun q => some q.2)
              ∧ SameMemoryBut places (drainCluster before (whoAt before).core) s')
      ∧ (nodeOf w < ar.cap → (nodeAt ar (nodeOf w)).free = false →
        (readiness (.tbackup f) s = .go a b c →
          ((ctxAt s s.focus.c).walk = none →
            StepsTo (.tbackup f) s ar (backupStart ar (nodeOf w) ((word b.value 0).toNat % 2 ^ 32)))
          ∧ ∀ st, (ctxAt s s.focus.c).walk = some ⟨s.focus.idx, s.focus.tag, ar.id, st⟩ →
            StepsTo (.tbackup f) s ar (walkStep ar st))
        ∧ (readiness (.treroot f) s = .go a b c →
          Answers (.treroot f) s (BitVec.ofNat 64 ((rerootIn ar (nodeOf w)).2.1 * 2 ^ 56 + (rerootIn ar (nodeOf w)).2.2))
            (modArena s die ar.id (fun _ => (rerootIn ar (nodeOf w)).1)))
        ∧ (∀ ls, readiness (.texpand f) s = .go a b c → basicCheck (word b.value 0) = none → (word c.value 0).toNat ≤ 4096 →
          engineList s f.ty (word b.value 0) .read (4 * (word c.value 0).toNat) = .ok ls → poisonHome s ls = none →
          let x := nodeOf w
          let k := (word c.value 0).toNat
          let es := chunksOf 4 k (coherentBytes s (whoAt s) ls)
          ((nodeAt ar x).expanded = true → Answers (.texpand f) s 0x0200000000000000 s)
          ∧ ((nodeAt ar x).expanded = false → k = 0 → Answers (.texpand f) s 0
              (modArena s die ar.id (fun _ => modNode ar x (fun q => { q with expanded := true, terminal := true }))))
          ∧ (∀ first, (nodeAt ar x).expanded = false → 0 < k → LowestRun ar k first → ∃ ar',
            Answers (.texpand f) s (BitVec.ofNat 64 first) (modArena s die ar.id (fun _ => ar'))
            ∧ ArenaFrom ar ar' ar.pslots ar.queue (fun n q =>
              if n = x then { q with first := BitVec.ofNat 32 first, count := BitVec.ofNat 16 k, expanded := true }
              else if first ≤ n ∧ n < first + k then
                newNode (BitVec.ofNat 32 x) (BitVec.ofNat 16 (es.getD (n - first) 0)) (BitVec.ofNat 16 (es.getD (n - first) 0 / 2 ^ 16))
              else q))
          ∧ ((nodeAt ar x).expanded = false → 0 < k → (∀ first, ¬ LowestRun ar k first) →
            (ar.trapen = true → exec (.texpand f) s
              = .next (faulted clsArenaFull 0x01 0 (BitVec.ofNat 64 (k * 2 ^ 32 + x)) s))
            ∧ (ar.trapen = false → Answers (.texpand f) s 0x0100000000000000 s)))
        ∧ (readiness (.tstat f) s = .go a b c → exec (.tstat f) s = .next (fired (.tstat f)
            { r0 := some (scalar (BitVec.ofNat 64 (arenaStat ar (nodeOf w) (f.off.toNat % 8)))) } s))))
    ∧ (∀ id, readiness (.tarena f) s = .go a b c → basicCheck w = none → arenaParamsBad w b.value = false →
      rangeFault s (whoAt s) .write w (32 * (word b.value 0).toNat) = none →
      areaOverlaps s die (ctxAt s s.focus.c).part (ptrAddr w) (32 * (word b.value 0).toNat) = false →
      id < 64 → (∀ q ∈ (dieAt s die).arenas, q.id ≠ id) → (∀ m, m < id → ∃ q ∈ (dieAt s die).arenas, q.id = m) →
      ∃ s', Answers (.tarena f) s (BitVec.ofNat 64 (arenaGenOf (dieAt s die) id * 2 ^ 40 + id * 2 ^ 32)) s'
        ∧ (dieAt s' die).arenas = (dieAt s die).arenas ++ [newArena s s.focus.c id w b.value])

/-! ## The fabric (class 0xF) -/

/-- R396, R399: WSET of words whose reserved bits are zero writes window w at its commit, which squashes the younger blocks of the
context; a nonzero reserved bit faults PATH-RESERVED with cause 0x19. WGET delivers the committed words and zeros. FLINK
delivers PEER, RETRIES, LANES and UP of its port, with PEER and LANES 0 where it is down. Tier 2. -/
def Obligations.WindowAndPortResults : Prop :=
  ∀ (f : LFields) (s : State) (a b c : Token),
    (readiness (.wset f) s = .go a b c →
      ((word a.value 0).toNat % 2 ^ 40 = 0 → (word a.value 1).toNat < 2 ^ 54 →
        LeavesEffects (.wset f) s [.wset (f.off.toNat % 64) (word a.value 0) (word a.value 1)])
      ∧ ((word a.value 0).toNat % 2 ^ 40 ≠ 0 ∨ 2 ^ 54 ≤ (word a.value 1).toNat →
        exec (.wset f) s = .next (faulted clsPathReserved 0x19 0 0 s)))
    ∧ (∀ (core : Nat) (blk : Word) (q : Pending) (n : Nat) (w0 w1 : Word), q.eff = .wset n w0 w1 →
      let t := applyEffect s.focus.c core blk s q
      (∀ m, windowOf t s.focus.c m = if m = n then (w0, w1) else windowOf s s.focus.c m)
      ∧ (ctxAt t s.focus.c).frames = (ctxAt s s.focus.c).frames.take 1)
    ∧ (readiness (.wget f) s = .go a b c → ∃ v : Wide,
      exec (.wget f) s = .next (fired (.wget f) { r0 := some (wideTok v) } s)
      ∧ word v 0 = (windowOf s s.focus.c (f.off.toNat % 64)).1 ∧ word v 1 = (windowOf s s.focus.c (f.off.toNat % 64)).2
      ∧ v.extractLsb' 128 384 = 0)
    ∧ (readiness (.flink f) s = .go a b c → ∃ v : Word,
      exec (.flink f) s = .next (fired (.flink f) { r0 := some (scalar v) } s)
      ∧ let q := tabGet Port.blank s.pkg.ports (f.off.toNat % 16)
        (q.peer < 2 ^ 17 → q.lanes < 16 →
          field v.toNat 49 15 = 0 ∧ field v.toNat 32 17 = (if q.lanes = 0 then 0 else q.peer)
          ∧ field v.toNat 16 16 = min 65535 q.retries ∧ field v.toNat 12 4 = 0 ∧ field v.toNat 8 4 = q.lanes
          ∧ field v.toNat 1 7 = 0 ∧ (v.getLsbD 0 = true ↔ q.lanes ≠ 0)))

/-- R391, R397, R398: COLL of a well-formed descriptor, whose member list and ranges can be reached and whose own entry is the
context's partition, waits for the commit with what it read; one with a reserved bit set is PATH-RESERVED 0x19. CWAIT of
the context's finished collective delivers its status, and loads that stand behind it and fired before it fire again
(R393); of one in progress it waits, and of none it delivers the word that
stands in memory. Tier 2. -/
def Obligations.CollectiveResults : Prop :=
  ∀ (f : LFields) (s : State) (a b c : Token) (ls : List Loc),
    let p := addrOf (word a.value 0) (offsetOf f)
    collPointer p = none →
    (readiness (.coll f) s = .go a b c → locate s (whoAt s) .read p 64 = .ok ls → poisonHome s ls = none →
      let ws := (chunksOf 8 8 (coherentBytes s (whoAt s) ls)).map (BitVec.ofNat 64)
      (collBad ws = true → (∀ q ∈ collPointers ws, basicCheck q = none) →
        exec (.coll f) s = .next (faulted clsPathReserved 0x19 p 0 s))
      ∧ (∀ bs, collBad ws = false → spanFault s (whoAt s) .read (ws.getD 4 0) (4 * collMembers ws) = none →
        coherentRead s (whoAt s) (ws.getD 4 0) (4 * collMembers ws) = some bs →
        let ms := chunksOf 4 (collMembers ws) bs
        (∀ m ∈ ms, m < 2 ^ 22) → ms.getD (collRank ws) 0 = ownEntry s s.focus.c →
        spanFault s (whoAt s) .read (ws.getD 0 0) (collSrc ws) = none →
        spanFault s (whoAt s) .write (ws.getD 1 0) (collDst ws) = none →
        spanFault s (whoAt s) .write (addrOf p 48) 8 = none →
        LeavesEffects (.coll f) s [.coll p ws (ms.map (BitVec.ofNat 64))]))
    ∧ (readiness (.cwait f) s = .go a b c → (ctxAt s s.focus.c).cwait = none → syncPending s = false →
      locate s (whoAt s) .read (addrOf p 48) 8 = .ok ls →
      (lastColl (ctxAt s s.focus.c) p = none →
        Answers (.cwait f) s (BitVec.ofNat 64 (ofBytes (coherentBytes s (whoAt s) ls))) s)
      ∧ (∀ n q, lastColl (ctxAt s s.focus.c) p = some n → (ctxAt s s.focus.c).colls[n]? = some q →
        (q.done = true → exec (.cwait f) s = .next (reloadLater
          (answered (.cwait f) (some (q.status.setWidth 512)) q.status s) s.focus.c s.focus.tag f.lsid.toNat))
        ∧ (q.done = false → exec (.cwait f) s = .next (awaiting (modCtx s s.focus.c (fun x =>
            { x with cwait := some (n, s.focus.idx, s.focus.tag) }))))))

/-! ## Taking a fault and returning from it -/

/-- R29, R30, R188, R192, R194, R197: a fault of the oldest block is taken with the first faulted place: every block of the
context is squashed, its replay log is kept, a record with the class, the cause, the index, the block, the address and the
argument enters its delivery slot, and the context is Parked and stopped; no register and no byte of memory changes.
BLOCK-INCOMPLETE is taken so of an oldest block that nothing can move. A committed RETT resumes the context: it is no
longer stopped, runs, or if it is Saved will run after its restore, and its remembered ready event counts. Tier 2. -/
def Obligations.FaultsAreTakenAndReturned : Prop :=
  (∀ (c : CtxId) (s : State) (fr : Frame) (rest : List Frame) (f : FaultRec),
    (ctxAt s c).frames = fr :: rest → (ctxAt s c).st = .running → (ctxAt s c).asyncs = [] →
    (ctxAt s c).rank < 8 → isMgmt c.core = false → f.cls < 256 → f.cause < 256 → f.idx < 128 →
    ∀ i ∈ [Instr.faultTaken c, .blockIncompleteTimeout c],
    (i = .faultTaken c → firstFault (dueFaults fr) = some f ∧ (ctxAt s c).walk = none) →
    (i = .blockIncompleteTimeout c → f = ⟨clsBlockIncomplete, 0x01, 0, false, .persist, 0, 0⟩ ∧ fr.mapped = true
      ∧ dueFaults fr = [] ∧ fr.waiting = [] ∧ frameActive s c fr 0 = false ∧ blockComplete s c fr = false
      ∧ iterationDone s c fr = false ∧ phasing (ctxAt s c) = false ∧ outstanding s c fr = false
      ∧ (ctxAt s c).course = .solo) →
    ∃ t r, exec i s = .next t ∧ (ctxAt t c).st = .parked ∧ (ctxAt t c).stopped = true ∧ (ctxAt t c).frames = []
      ∧ (ctxAt t c).ready = false ∧ (ctxAt t c).log = (ctxAt s c).log ∧ (ctxAt t c).rank = (ctxAt s c).rank
      ∧ (ctxAt t c).slot = (ctxAt s c).slot ++ [⟨r, (ctxAt s c).part, true⟩]
      ∧ field (r.getD 0 0).toNat 56 8 = f.cls ∧ field (r.getD 0 0).toNat 48 8 = f.cause ∧ field (r.getD 0 0).toNat 41 7 = f.idx
      ∧ field (r.getD 0 0).toNat 32 3 = (ctxAt s c).rank ∧ r.getD 1 0 = fr.addr ∧ r.getD 2 0 = f.addr ∧ r.getD 4 0 = f.arg
      ∧ SameMemory s t ∧ SameRegs s t)
  ∧ (∀ (c t : CtxId) (s : State), (ctxAt s t).stopped = true → (ctxAt s t).rettHold = some c →
      let u := commitRett s c t
      (ctxAt u t).stopped = false ∧ ((ctxAt s t).st = .parked → (ctxAt u t).st = .running)
      ∧ ((ctxAt s t).st = .saved → (ctxAt s t).prior = .parked → (ctxAt u t).prior = .running)
      ∧ (ctxAt u t).ready = ((ctxAt s t).ready || (ctxAt s t).readyHeld) ∧ (ctxAt u t).rettHold = none
      ∧ (ctxAt u t).handlers = [] ∧ (ctxAt u t).slot = (ctxAt s t).slot ∧ SameMemory s u ∧ SameRegs s u)

/-! ## The commit step -/

/-- R18, R19, R27, R74: the oldest block of a running context that is complete, unfaulted and granted its reservation, and none
of whose loads must fire again, commits. Of a block without commit-time effects, where no context drains, the step writes
each register that a write slot names from its token and no other, a null token leaves it, FPSTAT gains the block's flags,
the exit's target is next, and memory is unchanged. An iteration commits likewise (R153). A reservation that faults records
its faults against the block. Tier 2. -/
def Obligations.CommitWritesTheRegisters : Prop :=
  (∀ (c : CtxId) (s : State) (fr : Frame) (rest : List Frame) (e : ExitRec) (es : List ExitRec),
    (ctxAt s c).frames = fr :: rest → (ctxAt s c).st = .running → blockComplete s c fr = true →
    leaderDone s c fr = true → fr.exits = e :: es → isPinned fr = false →
    let ps := orderedEffects fr (.iter 0)
    (∀ f fs, reserveFaults s c (execCore c fr s) ps = f :: fs →
      exec (.blockCommit c) s = .next (modFrame s c 0 (fun g => { g with faults := g.faults ++ f :: fs })))
    ∧ (reserveFaults s c (execCore c fr s) ps = [] → reserveWaits s c (execCore c fr s) ps = false →
      staleLoads s c (execCore c fr s) fr (.iter 0) ps = [] →
      exec (.blockCommit c) s = .next (commitBlock s c fr (.iter 0) e))
    ∧ (fr.effects = [] → (ctxAt s c).course = .solo → e.mchk = false → (ctxAt s c).asyncs = [] →
        (∀ d, (ctxAt s d).st ≠ .draining ∧ ((ctxAt s d).st = .saved → (ctxAt s d).prior ≠ .draining)) →
        let t := commitBlock s c fr (.iter 0) e
        exec (.blockCommit c) s = .next t
        ∧ (ctxAt t c).next = e.target ∧ (ctxAt t c).frames.length = rest.length ∧ (ctxAt t c).st = .running
        ∧ (∀ j, j < 64 → (ctxAt t c).fpstat.getLsbD j = ((ctxAt s c).fpstat.getLsbD j
              || fr.flags.any (fun q => q.1 == .iter 0 && decide (j < 6) && q.2.getLsbD j)))
        ∧ (∀ r, (∀ w, w < writeCount fr → writeDest fr w ≠ r) → readReg t c r = readReg s c r)
        ∧ (∀ w tok, w < writeCount fr → (∀ v, v < writeCount fr → v ≠ w → writeDest fr v ≠ writeDest fr w) →
            fr.wslots.find? (·.1 = w) = some (w, tok) →
            readReg t c (writeDest fr w) = if tok.null then readReg s c (writeDest fr w) else tok.value)
        ∧ SameMemory s t))
  ∧ (∀ (c : CtxId) (s : State) (fr : Frame) (rest : List Frame),
    (ctxAt s c).frames = fr :: rest → (ctxAt s c).st = .running → iterationDone s c fr = true →
    let ps := orderedEffects fr (.iter fr.iter)
    reserveFaults s c (execCore c fr s) ps = [] → reserveWaits s c (execCore c fr s) ps = false →
    staleLoads s c (execCore c fr s) fr (.iter fr.iter) ps = [] →
    exec (.iterationCommit c) s = .next (settle (afterCommit (commitIteration s c fr ps) c ps)))

/-- R23, R27, R46, R200, R262: a store committed under a policy that allocates in the L1 changes no byte at its point of
coherence where every L1 has room for its lines and no other context's scratchpad stores are pending at the core; under another policy
it changes no byte but those it stores, and a byte that nothing refuses stands at its home. The context's own loads see
each stored byte at once: a GEN byte dirty in the L1, a scratchpad byte on its way to its bank, a HOST or FAB byte in the
journal. Tier 2. -/
def Obligations.CommittedStores : Prop :=
  ∀ (s : State) (c : CtxId) (core : Nat) (p : Word) (kind policy : Nat),
    (∀ bs : List (Loc × Byte), (isMgmt c.core = true → ∀ a, Loc.dev a ∉ bs.map (·.1)) →
      (∀ e ∈ (coreAt s c.core).dirty, spadBase ≤ e.1 → e.2.by_ = c) →
      (policy % 2 = 0 → ∀ k, (l1Lines (coreAt s k)).length + bs.length ≤ l1Ways) →
      (policy % 2 = 0 → (∀ k, ∀ e ∈ (coreAt s k).dirty, e.1 ∈ genKeys bs → e.2.by_ = c) →
        SameMemory s (commitStore s c core bs p kind policy))
      ∧ SameMemoryBut (bs.map (·.1)) s (commitStore s c core bs p kind policy)
      ∧ SameRegs s (commitStore s c core bs p kind policy))
    ∧ (∀ (a va : Nat) (v : Byte), policy % 2 = 1 → a < spadBase → (∀ e ∈ (coreAt s (l1Core s core a)).dirty, e.1 ≠ a) →
        reduceAt (partOf s c) (holderOf s (whoOf s c)) va = none → pubCause s (whoOf s c) a va = none →
        readByte (commitStore s c core [(.pa a va, v)] p kind policy) (.pa a va) = some v)
    ∧ (∀ (w : Who) (l : Loc) (v : Byte) (coh : Bool), w.c = c → ((∃ a, l = .host a) ∨ ∃ w0 w1 o, l = .fab w0 w1 o) →
        memByte (commitStore s c core [(l, v)] p kind policy) w coh l = v)
    ∧ (∀ (w : Who) (a va : Nat) (v : Byte) (coh : Bool), w.core ∈ bondMembers s w.c.core →
        reduceAt (partAt s w.die w.part) (holderOf s w) va = none →
        memByte (commitByte w s (.pa a va, v)) w coh (.pa a va) = v)
    ∧ (∀ (w : Who) (k o : Nat) (v : Byte) (coh : Bool), w.c.core ∈ bondMembers s w.c.core → windowOpen s w k = true →
        windowOpen (commitByte w s (.spad k o, v)) w k = true →
        memByte (commitByte w s (.spad k o, v)) w coh (.spad k o) = v)

/-! ## The front end and the operand network -/

/-- R121, R128 to R130, R133, R134, R142, R147: a grant gives a context whose turn it is a frame, unmapped, at its next address (on a
bond the first block is the first member's: log entry 61); a
fill puts the line the front end needs next into the block cache, and a cache may lose a line; a block whose lines all
stand there and may be fetched is mapped and begins, or fails validation and is recorded BLOCK-INVALID; a demand fetch that
faults stops its context and a speculative one leaves nothing; a member whose next block is a muster waits; a brick that no
mapped block occupies may gate off. Tier 2. -/
def Obligations.FrontEndEvents : Prop :=
  (∀ (s : State) (c : CtxId) (pr : Option Word) (addr : Word), nextAddress s c pr = some addr → grantTurn s c pr = some c.ctx →
    framesOn s c.core (memberFor s c (nextPos (ctxAt s c))) < 8 →
    ∃ t fr, exec (.frameGrant c pr) s = .next t ∧ (ctxAt t c).frames = (ctxAt s c).frames ++ [fr] ∧ fr.addr = addr
      ∧ fr.mapped = false ∧ fr.fired = [] ∧ fr.pos = nextPos (ctxAt s c)
      ∧ fr.member = memberFor s c (nextPos (ctxAt s c)) ∧ fr.follows = ((ctxAt s c).course == .follower)
      ∧ (ctxAt t c).ready = false ∧ (coreAt t c.core).lastGrant = c.ctx ∧ SameMemory s t ∧ SameRegs s t)
  ∧ (∀ (s : State) (c : CtxId) (k : Nat) (line : Word), mappingFrame (ctxAt s c) = none →
    exec (.blockFetchFill c ⟨line, some k⟩) s
      = .next (modCore s c.core (fun q => { q with bcache := q.bcache.eraseIdx k })))
  ∧ (∀ (s : State) (c : CtxId) (n : Nat) (fr : Frame) (line p : Word),
    mappingFrame (ctxAt s c) = some n → frameAt s c n = some fr → nextLine s c fr = some p → fetchKey p = fetchKey line →
    (∀ ws, fetchLine s (fetchWho s c fr) p = .ok ws →
      ∃ t, exec (.blockFetchFill c ⟨line, none⟩) s = .next t ∧ cachedLine t (fetchWho s c fr) p = some ws
        ∧ (∀ k, (coreAt s k).bcache.length ≤ bcacheLines → (coreAt t k).bcache.length ≤ bcacheLines)
        ∧ SameMemory s t ∧ SameRegs s t)
    ∧ (∀ e, fetchLine s (fetchWho s c fr) p = .error e → ∃ t, exec (.blockFetchFill c ⟨line, none⟩) s = .next t
        ∧ (n = 0 → (ctxAt t c).st = .parked ∧ (ctxAt t c).stopped = true)
        ∧ (n ≠ 0 → (ctxAt t c).frames = (ctxAt s c).frames.take n) ∧ SameMemory s t ∧ SameRegs s t))
  ∧ (∀ (s : State) (c : CtxId) (n : Nat) (fr : Frame),
    mappingFrame (ctxAt s c) = some n → frameAt s c n = some fr →
    (∀ image, gatherImage s c fr = some (.ok image) → musters s c { fr with image := image } = false →
      ((ctxAt s c).course = .leader → ∀ k ∈ followersOf s c.core, followerRoom s c fr.pos k = true) →
      ∃ t fr', exec (.blockMap c) s = .next t ∧ frameAt t c n = some fr' ∧ SameMemory s t ∧ SameRegs s t
        ∧ (validate { fr with image := image } (regsPerCtx (coreAt s c.core).contexts) = none → fr'.mapped = true)
        ∧ (∀ v, validate { fr with image := image } (regsPerCtx (coreAt s c.core).contexts) = some v →
            fr'.mapped = fr.mapped ∧ fr'.faults = [invalidFault v]))
    ∧ (∀ e, gatherImage s c fr = some (.error e) → ∃ t, exec (.blockMap c) s = .next t
        ∧ (n = 0 → (ctxAt t c).st = .parked ∧ (ctxAt t c).stopped = true)
        ∧ (n ≠ 0 → (ctxAt t c).frames = (ctxAt s c).frames.take n) ∧ SameMemory s t ∧ SameRegs s t)
    ∧ (∀ image, gatherImage s c fr = some (.ok image) → musters s c { fr with image := image } = true → n = 0 → c.ctx = 0 →
        ((ctxAt s c).course = .leader → ∀ k ∈ followersOf s c.core, (mateAt s c k).pos = (ctxAt s c).pos) →
        ∃ t, exec (.blockMap c) s = .next t ∧ (ctxAt t c).course = .waiting fr.addr ∧ (ctxAt t c).frames = []
          ∧ SameMemory s t ∧ SameRegs s t))
  ∧ (∀ (s : State) (core brick : Nat), brick < 16 → (coreAt s core).noGate = false →
    (∀ j e fr, e ∈ (coreAt s j).ctxs → fr ∈ e.2.frames → fr.mapped = true → execCore ⟨j, e.1⟩ fr s = core →
      ∀ n ∈ indices fr, n % 16 ≠ brick) →
    exec (.brickGate core brick) s = .next (modCore s core (fun k => { k with gated := k.gated ||| (1#16 <<< brick) })))

/-- R11, R18, R135, R145, R171: a token in flight arrives in its target's slot; one with a parity error is refused, counted and
stands to be sent again, and at the third refusal in a row a fault of its receiver is recorded; a refused one is resent; a
single-bit error is corrected and counted; a double-bit error in a register or in a queue entry is recorded against the
block (that a register's names the first target of its read entry: log entry 30, DEDUCED). A read entry delivers what every older block leaves in its register, and of its two targets one alone may refuse its
token; a uniform token of the leader reaches the follower's block, which
notes that it has taken it (log entry 84, DEDUCED), or is refused and stands; a stream emits its next token in order, with its
load, or records its fault. Tier 2. -/
def Obligations.TokenEvents : Prop :=
  (∀ (s : State) (c : CtxId) (n k : Nat) (fr : Frame), frameAt s c n = some fr → fr.mapped = true →
    (∀ f g, fr.flight[k]? = some f →
      (f.refused = false → place { fr with flight := fr.flight.eraseIdx k } f = some g →
        exec (.tokenArrival c n k .none) s = .next (modFrame s c n (fun _ => g))
        ∧ ∃ t fr', exec (.tokenArrival c n k .parity) s = .next t ∧ frameAt t c n = some fr'
            ∧ fr'.ops = fr.ops ∧ fr'.wslots = fr.wslots
            ∧ (coreAt t (execCore c fr s)).refusals = min (2 ^ 32 - 1) ((coreAt s (execCore c fr s)).refusals + 1)
            ∧ (f.refusals < 2 → fr'.flight[k]? = some { f with refusals := f.refusals + 1, refused := true } ∧ fr'.faults = fr.faults)
            ∧ (2 ≤ f.refusals → fr'.flight = fr.flight.eraseIdx k ∧ fr'.faults = fr.faults ++ [receiverFault 0x01 f.dst f.tag]))
      ∧ (f.refused = true → place { fr with flight := fr.flight.eraseIdx k } { f with refused := false } = some g →
        exec (.tokenResend c n k false) s = .next (modFrame s c n (fun _ => g)))
      ∧ (∀ sl idx t, f.dst = .operand sl idx → f.tag = .iter t → isHead fr idx.toNat = false → followsIdx fr idx.toNat = false →
        tagOpen fr f.tag = true → (∀ o ∈ fr.ops, ¬(o.idx = idx.toNat ∧ o.slot = sl)) →
        place { fr with flight := fr.flight.eraseIdx k } f
          = some { fr with flight := fr.flight.eraseIdx k, ops := fr.ops ++ [⟨idx.toNat, sl, f.tag, f.tok, f.src⟩] }))
    ∧ (∃ t, exec (.tokenArrival c n k .none) s = .next t
        ∧ exec (.tokenArrival c n k .corrected) s = .next (countCorrected t (execCore c fr s)))
    ∧ (∀ idx, ∃ t fr', exec (.tokenArrival c n k (.queue idx)) s = .next t ∧ frameAt t c n = some fr'
        ∧ fr'.faults = fr.faults ++ (fr.fired.filter (fun e => e.1 = idx && e.1 % 8 = 0)).map
            (fun e => ⟨clsTokenParity, 0x03, idx, false, e.2, 0, 0⟩))
    ∧ (∀ j, fr.flight.length ≤ k → fr.reads[k - fr.flight.length]? = some j →
      (∀ v, forwarded s c fr (readSource fr j) ((ctxAt s c).frames.take n).reverse = some v →
        let rest := { fr with reads := fr.reads.filter (· ≠ j) }
        let refuse := fun (f : Flight) => { f with refusals := 1, refused := true }
        exec (.tokenArrival c n k .none) s = .next (modFrame s c n (fun _ =>
          (readFlights fr j v).foldl (fun g f => (place g f).getD g) rest))
        ∧ (∃ t fr', exec (.tokenArrival c n k .parity) s = .next t ∧ frameAt t c n = some fr'
            ∧ fr'.flight = fr.flight ++ (readFlights fr j v).map refuse ∧ fr'.reads = rest.reads)
        ∧ (∀ m, let hit := (readTargets fr j).getD (m % 2) .none
          let g := ((readFlights fr j v).filter (·.dst ≠ hit)).foldl (fun g f => (place g f).getD g) rest
          ∃ t, exec (.tokenArrival c n k (.parityAt m)) s = .next t
            ∧ frameAt t c n = some { g with flight := g.flight ++ ((readFlights fr j v).filter (·.dst = hit)).map refuse }))
      ∧ ∃ t fr', exec (.tokenArrival c n k .double) s = .next t ∧ frameAt t c n = some fr'
            ∧ fr'.faults = fr.faults ++ [receiverFault 0x02 ((readTargets fr j).headD .none) .persist])
    ∧ (∀ u g, fr.flight.length + fr.reads.length ≤ k →
      ((ctxAt s c).utoks.filter (·.1 = fr.pos))[k - fr.flight.length - fr.reads.length]? = some u → u.2.refused = false →
      takeUniform fr u.2 = some g →
      (∃ t, exec (.tokenArrival c n k .none) s = .next t
        ∧ frameAt t c n = some { g with utaken := g.utaken ++ [{ u.2 with refused := false, refusals := 0 }] }
        ∧ (ctxAt t c).utoks.length + 1 = (ctxAt s c).utoks.length)
      ∧ (u.2.refusals < 2 → ∃ t, exec (.tokenArrival c n k .parity) s = .next t ∧ frameAt t c n = some fr
        ∧ (u.1, { u.2 with refusals := u.2.refusals + 1, refused := true }) ∈ (ctxAt t c).utoks
        ∧ (ctxAt t c).utoks.length = (ctxAt s c).utoks.length)))
  ∧ (∀ (s : State) (c : CtxId) (fr : Frame) (rest : List Frame) (index : Nat) (f : LFields) (q : Stream),
    (ctxAt s c).frames = fr :: rest → fr.mapped = true → instrAt fr index = some (.lds f) → streamNow fr index = some q →
    mayEmit fr (.lds f) q = true → loadHeld (ctxAt s c) fr 0 index f.lsid.toNat (.iter q.k) = false →
    (∀ q' t ls, emission s c 0 f q = .ok (t, ls, q') →
      let w := fetchWho s c fr
      let bytes := loadBytes s w 0 (.iter q.k) f.lsid.toNat (f.cache = 3) ls
      ∃ u fr', exec (.ldsEmit c index) s = .next (keepOrder u w 0 (.iter q.k) f.lsid.toNat false (ls.zip bytes))
        ∧ frameAt u c 0 = some fr' ∧ q'.k = q.k + 1
        ∧ fr'.streams = fr.streams ++ [q'] ∧ fr'.flight = fr.flight ++ flightsOf (.lds f) (.iter q.k) (some t) none
        ∧ fr'.loads = fr.loads ++ (if ls.isEmpty then [] else [⟨q.idx, f.lsid.toNat, .iter q.k, ls, bytes⟩])
        ∧ SameMemory s u ∧ SameRegs s u)
    ∧ (∀ e, emission s c 0 f q = .error e → exec (.ldsEmit c index) s = .next (modFrame s c 0 (fun fr =>
        { fr with faults := fr.faults ++ [⟨e.cls, e.cause, q.idx, false, .iter q.k, e.addr, e.arg⟩] }))))

/-- R122, R124, R147, R177, R264: a context whose oldest block waits only on answers parks; a parked context whose ready bit is set and
that is not stopped runs again, its ready bit kept until its next frame; a yield expires; a requested repartition of an
idle core, whose PHASEs are finished, takes effect, or is refused where a context above the new layout is in use; a muster with every member arrived
re-forms the course; a PHASE whose posted stores are done completes and the clean lines below its scope are gone, and what waited behind the
last one takes effect. Tier 2. -/
def Obligations.ContextEvents : Prop :=
  (∀ (s : State) (c : CtxId),
    (∀ fr rest, (ctxAt s c).frames = fr :: rest → (ctxAt s c).st = .running → fr.mapped = true → fr.waiting ≠ [] →
      dueFaults fr = [] → frameActive s c fr 0 = false → blockComplete s c fr = false →
      iterationDone s c fr = false →
      ∃ t, exec (.contextPark c) s = .next t ∧ (ctxAt t c).st = .parked ∧ (ctxAt t c).log = (ctxAt s c).log ∧ SameMemory s t ∧ SameRegs s t)
    ∧ ((ctxAt s c).st = .parked → (ctxAt s c).ready = true → (ctxAt s c).stopped = false →
      exec (.contextUnpark c) s = .next (modCtx s c (fun x => { x with st := .running })))
    ∧ ((ctxAt s c).stopped = true → exec (.contextUnpark c) s = .next s)
    ∧ (∃ t, exec (.yieldExpiry c) s = .next t ∧ (ctxAt t c).yielding = false ∧ ∀ d, d ≠ c → ctxAt t d = ctxAt s d)
    ∧ ((ctxAt s c).phases = [] → exec (.phaseComplete c) s = .next (applyLate c (ctxAt s c).late s))
    ∧ (∀ scope rest, (ctxAt s c).phases = scope :: rest → (scope = 3 → postedLeft s c = false) →
      (rest = [] → (ctxAt s c).late = []) →
      ∃ t, exec (.phaseComplete c) s = .next t ∧ (ctxAt t c).phases = rest ∧ SameMemory s t ∧ SameRegs s t
        ∧ (¬(scope = 0 ∧ 1 < (l1Group s c.core).length) →
            ∀ k ∈ (bondMembers s c.core).flatMap (l1Group s), (coreAt t k).clean = [])))
  ∧ (∀ (s : State) (core by_ n : Nat), (coreAt s core).repartBy = some (by_, n) →
    (∀ e ∈ (coreAt s core).ctxs, e.2.frames = [] ∧ phasing e.2 = false) → (∀ j ∈ (coreAt s core).journal, j.state ≠ 1) → (coreAt s core).jobs = [] →
    (coreAt s core).mq = [] →
    ∃ t, exec (.repartApply core) s = .next t ∧ (coreAt t core).pend = false ∧ (coreAt t core).repartBy = none
      ∧ (by_ < n → (∀ e ∈ (coreAt s core).ctxs, n ≤ e.1 → e.2.st = .free) →
          (coreAt t core).contexts = n ∧ (coreAt t core).refused = false)
      ∧ ((n ≤ by_ ∨ ∃ e ∈ (coreAt s core).ctxs, n ≤ e.1 ∧ e.2.st ≠ .free) →
          (coreAt t core).contexts = (coreAt s core).contexts ∧ (coreAt t core).refused = true))
  ∧ (∀ (s : State) (cluster : Nat) (addr : Word), exec (.musterComplete cluster addr) s
      = .next (((List.range 8).map (fun k => 8 * cluster + k)).foldl (completeMuster addr) s))
  ∧ (∀ (s : State) (core : Nat) (addr : Word), (coreAt s core).kind = 2 → (ctxAt s ⟨core, 0⟩).course = .waiting addr →
    let ms := (core :: mates s ⟨core, 0⟩).filter (fun k => (mateAt s ⟨core, 0⟩ k).course != .quit)
    (∀ k ∈ ms, (mateAt s ⟨core, 0⟩ k).course = .waiting addr) →
    let t := completeMuster addr s core
    ∀ k ∈ ms, (mateAt t ⟨core, 0⟩ k).course = if ms.length ≤ 1 then .solo else if k = ms.foldl min (2 ^ 20) then .leader else .follower)

/-! ## The memory system of itself, and accesses from outside -/

/-- R257, R259, R272, R281, R282, R369: an L2 eviction, a page walk, an ATS invalidation and a back-invalidation change no byte of
memory and no register; a read from the host or from another module changes nothing, but for an HBM error that the host's read
meets, which is counted and, where it is not corrected, poisons the line (that it is found so: log entry 82); an L1 eviction empties
its line, of its clean entry too (log entry 22, DESIGN CHOICE), and leaves every byte outside it, and one of a pending scratchpad line takes a core's pending stores to their banks. Tier 2. -/
def Obligations.CacheEventsKeepMemory : Prop :=
  ∀ (s : State),
    (∀ i ∈ ([(fun n _ _ => .l2Eviction n), (fun n m k => .pageWalk n m k), (fun n m _ => .hostAtsInvalidate n m),
             (fun n _ _ => .hostBackInvalidate n)] : List (Nat → Nat → Nat → Instr)), ∀ n m k,
      ∃ t, exec (i n m k) s = .next t ∧ SameMemory s t ∧ SameRegs s t)
    ∧ (∀ address, exec (.hostMemRequest address (.read none)) s = .next s)
    ∧ (∀ address, address < 2 ^ 39 → l2Holds s (address / 64) = false →
        (∃ t, exec (.hostMemRequest address (.read (some true))) s = .next t ∧ t.poison = s.poison ∧ t.hbm = s.hbm ∧ t.l2 = s.l2
          ∧ (dieAt t (homeDie s address)).hbmCe = min (2 ^ 22 - 1) ((dieAt s (homeDie s address)).hbmCe + 1))
        ∧ (∃ t, exec (.hostMemRequest address (.read (some false))) s = .next t ∧ t.hbm = s.hbm ∧ t.l2 = s.l2
          ∧ (∀ n, n ∈ t.poison ↔ n = address / 64 ∨ n ∈ s.poison)
          ∧ (dieAt t (homeDie s address)).hbmUe = min (2 ^ 32 - 1) ((dieAt s (homeDie s address)).hbmUe + 1)))
    ∧ (∀ die part va, exec (.remoteAccess die part va none) s = .next s)
    ∧ (∀ line, 2 ^ 40 ≤ 64 * line → ∃ t, exec (.hostBackInvalidate line) s = .next t
        ∧ ((l2At s line).n = 0 → (l2At t line).dirty = false)
        ∧ ∀ core, core ∈ coreNums s → ∀ e ∈ (coreAt t core).clean, e.1 ≠ line)
    ∧ (∀ line, (l2At s line).n = 0 → ∃ t, exec (.l2Eviction line) s = .next t ∧ (l2At t line).dirty = false
        ∧ ∀ k, k < 64 → tabGet 0 t.hbm (64 * line + k) = homeByte s (64 * line + k))
    ∧ (∀ line, (l2At s line).n ≠ 0 → exec (.l2Eviction line) s = .next s)
    ∧ (∀ core line, 64 * line < spadBase → ∃ t, exec (.l1Eviction core line) s = .next t ∧ SameRegs s t
        ∧ (∀ e ∈ (coreAt t core).dirty, e.1 / 64 ≠ line) ∧ (∀ e ∈ (coreAt t core).clean, e.1 ≠ line)
        ∧ ∀ a v, a / 64 ≠ line → readByte t (.pa a v) = readByte s (.pa a v))
    ∧ (∀ core line, spadBase ≤ 64 * line → ∃ t, exec (.l1Eviction core line) s = .next t ∧ SameRegs s t
        ∧ (∀ e ∈ (coreAt t core).dirty, e.1 < spadBase) ∧ ∀ a v, readByte t (.pa a v) = readByte s (.pa a v))
    ∧ (∀ die part va e, (partAt s die part).tlb.find? (fun q => q.va ≤ va && va < q.va + q.size) = none →
        findPage s die part va = some e →
        exec (.pageWalk die part va) s = .next (modPart s die part (fun p => { p with tlb := p.tlb ++ [e] })))
    ∧ (∀ va bytes p, ∃ t, exec (.hostAtsInvalidate va bytes) s = .next t
        ∧ (p ∈ t.ats ↔ p ∈ s.ats ∧ ¬(p.va < va + bytes ∧ va < p.va + p.size)))

/-- R268, R276, R290 to R293, R302, R329, R370, R386: the home answers the first waiting acquire that none before it holds back,
which leaves its queue and is granted or refused (that a mirror that is due goes first is the model's choice, log entry 66); a
READ lease that is held lapses when its time has come (that its slice's time, leaseNow, moves up to the lease's end there and
nowhere else is the model's choice, log entry 47); an ending region with no reserved unit ends and answers its waiter; node
evictions write the arena's words at their home (that both nodes of a line go is the model's reading, log entry 22); a write
from the host lands at the home of each byte, and one from another module where the target does not refuse it.
Tier 2. -/
def Obligations.HomeEvents : Prop :=
  ∀ (s : State) (die part : Nat),
    (∀ a h v, (partAt s die part).handles.find? (·.due) = none →
      answerable s (partAt s die part) [] (partAt s die part).acquires = some (a, h, v) →
      let s' := modPart s die part (fun p => { p with acquires := p.acquires.erase a })
      exec (.tenureGrant die part) s = .next (deliverAnswer
        (if v = .grant then grantTenure s' die part h a.holder a.kind a.op a.fmt else s') a (partAt s die part) h v))
    ∧ (∀ h, (partAt s die part).handles.find? (·.due) = some h → exec (.tenureGrant die part) s
        = .next (mirror (modHandle s die part h.idx (fun q => { q with due := false })) die part h.idx (descWords h h.gen 1)))
    ∧ (∀ handle holder h t, (partAt s die part).handles = [h] → h.idx = handle → h.tens = [t] → t.holder = holder → t.kind = 1 →
      t.lapsed = false → ∃ u, exec (.leaseExpiry die part handle holder) s = .next u ∧ SameMemory s u ∧ SameRegs s u
        ∧ (partAt u die part).handles = [{ h with tens := [{ t with lapsed := true, leaseAt := 0 }] }]
        ∧ tabGet 0 (dieAt u h.die).leaseNow h.slice
          = max (tabGet 0 (dieAt s h.die).leaseBase h.slice + t.leaseAt) (tabGet 0 (dieAt s h.die).leaseNow h.slice))
    ∧ (∀ r c idx tag, (partAt s die part).regions.find? (fun q => q.num = r.num && q.ending) = some r →
      r.waiter = some (c, idx, tag) → anyReserved s (regionLines s die part r) = false →
      let e := endRegion s c die part r
      exec (.regionEnd die part r.num) s
        = .next (answerLater c idx tag (some ((endWord 0 e.2).setWidth 512)) (endWord 0 e.2) e.1))
    ∧ (∀ a node, (dieAt s die).arenas.find? (·.id = a.id) = some a →
      exec (.nodeCacheEviction die a.id node) s
        = .next (writeNodes s a ([node / 2 * 2, node / 2 * 2 + 1].filter (· < a.cap))))
    ∧ (∀ address bs, address + bs.length ≤ 2 ^ 39 → ∃ t, exec (.hostMemRequest address (.write bs)) s = .next t
      ∧ (∀ k, k < bs.length → homeByte t (address + k) = bs.getD k 0)
      ∧ (∀ a, a < address ∨ address + bs.length ≤ a → homeByte t a = homeByte s a) ∧ SameRegs s t ∧ t.hostMem = s.hostMem)
    ∧ (∀ va b pa, ownRefusal s die part true (va % 2 ^ 54) = none →
      translate s die part (va % 2 ^ 54) false .write false = .ok pa →
      ∃ t, exec (.remoteAccess die part va (some [b])) s = .next t ∧ homeByte t pa = b
        ∧ (∀ a, a ≠ pa → homeByte t a = homeByte s a) ∧ SameRegs s t)
    ∧ (∀ va bs k cause, k < bs.length → ownRefusal s die part true ((va + k) % 2 ^ 54) = some cause →
      exec (.remoteAccess die part va (some bs)) s = .next s)

/-! ## The package -/

/-- R195, R374 to R378: before boot has begun, BOOT of an accepted flash image comes to READY with every die and both
ports, and the management cores have rank 7; of a refused one it stops at step 1; a stopped boot goes on with an
accepted recovery image on request 1, and waits with a refused one; request 2 rewrites the flash only with an accepted
image. The host writes the recovery buffer. The module number is set within 0 to 15 (that another is ignored is the
model's choice, log entry 99); a report is made, with the certificate of both public keys. Whether memory, links and
ports train is free (log entry 12). R366, R370, R380, R383, R384: a power limit of 1 to 3,200 W is taken (that another
is ignored is the model's choice, log entry 44); the clock goes down a step of 62.5 MHz above the limit and up below
95% of it, within 625 and 1,250 MHz, and THROT says that it is lowered; a failed link retraining fails the package;
ports retrain downward only and count retried flits; an idle cluster powers down: its accumulators and L1 lines are
gone and what its scratchpads hold is free. Tier 2. -/
def Obligations.PackageEvents : Prop :=
  (∀ (s : State),
    (s.kiln.bootStep = 0 → ∃ t, exec .boot s = .next t ∧ t.hbm = s.hbm ∧ t.kiln.flash = s.kiln.flash ∧ SameRegs s t
      ∧ (imageFault s.kiln.flash = none → bootFails s = none →
          t.kiln.bootStep = 5 ∧ t.pkg.dies = 0xF ∧ t.kiln.digest = imagePart s.kiln.flash 0x10 64
          ∧ portWidthLegal t.pkg.p0w = true ∧ portWidthLegal t.pkg.p1w = true
          ∧ ∀ d, d < 4 → (dieAt t d).coreMask = Config.coreFuses d ∧ (ctxAt t ⟨1024 + d, 0⟩).rank = 7)
      ∧ (∀ k, imageFault s.kiln.flash = none → bootFails s = some k → t.kiln.bootStep = k ∧ t.pkg = s.pkg)
      ∧ (∀ n, imageFault s.kiln.flash = some n → t.kiln.bootStep = 1 ∧ t.kiln.status = Config.kilnStatus 1 n
          ∧ t.pkg.dies = s.pkg.dies ∧ portWidthLegal t.pkg.p0w = true ∧ portWidthLegal t.pkg.p1w = true))
    ∧ (s.kiln.bootStep ≠ 0 → exec .boot s = .next s)
    ∧ (s.kiln.bootStep = 1 → ∃ t, exec .kilnRecoveryRequest s = .next t ∧ t.kiln.request = 1 ∧ t.kiln.flash = s.kiln.flash
      ∧ (imageFault s.kiln.recovery = none → bootFails s = none → t.kiln.bootStep = 5 ∧ t.pkg.dies = 0xF)
      ∧ (imageFault s.kiln.recovery ≠ none → t.kiln.bootStep = 1 ∧ t.pkg = s.pkg))
    ∧ (∃ t, exec .kilnFlashRewrite s = .next t ∧ t.kiln.request = 2
        ∧ t.kiln.flash = if imageFault s.kiln.recovery = none then s.kiln.recovery else s.kiln.flash)
    ∧ (∀ m, m < 16 → s.pkg.p0w < 16 → s.pkg.p1w < 16 → ∃ t, exec (.moduleNumberSet m) s = .next t ∧ field (capPkg t.pkg) 20 4 = m ∧ t = { s with pkg := t.pkg })
    ∧ (∀ m, 16 ≤ m → exec (.moduleNumberSet m) s = .next s)
    ∧ (∀ nonce, ∃ t, exec (.attestationReport nonce) s = .next t ∧ t.pkg = s.pkg
        ∧ t.kiln.report.take nonce.length = nonce
        ∧ t.kiln.cert.take (Config.identityEdKey ++ Config.identityMlKey).length = Config.identityEdKey ++ Config.identityMlKey)
    ∧ (∀ o b, o < recoverySize → ∃ t, exec (.launchWindowWrite 0 (0x300000 + o) (.write [b])) s = .next t
        ∧ t.kiln.recovery.getD o 0 = b ∧ (∀ p, p ≠ o → t.kiln.recovery.getD p 0 = s.kiln.recovery.getD p 0)
        ∧ t.kiln.request = s.kiln.request ∧ t.dies = s.dies))
  ∧ (∀ (s : State),
    (∀ w, 1 ≤ w → w ≤ 3200 → ∃ t, exec (.powerLimitSet w) s = .next t ∧ t.pkg.limit = w ∧ t = { s with pkg := t.pkg })
    ∧ (∀ w, w = 0 ∨ 3200 < w → exec (.powerLimitSet w) s = .next s)
    ∧ (∀ mw, 1250 ≤ s.pkg.clock → s.pkg.clock ≤ 2500 → ∃ t, exec (.powerThrottle mw) s = .next t ∧ t = { s with pkg := t.pkg }
        ∧ (1000 * s.pkg.limit < mw → t.pkg.clock = max 1250 (s.pkg.clock - 125))
        ∧ (mw < 950 * s.pkg.limit → t.pkg.clock = min 2500 (s.pkg.clock + 125))
        ∧ (950 * s.pkg.limit ≤ mw → mw ≤ 1000 * s.pkg.limit → t.pkg.clock = s.pkg.clock)
        ∧ (t.pkg.throt = true ↔ t.pkg.clock < 2500))
    ∧ (∀ die nb, exec (.linkRetrain die nb true) s = .next s)
    ∧ (∀ die nb, die < 4 → (nb = die ^^^ 1 ∨ nb = die ^^^ 2) → ∃ t, exec (.linkRetrain die nb false) s = .next t ∧ t.pkg.failed = true
        ∧ (∀ d, d < 4 → (dieAt t d).linkErr = true) ∧ ∀ u, step t ≠ .next u)
    ∧ (∀ w, (w = 0x8 ∨ w = 0x4) → w < s.pkg.p0w → ∃ t, exec (.hostPortRetrain 0 w) s = .next t ∧ t.pkg.p0w = w ∧ t.pkg.p1w = s.pkg.p1w)
    ∧ (∀ w, (w = 0x8 ∨ w = 0x4) → w < s.pkg.p1w → ∃ t, exec (.hostPortRetrain 1 w) s = .next t ∧ t.pkg.p1w = w ∧ t.pkg.p0w = s.pkg.p0w)
    ∧ (∀ n, n < 16 → ∃ t, exec (.flitRetry n) s = .next t ∧ (portAt t n).retries = min 65535 ((portAt s n).retries + 1)
        ∧ (portAt t n).lanes = (portAt s n).lanes ∧ ∀ m, m ≠ n → portAt t m = portAt s m)
    ∧ (∀ n l, n < 16 → l < (portAt s n).lanes → l ∈ [4, 2, 0] → ∃ t, exec (.portRetrain n l) s = .next t
        ∧ (portAt t n).lanes = l ∧ ∀ m, m ≠ n → portAt t m = portAt s m)
    ∧ (∀ cl core, (clusterAt s cl).powered = true → clusterIdle s cl = true → core / 8 = cl → ∃ t, exec (.clusterPowerDown cl) s = .next t
        ∧ (clusterAt t cl).powered = false ∧ (coreAt t core).accs = [] ∧ (coreAt t core).dirty = [] ∧ (coreAt t core).clean = []
        ∧ (coreAt t core).spad = lostSpad s.freeCounter core))

/-! ## Launches, pre-emption, and work on its way -/

/-- R203, R209, R347, R349 to R353, R357 to R365: the launch window takes a whole record into the die's queue, or drops it and
counts it, and the host reads what room it has; the loader takes the oldest entry once the package is READY; a gang that fits is reserved and one that is
reserved starts; a launch that may end ends; a partition is sampled; a core with live contexts is pre-empted and a saved
one restored. Tier 2. -/
def Obligations.LaunchEvents : Prop :=
  ∀ (s : State) (die part : Nat),
    (∀ data, die < 4 → data.length = 128 → (dieAt s die).lqueue.length < 64 → ∃ t ws, exec (.launchWindowWrite die 0 (.write data)) s = .next t
      ∧ (dieAt t die).lqueue = (dieAt s die).lqueue ++ [.window ws] ∧ ws.length = 16
      ∧ ∀ n, n < 16 → ws.getD n 0 = BitVec.ofNat 64 (ofBytes ((data.drop (8 * n)).take 8)))
    ∧ (∀ offset data, die < 4 → offset ≤ 0x78 → 0x80 ≤ offset + data.length → offset + data.length ≤ 0x88 →
      64 ≤ (dieAt s die).lqueue.length →
      ∃ t, exec (.launchWindowWrite die offset (.write data)) s = .next t ∧ (dieAt t die).lqueue = (dieAt s die).lqueue
        ∧ (dieAt t die).winDrop = min (2 ^ 32 - 1) ((dieAt s die).winDrop + 1))
    ∧ (die < 4 → ∃ t, exec (.launchWindowWrite die 0x080 (.read 8)) s = .next t ∧ ofBytes t.kiln.given = 64 - (dieAt s die).lqueue.length
        ∧ t = { s with kiln := t.kiln })
    ∧ (∃ t, exec (.winDrop die) s = .next t ∧ (dieAt t die).winDrop = 0 ∧ (dieAt t die).lqueue = (dieAt s die).lqueue)
    ∧ (∀ mask, ∃ t, exec (.partWake die mask) s = .next t ∧ (dieAt t die).wake = mask.setWidth 8)
    ∧ (s.kiln.bootStep < 5 → exec (.loaderTake die) s = .next s)
    ∧ (∀ ws rest, 5 ≤ s.kiln.bootStep → (dieAt s die).lqueue = .window ws :: rest →
      exec (.loaderTake die) s = .next (judgeRecord (modDie s die (fun d => { d with lqueue := rest })) die none ws))
    ∧ (∀ p pt rank rest, 5 ≤ s.kiln.bootStep → (dieAt s die).lqueue = .pointer p pt rank :: rest →
      let s' := modDie s die (fun d => { d with lqueue := rest })
      exec (.loaderTake die) s = .next (match readRecord s' die pt p with
        | none => refuseRecord s' die none [] 0x08
        | some ws => judgeRecord s' die (some (pt, rank)) ws))
    ∧ (∀ m cs, (partAt s die part).reserve = none → served (partAt s die part) = some m → m.nextGang < gangTotal m.words →
      m.gangs.all (fun g => !g.saved) = true → placeFor s die part m = some cs →
      ∃ t, exec (.gangReserve die part) s = .next t ∧ (partAt t die part).reserve = some ⟨m.lid, m.nextGang, cs⟩)
    ∧ (∀ r l, (partAt s die part).reserve = some r → (partAt s die part).launches.find? (·.lid = r.lid) = some l →
      (clusterAt s (clusterOf (r.cores.headD 0))).fused = recFused l.words → outrank s die part = s →
      exec (.gangCommit die part) s = .next (startGang s die part l r))
    ∧ (∀ lid p l, (List.range 8).findSome? (fun p => ((partAt s die p).launches.find? (fun l => l.lid = lid && mayEnd l)).map
        (fun l => (p, l))) = some (p, l) → exec (.launchComplete die lid) s = .next (endLaunch s die p l))
    ∧ (resident (partAt s die part) ≠ [] → ∃ t, exec (.quiescenceSample die part) s = .next t
        ∧ (partAt t die part).sample = some (takeSample s die part)
        ∧ ((partAt t die part).quiet = true ↔ ∃ old, (partAt s die part).sample = some old ∧ quietPair old (takeSample s die part) = true))
    ∧ (∀ l ∈ (partAt s die part).launches, part < 8 → gangsLeft l = true → ∃ t, exec (.effectivePriorityAging die l.lid) s = .next t
        ∧ ∃ l' ∈ (partAt t die part).launches, l'.lid = l.lid ∧ l'.aged = l.aged + 1)
    ∧ (∀ core, exec (.preemption core) s = .next (preemptCore s core))
    ∧ (∀ core x, (coreAt s core).kind = 0 → (coreAt s core).saving = false → x ∈ (coreAt s core).ctxs → isLive x.2 = true →
        ∃ t, exec (.preemption core) s = .next t ∧ (coreAt t core).saving = true)
    ∧ (∀ core r cycles, (savedPieces s core).find? (restorable s) = some r → (threadCore s r).kind ≠ 1 →
        ∃ t, exec (.contextRestore core cycles) s = .next (settle t) ∧ (coreAt t core).saving = false
          ∧ (coreAt t core).srcost = min (2 ^ 32 - 1) cycles)
    ∧ (∀ v, quantumVictim s die part = some v →
        (∃ l ∈ (partAt s die part).launches, l.lid ≠ v.lid ∧ gangsLeft l = true ∧ l.st ≠ 1 ∧ recPrio v.words ≤ effPrio l
          ∧ (∀ g ∈ l.gangs, g.saved = false) ∧ placeFor s die part l = none) →
        exec (.quantumEnd die part) s = .next (outrank (modLaunch (modPart (((v.gangs.flatMap (·.cores)).filter (fun k =>
          (coreAt s k).gang.any (·.1 = v.lid))).foldl preemptCore s) die part
          (fun p => { p with reserve := p.reserve.filter (·.lid ≠ v.lid) })) die part v.lid (fun l => { l with st := 0, aged := 0 })) die part))

/-- R182, R197, R200, R201, R220 to R226, R245, R251, R393: the oldest copy of a sent message enters a queue that has room; a record
goes to its handler's class queue or to the management core; a posted access that nothing holds back is performed or
refused; jobs, cards and matrix commands take their turns. Tier 2. -/
def Obligations.WorkEvents : Prop :=
  ∀ (s : State),
    (∀ (c : CtxId) (e : SendEntry) (es : List SendEntry) (d : Nat × Nat), (ctxAt s c).sendq = e :: es → (ctxAt s c).st ≠ .saved →
      phasing (ctxAt s c) = false → e.dsts = [d] → (coreWhere s (ctxAt s c).part (ctxAt s c).launch d.1).aside = none →
      areaIn (coreAt s d.1) d.2 = none → (tabGet [] (coreAt s d.1).queues d.2).length < 16 →
      ∃ t, exec (.messageArrival c 0) s = .next t ∧ (ctxAt t c).sendq = es
        ∧ (coreAt t d.1).arrived = (coreAt s d.1).arrived + 1
        ∧ tabGet [] (coreAt t d.1).queues d.2
            = tabGet [] (coreAt s d.1).queues d.2 ++ [⟨e.payload, e.header, (coreAt s d.1).arrived⟩])
    ∧ (∀ (c : CtxId) (r : Record) (rest : List Record), (ctxAt s c).slot = r :: rest →
      let die := dieOf c.core
      let w0 := (r.words.getD 0 0).toNat
      (routeFor s die r.part (field w0 32 3) (w0 / 2 ^ 56) = none →
        ∃ t r', exec (.trapRecordDelivery c) s = .next t ∧ (ctxAt t c).slot = rest
          ∧ (dieAt t die).mgmt = (dieAt s die).mgmt ++ [(c, r')]
          ∧ (misrouted s die r.part (field w0 32 3) (w0 / 2 ^ 56) = false → r' = r)
          ∧ (misrouted s die r.part (field w0 32 3) (w0 / 2 ^ 56) = true →
              r' = { r with words := r.words.set 0 ((r.words.getD 0 0) ||| (1 <<< 35)) }))
      ∧ (∀ h cls, routeFor s die r.part (field w0 32 3) (w0 / 2 ^ 56) = some (h, cls) → h.aside = none →
        areaIn (coreAt s h.c.core) cls = none → (tabGet [] (coreAt s h.c.core).queues cls).length < 16 →
        ∃ t, exec (.trapRecordDelivery c) s = .next t ∧ (ctxAt t c).slot = rest
          ∧ (r.stops = true → h.c ∈ (ctxAt t c).handlers)
          ∧ tabGet [] (coreAt t h.c.core).queues cls = tabGet [] (coreAt s h.c.core).queues cls
              ++ [⟨ofWords r.words, headerFrom s c r.part cls, (coreAt s h.c.core).arrived⟩]))
    ∧ (∀ core entry th j, postedDue s core entry = some (th, j) →
      (entryRefusal s j = none → exec (.postedAck core entry) s = .next
        (modThreadCore (performPosted s th j) th (fun k => { k with journal := k.journal.filter (·.slot ≠ entry) }))
        ∧ (∀ a b, j.stq = none → j.bytes = [(.host a, b)] → tabGet 0 (performPosted s th j).hostMem a = b))
      ∧ (∀ cause, entryRefusal s j = some cause ∨ (ptrPath j.ptr = pathHOST ∧ cause = 0x06) →
          th.aside = none → ∃ s', exec (.postedRefusal core entry cause) s = .next (asyncRecord s' th.c
              { cls := clsRemoteRefused, cause := cause, addr := j.ptr, where_ := BitVec.ofNat 64 entry })
        ∧ SameMemory s s' ∧ SameRegs s s'))
    ∧ (∀ core seq j, jobAt s core seq = some j →
      (j.st = .queued → (∀ q ∈ earlierJobs s core seq, q.st ≠ .queued) → activeJobs s core < 32 →
        phasing (ctxAt s (jobOwner j)) = false → j.desc.handle = none → exec (.jobStart core seq) s = .next (settle (modJob s core seq (fun j => { j with st := .active }))))
      ∧ (jobRuns s core j = true → (runJob s core j).bad = none → j.desc.follow = none →
        let s' := modJob (wakeWatches (runJob s core j).st (runJob s core j).dsts) core seq (fun j =>
          { j with st := .completing, landed := true })
        exec (.jobLand core seq) s = .next (settle (writeImage (abandonDue s' core seq) core)))
      ∧ (j.st = .completing → followEntered s core j = true → earlierJobs s core seq = [] → j.desc.cw = none →
        exec (.jobComplete core seq) s = .next (settle (writeImage (dropJob s core j) core)))
      ∧ exec (.jobFault core seq) s = .next (settle (writeImage (abandonDue (faultJob s core j) core seq) core))
      ∧ (jobRuns s core j = true → ∀ e n, (runJob s core j).bad = some (e, n) → ∃ s' r, faultJob s core j = asyncRecord s' (jobOwner j) r
          ∧ r.cls = e.cls ∧ r.cause = e.cause ∧ r.addr = e.addr ∧ r.job = true))
    ∧ (∀ cluster d c, (((clusterAt s cluster).cards.filter (·.st = 1)).findSome? (fun d => (cardPlace s cluster d).map (fun t => (d, t))))
        = some (d, c) → fetchDue s cluster = none →
        exec (.cardDispatch cluster) s = .next (placeCard s cluster d c))
    ∧ (∀ (c : CtxId) d, (clusterAt s (clusterOf c.core)).cards.find? (fun d => d.st = 2 && d.target == some c) = some d →
      fetchesLeft d = [] → (∀ j ∈ (coreAt s c.core).jobs, j.card ≠ some d.num) →
      ∃ t, exec (.taskStart c) s = .next t ∧ (ctxAt t c).st = .running ∧ (ctxAt t c).next = d.words.getD 0 0
        ∧ (ctxAt t c).task = some d.num ∧ (ctxAt t c).rank = d.rank)
    ∧ (∀ core brick, exec (.matrixCommandStart core brick) s = .next (modCore s core (fun k => startCommand s k brick)))
    ∧ (∀ core brick n, let k := coreAt s core
      k.saving = false → (List.range k.mq.length).find? (fun n =>
        (k.mq[n]?).any (fun q => brickOf q.acc = brick && mayStart k (k.mq.take n) q && !phasing (ctxAt s q.owner))) = some n →
      exec (.matrixCommandStart core brick) s = .next (modCore s core (fun k =>
        { k with mq := listSet k.mq n (fun q => { q with started := true }) })))
    ∧ (∀ core brick q, (coreAt s core).mq.find? (fun q => q.started && brickOf q.acc = brick) = some q → ∃ s',
      exec (.matrixCommandFinish core brick) s = .next (settle (answerAccq s' core q.acc))
        ∧ ((q.cmd = .accClr ∨ ∃ m, q.cmd = .accInit m) → (accAt s' core q.acc).vals = [] ∧ (accAt s' core q.acc).e = 0)
        ∧ (∀ ta tb row col a b, q.cmd = .mmaToken ta tb row col a b → (accAt s' core q.acc).e = ((accAt s core q.acc).e + 1) % 2 ^ 16
            ∧ (accAt s' core q.acc).vals
                = mmaValues ta tb row col (tokenDepth ta) (tokenRows a) (tokenRows b) (accAt s core q.acc).vals))
    ∧ (∀ c n, exec (.collectiveComplete c n) s = .next (settle (endCollective s c n)))
    ∧ (∀ (c : CtxId) (n code : Nat) (ks : List Contribution) (q : Coll), (ctxAt s c).colls[n]? = some q → q.done = false →
      collOutcome s q = some (code, ks) →
      exec (.collectiveComplete c n) s
        = .next (settle ((ownMembers s q).foldl (fun s e => finishMember s e.1 e.2 code ks) s)))
end

