-- ==== Sys2Proof/Laws/Tables.lean ====
section
/-! SUPPORT. The sparse tables: reading after writing, and the canonical form that every write keeps. -/

namespace Sys2Proof.Laws

open Sys2Proof Sys2Proof.Machine

variable {α : Type}

@[simp] theorem tabGet_nil (d : α) (k : Nat) : tabGet d [] k = d := rfl

@[simp] theorem tabGet_tabPut_self (d : α) (t : Tab α) (k : Nat) (v : α) : tabGet d (tabPut k v t) k = v := by
  induction t with
  | nil => simp [tabPut, tabGet]
  | cons e t ih =>
    unfold tabPut
    split
    · simp [tabGet]
    · split
      · simp [tabGet]
      · rename_i h
        simp [tabGet, h, ih]

theorem tabGet_tabPut_other (d : α) (t : Tab α) {k q : Nat} (v : α) (h : q ≠ k) :
    tabGet d (tabPut k v t) q = tabGet d t q := by
  have h' : ¬ k = q := fun e => h e.symm
  induction t with
  | nil => simp [tabPut, tabGet, h']
  | cons e t ih =>
    unfold tabPut
    split
    · simp [tabGet, h']
    · split
      · rename_i he
        simp [tabGet, h', he]
      · simp only [tabGet, ih]

theorem tabDel_cons (k : Nat) (e : Nat × α) (t : Tab α) :
    tabDel k (e :: t) = if e.1 = k then tabDel k t else e :: tabDel k t := by
  by_cases h : e.1 = k <;> simp [tabDel, h]

theorem tabGet_tabDel_self (d : α) (t : Tab α) (k : Nat) : tabGet d (tabDel k t) k = d := by
  induction t with
  | nil => rfl
  | cons e t ih =>
    rw [tabDel_cons]
    split
    · exact ih
    · rename_i h
      simpa [tabGet, h] using ih

theorem tabGet_tabDel_other (d : α) (t : Tab α) {k q : Nat} (h : q ≠ k) : tabGet d (tabDel k t) q = tabGet d t q := by
  induction t with
  | nil => rfl
  | cons e t ih =>
    rw [tabDel_cons]
    split
    · rename_i he
      have hq : ¬ e.1 = q := fun e' => h (e'.symm.trans he)
      simpa [tabGet, hq] using ih
    · simp only [tabGet, ih]

theorem mem_tabPut {k : Nat} {v : α} {t : Tab α} {q : Nat × α} (h : q ∈ tabPut k v t) : q = (k, v) ∨ q ∈ t := by
  induction t with
  | nil => simpa [tabPut] using h
  | cons e t ih =>
    unfold tabPut at h
    split at h
    · simpa using h
    · split at h
      · rcases List.mem_cons.mp h with h | h
        · exact .inl h
        · exact .inr (List.mem_cons_of_mem _ h)
      · rcases List.mem_cons.mp h with rfl | h
        · exact .inr (by simp)
        · exact (ih h).imp_right (List.mem_cons_of_mem _)

/-- What a table holds at a key is listed, or the default. -/
theorem tabGet_mem (d : α) (t : Tab α) (k : Nat) : tabGet d t k = d ∨ (k, tabGet d t k) ∈ t := by
  induction t with
  | nil => exact .inl rfl
  | cons e t ih =>
    unfold tabGet
    split
    · rename_i h
      exact .inr (by simp [← h])
    · exact ih.imp_right (List.mem_cons_of_mem _)

variable [DecidableEq α]

/-- A read of the key written gives the value written. -/
@[simp] theorem tabGet_tabSet_self (d : α) (t : Tab α) (k : Nat) (v : α) : tabGet d (tabSet d t k v) k = v := by
  unfold tabSet
  split
  · rename_i h
    rw [h, tabGet_tabDel_self]
  · exact tabGet_tabPut_self d t k v

/-- A write leaves every other key alone. -/
theorem tabGet_tabSet_other (d : α) (t : Tab α) {k q : Nat} (v : α) (h : q ≠ k) :
    tabGet d (tabSet d t k v) q = tabGet d t q := by
  unfold tabSet
  split
  · exact tabGet_tabDel_other d t h
  · exact tabGet_tabPut_other d t v h

theorem tabGet_tabSet (d : α) (t : Tab α) (k q : Nat) (v : α) :
    tabGet d (tabSet d t k v) q = if q = k then v else tabGet d t q := by
  split
  · rename_i h
    rw [h, tabGet_tabSet_self]
  · rename_i h
    exact tabGet_tabSet_other d t v h

/-! ## The canonical form -/

theorem tabCanon_tail {d : α} {e : Nat × α} {t : Tab α} (h : tabCanon d (e :: t) = true) : tabCanon d t = true := by
  cases t with
  | nil => rfl
  | cons e' t => simp only [tabCanon, Bool.and_eq_true] at h; exact h.2

theorem tabCanon_head {d : α} {e : Nat × α} {t : Tab α} (h : tabCanon d (e :: t) = true) : e.2 ≠ d := by
  cases t with
  | nil => simpa [tabCanon] using h
  | cons e' t => simp only [tabCanon, Bool.and_eq_true, decide_eq_true_eq] at h; exact h.1.1

/-- In a canonical table every later key is greater. -/
theorem tabCanon_lt {d : α} {e : Nat × α} {t : Tab α} (h : tabCanon d (e :: t) = true) : ∀ q ∈ t, e.1 < q.1 := by
  induction t generalizing e with
  | nil => simp
  | cons e' t ih =>
    have h1 : e.1 < e'.1 := by
      simp only [tabCanon, Bool.and_eq_true, decide_eq_true_eq] at h
      exact h.1.2
    intro q hq
    rcases List.mem_cons.mp hq with rfl | hq
    · exact h1
    · exact lt_trans h1 (ih (tabCanon_tail h) q hq)

theorem tabCanon_cons {d : α} {e : Nat × α} {t : Tab α} (hd : e.2 ≠ d) (hl : ∀ q ∈ t, e.1 < q.1)
    (ht : tabCanon d t = true) : tabCanon d (e :: t) = true := by
  cases t with
  | nil => simpa [tabCanon] using hd
  | cons e' t =>
    simp only [tabCanon, Bool.and_eq_true, decide_eq_true_eq]
    exact ⟨⟨hd, hl e' (by simp)⟩, ht⟩

theorem tabCanon_tabPut {d : α} {t : Tab α} (k : Nat) {v : α} (hv : v ≠ d) (h : tabCanon d t = true) :
    tabCanon d (tabPut k v t) = true := by
  induction t with
  | nil => simpa [tabPut, tabCanon] using hv
  | cons e t ih =>
    unfold tabPut
    split
    · rename_i hk
      refine tabCanon_cons hv (fun q hq => ?_) h
      rcases List.mem_cons.mp hq with rfl | hq
      · exact hk
      · exact lt_trans hk (tabCanon_lt h q hq)
    · split
      · rename_i hk
        exact tabCanon_cons hv (fun q hq => hk ▸ tabCanon_lt h q hq) (tabCanon_tail h)
      · rename_i h1 h2
        refine tabCanon_cons (tabCanon_head h) (fun q hq => ?_) (ih (tabCanon_tail h))
        rcases mem_tabPut hq with rfl | hq
        · simp only
          omega
        · exact tabCanon_lt h q hq

theorem tabCanon_filter {d : α} {t : Tab α} (p : Nat × α → Bool) (h : tabCanon d t = true) :
    tabCanon d (t.filter p) = true := by
  induction t with
  | nil => rfl
  | cons e t ih =>
    have ht := ih (tabCanon_tail h)
    by_cases hp : p e
    · rw [List.filter_cons_of_pos hp]
      exact tabCanon_cons (tabCanon_head h) (fun q hq => tabCanon_lt h q (List.mem_filter.mp hq).1) ht
    · rwa [List.filter_cons_of_neg hp]

/-- A write keeps the canonical form. -/
theorem tabCanon_tabSet {d : α} {t : Tab α} (k : Nat) (v : α) (h : tabCanon d t = true) :
    tabCanon d (tabSet d t k v) = true := by
  unfold tabSet
  split
  · exact tabCanon_filter _ h
  · rename_i hv
    exact tabCanon_tabPut k hv h

/-- A fold of writes keeps the canonical form. -/
theorem tabCanon_foldl {β : Type} {d : α} (l : List β) (f : Tab α → β → Tab α)
    (hf : ∀ t b, tabCanon d t = true → tabCanon d (f t b) = true) {t : Tab α} (h : tabCanon d t = true) :
    tabCanon d (l.foldl f t) = true := by
  induction l generalizing t with
  | nil => exact h
  | cons b l ih => exact ih (hf t b h)

theorem mem_tabSet {d : α} {k : Nat} {v : α} {t : Tab α} {q : Nat × α} (h : q ∈ tabSet d t k v) :
    q = (k, v) ∨ q ∈ t := by
  unfold tabSet at h
  split at h
  · exact .inr (List.mem_filter.mp h).1
  · exact mem_tabPut h

end Sys2Proof.Laws
end

