-- ==== Sys2Proof/Laws/State.lean ====
section
/-! SUPPORT. What each named update of the state leaves alone, field by field, and what a read gives after a write of
the same place and of another. -/

namespace Sys2Proof.Laws

open Sys2Proof Sys2Proof.Machine

/-! ### setCore -/

@[simp] theorem setCore_clusters (s : State) (n : Nat) (k : Core) : (setCore s n k).clusters = s.clusters := rfl
@[simp] theorem setCore_dies (s : State) (n : Nat) (k : Core) : (setCore s n k).dies = s.dies := rfl
@[simp] theorem setCore_hbm (s : State) (n : Nat) (k : Core) : (setCore s n k).hbm = s.hbm := rfl
@[simp] theorem setCore_l2 (s : State) (n : Nat) (k : Core) : (setCore s n k).l2 = s.l2 := rfl
@[simp] theorem setCore_poison (s : State) (n : Nat) (k : Core) : (setCore s n k).poison = s.poison := rfl
@[simp] theorem setCore_hostMem (s : State) (n : Nat) (k : Core) : (setCore s n k).hostMem = s.hostMem := rfl
@[simp] theorem setCore_iommu (s : State) (n : Nat) (k : Core) : (setCore s n k).iommu = s.iommu := rfl
@[simp] theorem setCore_ats (s : State) (n : Nat) (k : Core) : (setCore s n k).ats = s.ats := rfl
@[simp] theorem setCore_remotes (s : State) (n : Nat) (k : Core) : (setCore s n k).remotes = s.remotes := rfl
@[simp] theorem setCore_rcQueue (s : State) (n : Nat) (k : Core) : (setCore s n k).rcQueue = s.rcQueue := rfl
@[simp] theorem setCore_devWrites (s : State) (n : Nat) (k : Core) : (setCore s n k).devWrites = s.devWrites := rfl
@[simp] theorem setCore_kiln (s : State) (n : Nat) (k : Core) : (setCore s n k).kiln = s.kiln := rfl
@[simp] theorem setCore_pkg (s : State) (n : Nat) (k : Core) : (setCore s n k).pkg = s.pkg := rfl
@[simp] theorem setCore_agenda (s : State) (n : Nat) (k : Core) : (setCore s n k).agenda = s.agenda := rfl
@[simp] theorem setCore_focus (s : State) (n : Nat) (k : Core) : (setCore s n k).focus = s.focus := rfl
@[simp] theorem setCore_freeCounter (s : State) (n : Nat) (k : Core) : (setCore s n k).freeCounter = s.freeCounter := rfl

/-! ### modCore -/

@[simp] theorem modCore_clusters (s : State) (n : Nat) (f : Core → Core) : (modCore s n f).clusters = s.clusters := rfl
@[simp] theorem modCore_dies (s : State) (n : Nat) (f : Core → Core) : (modCore s n f).dies = s.dies := rfl
@[simp] theorem modCore_hbm (s : State) (n : Nat) (f : Core → Core) : (modCore s n f).hbm = s.hbm := rfl
@[simp] theorem modCore_l2 (s : State) (n : Nat) (f : Core → Core) : (modCore s n f).l2 = s.l2 := rfl
@[simp] theorem modCore_poison (s : State) (n : Nat) (f : Core → Core) : (modCore s n f).poison = s.poison := rfl
@[simp] theorem modCore_hostMem (s : State) (n : Nat) (f : Core → Core) : (modCore s n f).hostMem = s.hostMem := rfl
@[simp] theorem modCore_iommu (s : State) (n : Nat) (f : Core → Core) : (modCore s n f).iommu = s.iommu := rfl
@[simp] theorem modCore_ats (s : State) (n : Nat) (f : Core → Core) : (modCore s n f).ats = s.ats := rfl
@[simp] theorem modCore_remotes (s : State) (n : Nat) (f : Core → Core) : (modCore s n f).remotes = s.remotes := rfl
@[simp] theorem modCore_rcQueue (s : State) (n : Nat) (f : Core → Core) : (modCore s n f).rcQueue = s.rcQueue := rfl
@[simp] theorem modCore_devWrites (s : State) (n : Nat) (f : Core → Core) : (modCore s n f).devWrites = s.devWrites := rfl
@[simp] theorem modCore_kiln (s : State) (n : Nat) (f : Core → Core) : (modCore s n f).kiln = s.kiln := rfl
@[simp] theorem modCore_pkg (s : State) (n : Nat) (f : Core → Core) : (modCore s n f).pkg = s.pkg := rfl
@[simp] theorem modCore_agenda (s : State) (n : Nat) (f : Core → Core) : (modCore s n f).agenda = s.agenda := rfl
@[simp] theorem modCore_focus (s : State) (n : Nat) (f : Core → Core) : (modCore s n f).focus = s.focus := rfl
@[simp] theorem modCore_freeCounter (s : State) (n : Nat) (f : Core → Core) : (modCore s n f).freeCounter = s.freeCounter := rfl

/-! ### setCtx -/

@[simp] theorem setCtx_clusters (s : State) (c : CtxId) (x : Ctx) : (setCtx s c x).clusters = s.clusters := rfl
@[simp] theorem setCtx_dies (s : State) (c : CtxId) (x : Ctx) : (setCtx s c x).dies = s.dies := rfl
@[simp] theorem setCtx_hbm (s : State) (c : CtxId) (x : Ctx) : (setCtx s c x).hbm = s.hbm := rfl
@[simp] theorem setCtx_l2 (s : State) (c : CtxId) (x : Ctx) : (setCtx s c x).l2 = s.l2 := rfl
@[simp] theorem setCtx_poison (s : State) (c : CtxId) (x : Ctx) : (setCtx s c x).poison = s.poison := rfl
@[simp] theorem setCtx_hostMem (s : State) (c : CtxId) (x : Ctx) : (setCtx s c x).hostMem = s.hostMem := rfl
@[simp] theorem setCtx_iommu (s : State) (c : CtxId) (x : Ctx) : (setCtx s c x).iommu = s.iommu := rfl
@[simp] theorem setCtx_ats (s : State) (c : CtxId) (x : Ctx) : (setCtx s c x).ats = s.ats := rfl
@[simp] theorem setCtx_remotes (s : State) (c : CtxId) (x : Ctx) : (setCtx s c x).remotes = s.remotes := rfl
@[simp] theorem setCtx_rcQueue (s : State) (c : CtxId) (x : Ctx) : (setCtx s c x).rcQueue = s.rcQueue := rfl
@[simp] theorem setCtx_devWrites (s : State) (c : CtxId) (x : Ctx) : (setCtx s c x).devWrites = s.devWrites := rfl
@[simp] theorem setCtx_kiln (s : State) (c : CtxId) (x : Ctx) : (setCtx s c x).kiln = s.kiln := rfl
@[simp] theorem setCtx_pkg (s : State) (c : CtxId) (x : Ctx) : (setCtx s c x).pkg = s.pkg := rfl
@[simp] theorem setCtx_agenda (s : State) (c : CtxId) (x : Ctx) : (setCtx s c x).agenda = s.agenda := rfl
@[simp] theorem setCtx_focus (s : State) (c : CtxId) (x : Ctx) : (setCtx s c x).focus = s.focus := rfl
@[simp] theorem setCtx_freeCounter (s : State) (c : CtxId) (x : Ctx) : (setCtx s c x).freeCounter = s.freeCounter := rfl

/-! ### modCtx -/

@[simp] theorem modCtx_clusters (s : State) (c : CtxId) (f : Ctx → Ctx) : (modCtx s c f).clusters = s.clusters := rfl
@[simp] theorem modCtx_dies (s : State) (c : CtxId) (f : Ctx → Ctx) : (modCtx s c f).dies = s.dies := rfl
@[simp] theorem modCtx_hbm (s : State) (c : CtxId) (f : Ctx → Ctx) : (modCtx s c f).hbm = s.hbm := rfl
@[simp] theorem modCtx_l2 (s : State) (c : CtxId) (f : Ctx → Ctx) : (modCtx s c f).l2 = s.l2 := rfl
@[simp] theorem modCtx_poison (s : State) (c : CtxId) (f : Ctx → Ctx) : (modCtx s c f).poison = s.poison := rfl
@[simp] theorem modCtx_hostMem (s : State) (c : CtxId) (f : Ctx → Ctx) : (modCtx s c f).hostMem = s.hostMem := rfl
@[simp] theorem modCtx_iommu (s : State) (c : CtxId) (f : Ctx → Ctx) : (modCtx s c f).iommu = s.iommu := rfl
@[simp] theorem modCtx_ats (s : State) (c : CtxId) (f : Ctx → Ctx) : (modCtx s c f).ats = s.ats := rfl
@[simp] theorem modCtx_remotes (s : State) (c : CtxId) (f : Ctx → Ctx) : (modCtx s c f).remotes = s.remotes := rfl
@[simp] theorem modCtx_rcQueue (s : State) (c : CtxId) (f : Ctx → Ctx) : (modCtx s c f).rcQueue = s.rcQueue := rfl
@[simp] theorem modCtx_devWrites (s : State) (c : CtxId) (f : Ctx → Ctx) : (modCtx s c f).devWrites = s.devWrites := rfl
@[simp] theorem modCtx_kiln (s : State) (c : CtxId) (f : Ctx → Ctx) : (modCtx s c f).kiln = s.kiln := rfl
@[simp] theorem modCtx_pkg (s : State) (c : CtxId) (f : Ctx → Ctx) : (modCtx s c f).pkg = s.pkg := rfl
@[simp] theorem modCtx_agenda (s : State) (c : CtxId) (f : Ctx → Ctx) : (modCtx s c f).agenda = s.agenda := rfl
@[simp] theorem modCtx_focus (s : State) (c : CtxId) (f : Ctx → Ctx) : (modCtx s c f).focus = s.focus := rfl
@[simp] theorem modCtx_freeCounter (s : State) (c : CtxId) (f : Ctx → Ctx) : (modCtx s c f).freeCounter = s.freeCounter := rfl

/-! ### modFrame -/

@[simp] theorem modFrame_clusters (s : State) (c : CtxId) (n : Nat) (f : Frame → Frame) : (modFrame s c n f).clusters = s.clusters := rfl
@[simp] theorem modFrame_dies (s : State) (c : CtxId) (n : Nat) (f : Frame → Frame) : (modFrame s c n f).dies = s.dies := rfl
@[simp] theorem modFrame_hbm (s : State) (c : CtxId) (n : Nat) (f : Frame → Frame) : (modFrame s c n f).hbm = s.hbm := rfl
@[simp] theorem modFrame_l2 (s : State) (c : CtxId) (n : Nat) (f : Frame → Frame) : (modFrame s c n f).l2 = s.l2 := rfl
@[simp] theorem modFrame_poison (s : State) (c : CtxId) (n : Nat) (f : Frame → Frame) : (modFrame s c n f).poison = s.poison := rfl
@[simp] theorem modFrame_hostMem (s : State) (c : CtxId) (n : Nat) (f : Frame → Frame) : (modFrame s c n f).hostMem = s.hostMem := rfl
@[simp] theorem modFrame_iommu (s : State) (c : CtxId) (n : Nat) (f : Frame → Frame) : (modFrame s c n f).iommu = s.iommu := rfl
@[simp] theorem modFrame_ats (s : State) (c : CtxId) (n : Nat) (f : Frame → Frame) : (modFrame s c n f).ats = s.ats := rfl
@[simp] theorem modFrame_remotes (s : State) (c : CtxId) (n : Nat) (f : Frame → Frame) : (modFrame s c n f).remotes = s.remotes := rfl
@[simp] theorem modFrame_rcQueue (s : State) (c : CtxId) (n : Nat) (f : Frame → Frame) : (modFrame s c n f).rcQueue = s.rcQueue := rfl
@[simp] theorem modFrame_devWrites (s : State) (c : CtxId) (n : Nat) (f : Frame → Frame) : (modFrame s c n f).devWrites = s.devWrites := rfl
@[simp] theorem modFrame_kiln (s : State) (c : CtxId) (n : Nat) (f : Frame → Frame) : (modFrame s c n f).kiln = s.kiln := rfl
@[simp] theorem modFrame_pkg (s : State) (c : CtxId) (n : Nat) (f : Frame → Frame) : (modFrame s c n f).pkg = s.pkg := rfl
@[simp] theorem modFrame_agenda (s : State) (c : CtxId) (n : Nat) (f : Frame → Frame) : (modFrame s c n f).agenda = s.agenda := rfl
@[simp] theorem modFrame_focus (s : State) (c : CtxId) (n : Nat) (f : Frame → Frame) : (modFrame s c n f).focus = s.focus := rfl
@[simp] theorem modFrame_freeCounter (s : State) (c : CtxId) (n : Nat) (f : Frame → Frame) : (modFrame s c n f).freeCounter = s.freeCounter := rfl

/-! ### modDie -/

@[simp] theorem modDie_cores (s : State) (n : Nat) (f : Die → Die) : (modDie s n f).cores = s.cores := rfl
@[simp] theorem modDie_clusters (s : State) (n : Nat) (f : Die → Die) : (modDie s n f).clusters = s.clusters := rfl
@[simp] theorem modDie_hbm (s : State) (n : Nat) (f : Die → Die) : (modDie s n f).hbm = s.hbm := rfl
@[simp] theorem modDie_l2 (s : State) (n : Nat) (f : Die → Die) : (modDie s n f).l2 = s.l2 := rfl
@[simp] theorem modDie_poison (s : State) (n : Nat) (f : Die → Die) : (modDie s n f).poison = s.poison := rfl
@[simp] theorem modDie_hostMem (s : State) (n : Nat) (f : Die → Die) : (modDie s n f).hostMem = s.hostMem := rfl
@[simp] theorem modDie_iommu (s : State) (n : Nat) (f : Die → Die) : (modDie s n f).iommu = s.iommu := rfl
@[simp] theorem modDie_ats (s : State) (n : Nat) (f : Die → Die) : (modDie s n f).ats = s.ats := rfl
@[simp] theorem modDie_remotes (s : State) (n : Nat) (f : Die → Die) : (modDie s n f).remotes = s.remotes := rfl
@[simp] theorem modDie_rcQueue (s : State) (n : Nat) (f : Die → Die) : (modDie s n f).rcQueue = s.rcQueue := rfl
@[simp] theorem modDie_devWrites (s : State) (n : Nat) (f : Die → Die) : (modDie s n f).devWrites = s.devWrites := rfl
@[simp] theorem modDie_kiln (s : State) (n : Nat) (f : Die → Die) : (modDie s n f).kiln = s.kiln := rfl
@[simp] theorem modDie_pkg (s : State) (n : Nat) (f : Die → Die) : (modDie s n f).pkg = s.pkg := rfl
@[simp] theorem modDie_agenda (s : State) (n : Nat) (f : Die → Die) : (modDie s n f).agenda = s.agenda := rfl
@[simp] theorem modDie_focus (s : State) (n : Nat) (f : Die → Die) : (modDie s n f).focus = s.focus := rfl
@[simp] theorem modDie_freeCounter (s : State) (n : Nat) (f : Die → Die) : (modDie s n f).freeCounter = s.freeCounter := rfl

/-! ### modPart -/

@[simp] theorem modPart_cores (s : State) (d p : Nat) (f : Part → Part) : (modPart s d p f).cores = s.cores := rfl
@[simp] theorem modPart_clusters (s : State) (d p : Nat) (f : Part → Part) : (modPart s d p f).clusters = s.clusters := rfl
@[simp] theorem modPart_hbm (s : State) (d p : Nat) (f : Part → Part) : (modPart s d p f).hbm = s.hbm := rfl
@[simp] theorem modPart_l2 (s : State) (d p : Nat) (f : Part → Part) : (modPart s d p f).l2 = s.l2 := rfl
@[simp] theorem modPart_poison (s : State) (d p : Nat) (f : Part → Part) : (modPart s d p f).poison = s.poison := rfl
@[simp] theorem modPart_hostMem (s : State) (d p : Nat) (f : Part → Part) : (modPart s d p f).hostMem = s.hostMem := rfl
@[simp] theorem modPart_iommu (s : State) (d p : Nat) (f : Part → Part) : (modPart s d p f).iommu = s.iommu := rfl
@[simp] theorem modPart_ats (s : State) (d p : Nat) (f : Part → Part) : (modPart s d p f).ats = s.ats := rfl
@[simp] theorem modPart_remotes (s : State) (d p : Nat) (f : Part → Part) : (modPart s d p f).remotes = s.remotes := rfl
@[simp] theorem modPart_rcQueue (s : State) (d p : Nat) (f : Part → Part) : (modPart s d p f).rcQueue = s.rcQueue := rfl
@[simp] theorem modPart_devWrites (s : State) (d p : Nat) (f : Part → Part) : (modPart s d p f).devWrites = s.devWrites := rfl
@[simp] theorem modPart_kiln (s : State) (d p : Nat) (f : Part → Part) : (modPart s d p f).kiln = s.kiln := rfl
@[simp] theorem modPart_pkg (s : State) (d p : Nat) (f : Part → Part) : (modPart s d p f).pkg = s.pkg := rfl
@[simp] theorem modPart_agenda (s : State) (d p : Nat) (f : Part → Part) : (modPart s d p f).agenda = s.agenda := rfl
@[simp] theorem modPart_focus (s : State) (d p : Nat) (f : Part → Part) : (modPart s d p f).focus = s.focus := rfl
@[simp] theorem modPart_freeCounter (s : State) (d p : Nat) (f : Part → Part) : (modPart s d p f).freeCounter = s.freeCounter := rfl

/-! ### modPartOf -/

@[simp] theorem modPartOf_cores (s : State) (c : CtxId) (f : Part → Part) : (modPartOf s c f).cores = s.cores := rfl
@[simp] theorem modPartOf_clusters (s : State) (c : CtxId) (f : Part → Part) : (modPartOf s c f).clusters = s.clusters := rfl
@[simp] theorem modPartOf_hbm (s : State) (c : CtxId) (f : Part → Part) : (modPartOf s c f).hbm = s.hbm := rfl
@[simp] theorem modPartOf_l2 (s : State) (c : CtxId) (f : Part → Part) : (modPartOf s c f).l2 = s.l2 := rfl
@[simp] theorem modPartOf_poison (s : State) (c : CtxId) (f : Part → Part) : (modPartOf s c f).poison = s.poison := rfl
@[simp] theorem modPartOf_hostMem (s : State) (c : CtxId) (f : Part → Part) : (modPartOf s c f).hostMem = s.hostMem := rfl
@[simp] theorem modPartOf_iommu (s : State) (c : CtxId) (f : Part → Part) : (modPartOf s c f).iommu = s.iommu := rfl
@[simp] theorem modPartOf_ats (s : State) (c : CtxId) (f : Part → Part) : (modPartOf s c f).ats = s.ats := rfl
@[simp] theorem modPartOf_remotes (s : State) (c : CtxId) (f : Part → Part) : (modPartOf s c f).remotes = s.remotes := rfl
@[simp] theorem modPartOf_rcQueue (s : State) (c : CtxId) (f : Part → Part) : (modPartOf s c f).rcQueue = s.rcQueue := rfl
@[simp] theorem modPartOf_devWrites (s : State) (c : CtxId) (f : Part → Part) : (modPartOf s c f).devWrites = s.devWrites := rfl
@[simp] theorem modPartOf_kiln (s : State) (c : CtxId) (f : Part → Part) : (modPartOf s c f).kiln = s.kiln := rfl
@[simp] theorem modPartOf_pkg (s : State) (c : CtxId) (f : Part → Part) : (modPartOf s c f).pkg = s.pkg := rfl
@[simp] theorem modPartOf_agenda (s : State) (c : CtxId) (f : Part → Part) : (modPartOf s c f).agenda = s.agenda := rfl
@[simp] theorem modPartOf_focus (s : State) (c : CtxId) (f : Part → Part) : (modPartOf s c f).focus = s.focus := rfl
@[simp] theorem modPartOf_freeCounter (s : State) (c : CtxId) (f : Part → Part) : (modPartOf s c f).freeCounter = s.freeCounter := rfl

/-! ### modCluster -/

@[simp] theorem modCluster_cores (s : State) (n : Nat) (f : Cluster → Cluster) : (modCluster s n f).cores = s.cores := rfl
@[simp] theorem modCluster_dies (s : State) (n : Nat) (f : Cluster → Cluster) : (modCluster s n f).dies = s.dies := rfl
@[simp] theorem modCluster_hbm (s : State) (n : Nat) (f : Cluster → Cluster) : (modCluster s n f).hbm = s.hbm := rfl
@[simp] theorem modCluster_l2 (s : State) (n : Nat) (f : Cluster → Cluster) : (modCluster s n f).l2 = s.l2 := rfl
@[simp] theorem modCluster_poison (s : State) (n : Nat) (f : Cluster → Cluster) : (modCluster s n f).poison = s.poison := rfl
@[simp] theorem modCluster_hostMem (s : State) (n : Nat) (f : Cluster → Cluster) : (modCluster s n f).hostMem = s.hostMem := rfl
@[simp] theorem modCluster_iommu (s : State) (n : Nat) (f : Cluster → Cluster) : (modCluster s n f).iommu = s.iommu := rfl
@[simp] theorem modCluster_ats (s : State) (n : Nat) (f : Cluster → Cluster) : (modCluster s n f).ats = s.ats := rfl
@[simp] theorem modCluster_remotes (s : State) (n : Nat) (f : Cluster → Cluster) : (modCluster s n f).remotes = s.remotes := rfl
@[simp] theorem modCluster_rcQueue (s : State) (n : Nat) (f : Cluster → Cluster) : (modCluster s n f).rcQueue = s.rcQueue := rfl
@[simp] theorem modCluster_devWrites (s : State) (n : Nat) (f : Cluster → Cluster) : (modCluster s n f).devWrites = s.devWrites := rfl
@[simp] theorem modCluster_kiln (s : State) (n : Nat) (f : Cluster → Cluster) : (modCluster s n f).kiln = s.kiln := rfl
@[simp] theorem modCluster_pkg (s : State) (n : Nat) (f : Cluster → Cluster) : (modCluster s n f).pkg = s.pkg := rfl
@[simp] theorem modCluster_agenda (s : State) (n : Nat) (f : Cluster → Cluster) : (modCluster s n f).agenda = s.agenda := rfl
@[simp] theorem modCluster_focus (s : State) (n : Nat) (f : Cluster → Cluster) : (modCluster s n f).focus = s.focus := rfl
@[simp] theorem modCluster_freeCounter (s : State) (n : Nat) (f : Cluster → Cluster) : (modCluster s n f).freeCounter = s.freeCounter := rfl

/-! ### modL2 -/

@[simp] theorem modL2_cores (s : State) (n : Nat) (f : L2Line → L2Line) : (modL2 s n f).cores = s.cores := rfl
@[simp] theorem modL2_clusters (s : State) (n : Nat) (f : L2Line → L2Line) : (modL2 s n f).clusters = s.clusters := rfl
@[simp] theorem modL2_dies (s : State) (n : Nat) (f : L2Line → L2Line) : (modL2 s n f).dies = s.dies := rfl
@[simp] theorem modL2_hbm (s : State) (n : Nat) (f : L2Line → L2Line) : (modL2 s n f).hbm = s.hbm := rfl
@[simp] theorem modL2_poison (s : State) (n : Nat) (f : L2Line → L2Line) : (modL2 s n f).poison = s.poison := rfl
@[simp] theorem modL2_hostMem (s : State) (n : Nat) (f : L2Line → L2Line) : (modL2 s n f).hostMem = s.hostMem := rfl
@[simp] theorem modL2_iommu (s : State) (n : Nat) (f : L2Line → L2Line) : (modL2 s n f).iommu = s.iommu := rfl
@[simp] theorem modL2_ats (s : State) (n : Nat) (f : L2Line → L2Line) : (modL2 s n f).ats = s.ats := rfl
@[simp] theorem modL2_remotes (s : State) (n : Nat) (f : L2Line → L2Line) : (modL2 s n f).remotes = s.remotes := rfl
@[simp] theorem modL2_rcQueue (s : State) (n : Nat) (f : L2Line → L2Line) : (modL2 s n f).rcQueue = s.rcQueue := rfl
@[simp] theorem modL2_devWrites (s : State) (n : Nat) (f : L2Line → L2Line) : (modL2 s n f).devWrites = s.devWrites := rfl
@[simp] theorem modL2_kiln (s : State) (n : Nat) (f : L2Line → L2Line) : (modL2 s n f).kiln = s.kiln := rfl
@[simp] theorem modL2_pkg (s : State) (n : Nat) (f : L2Line → L2Line) : (modL2 s n f).pkg = s.pkg := rfl
@[simp] theorem modL2_agenda (s : State) (n : Nat) (f : L2Line → L2Line) : (modL2 s n f).agenda = s.agenda := rfl
@[simp] theorem modL2_focus (s : State) (n : Nat) (f : L2Line → L2Line) : (modL2 s n f).focus = s.focus := rfl
@[simp] theorem modL2_freeCounter (s : State) (n : Nat) (f : L2Line → L2Line) : (modL2 s n f).freeCounter = s.freeCounter := rfl

/-! ### modThread, where a thread stands on a core or aside -/

@[simp] theorem modThreadCore_clusters (s : State) (t : Thread) (f : Core → Core) : (modThreadCore s t f).clusters = s.clusters := by
  unfold modThreadCore
  split <;> rfl

@[simp] theorem modThread_clusters (s : State) (t : Thread) (f : Ctx → Ctx) : (modThread s t f).clusters = s.clusters := modThreadCore_clusters _ _ _

@[simp] theorem modThreadCore_hbm (s : State) (t : Thread) (f : Core → Core) : (modThreadCore s t f).hbm = s.hbm := by
  unfold modThreadCore
  split <;> rfl

@[simp] theorem modThread_hbm (s : State) (t : Thread) (f : Ctx → Ctx) : (modThread s t f).hbm = s.hbm := modThreadCore_hbm _ _ _

@[simp] theorem modThreadCore_l2 (s : State) (t : Thread) (f : Core → Core) : (modThreadCore s t f).l2 = s.l2 := by
  unfold modThreadCore
  split <;> rfl

@[simp] theorem modThread_l2 (s : State) (t : Thread) (f : Ctx → Ctx) : (modThread s t f).l2 = s.l2 := modThreadCore_l2 _ _ _

@[simp] theorem modThreadCore_poison (s : State) (t : Thread) (f : Core → Core) : (modThreadCore s t f).poison = s.poison := by
  unfold modThreadCore
  split <;> rfl

@[simp] theorem modThread_poison (s : State) (t : Thread) (f : Ctx → Ctx) : (modThread s t f).poison = s.poison := modThreadCore_poison _ _ _

@[simp] theorem modThreadCore_hostMem (s : State) (t : Thread) (f : Core → Core) : (modThreadCore s t f).hostMem = s.hostMem := by
  unfold modThreadCore
  split <;> rfl

@[simp] theorem modThread_hostMem (s : State) (t : Thread) (f : Ctx → Ctx) : (modThread s t f).hostMem = s.hostMem := modThreadCore_hostMem _ _ _

@[simp] theorem modThreadCore_iommu (s : State) (t : Thread) (f : Core → Core) : (modThreadCore s t f).iommu = s.iommu := by
  unfold modThreadCore
  split <;> rfl

@[simp] theorem modThread_iommu (s : State) (t : Thread) (f : Ctx → Ctx) : (modThread s t f).iommu = s.iommu := modThreadCore_iommu _ _ _

@[simp] theorem modThreadCore_ats (s : State) (t : Thread) (f : Core → Core) : (modThreadCore s t f).ats = s.ats := by
  unfold modThreadCore
  split <;> rfl

@[simp] theorem modThread_ats (s : State) (t : Thread) (f : Ctx → Ctx) : (modThread s t f).ats = s.ats := modThreadCore_ats _ _ _

@[simp] theorem modThreadCore_remotes (s : State) (t : Thread) (f : Core → Core) : (modThreadCore s t f).remotes = s.remotes := by
  unfold modThreadCore
  split <;> rfl

@[simp] theorem modThread_remotes (s : State) (t : Thread) (f : Ctx → Ctx) : (modThread s t f).remotes = s.remotes := modThreadCore_remotes _ _ _

@[simp] theorem modThreadCore_rcQueue (s : State) (t : Thread) (f : Core → Core) : (modThreadCore s t f).rcQueue = s.rcQueue := by
  unfold modThreadCore
  split <;> rfl

@[simp] theorem modThread_rcQueue (s : State) (t : Thread) (f : Ctx → Ctx) : (modThread s t f).rcQueue = s.rcQueue := modThreadCore_rcQueue _ _ _

@[simp] theorem modThreadCore_devWrites (s : State) (t : Thread) (f : Core → Core) : (modThreadCore s t f).devWrites = s.devWrites := by
  unfold modThreadCore
  split <;> rfl

@[simp] theorem modThread_devWrites (s : State) (t : Thread) (f : Ctx → Ctx) : (modThread s t f).devWrites = s.devWrites := modThreadCore_devWrites _ _ _

@[simp] theorem modThreadCore_kiln (s : State) (t : Thread) (f : Core → Core) : (modThreadCore s t f).kiln = s.kiln := by
  unfold modThreadCore
  split <;> rfl

@[simp] theorem modThread_kiln (s : State) (t : Thread) (f : Ctx → Ctx) : (modThread s t f).kiln = s.kiln := modThreadCore_kiln _ _ _

@[simp] theorem modThreadCore_pkg (s : State) (t : Thread) (f : Core → Core) : (modThreadCore s t f).pkg = s.pkg := by
  unfold modThreadCore
  split <;> rfl

@[simp] theorem modThread_pkg (s : State) (t : Thread) (f : Ctx → Ctx) : (modThread s t f).pkg = s.pkg := modThreadCore_pkg _ _ _

@[simp] theorem modThreadCore_agenda (s : State) (t : Thread) (f : Core → Core) : (modThreadCore s t f).agenda = s.agenda := by
  unfold modThreadCore
  split <;> rfl

@[simp] theorem modThread_agenda (s : State) (t : Thread) (f : Ctx → Ctx) : (modThread s t f).agenda = s.agenda := modThreadCore_agenda _ _ _

@[simp] theorem modThreadCore_focus (s : State) (t : Thread) (f : Core → Core) : (modThreadCore s t f).focus = s.focus := by
  unfold modThreadCore
  split <;> rfl

@[simp] theorem modThread_focus (s : State) (t : Thread) (f : Ctx → Ctx) : (modThread s t f).focus = s.focus := modThreadCore_focus _ _ _

@[simp] theorem modThreadCore_freeCounter (s : State) (t : Thread) (f : Core → Core) : (modThreadCore s t f).freeCounter = s.freeCounter := by
  unfold modThreadCore
  split <;> rfl

@[simp] theorem modThread_freeCounter (s : State) (t : Thread) (f : Ctx → Ctx) : (modThread s t f).freeCounter = s.freeCounter := modThreadCore_freeCounter _ _ _

/-! ### Views across updates of another part -/

@[simp] theorem dieAt_setCore (s : State) (n : Nat) (k : Core) (q : Nat) : dieAt (setCore s n k) q = dieAt s q := rfl
@[simp] theorem partAt_setCore (s : State) (n : Nat) (k : Core) (q r : Nat) : partAt (setCore s n k) q r = partAt s q r := rfl
@[simp] theorem clusterAt_setCore (s : State) (n : Nat) (k : Core) (q : Nat) : clusterAt (setCore s n k) q = clusterAt s q := rfl
@[simp] theorem l2At_setCore (s : State) (n : Nat) (k : Core) (q : Nat) : l2At (setCore s n k) q = l2At s q := rfl
@[simp] theorem dieAt_modCore (s : State) (n : Nat) (f : Core → Core) (q : Nat) : dieAt (modCore s n f) q = dieAt s q := rfl
@[simp] theorem partAt_modCore (s : State) (n : Nat) (f : Core → Core) (q r : Nat) : partAt (modCore s n f) q r = partAt s q r := rfl
@[simp] theorem clusterAt_modCore (s : State) (n : Nat) (f : Core → Core) (q : Nat) : clusterAt (modCore s n f) q = clusterAt s q := rfl
@[simp] theorem l2At_modCore (s : State) (n : Nat) (f : Core → Core) (q : Nat) : l2At (modCore s n f) q = l2At s q := rfl
@[simp] theorem dieAt_setCtx (s : State) (c : CtxId) (x : Ctx) (q : Nat) : dieAt (setCtx s c x) q = dieAt s q := rfl
@[simp] theorem partAt_setCtx (s : State) (c : CtxId) (x : Ctx) (q r : Nat) : partAt (setCtx s c x) q r = partAt s q r := rfl
@[simp] theorem clusterAt_setCtx (s : State) (c : CtxId) (x : Ctx) (q : Nat) : clusterAt (setCtx s c x) q = clusterAt s q := rfl
@[simp] theorem l2At_setCtx (s : State) (c : CtxId) (x : Ctx) (q : Nat) : l2At (setCtx s c x) q = l2At s q := rfl
@[simp] theorem dieAt_modCtx (s : State) (c : CtxId) (f : Ctx → Ctx) (q : Nat) : dieAt (modCtx s c f) q = dieAt s q := rfl
@[simp] theorem partAt_modCtx (s : State) (c : CtxId) (f : Ctx → Ctx) (q r : Nat) : partAt (modCtx s c f) q r = partAt s q r := rfl
@[simp] theorem clusterAt_modCtx (s : State) (c : CtxId) (f : Ctx → Ctx) (q : Nat) : clusterAt (modCtx s c f) q = clusterAt s q := rfl
@[simp] theorem l2At_modCtx (s : State) (c : CtxId) (f : Ctx → Ctx) (q : Nat) : l2At (modCtx s c f) q = l2At s q := rfl
@[simp] theorem dieAt_modFrame (s : State) (c : CtxId) (n : Nat) (f : Frame → Frame) (q : Nat) : dieAt (modFrame s c n f) q = dieAt s q := rfl
@[simp] theorem partAt_modFrame (s : State) (c : CtxId) (n : Nat) (f : Frame → Frame) (q r : Nat) : partAt (modFrame s c n f) q r = partAt s q r := rfl
@[simp] theorem clusterAt_modFrame (s : State) (c : CtxId) (n : Nat) (f : Frame → Frame) (q : Nat) : clusterAt (modFrame s c n f) q = clusterAt s q := rfl
@[simp] theorem l2At_modFrame (s : State) (c : CtxId) (n : Nat) (f : Frame → Frame) (q : Nat) : l2At (modFrame s c n f) q = l2At s q := rfl
@[simp] theorem coreAt_modDie (s : State) (n : Nat) (f : Die → Die) (q : Nat) : coreAt (modDie s n f) q = coreAt s q := rfl
@[simp] theorem ctxAt_modDie (s : State) (n : Nat) (f : Die → Die) (q : CtxId) : ctxAt (modDie s n f) q = ctxAt s q := rfl
@[simp] theorem frameAt_modDie (s : State) (n : Nat) (f : Die → Die) (q : CtxId) (m : Nat) : frameAt (modDie s n f) q m = frameAt s q m := rfl
@[simp] theorem clusterAt_modDie (s : State) (n : Nat) (f : Die → Die) (q : Nat) : clusterAt (modDie s n f) q = clusterAt s q := rfl
@[simp] theorem l2At_modDie (s : State) (n : Nat) (f : Die → Die) (q : Nat) : l2At (modDie s n f) q = l2At s q := rfl
@[simp] theorem coreAt_modPart (s : State) (d p : Nat) (f : Part → Part) (q : Nat) : coreAt (modPart s d p f) q = coreAt s q := rfl
@[simp] theorem ctxAt_modPart (s : State) (d p : Nat) (f : Part → Part) (q : CtxId) : ctxAt (modPart s d p f) q = ctxAt s q := rfl
@[simp] theorem frameAt_modPart (s : State) (d p : Nat) (f : Part → Part) (q : CtxId) (m : Nat) : frameAt (modPart s d p f) q m = frameAt s q m := rfl
@[simp] theorem clusterAt_modPart (s : State) (d p : Nat) (f : Part → Part) (q : Nat) : clusterAt (modPart s d p f) q = clusterAt s q := rfl
@[simp] theorem l2At_modPart (s : State) (d p : Nat) (f : Part → Part) (q : Nat) : l2At (modPart s d p f) q = l2At s q := rfl
@[simp] theorem coreAt_modPartOf (s : State) (c : CtxId) (f : Part → Part) (q : Nat) : coreAt (modPartOf s c f) q = coreAt s q := rfl
@[simp] theorem ctxAt_modPartOf (s : State) (c : CtxId) (f : Part → Part) (q : CtxId) : ctxAt (modPartOf s c f) q = ctxAt s q := rfl
@[simp] theorem frameAt_modPartOf (s : State) (c : CtxId) (f : Part → Part) (q : CtxId) (m : Nat) : frameAt (modPartOf s c f) q m = frameAt s q m := rfl
@[simp] theorem clusterAt_modPartOf (s : State) (c : CtxId) (f : Part → Part) (q : Nat) : clusterAt (modPartOf s c f) q = clusterAt s q := rfl
@[simp] theorem l2At_modPartOf (s : State) (c : CtxId) (f : Part → Part) (q : Nat) : l2At (modPartOf s c f) q = l2At s q := rfl
@[simp] theorem coreAt_modCluster (s : State) (n : Nat) (f : Cluster → Cluster) (q : Nat) : coreAt (modCluster s n f) q = coreAt s q := rfl
@[simp] theorem ctxAt_modCluster (s : State) (n : Nat) (f : Cluster → Cluster) (q : CtxId) : ctxAt (modCluster s n f) q = ctxAt s q := rfl
@[simp] theorem frameAt_modCluster (s : State) (n : Nat) (f : Cluster → Cluster) (q : CtxId) (m : Nat) : frameAt (modCluster s n f) q m = frameAt s q m := rfl
@[simp] theorem dieAt_modCluster (s : State) (n : Nat) (f : Cluster → Cluster) (q : Nat) : dieAt (modCluster s n f) q = dieAt s q := rfl
@[simp] theorem partAt_modCluster (s : State) (n : Nat) (f : Cluster → Cluster) (q r : Nat) : partAt (modCluster s n f) q r = partAt s q r := rfl
@[simp] theorem l2At_modCluster (s : State) (n : Nat) (f : Cluster → Cluster) (q : Nat) : l2At (modCluster s n f) q = l2At s q := rfl
@[simp] theorem coreAt_modL2 (s : State) (n : Nat) (f : L2Line → L2Line) (q : Nat) : coreAt (modL2 s n f) q = coreAt s q := rfl
@[simp] theorem ctxAt_modL2 (s : State) (n : Nat) (f : L2Line → L2Line) (q : CtxId) : ctxAt (modL2 s n f) q = ctxAt s q := rfl
@[simp] theorem frameAt_modL2 (s : State) (n : Nat) (f : L2Line → L2Line) (q : CtxId) (m : Nat) : frameAt (modL2 s n f) q m = frameAt s q m := rfl
@[simp] theorem dieAt_modL2 (s : State) (n : Nat) (f : L2Line → L2Line) (q : Nat) : dieAt (modL2 s n f) q = dieAt s q := rfl
@[simp] theorem partAt_modL2 (s : State) (n : Nat) (f : L2Line → L2Line) (q r : Nat) : partAt (modL2 s n f) q r = partAt s q r := rfl
@[simp] theorem clusterAt_modL2 (s : State) (n : Nat) (f : L2Line → L2Line) (q : Nat) : clusterAt (modL2 s n f) q = clusterAt s q := rfl

/-! ### Reading after writing -/

@[simp] theorem coreAt_setCore_self (s : State) (n : Nat) (k : Core) : coreAt (setCore s n k) n = k := by
  simp [coreAt, setCore]

theorem coreAt_setCore_other (s : State) {n q : Nat} (k : Core) (h : q ≠ n) : coreAt (setCore s n k) q = coreAt s q :=
  tabGet_tabSet_other _ _ _ h

@[simp] theorem coreAt_modCore_self (s : State) (n : Nat) (f : Core → Core) : coreAt (modCore s n f) n = f (coreAt s n) :=
  coreAt_setCore_self _ _ _

theorem coreAt_modCore_other (s : State) {n q : Nat} (f : Core → Core) (h : q ≠ n) :
    coreAt (modCore s n f) q = coreAt s q :=
  coreAt_setCore_other _ _ h

theorem coreAt_modCore (s : State) (n q : Nat) (f : Core → Core) :
    coreAt (modCore s n f) q = if q = n then f (coreAt s n) else coreAt s q := by
  split
  · rename_i h
    rw [h, coreAt_modCore_self]
  · rename_i h
    exact coreAt_modCore_other s f h

/-- What an update of a context does to its core: the other fields stay. -/
theorem coreAt_setCtx (s : State) (c : CtxId) (x : Ctx) (q : Nat) :
    coreAt (setCtx s c x) q = { coreAt s q with ctxs := (coreAt (setCtx s c x) q).ctxs } := by
  unfold setCtx
  rw [coreAt_modCore]
  split
  · rename_i h
    rw [h]
  · rfl

theorem coreAt_modCtx (s : State) (c : CtxId) (f : Ctx → Ctx) (q : Nat) :
    coreAt (modCtx s c f) q = { coreAt s q with ctxs := (coreAt (modCtx s c f) q).ctxs } :=
  coreAt_setCtx _ _ _ _

@[simp] theorem ctxAt_setCtx_self (s : State) (c : CtxId) (x : Ctx) : ctxAt (setCtx s c x) c = x := by
  simp [ctxAt, setCtx, ctxIn]

theorem ctxAt_setCtx_other (s : State) {c q : CtxId} (x : Ctx) (h : q ≠ c) : ctxAt (setCtx s c x) q = ctxAt s q := by
  unfold ctxAt setCtx ctxIn
  rw [coreAt_modCore]
  split
  · rename_i hc
    have hq : q.ctx ≠ c.ctx := fun e => h (by cases q; cases c; simp_all)
    simp [tabGet_tabSet_other _ _ _ hq, hc]
  · rfl

@[simp] theorem ctxAt_modCtx_self (s : State) (c : CtxId) (f : Ctx → Ctx) : ctxAt (modCtx s c f) c = f (ctxAt s c) :=
  ctxAt_setCtx_self _ _ _

theorem ctxAt_modCtx_other (s : State) {c q : CtxId} (f : Ctx → Ctx) (h : q ≠ c) :
    ctxAt (modCtx s c f) q = ctxAt s q :=
  ctxAt_setCtx_other _ _ h

@[simp] theorem ctxAt_modFrame_self (s : State) (c : CtxId) (n : Nat) (f : Frame → Frame) :
    ctxAt (modFrame s c n f) c = { ctxAt s c with frames := listSet (ctxAt s c).frames n f } :=
  ctxAt_modCtx_self _ _ _

theorem ctxAt_modFrame_other (s : State) {c q : CtxId} (n : Nat) (f : Frame → Frame) (h : q ≠ c) :
    ctxAt (modFrame s c n f) q = ctxAt s q :=
  ctxAt_modCtx_other _ _ h

@[simp] theorem frameAt_modFrame_self (s : State) (c : CtxId) (n : Nat) (f : Frame → Frame) :
    frameAt (modFrame s c n f) c n = (frameAt s c n).map f := by
  simp [frameAt, listSet]

theorem frameAt_modFrame_other (s : State) (c : CtxId) {n m : Nat} (f : Frame → Frame) (h : m ≠ n) :
    frameAt (modFrame s c n f) c m = frameAt s c m := by
  simp [frameAt, listSet, h.symm]

@[simp] theorem dieAt_modDie_self (s : State) (n : Nat) (f : Die → Die) : dieAt (modDie s n f) n = f (dieAt s n) := by
  simp [dieAt, modDie]

theorem dieAt_modDie_other (s : State) {n q : Nat} (f : Die → Die) (h : q ≠ n) : dieAt (modDie s n f) q = dieAt s q :=
  tabGet_tabSet_other _ _ _ h

@[simp] theorem partAt_modPart_self (s : State) (d p : Nat) (f : Part → Part) :
    partAt (modPart s d p f) d p = f (partAt s d p) := by
  simp [partAt, modPart, partIn]

@[simp] theorem clusterAt_modCluster_self (s : State) (n : Nat) (f : Cluster → Cluster) :
    clusterAt (modCluster s n f) n = f (clusterAt s n) := by
  simp [clusterAt, modCluster]

@[simp] theorem l2At_modL2_self (s : State) (n : Nat) (f : L2Line → L2Line) : l2At (modL2 s n f) n = f (l2At s n) := by
  simp [l2At, modL2]

theorem l2At_modL2_other (s : State) {n q : Nat} (f : L2Line → L2Line) (h : q ≠ n) : l2At (modL2 s n f) q = l2At s q :=
  tabGet_tabSet_other _ _ _ h

end Sys2Proof.Laws
end

