-- ==== Sys2Proof/Laws/Fire.lean ====
section
/-! SUPPORT. What a firing can do: one lemma for the shared operation that every brick's meaning goes through, one case
per readiness; and the lanes of a token built from lanes. -/

namespace Sys2Proof.Laws

open Sys2Proof Sys2Proof.Machine

variable {i : Instr} {s : State} {body : Token → Token → Token → State → State}

/-! ## The cases of a firing (R13 to R16, R155, R199) -/

@[simp] theorem fire_go {a b c : Token} (h : readiness i s = .go a b c) : fire i s body = .next (body a b c s) := by
  simp only [fire, h]

@[simp] theorem fire_wait (h : readiness i s = .wait) : fire i s body = .next s := by simp only [fire, h]

@[simp] theorem fire_against (h : readiness i s = .against) : fire i s body = .next (decideAgainst s) := by
  simp only [fire, h]

@[simp] theorem fire_null (h : readiness i s = .null) : fire i s body = .next (fireNull i s) := by simp only [fire, h]

@[simp] theorem fire_dup (h : readiness i s = .dup) :
    fire i s body = .next (faulted clsBlockInvalid 0x0E 0 (dupLocator false s.focus.idx) s) := by simp only [fire, h]

@[simp] theorem fire_logged {e : LogEntry} (h : readiness i s = .logged e) :
    fire i s body = .next (fireLogged i e s) := by simp only [fire, h]

@[simp] theorem fire_stop {k : Nat} (h : readiness i s = .stop k) : fire i s body = .next (fireStop i k s) := by
  simp only [fire, h]

@[simp] theorem fire_full (h : readiness i s = .full) : fire i s body = .next (reclaimLsq s) := by simp only [fire, h]

/-- Every firing has a next state: the one its readiness gives. -/
theorem fire_next (i : Instr) (s : State) (body : Token → Token → Token → State → State) :
    ∃ t, fire i s body = .next t := by
  cases h : readiness i s <;> simp [fire, h]

/-- A computing instruction that is ready delivers its value to both targets, with its flags. -/
theorem compute_go {a b c : Token} {f : State → Wide → Wide → Wide → Wide × BitVec 6} (h : readiness i s = .go a b c) :
    compute i s f = .next (fired i { r0 := some (wideTok (f s a.value b.value c.value).1)
                                     r1 := some (wideTok (f s a.value b.value c.value).1)
                                     flags := (f s a.value b.value c.value).2 } s) := fire_go h

/-! ## Lanes -/

theorem laneN_lt (w : Nat) (v : Wide) (k : Nat) : laneN w v k < 2 ^ w := Nat.mod_lt _ (Nat.two_pow_pos w)

/-- The number that the first n lanes make. -/
def packed (w : Nat) (f : Nat → Nat) : Nat → Nat
  | 0 => 0
  | n + 1 => packed w f n + f n % 2 ^ w * 2 ^ (w * n)

theorem packed_foldl (w : Nat) (f : Nat → Nat) (n : Nat) :
    (List.range n).foldl (fun acc i => acc + f i % 2 ^ w * 2 ^ (w * i)) 0 = packed w f n := by
  induction n with
  | zero => rfl
  | succ n ih => rw [List.range_succ, List.foldl_append, ih]; rfl

theorem packed_lt (w : Nat) (f : Nat → Nat) (n : Nat) : packed w f n < 2 ^ (w * n) := by
  induction n with
  | zero => simp [packed]
  | succ n ih =>
    have h : f n % 2 ^ w + 1 ≤ 2 ^ w := Nat.mod_lt _ (Nat.two_pow_pos w)
    calc packed w f (n + 1) < 2 ^ (w * n) + f n % 2 ^ w * 2 ^ (w * n) := Nat.add_lt_add_right ih _
      _ = (f n % 2 ^ w + 1) * 2 ^ (w * n) := by ring
      _ ≤ 2 ^ w * 2 ^ (w * n) := Nat.mul_le_mul_right _ h
      _ = 2 ^ (w * (n + 1)) := by rw [← pow_add]; congr 1; ring

theorem packed_lane (w : Nat) (f : Nat → Nat) {n k : Nat} (hk : k < n) :
    packed w f n / 2 ^ (w * k) % 2 ^ w = f k % 2 ^ w := by
  induction n with
  | zero => omega
  | succ n ih =>
    rcases Nat.lt_succ_iff_lt_or_eq.mp hk with h | rfl
    · have e : 2 ^ (w * n) = 2 ^ (w * k) * (2 ^ w * 2 ^ (w * (n - k - 1))) := by
        rw [← pow_add, ← pow_add]
        congr 1
        obtain ⟨d, rfl⟩ := Nat.exists_eq_add_of_lt h
        rw [show k + d + 1 - k - 1 = d by omega]
        ring
      rw [packed, e, show f n % 2 ^ w * (2 ^ (w * k) * (2 ^ w * 2 ^ (w * (n - k - 1))))
          = 2 ^ (w * k) * (2 ^ w * (f n % 2 ^ w * 2 ^ (w * (n - k - 1)))) by ring,
        Nat.add_mul_div_left _ _ (Nat.two_pow_pos _), Nat.add_mul_mod_self_left, ih h]
    · rw [packed, Nat.add_mul_div_right _ _ (Nat.two_pow_pos _), Nat.div_eq_of_lt (packed_lt w f k), Nat.zero_add,
        Nat.mod_mod]

/-- Lane k of a token built from n lanes that fit it. -/
theorem laneN_fromLanes (w n : Nat) (f : Nat → Nat) {k : Nat} (hn : w * n ≤ 512) (hk : k < n) :
    laneN w (fromLanes w n f) k = f k % 2 ^ w := by
  have h : packed w f n < 2 ^ 512 := lt_of_lt_of_le (packed_lt w f n) (Nat.pow_le_pow_right (by decide) hn)
  rw [laneN, fromLanes, packed_foldl, BitVec.toNat_ofNat, Nat.mod_eq_of_lt h, packed_lane w f hk]

/-- The wide form gives each lane its own result. -/
theorem laneN_perLane (ty : ElemType) (f : Nat → LaneRes) {k : Nat} (hk : k < laneCount ty.width) :
    laneN ty.width (perLane ty true f).1 k = (f k).1 % 2 ^ ty.width := by
  have hn : ty.width * laneCount ty.width ≤ 512 := Nat.mul_div_le 512 ty.width
  simp only [perLane, if_true]
  rw [laneN_fromLanes _ _ _ hn hk]
  simp [List.getD, hk]

theorem perLane_scalar (ty : ElemType) (f : Nat → LaneRes) : perLane ty false f = (scalarOf ty (f 0).1, (f 0).2) := by
  simp [perLane]

end Sys2Proof.Laws
end

