-- ==== Sys2Proof/Laws/Kept.lean ====
section
/-! SUPPORT. What a run of the machine keeps: every memory's canonical form, and what no instruction touches (kiln, the
package registers, the host's page tables, the agenda). One lemma per named update; the lemmas of the
operations built from them stand in KeptOps. -/

namespace Sys2Proof.Laws

open Sys2Proof Sys2Proof.Machine

/-- What only the package and the outside change. -/
def outside (s : State) : Kiln × Package × List HostPage × List Move := (s.kiln, s.pkg, s.iommu, s.agenda)

/-- The memories are canonical, and the outside is `o`. -/
def Kept (o : Kiln × Package × List HostPage × List Move) (s : State) : Prop := memoryWf s = true ∧ outside s = o

/-- Every next state of an outcome is kept. -/
def KeptR (o : Kiln × Package × List HostPage × List Move) (r : Result) : Prop := ∀ t, r = .next t → Kept o t

variable {o : Kiln × Package × List HostPage × List Move} {s : State}

theorem memoryWf_iff : memoryWf s = true ↔
    tabCanon 0 s.hbm = true ∧ tabCanon 0 s.hostMem = true ∧ ∀ e ∈ s.cores, tabCanon 0 e.2.spad = true := by
  simp [memoryWf, and_assoc]

theorem Kept.spad (h : Kept o s) (n : Nat) : tabCanon 0 (coreAt s n).spad = true := by
  rcases tabGet_mem Core.blank s.cores n with e | e
  · rw [coreAt, e]
    rfl
  · exact (memoryWf_iff.mp h.1).2.2 _ e

theorem kept_next {t : State} (h : Kept o t) : KeptR o (.next t) := by
  intro t' e
  cases e
  exact h

theorem kept_setCore {n : Nat} {k : Core} (hk : tabCanon 0 k.spad = true) (h : Kept o s) : Kept o (setCore s n k) := by
  refine ⟨memoryWf_iff.mpr ?_, h.2⟩
  obtain ⟨h1, h2, h3⟩ := memoryWf_iff.mp h.1
  refine ⟨h1, h2, fun e he => ?_⟩
  rcases mem_tabSet he with rfl | he
  · exact hk
  · exact h3 e he

theorem kept_modCore {n : Nat} {f : Core → Core} (hf : ∀ k, tabCanon 0 k.spad = true → tabCanon 0 (f k).spad = true)
    (h : Kept o s) : Kept o (modCore s n f) :=
  kept_setCore (hf _ (h.spad n)) h

theorem kept_setCtx {c : CtxId} {x : Ctx} (h : Kept o s) : Kept o (setCtx s c x) :=
  kept_modCore (fun _ hk => hk) h

theorem kept_modCtx {c : CtxId} {f : Ctx → Ctx} (h : Kept o s) : Kept o (modCtx s c f) := kept_setCtx h

theorem kept_modFrame {c : CtxId} {n : Nat} {f : Frame → Frame} (h : Kept o s) : Kept o (modFrame s c n f) := kept_modCtx h

theorem kept_modDie {n : Nat} {f : Die → Die} (h : Kept o s) : Kept o (modDie s n f) := h

theorem kept_modPart {d p : Nat} {f : Part → Part} (h : Kept o s) : Kept o (modPart s d p f) := h

theorem kept_modPartOf {c : CtxId} {f : Part → Part} (h : Kept o s) : Kept o (modPartOf s c f) := h

theorem kept_modCluster {n : Nat} {f : Cluster → Cluster} (h : Kept o s) : Kept o (modCluster s n f) := h

theorem kept_modL2 {n : Nat} {f : L2Line → L2Line} (h : Kept o s) : Kept o (modL2 s n f) := h

theorem kept_focus {x : Site} (h : Kept o s) : Kept o { s with focus := x } := h

theorem kept_dies {x : Tab Die} (h : Kept o s) : Kept o { s with dies := x } := h

theorem kept_clusters {x : Tab Cluster} (h : Kept o s) : Kept o { s with clusters := x } := h

theorem kept_poison {x : List Nat} (h : Kept o s) : Kept o { s with poison := x } := h

theorem kept_ats {x : List HostPage} (h : Kept o s) : Kept o { s with ats := x } := h

theorem kept_rcQueue {x : List RcWait} (h : Kept o s) : Kept o { s with rcQueue := x } := h

theorem kept_l2 {x : Tab L2Line} (h : Kept o s) : Kept o { s with l2 := x } := h

theorem kept_remotes {x : List Remote} (h : Kept o s) : Kept o { s with remotes := x } := h

theorem kept_devWrites {x : List (Nat × Byte)} (h : Kept o s) : Kept o { s with devWrites := x } := h

theorem kept_freeCounter {x : Nat} (h : Kept o s) : Kept o { s with freeCounter := x } := h

theorem kept_hbm {x : Tab Byte} (hx : tabCanon 0 x = true) (h : Kept o s) : Kept o { s with hbm := x } := by
  obtain ⟨_, h2, h3⟩ := memoryWf_iff.mp h.1
  exact ⟨memoryWf_iff.mpr ⟨hx, h2, h3⟩, h.2⟩

theorem kept_hostMem {x : Tab Byte} (hx : tabCanon 0 x = true) (h : Kept o s) : Kept o { s with hostMem := x } := by
  obtain ⟨h1, _, h3⟩ := memoryWf_iff.mp h.1
  exact ⟨memoryWf_iff.mpr ⟨h1, hx, h3⟩, h.2⟩

theorem Kept.hbm (h : Kept o s) : tabCanon 0 s.hbm = true := (memoryWf_iff.mp h.1).1

theorem Kept.hostMem (h : Kept o s) : tabCanon 0 s.hostMem = true := (memoryWf_iff.mp h.1).2.1

/-- A fold of operations each of which keeps. -/
theorem kept_foldl {β : Type} {l : List β} {f : State → β → State} (hf : ∀ s b, Kept o s → Kept o (f s b))
    (h : Kept o s) : Kept o (l.foldl f s) := by
  induction l generalizing s with
  | nil => exact h
  | cons b l ih => exact ih (hf s b h)

/-- A fold that carries a second value. -/
theorem kept_foldl_fst {β γ : Type} {l : List β} {f : State × γ → β → State × γ} {p : State × γ}
    (hf : ∀ p b, Kept o p.1 → Kept o (f p b).1) (h : Kept o p.1) : Kept o (l.foldl f p).1 := by
  induction l generalizing p with
  | nil => exact h
  | cons b l ih => exact ih (hf p b h)

end Sys2Proof.Laws
end

