-- ==== Sys2Proof/Laws/KeptOps.lean ====
section
/-! SUPPORT. One lemma per operation that answers a state, and per meaning: it keeps the memories canonical and
changes nothing outside; here the shared operations, the memory accesses, the control registers and the contexts. -/

set_option linter.unusedTactic false
set_option linter.unreachableTactic false
set_option linter.unusedVariables false

namespace Sys2Proof.Laws

open Sys2Proof Sys2Proof.Machine

/-! ## Ops -/

/-- What no instruction of a brick changes. -/
abbrev Outside := Kiln × Package × List HostPage × List Move

theorem kept_ite {o : Outside} {c : Prop} {_ : Decidable c} {a b : State} (ha : Kept o a) (hb : Kept o b) :
    Kept o (if c then a else b) := by
  split
  · exact ha
  · exact hb

theorem kept_modThreadCore {o : Outside} {s : State} {t : Thread} {f : Core → Core}
    (hf : ∀ k, tabCanon 0 k.spad = true → tabCanon 0 (f k).spad = true) (hk : Kept o s) : Kept o (modThreadCore s t f) := by
  unfold modThreadCore
  split
  · exact kept_modCore hf hk
  · exact kept_modPart hk

theorem kept_modThread {o : Outside} {s : State} {t : Thread} {f : Ctx → Ctx} (hk : Kept o s) : Kept o (modThread s t f) :=
  kept_modThreadCore (fun _ h => h) hk

theorem kept_modMate {o : Outside} {s : State} {c : CtxId} {k : Nat} {f : Ctx → Ctx} (hk : Kept o s) :
    Kept o (modMate s c k f) := kept_modThread hk

theorem kept_writeReg {o : Outside} (s : State) (c : CtxId) (r : Nat) (v : Wide)
    (hk : Kept o s) :
    Kept o (writeReg s c r v) := by
  unfold writeReg
  repeat' (first | with_reducible assumption | with_reducible apply kept_modCore | (intro _ hk; exact hk) | extract_lets -underBinder | split | dsimp +zetaDelta only)

theorem kept_broadcast {o : Outside} (i : Instr) (s : State) (fls : List Flight)
    (hk : Kept o s) :
    Kept o (broadcast i s fls) := by
  unfold broadcast
  repeat' (first | with_reducible assumption | with_reducible apply kept_modMate | (with_reducible refine kept_foldl (fun s b hk => ?_) ?_) | extract_lets -underBinder | split | dsimp +zetaDelta only)

theorem kept_fired {o : Outside} (i : Instr) (r : Firing) (s : State)
    (hk : Kept o s) :
    Kept o (fired i r s) := by
  unfold fired
  repeat' (first | with_reducible assumption | with_reducible apply kept_broadcast | with_reducible apply kept_modFrame | extract_lets -underBinder | split | dsimp +zetaDelta only)

theorem kept_decideAgainst {o : Outside} (s : State)
    (hk : Kept o s) :
    Kept o (decideAgainst s) := by
  unfold decideAgainst
  repeat' (first | with_reducible assumption | with_reducible apply kept_modFrame | extract_lets -underBinder | split | dsimp +zetaDelta only)

theorem kept_faulted {o : Outside} (cls cause : Nat) (addr arg : Word) (s : State)
    (hk : Kept o s) :
    Kept o (faulted cls cause addr arg s) := by
  unfold faulted
  repeat' (first | with_reducible assumption | with_reducible apply kept_fired | with_reducible apply kept_modFrame | extract_lets -underBinder | split | dsimp +zetaDelta only)

theorem kept_answered {o : Outside} (i : Instr) (t0 : Option Wide) (t1 : Word) (s : State)
    (hk : Kept o s) :
    Kept o (answered i t0 t1 s) := by
  unfold answered
  repeat' (first | with_reducible assumption | with_reducible apply kept_fired | with_reducible apply kept_modCtx | extract_lets -underBinder | split | dsimp +zetaDelta only)

theorem kept_awaiting {o : Outside} (s : State)
    (hk : Kept o s) :
    Kept o (awaiting s) := by
  unfold awaiting
  repeat' (first | with_reducible assumption | with_reducible apply kept_modFrame | extract_lets -underBinder | split | dsimp +zetaDelta only)

theorem kept_answerLater {o : Outside} (c : CtxId) (idx : Nat) (tag : Tag) (t0 : Option Wide) (t1 : Word) (s : State)
    (hk : Kept o s) :
    Kept o (answerLater c idx tag t0 t1 s) := by
  unfold answerLater
  repeat' (first | with_reducible assumption | with_reducible apply kept_modCtx | extract_lets -underBinder | split | dsimp +zetaDelta only)

theorem kept_fireStop {o : Outside} (i : Instr) (level : Nat) (s : State)
    (hk : Kept o s) :
    Kept o (fireStop i level s) := by
  unfold fireStop
  repeat' (first | with_reducible assumption | with_reducible apply kept_fired | extract_lets -underBinder | split | dsimp +zetaDelta only)

theorem kept_fireNull {o : Outside} (i : Instr) (s : State)
    (hk : Kept o s) :
    Kept o (fireNull i s) := by
  unfold fireNull
  repeat' (first | with_reducible assumption | with_reducible apply kept_fired | extract_lets -underBinder | split | dsimp +zetaDelta only)

theorem kept_fireLogged {o : Outside} (i : Instr) (e : LogEntry) (s : State)
    (hk : Kept o s) :
    Kept o (fireLogged i e s) := by
  unfold fireLogged
  repeat' (first | with_reducible assumption | with_reducible apply kept_fired | extract_lets -underBinder | split | dsimp +zetaDelta only)

theorem kept_setReserved {o : Outside} (s : State) (loc : Loc) (f : Nat → Nat)
    (hk : Kept o s) :
    Kept o (setReserved s loc f) := by
  unfold setReserved
  repeat' (first | with_reducible assumption | with_reducible apply kept_modCore | with_reducible apply kept_modL2 | (intro _ hk; exact hk) | extract_lets -underBinder | split | dsimp +zetaDelta only)

theorem kept_modArena {o : Outside} (s : State) (die id : Nat) (f : Arena → Arena)
    (hk : Kept o s) :
    Kept o (modArena s die id f) := by
  unfold modArena
  repeat' (first | with_reducible assumption | with_reducible apply kept_modDie | extract_lets -underBinder | split | dsimp +zetaDelta only)

theorem kept_finishWalk {o : Outside} (s : State) (c : CtxId)
    (hk : Kept o s) :
    Kept o (finishWalk s c) := by
  unfold finishWalk
  repeat' (first | with_reducible assumption | with_reducible apply kept_modCtx | with_reducible apply kept_modArena | extract_lets -underBinder | split | dsimp +zetaDelta only)

theorem kept_releaseTags {o : Outside} (s : State) (c : CtxId) (fr : Frame) (sel : Tag → Bool) (hk : Kept o s) :
    Kept o (releaseTags s c fr sel) := by
  unfold releaseTags
  extract_lets -underBinder s1 s2 s3 waits freed mine live s4 s5
  have h1 : Kept o s1 := kept_ite hk (kept_rcQueue hk)
  clear_value s1
  have h2 : Kept o s2 := kept_foldl (fun _ _ h => kept_setReserved _ _ _ h) h1
  clear_value s2
  have h3 : Kept o s3 := by
    refine kept_foldl (fun s p h => ?_) h2
    split
    · exact kept_modCtx h
    · exact h
  clear_value s3
  have h4 : Kept o s4 := kept_ite (kept_modPartOf h3) h3
  clear_value s4
  exact kept_modPartOf (kept_modCtx h4)

theorem kept_releaseFrame {o : Outside} (s : State) (c : CtxId) (fr : Frame)
    (hk : Kept o s) :
    Kept o (releaseFrame s c fr) := by
  unfold releaseFrame
  repeat' (first | with_reducible assumption | with_reducible apply kept_releaseTags | extract_lets -underBinder | split | dsimp +zetaDelta only)

theorem kept_giveBack {o : Outside} (s : State) (c : CtxId) (pos : Nat) (fls : List Flight)
    (hk : Kept o s) :
    Kept o (giveBack s c pos fls) := by
  unfold giveBack
  repeat' (first | with_reducible assumption | with_reducible apply kept_modCtx | extract_lets -underBinder | split | dsimp +zetaDelta only)

theorem kept_discardOwn {o : Outside} (s : State) (c : CtxId) (n t : Nat)
    (hk : Kept o s) :
    Kept o (discardOwn s c n t) := by
  unfold discardOwn
  repeat' (first | with_reducible assumption | with_reducible apply kept_giveBack | with_reducible apply kept_modFrame | with_reducible apply kept_releaseTags | extract_lets -underBinder | split | dsimp +zetaDelta only)

theorem kept_discardMate {o : Outside} (c : CtxId) (pos t : Nat) (s : State) (k : Nat)
    (hk : Kept o s) :
    Kept o (discardMate c pos t s k) := by
  unfold discardMate
  repeat' (first | with_reducible assumption | with_reducible apply kept_discardOwn | with_reducible apply kept_modMate | (intro _ hk; exact hk) | extract_lets -underBinder | split | dsimp +zetaDelta only)

theorem kept_discardIters {o : Outside} (s : State) (c : CtxId) (n t : Nat)
    (hk : Kept o s) :
    Kept o (discardIters s c n t) := by
  unfold discardIters
  repeat' (first | with_reducible assumption | with_reducible apply kept_discardMate | with_reducible apply kept_discardOwn | (with_reducible refine kept_foldl (fun s b hk => ?_) ?_) | extract_lets -underBinder | split | dsimp +zetaDelta only)

theorem kept_squashFrom {o : Outside} (s : State) (c : CtxId) (n : Nat)
    (hk : Kept o s) :
    Kept o (squashFrom s c n) := by
  unfold squashFrom
  repeat' (first | with_reducible assumption | with_reducible apply kept_finishWalk | with_reducible apply kept_modCtx | with_reducible apply kept_releaseFrame | (with_reducible refine kept_foldl (fun s b hk => ?_) ?_) | extract_lets -underBinder | split | dsimp +zetaDelta only)

theorem kept_dropMember {o : Outside} (c : CtxId) (pos : Nat) (old : Option Nat → Bool) (s : State) (k : Nat)
    (hk : Kept o s) :
    Kept o (dropMember c pos old s k) := by
  unfold dropMember
  repeat' (first | with_reducible assumption | with_reducible apply kept_modMate | with_reducible apply kept_squashFrom | (intro _ hk; exact hk) | extract_lets -underBinder | split | dsimp +zetaDelta only)

theorem kept_dropFrom {o : Outside} (c : CtxId) (pos : Nat) (s : State) (k : Nat)
    (hk : Kept o s) :
    Kept o (dropFrom c pos s k) := by
  unfold dropFrom
  repeat' (first | with_reducible assumption | with_reducible apply kept_dropMember | extract_lets -underBinder | split | dsimp +zetaDelta only)

theorem kept_squashCourse {o : Outside} (s : State) (c : CtxId) (n : Nat)
    (hk : Kept o s) :
    Kept o (squashCourse s c n) := by
  unfold squashCourse
  repeat' (first | with_reducible assumption | with_reducible apply kept_dropFrom | with_reducible apply kept_squashFrom | (with_reducible refine kept_foldl (fun s b hk => ?_) ?_) | extract_lets -underBinder | split | dsimp +zetaDelta only)

theorem kept_squashYounger {o : Outside} (s : State) (c : CtxId)
    (hk : Kept o s) :
    Kept o (squashYounger s c) := by
  unfold squashYounger
  repeat' (first | with_reducible assumption | with_reducible apply kept_squashCourse | extract_lets -underBinder | split | dsimp +zetaDelta only)

theorem kept_squashLater {o : Outside} (s : State) (c : CtxId)
    (hk : Kept o s) :
    Kept o (squashLater s c) := by
  unfold squashLater
  repeat' (first | with_reducible assumption | with_reducible apply kept_discardIters | with_reducible apply kept_squashYounger | extract_lets -underBinder | split | dsimp +zetaDelta only)

theorem kept_forwardAgain {o : Outside} (c : CtxId) (pos : Nat) (addr : Word) (image : List Word) (s : State) (k : Nat)
    (hk : Kept o s) :
    Kept o (forwardAgain c pos addr image s k) := by
  unfold forwardAgain
  repeat' (first | with_reducible assumption | with_reducible apply kept_modMate | (intro _ hk; exact hk) | extract_lets -underBinder | split | dsimp +zetaDelta only)

theorem kept_forwardTo {o : Outside} (c : CtxId) (pos : Nat) (addr : Word) (image : List Word) (s : State) (k : Nat)
    (hk : Kept o s) :
    Kept o (forwardTo c pos addr image s k) := by
  unfold forwardTo
  repeat' (first | with_reducible assumption | with_reducible apply kept_dropFrom | with_reducible apply kept_modMate | extract_lets -underBinder | split | dsimp +zetaDelta only)

theorem kept_restartAt {o : Outside} (s : State) (c : CtxId) (n : Nat) (held : List Nat)
    (hk : Kept o s) :
    Kept o (restartAt s c n held) := by
  unfold restartAt
  repeat' (first | with_reducible assumption | with_reducible apply kept_dropMember | with_reducible apply kept_finishWalk | with_reducible apply kept_forwardAgain | with_reducible apply kept_giveBack | with_reducible apply kept_modFrame | with_reducible apply kept_releaseFrame | with_reducible apply kept_squashCourse | (with_reducible refine kept_foldl (fun s b hk => ?_) ?_) | extract_lets -underBinder | split | dsimp +zetaDelta only)

theorem kept_squashParked {o : Outside} (s : State) (c : CtxId)
    (hk : Kept o s) :
    Kept o (squashParked s c) := by
  unfold squashParked
  repeat' (first | with_reducible assumption | with_reducible apply kept_modCtx | with_reducible apply kept_squashCourse | extract_lets -underBinder | split | dsimp +zetaDelta only)

theorem kept_reclaimLsq {o : Outside} (s : State)
    (hk : Kept o s) :
    Kept o (reclaimLsq s) := by
  unfold reclaimLsq
  repeat' (first | with_reducible assumption | with_reducible apply kept_discardIters | with_reducible apply kept_squashCourse | with_reducible apply kept_squashParked | extract_lets -underBinder | split | dsimp +zetaDelta only)

theorem kept_fire {o : Outside} {i : Instr} {s : State} {body : Token → Token → Token → State → State}
    (hb : ∀ a b c t, Kept o t → Kept o (body a b c t)) (hk : Kept o s) : KeptR o (fire i s body) := by
  unfold fire
  split <;> apply kept_next
  · exact hk
  · exact kept_decideAgainst s hk
  · exact kept_faulted _ _ _ _ s hk
  · exact kept_fireLogged _ _ s hk
  · exact kept_fireStop _ _ s hk
  · exact kept_fireNull _ s hk
  · exact kept_reclaimLsq s hk
  · exact hb _ _ _ s hk

theorem kept_compute {o : Outside} {i : Instr} {s : State} {f : State → Wide → Wide → Wide → Wide × BitVec 6}
    (hk : Kept o s) : KeptR o (compute i s f) :=
  kept_fire (fun _ _ _ t ht => kept_fired _ _ t ht) hk

theorem kept_countSent {o : Outside} (s : State) (c : CtxId) (n : Nat)
    (hk : Kept o s) :
    Kept o (countSent s c n) := by
  unfold countSent
  repeat' (first | with_reducible assumption | with_reducible apply kept_modPartOf | extract_lets -underBinder | split | dsimp +zetaDelta only)

theorem kept_countReceived {o : Outside} (s : State) (c : CtxId)
    (hk : Kept o s) :
    Kept o (countReceived s c) := by
  unfold countReceived
  repeat' (first | with_reducible assumption | with_reducible apply kept_modPartOf | extract_lets -underBinder | split | dsimp +zetaDelta only)

theorem kept_slotRecords {o : Outside} (s : State) (c : CtxId) (rs : List Record)
    (hk : Kept o s) :
    Kept o (slotRecords s c rs) := by
  unfold slotRecords
  repeat' (first | with_reducible assumption | with_reducible apply kept_countSent | with_reducible apply kept_modCtx | with_reducible apply kept_modDie | (with_reducible refine kept_foldl (fun s b hk => ?_) ?_) | extract_lets -underBinder | split | dsimp +zetaDelta only)

theorem kept_sendRecord {o : Outside} (s : State) (c : CtxId) (stops : Bool) (r : RecordArgs)
    (hk : Kept o s) :
    Kept o (sendRecord s c stops r) := by
  unfold sendRecord
  repeat' (first | with_reducible assumption | with_reducible apply kept_slotRecords | extract_lets -underBinder | split | dsimp +zetaDelta only)

theorem kept_releaseAsyncs {o : Outside} (s : State) (c : CtxId)
    (hk : Kept o s) :
    Kept o (releaseAsyncs s c) := by
  unfold releaseAsyncs
  repeat' (first | with_reducible assumption | with_reducible apply kept_modCtx | with_reducible apply kept_slotRecords | extract_lets -underBinder | split | dsimp +zetaDelta only)

theorem kept_followExit {o : Outside} (s : State) (c : CtxId) (n : Nat) (target : Word)
    (hk : Kept o s) :
    Kept o (followExit s c n target) := by
  unfold followExit
  repeat' (first | with_reducible assumption | with_reducible apply kept_squashCourse | extract_lets -underBinder | split | dsimp +zetaDelta only)

theorem kept_inheritExits {o : Outside} (lead : Nat) (y : Ctx) (s : State) (k : Nat)
    (hk : Kept o s) :
    Kept o (inheritExits lead y s k) := by
  unfold inheritExits
  repeat' (first | with_reducible assumption | with_reducible apply kept_modMate | extract_lets -underBinder | split | dsimp +zetaDelta only)

theorem kept_takeLead {o : Outside} (s : State) (d : CtxId) (k : Nat) (fs : List Nat)
    (hk : Kept o s) :
    Kept o (takeLead s d k fs) := by
  unfold takeLead
  repeat' (first | with_reducible assumption | with_reducible apply kept_followExit | with_reducible apply kept_inheritExits | with_reducible apply kept_modMate | with_reducible apply kept_squashFrom | (with_reducible refine kept_foldl (fun s b hk => ?_) ?_) | extract_lets -underBinder | split | dsimp +zetaDelta only)

theorem kept_leaveCourse {o : Outside} (s : State) (c : CtxId) (into : CourseState)
    (hk : Kept o s) :
    Kept o (leaveCourse s c into) := by
  unfold leaveCourse
  repeat' (first | with_reducible assumption | with_reducible apply kept_modCtx | with_reducible apply kept_modMate | with_reducible apply kept_takeLead | extract_lets -underBinder | split | dsimp +zetaDelta only)

theorem kept_haltContext {o : Outside} (s : State) (c : CtxId)
    (hk : Kept o s) :
    Kept o (haltContext s c) := by
  unfold haltContext
  repeat' (first | with_reducible assumption | with_reducible apply kept_leaveCourse | with_reducible apply kept_modCtx | with_reducible apply kept_releaseAsyncs | extract_lets -underBinder | split | dsimp +zetaDelta only)

theorem kept_stopContext {o : Outside} (s : State) (c : CtxId) (r : RecordArgs)
    (hk : Kept o s) :
    Kept o (stopContext s c r) := by
  unfold stopContext
  repeat' (first | with_reducible assumption | with_reducible apply kept_haltContext | with_reducible apply kept_sendRecord | with_reducible apply kept_squashCourse | extract_lets -underBinder | split | dsimp +zetaDelta only)

theorem kept_resumeJob {o : Outside} (core : Nat) (s : State) (j : Job)
    (hk : Kept o s) :
    Kept o (resumeJob core s j) := by
  unfold resumeJob
  repeat' (first | with_reducible assumption | with_reducible apply kept_modCore | (intro _ hk; exact hk) | extract_lets -underBinder | split | dsimp +zetaDelta only)

theorem kept_resumeJobs {o : Outside} (s : State) (c : CtxId)
    (hk : Kept o s) :
    Kept o (resumeJobs s c) := by
  unfold resumeJobs
  repeat' (first | with_reducible assumption | with_reducible apply kept_resumeJob | (with_reducible refine kept_foldl (fun s b hk => ?_) ?_) | extract_lets -underBinder | split | dsimp +zetaDelta only)

theorem kept_resumeContext {o : Outside} (s : State) (c : CtxId)
    (hk : Kept o s) :
    Kept o (resumeContext s c) := by
  unfold resumeContext
  repeat' (first | with_reducible assumption | with_reducible apply kept_modCtx | with_reducible apply kept_resumeJobs | extract_lets -underBinder | split | dsimp +zetaDelta only)

theorem kept_resumeThread {o : Outside} (s : State) (t : Thread) (hk : Kept o s) : Kept o (resumeThread s t) := by
  unfold resumeThread
  split
  · exact kept_resumeContext _ _ hk
  · refine kept_foldl (fun s q h => ?_) (kept_modThread hk)
    exact kept_ite (kept_modThreadCore (fun _ h => h) h) h

/-! ## Memory -/

theorem kept_writeBack {o : Outside} (s : State) (line : Nat) (hk : Kept o s) : Kept o (writeBack s line) := by
  unfold writeBack
  extract_lets
  split
  · exact hk
  · split
    · exact kept_modL2 (kept_hbm (tabCanon_foldl _ _ (fun t b h => tabCanon_tabSet _ _ h) hk.hbm) hk)
    · exact kept_ite (kept_modL2 hk) hk

theorem kept_makeWay {o : Outside} (s : State) (line : Nat)
    (hk : Kept o s) :
    Kept o (makeWay s line) := by
  unfold makeWay
  repeat' (first | with_reducible assumption | with_reducible apply kept_writeBack | extract_lets -underBinder | split | dsimp +zetaDelta only)

theorem kept_heal {o : Outside} (s : State) (lines : List Nat)
    (hk : Kept o s) :
    Kept o (heal s lines) := by
  unfold heal
  exact kept_ite hk (kept_poison hk)

theorem kept_homeWriteLine {o : Outside} (s : State) (line : Nat) (bs : List (Nat × Byte)) (hk : Kept o s) :
    Kept o (homeWriteLine s line bs) := by
  unfold homeWriteLine
  extract_lets -underBinder d held s1 s2
  have h1 : Kept o s1 := kept_modL2 (kept_ite hk (kept_makeWay _ _ hk))
  clear_value s1
  have h2 : Kept o s2 := kept_ite (kept_writeBack _ _ h1) h1
  clear_value s2
  exact kept_ite (kept_heal _ _ h2) h2

theorem kept_homeWrite {o : Outside} (s : State) (bs : List (Nat × Byte))
    (hk : Kept o s) :
    Kept o (homeWrite s bs) := by
  unfold homeWrite
  repeat' (first | with_reducible assumption | with_reducible apply kept_homeWriteLine | (with_reducible refine kept_foldl (fun s b hk => ?_) ?_) | extract_lets -underBinder | split | dsimp +zetaDelta only)

theorem kept_retain {o : Outside} (r : Nat) (s : State) (line : Nat)
    (hk : Kept o s) :
    Kept o (retain r s line) := by
  unfold retain
  repeat' (first | with_reducible assumption | with_reducible apply kept_modL2 | extract_lets -underBinder | split | dsimp +zetaDelta only)

theorem kept_homeWriteBy {o : Outside} (s : State) (policy : Nat) (bs : List (Nat × Byte)) (hk : Kept o s) :
    Kept o (homeWriteBy s policy bs) := by
  unfold homeWriteBy
  refine kept_foldl (fun s line h => ?_) hk
  dsimp only
  have h0 := kept_homeWriteLine s line (bs.filter (fun e => e.1 / 64 = line)) h
  have h1 : Kept o { s with hbm := (bs.filter (fun e => e.1 / 64 = line)).foldl (fun t e => tabSet 0 t e.1 e.2) s.hbm } :=
    kept_hbm (tabCanon_foldl _ _ (fun t b h => tabCanon_tabSet _ _ h) h.hbm) h
  exact kept_ite (kept_ite h0 (kept_modL2 h0)) (kept_ite h0 (kept_ite (kept_heal _ _ h1) h1))

theorem kept_cacheHost {o : Outside} (s : State) (va : Nat) (hk : Kept o s) : Kept o (cacheHost s va) := by
  unfold cacheHost
  split
  · exact hk
  · split
    · exact kept_ats hk
    · exact hk

theorem kept_cacheHosts {o : Outside} (s : State) (ls : List Loc)
    (hk : Kept o s) :
    Kept o (cacheHosts s ls) := by
  unfold cacheHosts
  repeat' (first | with_reducible assumption | with_reducible apply kept_cacheHost | (with_reducible refine kept_foldl (fun s b hk => ?_) ?_) | extract_lets -underBinder | split | dsimp +zetaDelta only)

theorem kept_dropSpan {o : Outside} (s : State) (die part core lo hi : Nat)
    (hk : Kept o s) :
    Kept o (dropSpan s die part core lo hi) := by
  unfold dropSpan
  repeat' (first | with_reducible assumption | with_reducible apply kept_modCore | (with_reducible refine kept_foldl (fun s b hk => ?_) ?_) | (intro _ hk; exact hk) | extract_lets -underBinder | split | dsimp +zetaDelta only)

theorem kept_rebasePart {o : Outside} (slice home excess die part : Nat) (s : State)
    (hk : Kept o s) :
    Kept o (rebasePart slice home excess die part s) := by
  unfold rebasePart
  repeat' (first | with_reducible assumption | with_reducible apply kept_dropSpan | with_reducible apply kept_modPart | (with_reducible refine kept_foldl (fun s b hk => ?_) ?_) | extract_lets -underBinder | split | dsimp +zetaDelta only)

theorem kept_rebaseLeases {o : Outside} (s : State) (die slice excess : Nat)
    (hk : Kept o s) :
    Kept o (rebaseLeases s die slice excess) := by
  unfold rebaseLeases
  repeat' (first | with_reducible assumption | with_reducible apply kept_rebasePart | (with_reducible refine kept_foldl (fun s b hk => ?_) ?_) | extract_lets -underBinder | split | dsimp +zetaDelta only)

theorem kept_newLease {o : Outside} (s : State) (die slice len : Nat) (hk : Kept o s) : Kept o (newLease s die slice len).1 := by
  unfold newLease
  extract_lets -underBinder d base ends excess s1
  clear_value excess
  exact (kept_ite hk (kept_rebaseLeases _ _ _ _ (kept_modDie hk)) : Kept o s1)

theorem kept_dropOwnClean {o : Outside} (s : State) (c : CtxId) (key : Nat)
    (hk : Kept o s) :
    Kept o (dropOwnClean s c key) := by
  unfold dropOwnClean
  repeat' (first | with_reducible assumption | with_reducible apply kept_modCore | (with_reducible refine kept_foldl (fun s b hk => ?_) ?_) | (intro _ hk; exact hk) | extract_lets -underBinder | split | dsimp +zetaDelta only)

theorem kept_dropMissed {o : Outside} (s : State) (w : Who) (ls : List Loc)
    (hk : Kept o s) :
    Kept o (dropMissed s w ls) := by
  unfold dropMissed
  repeat' (first | with_reducible assumption | with_reducible apply kept_dropOwnClean | (with_reducible refine kept_foldl (fun s b hk => ?_) ?_) | extract_lets -underBinder | split | dsimp +zetaDelta only)

theorem l1Room_spad (k : Core) (lines : List Nat) : (l1Room k lines).spad = k.spad := by
  unfold l1Room
  dsimp only
  split <;> rfl

theorem cacheClean_spad (line : Nat) (v : Wide) (k : Core) : (cacheClean line v k).spad = k.spad := by
  unfold cacheClean
  split
  · rfl
  · dsimp only
    exact l1Room_spad k [line]

theorem kept_fillLines {o : Outside} (s : State) (w : Who) (ls : List Loc) (hk : Kept o s) : Kept o (fillLines s w ls) := by
  have room : ∀ (line : Nat) (v : Wide) (q : Core), tabCanon 0 q.spad = true → tabCanon 0 (cacheClean line v q).spad = true :=
    fun line v q h => (cacheClean_spad line v q).symm ▸ h
  unfold fillLines
  refine kept_foldl (fun s l h => ?_) hk
  split
  · exact kept_ite h (kept_modCore (fun q hq => room _ _ q hq) h)
  · exact kept_ite h (kept_modCore (fun q hq => room _ _ q hq) h)
  · exact h

theorem kept_putDirty {o : Outside} (s : State) (w : Who) (key va : Nat) (b : Byte)
    (hk : Kept o s) :
    Kept o (putDirty s w key va b) := by
  unfold putDirty
  repeat' (first | with_reducible assumption | with_reducible apply kept_modCore | (with_reducible refine kept_foldl (fun s b hk => ?_) ?_) | (intro _ hk; exact hk) | extract_lets -underBinder | split | dsimp +zetaDelta only)

theorem kept_wakeWatches {o : Outside} (s : State) (touched : List Loc)
    (hk : Kept o s) :
    Kept o (wakeWatches s touched) := by
  unfold wakeWatches
  repeat' (first | with_reducible assumption | with_reducible apply kept_answerLater | with_reducible apply kept_modCtx | with_reducible apply kept_squashLater | (with_reducible refine kept_foldl (fun s b hk => ?_) ?_) | extract_lets -underBinder | split | dsimp +zetaDelta only)

theorem kept_fabWrite {o : Outside} (s : State) (w0 : Word) (bs : List (Nat × Byte)) (hk : Kept o s) :
    Kept o (fabWrite s w0 bs) := by
  unfold fabWrite
  split
  · exact kept_wakeWatches _ _ (kept_homeWrite _ _ hk)
  · exact kept_remotes hk

theorem kept_mergeClean {o : Outside} (s : State) (c : CtxId) (key : Nat) (b : Byte)
    (hk : Kept o s) :
    Kept o (mergeClean s c key b) := by
  unfold mergeClean
  repeat' (first | with_reducible assumption | with_reducible apply kept_modCore | (with_reducible refine kept_foldl (fun s b hk => ?_) ?_) | (intro _ hk; exact hk) | extract_lets -underBinder | split | dsimp +zetaDelta only)

theorem kept_drainByte {o : Outside} (s : State) (e : Nat × DirtyByte) (hk : Kept o s) : Kept o (drainByte s e) := by
  unfold drainByte
  exact kept_ite (kept_modCore (fun _ h => tabCanon_tabSet _ _ h) hk) hk

theorem kept_drainSpad {o : Outside} (s : State) (core : Nat) (sel : DirtyByte → Bool)
    (hk : Kept o s) :
    Kept o (drainSpad s core sel) := by
  unfold drainSpad
  repeat' (first | with_reducible assumption | with_reducible apply kept_drainByte | with_reducible apply kept_modCore | with_reducible apply kept_wakeWatches | (with_reducible refine kept_foldl (fun s b hk => ?_) ?_) | (intro _ hk; exact hk) | extract_lets -underBinder | split | dsimp +zetaDelta only)

theorem kept_drainOwn {o : Outside} (s : State) (c : CtxId)
    (hk : Kept o s) :
    Kept o (drainOwn s c) := by
  unfold drainOwn
  repeat' (first | with_reducible assumption | with_reducible apply kept_drainSpad | (with_reducible refine kept_foldl (fun s b hk => ?_) ?_) | extract_lets -underBinder | split | dsimp +zetaDelta only)

theorem kept_controlWrite {o : Outside} (w : Who) (a : Nat) (b : Byte) (s : State)
    (hk : Kept o s) :
    Kept o (controlWrite w a b s) := by
  unfold controlWrite
  repeat' (first | with_reducible assumption | with_reducible apply kept_modCore | (intro _ hk; exact hk) | extract_lets -underBinder | split | dsimp +zetaDelta only)

theorem kept_commitByte {o : Outside} (w : Who) (s : State) (e : Loc × Byte) (hk : Kept o s) :
    Kept o (commitByte w s e) := by
  unfold commitByte
  split
  · split
    · exact kept_modPart hk
    · exact kept_putDirty _ _ _ _ _ hk
  · refine kept_ite hk ?_
    split
    · exact kept_putDirty _ _ _ _ _ (kept_ite hk (kept_drainSpad _ _ _ hk))
    · exact kept_putDirty _ _ _ _ _ hk
  · exact kept_hostMem (tabCanon_tabSet _ _ hk.hostMem) hk
  · exact kept_controlWrite _ _ _ _ (kept_modCtx (kept_devWrites hk))
  · exact hk

theorem kept_commitBytes {o : Outside} (w : Who) (s : State) (bs : List (Loc × Byte))
    (hk : Kept o s) :
    Kept o (commitBytes w s bs) := by
  unfold commitBytes
  repeat' (first | with_reducible assumption | with_reducible apply kept_commitByte | (with_reducible refine kept_foldl (fun s b hk => ?_) ?_) | extract_lets -underBinder | split | dsimp +zetaDelta only)

theorem kept_drainCluster {o : Outside} (s : State) (core : Nat)
    (hk : Kept o s) :
    Kept o (drainCluster s core) := by
  unfold drainCluster
  repeat' (first | with_reducible assumption | with_reducible apply kept_drainSpad | (with_reducible refine kept_foldl (fun s b hk => ?_) ?_) | extract_lets -underBinder | split | dsimp +zetaDelta only)

theorem kept_coherentPut {o : Outside} (w : Who) (s : State) (e : Loc × Byte) (hk : Kept o s) :
    Kept o (coherentPut w s e) := by
  unfold coherentPut
  split
  · exact kept_ite (kept_modCore (fun _ h => tabCanon_tabSet _ _ h) hk) hk
  · exact kept_commitByte _ _ _ hk

theorem kept_coherentWrite {o : Outside} (s : State) (w : Who) (bs : List (Loc × Byte))
    (hk : Kept o s) :
    Kept o (coherentWrite s w bs) := by
  unfold coherentWrite
  repeat' (first | with_reducible assumption | with_reducible apply kept_coherentPut | with_reducible apply kept_drainCluster | with_reducible apply kept_homeWrite | with_reducible apply kept_wakeWatches | (with_reducible refine kept_foldl (fun s b hk => ?_) ?_) | extract_lets -underBinder | split | dsimp +zetaDelta only)

theorem kept_homeMerge {o : Outside} (s : State) (policy : Nat) (bs : List (Nat × Byte)) (hk : Kept o s) :
    Kept o (homeMerge s policy bs) := by
  have h := kept_homeWriteBy s policy bs hk
  exact kept_hbm (tabCanon_foldl _ _ (fun t b h => tabCanon_tabSet _ _ h) h.hbm) h

theorem kept_carryHomeBy {o : Outside} (policy : Nat) (s : State) (core : Nat) (sel : Nat → CtxId → Bool) (pub : Option (CtxId × Word))
    (hk : Kept o s) : Kept o (carryHomeBy policy s core sel pub).1 := by
  unfold carryHomeBy
  exact kept_wakeWatches _ _ (kept_foldl (fun _ _ h => kept_dropOwnClean _ _ _ h)
    (kept_foldl (fun _ _ h => kept_mergeClean _ _ _ _ h) (kept_homeMerge _ _ _ (kept_modCore (fun _ h => h) hk))))

theorem kept_carryHome {o : Outside} (s : State) (core : Nat) (sel : Nat → Bool) (pub : Option (CtxId × Word))
    (hk : Kept o s) : Kept o (carryHome s core sel pub).1 := kept_carryHomeBy _ _ _ _ _ hk

theorem kept_asideRecord {o : Outside} (s : State) (t : Thread) (r : RecordArgs)
    (hk : Kept o s) :
    Kept o (asideRecord s t r) := by
  unfold asideRecord
  repeat' (first | with_reducible assumption | with_reducible apply kept_modPart | with_reducible apply kept_modThread | extract_lets -underBinder | split | dsimp +zetaDelta only)

theorem kept_asyncRecord {o : Outside} (s : State) (c : CtxId) (r : RecordArgs)
    (hk : Kept o s) :
    Kept o (asyncRecord s c r) := by
  unfold asyncRecord
  repeat' (first | with_reducible assumption | with_reducible apply kept_modCtx | with_reducible apply kept_sendRecord | extract_lets -underBinder | split | dsimp +zetaDelta only)

theorem kept_asyncRecords {o : Outside} (s : State) (rs : List (CtxId × RecordArgs))
    (hk : Kept o s) :
    Kept o (asyncRecords s rs) := by
  unfold asyncRecords
  repeat' (first | with_reducible assumption | with_reducible apply kept_asyncRecord | (with_reducible refine kept_foldl (fun s b hk => ?_) ?_) | extract_lets -underBinder | split | dsimp +zetaDelta only)

theorem kept_publish {o : Outside} (s : State) (c : CtxId) (scope : Nat) (blk : Word)
    (hk : Kept o s) : Kept o (publish s c scope blk) := by
  unfold publish
  extract_lets -underBinder s1 evicted members r
  exact kept_asyncRecords _ _ (kept_foldl_fst (fun p b h => kept_carryHome p.1 b (fun _ => true) (if evicted then none else some (c, blk)) h) (kept_drainOwn _ _ hk))

theorem kept_roomAt {o : Outside} (s : State) (home : Nat) (lines : List Nat) (hk : Kept o s) :
    Kept o (roomAt s home lines) := by
  unfold roomAt
  extract_lets -underBinder k out r s1
  have h1 : Kept o s1 := by
    show Kept o (if _ then _ else _)
    split
    · exact hk
    · exact kept_modCore (fun _ h => h) (kept_asyncRecords _ _ (kept_carryHome _ _ _ _ hk))
  clear_value s1
  exact kept_modCore (fun q hq => (l1Room_spad q lines).symm ▸ hq) h1

theorem kept_storeRoom {o : Outside} (s : State) (w : Who) (lines : List Nat) (hk : Kept o s) :
    Kept o (storeRoom s w lines) := by
  unfold storeRoom
  exact kept_foldl (fun s home h => kept_roomAt _ _ _ h) hk

theorem kept_acquire {o : Outside} (s : State) (c : CtxId) (scope : Nat)
    (hk : Kept o s) :
    Kept o (acquire s c scope) := by
  unfold acquire
  repeat' (first | with_reducible assumption | with_reducible apply kept_modCore | (with_reducible refine kept_foldl (fun s b hk => ?_) ?_) | (intro _ hk; exact hk) | extract_lets -underBinder | split | dsimp +zetaDelta only)

/-! ## MemAccess -/

theorem kept_faultAcc {o : Outside} (e : AccFault) (s : State)
    (hk : Kept o s) :
    Kept o (faultAcc e s) := by
  unfold faultAcc
  repeat' (first | with_reducible assumption | with_reducible apply kept_faulted | extract_lets -underBinder | split | dsimp +zetaDelta only)

theorem kept_renewLeases {o : Outside} (s : State) (w : Who) (ls : List Loc) (hk : Kept o s) : Kept o (renewLeases s w ls) := by
  unfold renewLeases
  extract_lets -underBinder p holder touched conflict
  clear_value p touched conflict
  refine kept_ite hk (kept_foldl (fun s h hs => ?_) hk)
  have hn := kept_newLease s h.die h.slice p.lease hs
  generalize newLease s h.die h.slice p.lease = r at hn ⊢
  exact kept_modPart hn

theorem kept_resolveWrite {o : Outside} (s : State) (bs : List Loc) (lsid : Nat)
    (hk : Kept o s) :
    Kept o (resolveWrite s bs lsid) := by
  unfold resolveWrite
  repeat' (first | with_reducible assumption | with_reducible apply kept_restartAt | extract_lets -underBinder | split | dsimp +zetaDelta only)

theorem kept_keepOrder {o : Outside} (s : State) (w : Who) (n : Nat) (tag : Tag) (lsid : Nat) (sync : Bool) (ls : List (Loc × Byte))
    (hk : Kept o s) :
    Kept o (keepOrder s w n tag lsid sync ls) := by
  unfold keepOrder
  repeat' (first | with_reducible assumption | with_reducible apply kept_restartAt | extract_lets -underBinder | split | dsimp +zetaDelta only)

theorem kept_dropOlder {o : Outside} (s : State) (w : Who) (ls : List Loc)
    (hk : Kept o s) :
    Kept o (dropOlder s w ls) := by
  unfold dropOlder
  repeat' (first | with_reducible assumption | with_reducible apply kept_dropOwnClean | (with_reducible refine kept_foldl (fun s b hk => ?_) ?_) | extract_lets -underBinder | split | dsimp +zetaDelta only)

theorem kept_leaveLines {o : Outside} (f : LFields) (s : State) (w : Who) (ls : List Loc)
    (hk : Kept o s) :
    Kept o (leaveLines f s w ls) := by
  unfold leaveLines
  repeat' (first | with_reducible assumption | with_reducible apply kept_dropMissed | with_reducible apply kept_dropOlder | with_reducible apply kept_fillLines | with_reducible apply kept_retain | (with_reducible refine kept_foldl (fun s b hk => ?_) ?_) | extract_lets -underBinder | split | dsimp +zetaDelta only)

theorem kept_loadDone {o : Outside} (i : Instr) (f : LFields) (s : State) (at_ : List (Loc × Word)) (tok : List Byte → Token)
    (hk : Kept o s) :
    Kept o (loadDone i f s at_ tok) := by
  unfold loadDone
  repeat' (first | with_reducible assumption | with_reducible apply kept_cacheHosts | with_reducible apply kept_faulted | with_reducible apply kept_fired | with_reducible apply kept_keepOrder | with_reducible apply kept_leaveLines | with_reducible apply kept_modFrame | with_reducible apply kept_renewLeases | extract_lets -underBinder | split | dsimp +zetaDelta only)

theorem kept_loadFar {o : Outside} (i : Instr) (f : LFields) (s : State) (p : Word) (ls : List Loc) (hk : Kept o s) :
    Kept o (loadFar i f s p ls) := by
  unfold loadFar
  split
  · exact hk
  · split
    · exact hk
    · extract_lets -underBinder
      split
      · exact kept_faulted _ _ _ _ s hk
      · extract_lets -underBinder bytes s'
        have hs : Kept o s' := by
          show Kept o (if _ then _ else _)
          split
          · exact kept_freeCounter hk
          · exact hk
        exact kept_answered _ _ _ _ hs

theorem kept_loadAt {o : Outside} (i : Instr) (f : LFields) (s : State) (p : Word)
    (hk : Kept o s) :
    Kept o (loadAt i f s p) := by
  unfold loadAt
  repeat' (first | with_reducible assumption | with_reducible apply kept_faultAcc | with_reducible apply kept_loadDone | with_reducible apply kept_loadFar | extract_lets -underBinder | split | dsimp +zetaDelta only)

theorem kept_storeDone {o : Outside} (i : Instr) (f : LFields) (s : State) (bs : List (Loc × Byte)) (p : Word) (kind : Nat)
    (hk : Kept o s) :
    Kept o (storeDone i f s bs p kind) := by
  unfold storeDone
  repeat' (first | with_reducible assumption | with_reducible apply kept_cacheHosts | with_reducible apply kept_fired | with_reducible apply kept_resolveWrite | extract_lets -underBinder | split | dsimp +zetaDelta only)

theorem kept_storeLanes {o : Outside} (i : Instr) (f : LFields) (s : State) (lanes : List (Nat × Word)) (data : Wide)
    (hk : Kept o s) :
    Kept o (storeLanes i f s lanes data) := by
  unfold storeLanes
  repeat' (first | with_reducible assumption | with_reducible apply kept_faultAcc | with_reducible apply kept_storeDone | extract_lets -underBinder | split | dsimp +zetaDelta only)

theorem kept_rcWait {o : Outside} (s : State) (fr : Frame) (line : Loc) (hk : Kept o s) : Kept o (rcWait s fr line) :=
  kept_ite hk (kept_rcQueue hk)

theorem kept_rcServed {o : Outside} (s : State) (fr : Frame) (hk : Kept o s) : Kept o (rcServed s fr) :=
  kept_ite hk (kept_rcQueue hk)

theorem kept_consumeAt {o : Outside} (i : Instr) (f : LFields) (s : State) (p : Word) (ls : List Loc)
    (hk : Kept o s) :
    Kept o (consumeAt i f s p ls) := by
  unfold consumeAt
  repeat' (first | with_reducible assumption | with_reducible apply kept_faultAcc | with_reducible apply kept_faulted | with_reducible apply kept_fired | with_reducible apply kept_keepOrder | with_reducible apply kept_modFrame | with_reducible apply kept_rcServed | with_reducible apply kept_rcWait | with_reducible apply kept_renewLeases | with_reducible apply kept_setReserved | extract_lets -underBinder | split | dsimp +zetaDelta only)

theorem kept_cacheLine {o : Outside} (s : State) (w : Who) (p : Word) (ws : List Word)
    (hk : Kept o s) :
    Kept o (cacheLine s w p ws) := by
  unfold cacheLine
  repeat' (first | with_reducible assumption | with_reducible apply kept_modCore | (intro _ hk; exact hk) | extract_lets -underBinder | split | dsimp +zetaDelta only)

theorem kept_fillImageLine {o : Outside} (s : State) (w : Who) (q : Word) (hk : Kept o s) : Kept o (fillImageLine s w q) := by
  unfold fillImageLine
  generalize fetchLine s w q = r
  generalize cachedLine s w q = r'
  cases r' <;> cases r
  · exact hk
  · exact kept_ite (kept_cacheLine _ _ _ _ hk) hk
  · exact hk
  · exact hk

theorem kept_fillImage {o : Outside} (s : State) (w : Who) (p : Word) (n : Nat) (hk : Kept o s) :
    Kept o (fillImage s w p n) :=
  kept_foldl (fun _ _ h => kept_fillImageLine _ _ _ h) hk

theorem kept_prefetchCode {o : Outside} (s : State) (w : Who) (p : Word) (hk : Kept o s) :
    Kept o (prefetchCode s w p) := by
  unfold prefetchCode
  extract_lets -underBinder
  split
  · exact hk
  · split
    · exact hk
    · exact kept_fillImage _ _ _ _ hk

theorem kept_execLd {o : Outside} (f : LFields) (s : State)
    (hk : Kept o s) :
    KeptR o (execLd f s) := by
  unfold execLd
  repeat' (first | with_reducible assumption | with_reducible apply kept_next | with_reducible apply kept_loadAt | (with_reducible refine kept_fire (fun a b c s hk => ?_) ?_) | extract_lets -underBinder | split | dsimp +zetaDelta only)

theorem kept_execLdRc {o : Outside} (f : LFields) (s : State) (hk : Kept o s) : KeptR o (execLdRc f s) := by
  unfold execLdRc
  refine kept_fire (fun a _ _ s hk => ?_) hk
  extract_lets p
  clear_value p
  generalize locate s (whoAt s) Want.write p (accessSize f.ty) = r
  generalize formatCheck f.ty p = fc
  cases basicCheck p with
  | some e => exact kept_faultAcc _ _ hk
  | none =>
    cases fc with
    | some e => exact kept_faultAcc _ _ hk
    | none =>
      refine kept_ite (kept_faulted _ _ _ _ s hk) ?_
      cases r with
      | error e => exact kept_faultAcc _ _ hk
      | ok ls => exact kept_ite (kept_faulted _ _ _ _ s hk) (kept_ite hk (kept_consumeAt _ _ _ _ _ hk))

theorem kept_execSt {o : Outside} (f : LFields) (s : State)
    (hk : Kept o s) :
    KeptR o (execSt f s) := by
  unfold execSt
  repeat' (first | with_reducible assumption | with_reducible apply kept_next | with_reducible apply kept_faultAcc | with_reducible apply kept_storeDone | (with_reducible refine kept_fire (fun a b c s hk => ?_) ?_) | extract_lets -underBinder | split | dsimp +zetaDelta only)

theorem kept_execStCnt {o : Outside} (f : LFields) (s : State)
    (hk : Kept o s) :
    KeptR o (execStCnt f s) := by
  unfold execStCnt
  repeat' (first | with_reducible assumption | with_reducible apply kept_next | with_reducible apply kept_faultAcc | with_reducible apply kept_faulted | with_reducible apply kept_fired | with_reducible apply kept_resolveWrite | (with_reducible refine kept_fire (fun a b c s hk => ?_) ?_) | extract_lets -underBinder | split | dsimp +zetaDelta only)

theorem kept_execGath {o : Outside} (f : LFields) (s : State)
    (hk : Kept o s) :
    KeptR o (execGath f s) := by
  unfold execGath
  repeat' (first | with_reducible assumption | with_reducible apply kept_next | with_reducible apply kept_faultAcc | with_reducible apply kept_loadDone | (with_reducible refine kept_fire (fun a b c s hk => ?_) ?_) | extract_lets -underBinder | split | dsimp +zetaDelta only)

theorem kept_execScat {o : Outside} (f : LFields) (s : State)
    (hk : Kept o s) :
    KeptR o (execScat f s) := by
  unfold execScat
  repeat' (first | with_reducible assumption | with_reducible apply kept_next | with_reducible apply kept_storeLanes | (with_reducible refine kept_fire (fun a b c s hk => ?_) ?_) | extract_lets -underBinder | split | dsimp +zetaDelta only)

theorem kept_execStm {o : Outside} (f : LFields) (s : State)
    (hk : Kept o s) :
    KeptR o (execStm f s) := by
  unfold execStm
  repeat' (first | with_reducible assumption | with_reducible apply kept_next | with_reducible apply kept_storeLanes | (with_reducible refine kept_fire (fun a b c s hk => ?_) ?_) | extract_lets -underBinder | split | dsimp +zetaDelta only)

theorem kept_prefetchLines {o : Outside} (f : LFields) (s : State) (w : Who) (ls : List Loc)
    (hk : Kept o s) :
    Kept o (prefetchLines f s w ls) := by
  unfold prefetchLines
  repeat' (first | with_reducible assumption | with_reducible apply kept_dropMissed | with_reducible apply kept_fillLines | with_reducible apply kept_retain | (with_reducible refine kept_foldl (fun s b hk => ?_) ?_) | extract_lets -underBinder | split | dsimp +zetaDelta only)

theorem kept_execPref {o : Outside} (f : LFields) (s : State)
    (hk : Kept o s) :
    KeptR o (execPref f s) := by
  unfold execPref
  repeat' (first | with_reducible assumption | with_reducible apply kept_next | with_reducible apply kept_fired | with_reducible apply kept_prefetchLines | (with_reducible refine kept_fire (fun a b c s hk => ?_) ?_) | extract_lets -underBinder | split | dsimp +zetaDelta only)

theorem kept_execPrefCode {o : Outside} (f : LFields) (s : State)
    (hk : Kept o s) :
    KeptR o (execPrefCode f s) := by
  unfold execPrefCode
  repeat' (first | with_reducible assumption | with_reducible apply kept_next | with_reducible apply kept_fired | with_reducible apply kept_prefetchCode | (with_reducible refine kept_fire (fun a b c s hk => ?_) ?_) | extract_lets -underBinder | split | dsimp +zetaDelta only)

theorem kept_execLds {o : Outside} (f : LFields) (s : State)
    (hk : Kept o s) :
    KeptR o (execLds f s) := by
  unfold execLds
  repeat' (first | with_reducible assumption | with_reducible apply kept_next | with_reducible apply kept_faulted | with_reducible apply kept_fired | with_reducible apply kept_modFrame | (with_reducible refine kept_fire (fun a b c s hk => ?_) ?_) | extract_lets -underBinder | split | dsimp +zetaDelta only)

theorem kept_execStq {o : Outside} (f : LFields) (s : State)
    (hk : Kept o s) :
    KeptR o (execStq f s) := by
  unfold execStq
  repeat' (first | with_reducible assumption | with_reducible apply kept_next | with_reducible apply kept_faultAcc | with_reducible apply kept_fired | (with_reducible refine kept_fire (fun a b c s hk => ?_) ?_) | extract_lets -underBinder | split | dsimp +zetaDelta only)

/-! ## CtrlRegs -/

theorem kept_killLaunch {o : Outside} (s : State) (die lid : Nat)
    (hk : Kept o s) :
    Kept o (killLaunch s die lid) := by
  unfold killLaunch
  repeat' (first | with_reducible assumption | with_reducible apply kept_modPart | (with_reducible refine kept_foldl (fun s b hk => ?_) ?_) | extract_lets -underBinder | split | dsimp +zetaDelta only)

theorem kept_writeControl {o : Outside} (s : State) (c : CtxId) (core n : Nat) (v : Word)
    (hk : Kept o s) :
    Kept o (writeControl s c core n v) := by
  unfold writeControl
  repeat' (first | with_reducible assumption | with_reducible apply kept_killLaunch | with_reducible apply kept_modCore | with_reducible apply kept_modCtx | with_reducible apply kept_modDie | with_reducible apply kept_modPart | with_reducible apply kept_modPartOf | with_reducible apply kept_squashYounger | (intro _ hk; exact hk) | extract_lets -underBinder | split | dsimp +zetaDelta only)

theorem kept_controlStore {o : Outside} (s : State) (c : CtxId) (part n : Nat) (v : Word)
    (hk : Kept o s) :
    Kept o (controlStore s c part n v) := by
  unfold controlStore
  repeat' (first | with_reducible assumption | with_reducible apply kept_modPart | with_reducible apply kept_writeControl | extract_lets -underBinder | split | dsimp +zetaDelta only)

theorem kept_controlStores {o : Outside} (s : State) (c : CtxId) (bs : List (Loc × Byte))
    (hk : Kept o s) :
    Kept o (controlStores s c bs) := by
  unfold controlStores
  repeat' (first | with_reducible assumption | with_reducible apply kept_controlStore | (with_reducible refine kept_foldl (fun s b hk => ?_) ?_) | extract_lets -underBinder | split | dsimp +zetaDelta only)

theorem kept_execGetc {o : Outside} (f : GFields) (s : State)
    (hk : Kept o s) :
    KeptR o (execGetc f s) := by
  unfold execGetc
  repeat' (first | with_reducible assumption | with_reducible apply kept_next | with_reducible apply kept_fired | (with_reducible refine kept_fire (fun a b c s hk => ?_) ?_) | extract_lets -underBinder | split | dsimp +zetaDelta only)

theorem kept_setControl {o : Outside} (i : Instr) (f : GFields) (s : State)
    (hk : Kept o s) :
    KeptR o (setControl i f s) := by
  unfold setControl
  repeat' (first | with_reducible assumption | with_reducible apply kept_next | with_reducible apply kept_fired | (with_reducible refine kept_fire (fun a b c s hk => ?_) ?_) | extract_lets -underBinder | split | dsimp +zetaDelta only)

theorem kept_execSetc {o : Outside} (f : GFields) (s : State)
    (hk : Kept o s) :
    KeptR o (execSetc f s) := by
  unfold execSetc
  repeat' (first | with_reducible assumption | with_reducible apply kept_next | with_reducible apply kept_setControl | extract_lets -underBinder | split | dsimp +zetaDelta only)

theorem kept_execRound {o : Outside} (f : GFields) (s : State)
    (hk : Kept o s) :
    KeptR o (execRound f s) := by
  unfold execRound
  repeat' (first | with_reducible assumption | with_reducible apply kept_next | with_reducible apply kept_setControl | extract_lets -underBinder | split | dsimp +zetaDelta only)

theorem kept_execSeed {o : Outside} (f : GFields) (s : State)
    (hk : Kept o s) :
    KeptR o (execSeed f s) := by
  unfold execSeed
  repeat' (first | with_reducible assumption | with_reducible apply kept_next | with_reducible apply kept_setControl | extract_lets -underBinder | split | dsimp +zetaDelta only)

theorem kept_execFeCtl {o : Outside} (f : GFields) (s : State)
    (hk : Kept o s) :
    KeptR o (execFeCtl f s) := by
  unfold execFeCtl
  repeat' (first | with_reducible assumption | with_reducible apply kept_next | with_reducible apply kept_setControl | extract_lets -underBinder | split | dsimp +zetaDelta only)

theorem kept_execCoreErr {o : Outside} (f : GFields) (s : State)
    (hk : Kept o s) :
    KeptR o (execCoreErr f s) := by
  unfold execCoreErr
  repeat' (first | with_reducible assumption | with_reducible apply kept_next | with_reducible apply kept_setControl | extract_lets -underBinder | split | dsimp +zetaDelta only)

theorem kept_execTlbInv {o : Outside} (f : GFields) (s : State)
    (hk : Kept o s) :
    KeptR o (execTlbInv f s) := by
  unfold execTlbInv
  repeat' (first | with_reducible assumption | with_reducible apply kept_next | with_reducible apply kept_setControl | extract_lets -underBinder | split | dsimp +zetaDelta only)

theorem kept_execPtRoot {o : Outside} (f : GFields) (s : State)
    (hk : Kept o s) :
    KeptR o (execPtRoot f s) := by
  unfold execPtRoot
  repeat' (first | with_reducible assumption | with_reducible apply kept_next | with_reducible apply kept_setControl | extract_lets -underBinder | split | dsimp +zetaDelta only)

theorem kept_execRcLogctl {o : Outside} (f : GFields) (s : State)
    (hk : Kept o s) :
    KeptR o (execRcLogctl f s) := by
  unfold execRcLogctl
  repeat' (first | with_reducible assumption | with_reducible apply kept_next | with_reducible apply kept_setControl | extract_lets -underBinder | split | dsimp +zetaDelta only)

theorem kept_execSpillCtl {o : Outside} (f : GFields) (s : State)
    (hk : Kept o s) :
    KeptR o (execSpillCtl f s) := by
  unfold execSpillCtl
  repeat' (first | with_reducible assumption | with_reducible apply kept_next | with_reducible apply kept_setControl | extract_lets -underBinder | split | dsimp +zetaDelta only)

theorem kept_execPartCfg {o : Outside} (f : GFields) (s : State)
    (hk : Kept o s) :
    KeptR o (execPartCfg f s) := by
  unfold execPartCfg
  repeat' (first | with_reducible assumption | with_reducible apply kept_next | with_reducible apply kept_setControl | extract_lets -underBinder | split | dsimp +zetaDelta only)

theorem kept_execDistKill {o : Outside} (f : GFields) (s : State)
    (hk : Kept o s) :
    KeptR o (execDistKill f s) := by
  unfold execDistKill
  repeat' (first | with_reducible assumption | with_reducible apply kept_next | with_reducible apply kept_setControl | extract_lets -underBinder | split | dsimp +zetaDelta only)

/-! ## Context -/

theorem kept_borderFault {o : Outside} (d : Word) (s : State)
    (hk : Kept o s) :
    Kept o (borderFault d s) := by
  unfold borderFault
  repeat' (first | with_reducible assumption | with_reducible apply kept_faulted | extract_lets -underBinder | split | dsimp +zetaDelta only)

theorem kept_takeMessage {o : Outside} {s t : State} {core cls : Nat} {m : QMsg} (h : takeMessage s core cls = some (m, t))
    (hk : Kept o s) : Kept o t := by
  unfold takeMessage at h
  split at h
  · cases h
  · cases h
    exact kept_modCore (fun _ h => h) hk

theorem kept_parkContext {o : Outside} (s : State) (c : CtxId)
    (hk : Kept o s) :
    Kept o (parkContext s c) := by
  unfold parkContext
  repeat' (first | with_reducible assumption | with_reducible apply kept_modCtx | with_reducible apply kept_squashParked | with_reducible apply kept_squashYounger | extract_lets -underBinder | split | dsimp +zetaDelta only)

theorem kept_execSpawn {o : Outside} (f : GFields) (s : State)
    (hk : Kept o s) :
    KeptR o (execSpawn f s) := by
  unfold execSpawn
  repeat' (first | with_reducible assumption | with_reducible apply kept_next | with_reducible apply kept_borderFault | with_reducible apply kept_faultAcc | with_reducible apply kept_faulted | with_reducible apply kept_fired | with_reducible apply kept_modCtx | (with_reducible refine kept_fire (fun a b c s hk => ?_) ?_) | extract_lets -underBinder | split | dsimp +zetaDelta only)

theorem kept_execQuit {o : Outside} (f : GFields) (s : State)
    (hk : Kept o s) :
    KeptR o (execQuit f s) := by
  unfold execQuit
  repeat' (first | with_reducible assumption | with_reducible apply kept_next | with_reducible apply kept_fired | (with_reducible refine kept_fire (fun a b c s hk => ?_) ?_) | extract_lets -underBinder | split | dsimp +zetaDelta only)

theorem kept_execYield {o : Outside} (f : GFields) (s : State)
    (hk : Kept o s) :
    KeptR o (execYield f s) := by
  unfold execYield
  repeat' (first | with_reducible assumption | with_reducible apply kept_next | with_reducible apply kept_fired | (with_reducible refine kept_fire (fun a b c s hk => ?_) ?_) | extract_lets -underBinder | split | dsimp +zetaDelta only)

theorem kept_execRepart {o : Outside} (f : GFields) (s : State)
    (hk : Kept o s) :
    KeptR o (execRepart f s) := by
  unfold execRepart
  repeat' (first | with_reducible assumption | with_reducible apply kept_next | with_reducible apply kept_fired | (with_reducible refine kept_fire (fun a b c s hk => ?_) ?_) | extract_lets -underBinder | split | dsimp +zetaDelta only)

theorem kept_execBind {o : Outside} (f : GFields) (s : State)
    (hk : Kept o s) :
    KeptR o (execBind f s) := by
  unfold execBind
  repeat' (first | with_reducible assumption | with_reducible apply kept_next | with_reducible apply kept_answered | with_reducible apply kept_modCore | (with_reducible refine kept_fire (fun a b c s hk => ?_) ?_) | (intro _ hk; exact hk) | extract_lets -underBinder | split | dsimp +zetaDelta only)

theorem kept_execUnbind {o : Outside} (f : GFields) (s : State)
    (hk : Kept o s) :
    KeptR o (execUnbind f s) := by
  unfold execUnbind
  repeat' (first | with_reducible assumption | with_reducible apply kept_next | with_reducible apply kept_answered | with_reducible apply kept_modCore | (with_reducible refine kept_fire (fun a b c s hk => ?_) ?_) | (intro _ hk; exact hk) | extract_lets -underBinder | split | dsimp +zetaDelta only)

theorem kept_execSend {o : Outside} (f : GFields) (s : State)
    (hk : Kept o s) :
    KeptR o (execSend f s) := by
  unfold execSend
  repeat' (first | with_reducible assumption | with_reducible apply kept_next | with_reducible apply kept_borderFault | with_reducible apply kept_fired | (with_reducible refine kept_fire (fun a b c s hk => ?_) ?_) | extract_lets -underBinder | split | dsimp +zetaDelta only)

theorem kept_execMcast {o : Outside} (f : GFields) (s : State)
    (hk : Kept o s) :
    KeptR o (execMcast f s) := by
  unfold execMcast
  repeat' (first | with_reducible assumption | with_reducible apply kept_next | with_reducible apply kept_fired | (with_reducible refine kept_fire (fun a b c s hk => ?_) ?_) | extract_lets -underBinder | split | dsimp +zetaDelta only)

theorem kept_execRecv {o : Outside} (f : GFields) (s : State) (hk : Kept o s) : KeptR o (execRecv f s) := by
  unfold execRecv
  refine kept_fire (fun a b c s hk => ?_) hk
  extract_lets -underBinder
  refine kept_ite hk ?_
  split
  · rename_i h
    split at h
    · exact kept_answered _ _ _ _ (kept_takeMessage h hk)
    · cases h
  · exact kept_ite (kept_answered _ _ _ _ hk) (kept_ite (kept_modCtx hk) (kept_parkContext _ _ hk))

theorem kept_execWaita {o : Outside} (f : GFields) (s : State)
    (hk : Kept o s) :
    KeptR o (execWaita f s) := by
  unfold execWaita
  repeat' (first | with_reducible assumption | with_reducible apply kept_next | with_reducible apply kept_answered | with_reducible apply kept_awaiting | with_reducible apply kept_faultAcc | with_reducible apply kept_faulted | with_reducible apply kept_modCtx | with_reducible apply kept_squashLater | (with_reducible refine kept_fire (fun a b c s hk => ?_) ?_) | extract_lets -underBinder | split | dsimp +zetaDelta only)

theorem kept_execTrap {o : Outside} (f : GFields) (s : State)
    (hk : Kept o s) :
    KeptR o (execTrap f s) := by
  unfold execTrap
  repeat' (first | with_reducible assumption | with_reducible apply kept_next | with_reducible apply kept_fired | (with_reducible refine kept_fire (fun a b c s hk => ?_) ?_) | extract_lets -underBinder | split | dsimp +zetaDelta only)

theorem kept_execRett {o : Outside} (f : GFields) (s : State)
    (hk : Kept o s) :
    KeptR o (execRett f s) := by
  unfold execRett
  repeat' (first | with_reducible assumption | with_reducible apply kept_next | with_reducible apply kept_borderFault | with_reducible apply kept_fired | with_reducible apply kept_modCtx | with_reducible apply kept_modThread | (with_reducible refine kept_fire (fun a b c s hk => ?_) ?_) | extract_lets -underBinder | split | dsimp +zetaDelta only)

theorem kept_execSyncb {o : Outside} (f : GFields) (s : State)
    (hk : Kept o s) :
    KeptR o (execSyncb f s) := by
  unfold execSyncb
  repeat' (first | with_reducible assumption | with_reducible apply kept_next | with_reducible apply kept_fired | (with_reducible refine kept_fire (fun a b c s hk => ?_) ?_) | extract_lets -underBinder | split | dsimp +zetaDelta only)

theorem kept_execLaunch {o : Outside} (f : GFields) (s : State)
    (hk : Kept o s) :
    KeptR o (execLaunch f s) := by
  unfold execLaunch
  repeat' (first | with_reducible assumption | with_reducible apply kept_next | with_reducible apply kept_faultAcc | with_reducible apply kept_faulted | with_reducible apply kept_fired | (with_reducible refine kept_fire (fun a b c s hk => ?_) ?_) | extract_lets -underBinder | split | dsimp +zetaDelta only)

end Sys2Proof.Laws
end

