-- ==== Sys2Proof/Laws/KeptBricks.lean ====
section
/-! SUPPORT. One lemma per operation that answers a state, and per meaning: it keeps the memories canonical and
changes nothing outside; here counted lines, tiles, atomics, the arithmetic bricks, exits, frames, the fabric, the matrix bricks and mortar. -/

set_option linter.unusedTactic false
set_option linter.unreachableTactic false
set_option linter.unusedVariables false

namespace Sys2Proof.Laws

open Sys2Proof Sys2Proof.Machine

/-! ## Counted -/

theorem kept_deviceWrite {o : Outside} {s t : State} {die part : Nat} {ptr : Word} {bs : List Byte}
    (h : deviceWrite s die part ptr bs = some t) (hk : Kept o s) : Kept o t := by
  unfold deviceWrite at h
  obtain ⟨ls, -, rfl⟩ := Option.map_eq_some_iff.mp h
  exact kept_wakeWatches _ _ (kept_homeWrite _ _ hk)

theorem kept_deviceWriteD {o : Outside} {s : State} {die part : Nat} {ptr : Word} {bs : List Byte} (hk : Kept o s) :
    Kept o ((deviceWrite s die part ptr bs).getD s) := by
  cases h : deviceWrite s die part ptr bs with
  | none => exact hk
  | some t => exact kept_deviceWrite h hk

theorem kept_logEntry {o : Outside} (s : State) (die part : Nat) (base ctl : Word) (ws : List Word) (hk : Kept o s) :
    Kept o (logEntry s die part base ctl ws).1 := by
  unfold logEntry
  extract_lets -underBinder
  split
  · exact hk
  · split
    · exact hk
    · rename_i h
      exact kept_deviceWrite h hk

theorem kept_logFor {o : Outside} (s : State) (c : CtxId) (l : Loc) (cause n region : Nat) (hk : Kept o s) :
    Kept o (logFor s c l cause n region) := by
  unfold logFor
  exact kept_modCtx (kept_logEntry _ _ _ _ _ _ hk)

theorem kept_dropClean {o : Outside} (s : State) (line : Nat)
    (hk : Kept o s) :
    Kept o (dropClean s line) := by
  unfold dropClean
  repeat' (first | with_reducible assumption | with_reducible apply kept_modCore | (with_reducible refine kept_foldl (fun s b hk => ?_) ?_) | (intro _ hk; exact hk) | extract_lets -underBinder | split | dsimp +zetaDelta only)

theorem kept_fillGen {o : Outside} (s : State) (line : Nat) (data : Option Wide) (n : Nat)
    (hk : Kept o s) :
    Kept o (fillGen s line data n) := by
  unfold fillGen
  repeat' (first | with_reducible assumption | with_reducible apply kept_dropClean | with_reducible apply kept_makeWay | with_reducible apply kept_modL2 | with_reducible apply kept_writeBack | extract_lets -underBinder | split | dsimp +zetaDelta only)

theorem kept_fillLine {o : Outside} (s : State) (w : Who) (l : Loc) (data : Option Wide) (n : Nat) (hk : Kept o s) :
    Kept o (fillLine s w l data n) := by
  unfold fillLine
  extract_lets -underBinder old region logged
  have hl : ∀ t, Kept o t → Kept o (logged t) := fun t h => kept_ite (kept_logFor _ _ _ _ _ _ h) h
  clear_value logged
  split
  · exact kept_wakeWatches _ _ (kept_fillGen _ _ _ _ (hl _ hk))
  · refine kept_ite hk ?_
    split
    · exact kept_coherentWrite _ _ _ (kept_modCore (fun _ h => h) (hl _ hk))
    · exact kept_wakeWatches _ _ (kept_modCore (fun _ h => h) (hl _ hk))
  · exact hk

theorem kept_spendUnit {o : Outside} (s : State) (l : Loc)
    (hk : Kept o s) :
    Kept o (spendUnit s l) := by
  unfold spendUnit
  repeat' (first | with_reducible assumption | with_reducible apply kept_modCore | with_reducible apply kept_modL2 | (intro _ hk; exact hk) | extract_lets -underBinder | split | dsimp +zetaDelta only)

theorem kept_clearLine {o : Outside} (s : State) (l : Loc)
    (hk : Kept o s) :
    Kept o (clearLine s l) := by
  unfold clearLine
  repeat' (first | with_reducible assumption | with_reducible apply kept_modCore | with_reducible apply kept_modL2 | with_reducible apply kept_writeBack | (intro _ hk; exact hk) | extract_lets -underBinder | split | dsimp +zetaDelta only)

theorem kept_endRegion {o : Outside} (s : State) (c : CtxId) (die part : Nat) (r : Region) (hk : Kept o s) :
    Kept o (endRegion s c die part r).1 := by
  unfold endRegion
  exact kept_modPart (kept_foldl (fun s b h => kept_clearLine _ _ (kept_logFor _ _ _ _ _ _ h)) hk)

theorem kept_undeclareRegion {o : Outside} (s : State) (die part : Nat) (r : Region) (hk : Kept o s) :
    Kept o (undeclareRegion s die part r) := by
  unfold undeclareRegion
  exact kept_modPart (kept_foldl_fst (fun p b h => kept_clearLine _ _ (kept_logEntry _ _ _ _ _ _ h)) hk)

/-! ## Tiles -/

theorem kept_reloadLater {o : Outside} (s : State) (c : CtxId) (tag : Tag) (lsid : Nat)
    (hk : Kept o s) :
    Kept o (reloadLater s c tag lsid) := by
  unfold reloadLater
  repeat' (first | with_reducible assumption | with_reducible apply kept_restartAt | with_reducible apply kept_squashYounger | extract_lets -underBinder | split | dsimp +zetaDelta only)

theorem kept_acquireEffect {o : Outside} (s : State) (c : CtxId) (scope : Nat) (tag : Tag) (lsid : Nat)
    (hk : Kept o s) :
    Kept o (acquireEffect s c scope tag lsid) := by
  unfold acquireEffect
  repeat' (first | with_reducible assumption | with_reducible apply kept_acquire | with_reducible apply kept_reloadLater | extract_lets -underBinder | split | dsimp +zetaDelta only)

theorem kept_mirror {o : Outside} (s : State) (die part idx : Nat) (ws : List Word) (hk : Kept o s) :
    Kept o (mirror s die part idx ws) :=
  kept_deviceWriteD hk

theorem kept_modHandle {o : Outside} (s : State) (die part idx : Nat) (f : Handle → Handle)
    (hk : Kept o s) :
    Kept o (modHandle s die part idx f) := by
  unfold modHandle
  repeat' (first | with_reducible assumption | with_reducible apply kept_modPart | extract_lets -underBinder | split | dsimp +zetaDelta only)

theorem kept_retireHandle {o : Outside} (s : State) (die part : Nat) (h : Handle)
    (hk : Kept o s) :
    Kept o (retireHandle s die part h) := by
  unfold retireHandle
  repeat' (first | with_reducible assumption | with_reducible apply kept_mirror | with_reducible apply kept_modPart | extract_lets -underBinder | split | dsimp +zetaDelta only)

theorem kept_grantTenure {o : Outside} (s : State) (die part : Nat) (h : Handle) (holder kind op fmt : Nat)
    (hk : Kept o s) :
    Kept o (grantTenure s die part h holder kind op fmt) := by
  unfold grantTenure
  repeat' (first | with_reducible assumption | with_reducible apply kept_modHandle | with_reducible apply kept_newLease | extract_lets -underBinder | split | dsimp +zetaDelta only)

theorem kept_answerRetired {o : Outside} (s : State) (die part idx hnum : Nat)
    (hk : Kept o s) :
    Kept o (answerRetired s die part idx hnum) := by
  unfold answerRetired
  repeat' (first | with_reducible assumption | with_reducible apply kept_answerLater | with_reducible apply kept_modCtx | with_reducible apply kept_modPart | (with_reducible refine kept_foldl (fun s b hk => ?_) ?_) | extract_lets -underBinder | split | dsimp +zetaDelta only)

theorem kept_combineRound {o : Outside} (s : State) (die part : Nat) (h : Handle) (pub : Option (CtxId × Word))
    (hk : Kept o s) :
    Kept o (combineRound s die part h pub) := by
  unfold combineRound
  repeat' (first | with_reducible assumption | with_reducible apply kept_asyncRecord | with_reducible apply kept_homeWrite | with_reducible apply kept_modHandle | with_reducible apply kept_wakeWatches | (with_reducible refine kept_foldl (fun s b hk => ?_) ?_) | extract_lets -underBinder | split | dsimp +zetaDelta only)

theorem kept_releaseRecord {o : Outside} (s : State) (die part : Nat) (h : Handle) (holder : Nat) (pub : Option (CtxId × Word))
    (hk : Kept o s) :
    Kept o (releaseRecord s die part h holder pub) := by
  unfold releaseRecord
  repeat' (first | with_reducible assumption | with_reducible apply kept_combineRound | with_reducible apply kept_modHandle | extract_lets -underBinder | split | dsimp +zetaDelta only)

theorem kept_releaseTenure {o : Outside} (s : State) (c : CtxId) (blk : Word) (hnum : Nat)
    (hk : Kept o s) :
    Kept o (releaseTenure s c blk hnum) := by
  unfold releaseTenure
  repeat' (first | with_reducible assumption | with_reducible apply kept_releaseRecord | extract_lets -underBinder | split | dsimp +zetaDelta only)

theorem kept_dropHolder {o : Outside} (s : State) (c : CtxId)
    (hk : Kept o s) :
    Kept o (dropHolder s c) := by
  unfold dropHolder
  repeat' (first | with_reducible assumption | with_reducible apply kept_modPart | with_reducible apply kept_publish | with_reducible apply kept_releaseRecord | (with_reducible refine kept_foldl (fun s b hk => ?_) ?_) | extract_lets -underBinder | split | dsimp +zetaDelta only)

theorem kept_holdHandle {o : Outside} (s : State) (c : CtxId) (hnum : Nat)
    (hk : Kept o s) :
    Kept o (holdHandle s c hnum) := by
  unfold holdHandle
  repeat' (first | with_reducible assumption | with_reducible apply kept_mirror | with_reducible apply kept_modHandle | extract_lets -underBinder | split | dsimp +zetaDelta only)

theorem kept_freeHandle {o : Outside} (s : State) (c : CtxId) (hnum : Nat)
    (hk : Kept o s) :
    Kept o (freeHandle s c hnum) := by
  unfold freeHandle
  repeat' (first | with_reducible assumption | with_reducible apply kept_answerRetired | with_reducible apply kept_retireHandle | extract_lets -underBinder | split | dsimp +zetaDelta only)

theorem kept_staleFault {o : Outside} (cause hnum : Nat) (s : State)
    (hk : Kept o s) :
    Kept o (staleFault cause hnum s) := by
  unfold staleFault
  repeat' (first | with_reducible assumption | with_reducible apply kept_faulted | extract_lets -underBinder | split | dsimp +zetaDelta only)

theorem kept_answerWord {o : Outside} (i : Instr) (w : Word) (s : State)
    (hk : Kept o s) :
    Kept o (answerWord i w s) := by
  unfold answerWord
  repeat' (first | with_reducible assumption | with_reducible apply kept_answered | extract_lets -underBinder | split | dsimp +zetaDelta only)

theorem kept_makeHandle {o : Outside} (f : LFields) (ws : List Word) (pa : Nat) (s : State)
    (hk : Kept o s) :
    Kept o (makeHandle f ws pa s) := by
  unfold makeHandle
  repeat' (first | with_reducible assumption | with_reducible apply kept_answerWord | with_reducible apply kept_mirror | with_reducible apply kept_modPart | extract_lets -underBinder | split | dsimp +zetaDelta only)

theorem kept_execThnew {o : Outside} (f : LFields) (s : State)
    (hk : Kept o s) :
    KeptR o (execThnew f s) := by
  unfold execThnew
  repeat' (first | with_reducible assumption | with_reducible apply kept_next | with_reducible apply kept_faultAcc | with_reducible apply kept_faulted | with_reducible apply kept_makeHandle | (with_reducible refine kept_fire (fun a b c s hk => ?_) ?_) | extract_lets -underBinder | split | dsimp +zetaDelta only)

theorem kept_execThfree {o : Outside} (f : LFields) (s : State)
    (hk : Kept o s) :
    KeptR o (execThfree f s) := by
  unfold execThfree
  repeat' (first | with_reducible assumption | with_reducible apply kept_next | with_reducible apply kept_fired | with_reducible apply kept_staleFault | (with_reducible refine kept_fire (fun a b c s hk => ?_) ?_) | extract_lets -underBinder | split | dsimp +zetaDelta only)

theorem kept_requestTenure {o : Outside} (f : LFields) (hnum : Nat) (h : Handle) (s : State)
    (hk : Kept o s) :
    Kept o (requestTenure f hnum h s) := by
  unfold requestTenure
  repeat' (first | with_reducible assumption | with_reducible apply kept_acquireEffect | with_reducible apply kept_answerWord | with_reducible apply kept_awaiting | with_reducible apply kept_grantTenure | with_reducible apply kept_modCtx | with_reducible apply kept_modPart | extract_lets -underBinder | split | dsimp +zetaDelta only)

theorem kept_execTacq {o : Outside} (f : LFields) (s : State)
    (hk : Kept o s) :
    KeptR o (execTacq f s) := by
  unfold execTacq
  repeat' (first | with_reducible assumption | with_reducible apply kept_next | with_reducible apply kept_awaiting | with_reducible apply kept_requestTenure | with_reducible apply kept_staleFault | (with_reducible refine kept_fire (fun a b c s hk => ?_) ?_) | extract_lets -underBinder | split | dsimp +zetaDelta only)

theorem kept_execTrel {o : Outside} (f : LFields) (s : State)
    (hk : Kept o s) :
    KeptR o (execTrel f s) := by
  unfold execTrel
  repeat' (first | with_reducible assumption | with_reducible apply kept_next | with_reducible apply kept_faulted | with_reducible apply kept_fired | with_reducible apply kept_staleFault | (with_reducible refine kept_fire (fun a b c s hk => ?_) ?_) | extract_lets -underBinder | split | dsimp +zetaDelta only)

theorem kept_splitHandle {o : Outside} (f : LFields) (hnum : Nat) (h : Handle) (s : State)
    (hk : Kept o s) :
    Kept o (splitHandle f hnum h s) := by
  unfold splitHandle
  repeat' (first | with_reducible assumption | with_reducible apply kept_answerRetired | with_reducible apply kept_answerWord | with_reducible apply kept_mirror | with_reducible apply kept_modPart | extract_lets -underBinder | split | dsimp +zetaDelta only)

theorem kept_execTsplit {o : Outside} (f : LFields) (s : State)
    (hk : Kept o s) :
    KeptR o (execTsplit f s) := by
  unfold execTsplit
  repeat' (first | with_reducible assumption | with_reducible apply kept_next | with_reducible apply kept_splitHandle | with_reducible apply kept_staleFault | (with_reducible refine kept_fire (fun a b c s hk => ?_) ?_) | extract_lets -underBinder | split | dsimp +zetaDelta only)

theorem kept_execTquery {o : Outside} (f : LFields) (s : State)
    (hk : Kept o s) :
    KeptR o (execTquery f s) := by
  unfold execTquery
  repeat' (first | with_reducible assumption | with_reducible apply kept_next | with_reducible apply kept_fired | with_reducible apply kept_staleFault | (with_reducible refine kept_fire (fun a b c s hk => ?_) ?_) | extract_lets -underBinder | split | dsimp +zetaDelta only)

/-! ## Atomics -/

theorem kept_flushLine {o : Outside} (s : State) (w : Who) (key : Nat) (hk : Kept o s) : Kept o (flushLine s w key) := by
  unfold flushLine
  refine kept_dropOwnClean _ _ _ (kept_asyncRecords _ _ ?_)
  exact kept_foldl_fst (fun p b h => kept_carryHome p.1 b (fun e => decide (e / 64 = key / 64)) none h) hk

theorem kept_flushOwn {o : Outside} (s : State) (w : Who) (key : Nat) (hk : Kept o s) : Kept o (flushOwn s w key) := by
  unfold flushOwn
  refine kept_dropOwnClean _ _ _ (kept_asyncRecords _ _ ?_)
  exact kept_foldl_fst (fun p b h => kept_carryHomeBy 0 p.1 b (fun e d => decide (e / 64 = key / 64) && d == w.c) none h) hk

theorem kept_settleLoc {o : Outside} (s : State) (w : Who) (l : Loc) (hk : Kept o s) : Kept o (settleLoc s w l) := by
  unfold settleLoc
  split
  · exact kept_flushLine _ _ _ hk
  · exact kept_flushLine _ _ _ hk
  · exact kept_drainCluster _ _ hk
  · exact hk

theorem kept_performAtomic {o : Outside} (i : Instr) (f : LFields) (op : AtomicNew) (s : State) (p : Word) (ls : List Loc) (b c : Nat) (dst : Option (Nat × Nat))
    (hk : Kept o s) : Kept o (performAtomic i f op s p ls b c dst) := by
  unfold performAtomic
  extract_lets -underBinder w me scope s1 s2 old new s3 s4 tag s5 s6
  have h1 : Kept o s1 := kept_ite (kept_publish _ _ _ _ hk) hk
  clear_value s1
  have h3 : Kept o s3 := kept_coherentWrite _ _ _ (kept_settleLoc _ _ _ h1)
  clear_value s3
  have h4 : Kept o s4 := by
    show Kept o (match dst with | some d => _ | none => _)
    split
    · exact kept_ite (kept_countSent _ _ _ (kept_modCtx h3)) h3
    · exact h3
  clear_value s4
  have h6 : Kept o s6 := kept_resolveWrite _ _ _ (kept_answered _ _ _ _ h4)
  clear_value s6
  exact kept_ite (kept_acquireEffect _ _ _ _ _ h6) (kept_reloadLater _ _ _ _ h6)

theorem kept_refuseAtomic {o : Outside} (i : Instr) (f : LFields) (cause : Nat) (p : Word) (s : State)
    (hk : Kept o s) :
    Kept o (refuseAtomic i f cause p s) := by
  unfold refuseAtomic
  repeat' (first | with_reducible assumption | with_reducible apply kept_answered | with_reducible apply kept_asyncRecord | with_reducible apply kept_faulted | extract_lets -underBinder | split | dsimp +zetaDelta only)

theorem kept_atomic {o : Outside} (i : Instr) (f : LFields) (op : AtomicNew) (s : State)
    (hk : Kept o s) :
    KeptR o (atomic i f op s) := by
  unfold atomic
  repeat' (first | with_reducible assumption | with_reducible apply kept_next | with_reducible apply kept_borderFault | with_reducible apply kept_faultAcc | with_reducible apply kept_faulted | with_reducible apply kept_performAtomic | with_reducible apply kept_refuseAtomic | (with_reducible refine kept_fire (fun a b c s hk => ?_) ?_) | extract_lets -underBinder | split | dsimp +zetaDelta only)

theorem kept_execAadd {o : Outside} (f : LFields) (s : State)
    (hk : Kept o s) :
    KeptR o (execAadd f s) := by
  unfold execAadd
  repeat' (first | with_reducible assumption | with_reducible apply kept_next | with_reducible apply kept_atomic | extract_lets -underBinder | split | dsimp +zetaDelta only)

theorem kept_execAmin {o : Outside} (f : LFields) (s : State)
    (hk : Kept o s) :
    KeptR o (execAmin f s) := by
  unfold execAmin
  repeat' (first | with_reducible assumption | with_reducible apply kept_next | with_reducible apply kept_atomic | extract_lets -underBinder | split | dsimp +zetaDelta only)

theorem kept_execAmax {o : Outside} (f : LFields) (s : State)
    (hk : Kept o s) :
    KeptR o (execAmax f s) := by
  unfold execAmax
  repeat' (first | with_reducible assumption | with_reducible apply kept_next | with_reducible apply kept_atomic | extract_lets -underBinder | split | dsimp +zetaDelta only)

theorem kept_execAand {o : Outside} (f : LFields) (s : State)
    (hk : Kept o s) :
    KeptR o (execAand f s) := by
  unfold execAand
  repeat' (first | with_reducible assumption | with_reducible apply kept_next | with_reducible apply kept_atomic | extract_lets -underBinder | split | dsimp +zetaDelta only)

theorem kept_execAor {o : Outside} (f : LFields) (s : State)
    (hk : Kept o s) :
    KeptR o (execAor f s) := by
  unfold execAor
  repeat' (first | with_reducible assumption | with_reducible apply kept_next | with_reducible apply kept_atomic | extract_lets -underBinder | split | dsimp +zetaDelta only)

theorem kept_execAxor {o : Outside} (f : LFields) (s : State)
    (hk : Kept o s) :
    KeptR o (execAxor f s) := by
  unfold execAxor
  repeat' (first | with_reducible assumption | with_reducible apply kept_next | with_reducible apply kept_atomic | extract_lets -underBinder | split | dsimp +zetaDelta only)

theorem kept_execAxchg {o : Outside} (f : LFields) (s : State)
    (hk : Kept o s) :
    KeptR o (execAxchg f s) := by
  unfold execAxchg
  repeat' (first | with_reducible assumption | with_reducible apply kept_next | with_reducible apply kept_atomic | extract_lets -underBinder | split | dsimp +zetaDelta only)

theorem kept_execAcas {o : Outside} (f : LFields) (s : State)
    (hk : Kept o s) :
    KeptR o (execAcas f s) := by
  unfold execAcas
  repeat' (first | with_reducible assumption | with_reducible apply kept_next | with_reducible apply kept_atomic | extract_lets -underBinder | split | dsimp +zetaDelta only)

theorem kept_execAfadd {o : Outside} (f : LFields) (s : State)
    (hk : Kept o s) :
    KeptR o (execAfadd f s) := by
  unfold execAfadd
  repeat' (first | with_reducible assumption | with_reducible apply kept_next | with_reducible apply kept_atomic | extract_lets -underBinder | split | dsimp +zetaDelta only)

theorem kept_execAfmin {o : Outside} (f : LFields) (s : State)
    (hk : Kept o s) :
    KeptR o (execAfmin f s) := by
  unfold execAfmin
  repeat' (first | with_reducible assumption | with_reducible apply kept_next | with_reducible apply kept_atomic | extract_lets -underBinder | split | dsimp +zetaDelta only)

theorem kept_execAfmax {o : Outside} (f : LFields) (s : State)
    (hk : Kept o s) :
    KeptR o (execAfmax f s) := by
  unfold execAfmax
  repeat' (first | with_reducible assumption | with_reducible apply kept_next | with_reducible apply kept_atomic | extract_lets -underBinder | split | dsimp +zetaDelta only)

theorem kept_execPhase {o : Outside} (f : LFields) (s : State)
    (hk : Kept o s) :
    KeptR o (execPhase f s) := by
  unfold execPhase
  repeat' (first | with_reducible assumption | with_reducible apply kept_next | with_reducible apply kept_fired | (with_reducible refine kept_fire (fun a b c s hk => ?_) ?_) | extract_lets -underBinder | split | dsimp +zetaDelta only)

theorem kept_declareRegion {o : Outside} (f : LFields) (sp : Option Nat) (lo len : Nat) (s : State)
    (hk : Kept o s) :
    Kept o (declareRegion f sp lo len s) := by
  unfold declareRegion
  repeat' (first | with_reducible assumption | with_reducible apply kept_answerWord | with_reducible apply kept_modPartOf | extract_lets -underBinder | split | dsimp +zetaDelta only)

theorem kept_execRcdecl {o : Outside} (f : LFields) (s : State)
    (hk : Kept o s) :
    KeptR o (execRcdecl f s) := by
  unfold execRcdecl
  repeat' (first | with_reducible assumption | with_reducible apply kept_next | with_reducible apply kept_declareRegion | with_reducible apply kept_faultAcc | with_reducible apply kept_faulted | (with_reducible refine kept_fire (fun a b c s hk => ?_) ?_) | extract_lets -underBinder | split | dsimp +zetaDelta only)

theorem kept_endDeclared {o : Outside} (f : LFields) (r : Region) (s : State) (hk : Kept o s) :
    Kept o (endDeclared f r s) := by
  unfold endDeclared
  extract_lets -underBinder c die part held
  clear_value held
  cases held with
  | some q => exact kept_faulted _ _ _ _ s hk
  | none => exact kept_ite (kept_awaiting _ (kept_modPart hk)) (kept_answerWord _ _ _ (kept_endRegion _ _ _ _ _ hk))

theorem kept_execRcend {o : Outside} (f : LFields) (s : State)
    (hk : Kept o s) :
    KeptR o (execRcend f s) := by
  unfold execRcend
  repeat' (first | with_reducible assumption | with_reducible apply kept_next | with_reducible apply kept_answerWord | with_reducible apply kept_awaiting | with_reducible apply kept_endDeclared | with_reducible apply kept_faulted | (with_reducible refine kept_fire (fun a b c s hk => ?_) ?_) | extract_lets -underBinder | split | dsimp +zetaDelta only)

theorem kept_execRcq {o : Outside} (f : LFields) (s : State)
    (hk : Kept o s) :
    KeptR o (execRcq f s) := by
  unfold execRcq
  repeat' (first | with_reducible assumption | with_reducible apply kept_next | with_reducible apply kept_faultAcc | with_reducible apply kept_faulted | with_reducible apply kept_fired | (with_reducible refine kept_fire (fun a b c s hk => ?_) ?_) | extract_lets -underBinder | split | dsimp +zetaDelta only)

theorem kept_rangeWriteBack {o : Outside} (i : Instr) (f : LFields) (invalidate : Bool) (s : State)
    (hk : Kept o s) :
    KeptR o (rangeWriteBack i f invalidate s) := by
  unfold rangeWriteBack
  repeat' (first | with_reducible assumption | with_reducible apply kept_next | with_reducible apply kept_faultAcc | with_reducible apply kept_fired | (with_reducible refine kept_fire (fun a b c s hk => ?_) ?_) | extract_lets -underBinder | split | dsimp +zetaDelta only)

theorem kept_execRwb {o : Outside} (f : LFields) (s : State)
    (hk : Kept o s) :
    KeptR o (execRwb f s) := by
  unfold execRwb
  repeat' (first | with_reducible assumption | with_reducible apply kept_next | with_reducible apply kept_rangeWriteBack | extract_lets -underBinder | split | dsimp +zetaDelta only)

theorem kept_execRinv {o : Outside} (f : LFields) (s : State)
    (hk : Kept o s) :
    KeptR o (execRinv f s) := by
  unfold execRinv
  repeat' (first | with_reducible assumption | with_reducible apply kept_next | with_reducible apply kept_rangeWriteBack | extract_lets -underBinder | split | dsimp +zetaDelta only)

theorem kept_discardLine {o : Outside} (s : State) (c : CtxId) (group : List Nat) (q : Nat × Nat)
    (hk : Kept o s) :
    Kept o (discardLine s c group q) := by
  unfold discardLine
  repeat' (first | with_reducible assumption | with_reducible apply kept_logFor | with_reducible apply kept_modCore | with_reducible apply kept_modL2 | (with_reducible refine kept_foldl (fun s b hk => ?_) ?_) | (intro _ hk; exact hk) | extract_lets -underBinder | split | dsimp +zetaDelta only)

theorem kept_discardRange {o : Outside} (f : LFields) (p : Word) (len : Nat) (s : State)
    (hk : Kept o s) :
    Kept o (discardRange f p len s) := by
  unfold discardRange
  repeat' (first | with_reducible assumption | with_reducible apply kept_answered | with_reducible apply kept_awaiting | with_reducible apply kept_discardLine | with_reducible apply kept_faulted | with_reducible apply kept_modCtx | with_reducible apply kept_reloadLater | (with_reducible refine kept_foldl (fun s b hk => ?_) ?_) | extract_lets -underBinder | split | dsimp +zetaDelta only)

theorem kept_execRdisc {o : Outside} (f : LFields) (s : State)
    (hk : Kept o s) :
    KeptR o (execRdisc f s) := by
  unfold execRdisc
  repeat' (first | with_reducible assumption | with_reducible apply kept_next | with_reducible apply kept_discardRange | with_reducible apply kept_faultAcc | (with_reducible refine kept_fire (fun a b c s hk => ?_) ?_) | extract_lets -underBinder | split | dsimp +zetaDelta only)

/-! ## IntAlu -/

theorem kept_execAdd {o : Outside} (f : GFields) (s : State)
    (hk : Kept o s) :
    KeptR o (execAdd f s) := by
  unfold execAdd
  repeat' (first | with_reducible assumption | with_reducible apply kept_next | with_reducible apply kept_compute | extract_lets -underBinder | split | dsimp +zetaDelta only)

theorem kept_execSub {o : Outside} (f : GFields) (s : State)
    (hk : Kept o s) :
    KeptR o (execSub f s) := by
  unfold execSub
  repeat' (first | with_reducible assumption | with_reducible apply kept_next | with_reducible apply kept_compute | extract_lets -underBinder | split | dsimp +zetaDelta only)

theorem kept_execNeg {o : Outside} (f : GFields) (s : State)
    (hk : Kept o s) :
    KeptR o (execNeg f s) := by
  unfold execNeg
  repeat' (first | with_reducible assumption | with_reducible apply kept_next | with_reducible apply kept_compute | extract_lets -underBinder | split | dsimp +zetaDelta only)

theorem kept_execAbs {o : Outside} (f : GFields) (s : State)
    (hk : Kept o s) :
    KeptR o (execAbs f s) := by
  unfold execAbs
  repeat' (first | with_reducible assumption | with_reducible apply kept_next | with_reducible apply kept_compute | extract_lets -underBinder | split | dsimp +zetaDelta only)

theorem kept_execMul {o : Outside} (f : GFields) (s : State)
    (hk : Kept o s) :
    KeptR o (execMul f s) := by
  unfold execMul
  repeat' (first | with_reducible assumption | with_reducible apply kept_next | with_reducible apply kept_compute | extract_lets -underBinder | split | dsimp +zetaDelta only)

theorem kept_execMulh {o : Outside} (f : GFields) (s : State)
    (hk : Kept o s) :
    KeptR o (execMulh f s) := by
  unfold execMulh
  repeat' (first | with_reducible assumption | with_reducible apply kept_next | with_reducible apply kept_compute | extract_lets -underBinder | split | dsimp +zetaDelta only)

theorem kept_execMad {o : Outside} (f : GFields) (s : State)
    (hk : Kept o s) :
    KeptR o (execMad f s) := by
  unfold execMad
  repeat' (first | with_reducible assumption | with_reducible apply kept_next | with_reducible apply kept_compute | extract_lets -underBinder | split | dsimp +zetaDelta only)

theorem kept_execDiv {o : Outside} (f : GFields) (s : State)
    (hk : Kept o s) :
    KeptR o (execDiv f s) := by
  unfold execDiv
  repeat' (first | with_reducible assumption | with_reducible apply kept_next | with_reducible apply kept_compute | extract_lets -underBinder | split | dsimp +zetaDelta only)

theorem kept_execRem {o : Outside} (f : GFields) (s : State)
    (hk : Kept o s) :
    KeptR o (execRem f s) := by
  unfold execRem
  repeat' (first | with_reducible assumption | with_reducible apply kept_next | with_reducible apply kept_compute | extract_lets -underBinder | split | dsimp +zetaDelta only)

theorem kept_execMinI {o : Outside} (f : GFields) (s : State)
    (hk : Kept o s) :
    KeptR o (execMinI f s) := by
  unfold execMinI
  repeat' (first | with_reducible assumption | with_reducible apply kept_next | with_reducible apply kept_compute | extract_lets -underBinder | split | dsimp +zetaDelta only)

theorem kept_execMaxI {o : Outside} (f : GFields) (s : State)
    (hk : Kept o s) :
    KeptR o (execMaxI f s) := by
  unfold execMaxI
  repeat' (first | with_reducible assumption | with_reducible apply kept_next | with_reducible apply kept_compute | extract_lets -underBinder | split | dsimp +zetaDelta only)

theorem kept_execClamp {o : Outside} (f : GFields) (s : State)
    (hk : Kept o s) :
    KeptR o (execClamp f s) := by
  unfold execClamp
  repeat' (first | with_reducible assumption | with_reducible apply kept_next | with_reducible apply kept_compute | extract_lets -underBinder | split | dsimp +zetaDelta only)

theorem kept_execAbsd {o : Outside} (f : GFields) (s : State)
    (hk : Kept o s) :
    KeptR o (execAbsd f s) := by
  unfold execAbsd
  repeat' (first | with_reducible assumption | with_reducible apply kept_next | with_reducible apply kept_compute | extract_lets -underBinder | split | dsimp +zetaDelta only)

theorem kept_execAvg {o : Outside} (f : GFields) (s : State)
    (hk : Kept o s) :
    KeptR o (execAvg f s) := by
  unfold execAvg
  repeat' (first | with_reducible assumption | with_reducible apply kept_next | with_reducible apply kept_compute | extract_lets -underBinder | split | dsimp +zetaDelta only)

theorem kept_execAddc {o : Outside} (f : GFields) (s : State)
    (hk : Kept o s) :
    KeptR o (execAddc f s) := by
  unfold execAddc
  repeat' (first | with_reducible assumption | with_reducible apply kept_next | with_reducible apply kept_fired | (with_reducible refine kept_fire (fun a b c s hk => ?_) ?_) | extract_lets -underBinder | split | dsimp +zetaDelta only)

theorem kept_execSubb {o : Outside} (f : GFields) (s : State)
    (hk : Kept o s) :
    KeptR o (execSubb f s) := by
  unfold execSubb
  repeat' (first | with_reducible assumption | with_reducible apply kept_next | with_reducible apply kept_fired | (with_reducible refine kept_fire (fun a b c s hk => ?_) ?_) | extract_lets -underBinder | split | dsimp +zetaDelta only)

theorem kept_execDot4 {o : Outside} (f : GFields) (s : State)
    (hk : Kept o s) :
    KeptR o (execDot4 f s) := by
  unfold execDot4
  repeat' (first | with_reducible assumption | with_reducible apply kept_next | with_reducible apply kept_compute | extract_lets -underBinder | split | dsimp +zetaDelta only)

theorem kept_execSad {o : Outside} (f : GFields) (s : State)
    (hk : Kept o s) :
    KeptR o (execSad f s) := by
  unfold execSad
  repeat' (first | with_reducible assumption | with_reducible apply kept_next | with_reducible apply kept_compute | extract_lets -underBinder | split | dsimp +zetaDelta only)

theorem kept_execAddp {o : Outside} (f : GFields) (s : State)
    (hk : Kept o s) :
    KeptR o (execAddp f s) := by
  unfold execAddp
  repeat' (first | with_reducible assumption | with_reducible apply kept_next | with_reducible apply kept_compute | extract_lets -underBinder | split | dsimp +zetaDelta only)

theorem kept_execSubp {o : Outside} (f : GFields) (s : State)
    (hk : Kept o s) :
    KeptR o (execSubp f s) := by
  unfold execSubp
  repeat' (first | with_reducible assumption | with_reducible apply kept_next | with_reducible apply kept_compute | extract_lets -underBinder | split | dsimp +zetaDelta only)

theorem kept_execPtrf {o : Outside} (f : GFields) (s : State)
    (hk : Kept o s) :
    KeptR o (execPtrf f s) := by
  unfold execPtrf
  repeat' (first | with_reducible assumption | with_reducible apply kept_next | with_reducible apply kept_compute | extract_lets -underBinder | split | dsimp +zetaDelta only)

theorem kept_execPtrx {o : Outside} (f : GFields) (s : State)
    (hk : Kept o s) :
    KeptR o (execPtrx f s) := by
  unfold execPtrx
  repeat' (first | with_reducible assumption | with_reducible apply kept_next | with_reducible apply kept_compute | extract_lets -underBinder | split | dsimp +zetaDelta only)

/-! ## Logic -/

theorem kept_execAndB {o : Outside} (f : GFields) (s : State)
    (hk : Kept o s) :
    KeptR o (execAndB f s) := by
  unfold execAndB
  repeat' (first | with_reducible assumption | with_reducible apply kept_next | with_reducible apply kept_compute | extract_lets -underBinder | split | dsimp +zetaDelta only)

theorem kept_execOrB {o : Outside} (f : GFields) (s : State)
    (hk : Kept o s) :
    KeptR o (execOrB f s) := by
  unfold execOrB
  repeat' (first | with_reducible assumption | with_reducible apply kept_next | with_reducible apply kept_compute | extract_lets -underBinder | split | dsimp +zetaDelta only)

theorem kept_execXorB {o : Outside} (f : GFields) (s : State)
    (hk : Kept o s) :
    KeptR o (execXorB f s) := by
  unfold execXorB
  repeat' (first | with_reducible assumption | with_reducible apply kept_next | with_reducible apply kept_compute | extract_lets -underBinder | split | dsimp +zetaDelta only)

theorem kept_execAndn {o : Outside} (f : GFields) (s : State)
    (hk : Kept o s) :
    KeptR o (execAndn f s) := by
  unfold execAndn
  repeat' (first | with_reducible assumption | with_reducible apply kept_next | with_reducible apply kept_compute | extract_lets -underBinder | split | dsimp +zetaDelta only)

theorem kept_execOrn {o : Outside} (f : GFields) (s : State)
    (hk : Kept o s) :
    KeptR o (execOrn f s) := by
  unfold execOrn
  repeat' (first | with_reducible assumption | with_reducible apply kept_next | with_reducible apply kept_compute | extract_lets -underBinder | split | dsimp +zetaDelta only)

theorem kept_execNotB {o : Outside} (f : GFields) (s : State)
    (hk : Kept o s) :
    KeptR o (execNotB f s) := by
  unfold execNotB
  repeat' (first | with_reducible assumption | with_reducible apply kept_next | with_reducible apply kept_compute | extract_lets -underBinder | split | dsimp +zetaDelta only)

theorem kept_execShl {o : Outside} (f : GFields) (s : State)
    (hk : Kept o s) :
    KeptR o (execShl f s) := by
  unfold execShl
  repeat' (first | with_reducible assumption | with_reducible apply kept_next | with_reducible apply kept_compute | extract_lets -underBinder | split | dsimp +zetaDelta only)

theorem kept_execShr {o : Outside} (f : GFields) (s : State)
    (hk : Kept o s) :
    KeptR o (execShr f s) := by
  unfold execShr
  repeat' (first | with_reducible assumption | with_reducible apply kept_next | with_reducible apply kept_compute | extract_lets -underBinder | split | dsimp +zetaDelta only)

theorem kept_execSar {o : Outside} (f : GFields) (s : State)
    (hk : Kept o s) :
    KeptR o (execSar f s) := by
  unfold execSar
  repeat' (first | with_reducible assumption | with_reducible apply kept_next | with_reducible apply kept_compute | extract_lets -underBinder | split | dsimp +zetaDelta only)

theorem kept_execRol {o : Outside} (f : GFields) (s : State)
    (hk : Kept o s) :
    KeptR o (execRol f s) := by
  unfold execRol
  repeat' (first | with_reducible assumption | with_reducible apply kept_next | with_reducible apply kept_compute | extract_lets -underBinder | split | dsimp +zetaDelta only)

theorem kept_execRor {o : Outside} (f : GFields) (s : State)
    (hk : Kept o s) :
    KeptR o (execRor f s) := by
  unfold execRor
  repeat' (first | with_reducible assumption | with_reducible apply kept_next | with_reducible apply kept_compute | extract_lets -underBinder | split | dsimp +zetaDelta only)

theorem kept_execPopc {o : Outside} (f : GFields) (s : State)
    (hk : Kept o s) :
    KeptR o (execPopc f s) := by
  unfold execPopc
  repeat' (first | with_reducible assumption | with_reducible apply kept_next | with_reducible apply kept_compute | extract_lets -underBinder | split | dsimp +zetaDelta only)

theorem kept_execClz {o : Outside} (f : GFields) (s : State)
    (hk : Kept o s) :
    KeptR o (execClz f s) := by
  unfold execClz
  repeat' (first | with_reducible assumption | with_reducible apply kept_next | with_reducible apply kept_compute | extract_lets -underBinder | split | dsimp +zetaDelta only)

theorem kept_execCtz {o : Outside} (f : GFields) (s : State)
    (hk : Kept o s) :
    KeptR o (execCtz f s) := by
  unfold execCtz
  repeat' (first | with_reducible assumption | with_reducible apply kept_next | with_reducible apply kept_compute | extract_lets -underBinder | split | dsimp +zetaDelta only)

theorem kept_execBrev {o : Outside} (f : GFields) (s : State)
    (hk : Kept o s) :
    KeptR o (execBrev f s) := by
  unfold execBrev
  repeat' (first | with_reducible assumption | with_reducible apply kept_next | with_reducible apply kept_compute | extract_lets -underBinder | split | dsimp +zetaDelta only)

theorem kept_execBswap {o : Outside} (f : GFields) (s : State)
    (hk : Kept o s) :
    KeptR o (execBswap f s) := by
  unfold execBswap
  repeat' (first | with_reducible assumption | with_reducible apply kept_next | with_reducible apply kept_compute | extract_lets -underBinder | split | dsimp +zetaDelta only)

theorem kept_execBext {o : Outside} (f : GFields) (s : State)
    (hk : Kept o s) :
    KeptR o (execBext f s) := by
  unfold execBext
  repeat' (first | with_reducible assumption | with_reducible apply kept_next | with_reducible apply kept_compute | extract_lets -underBinder | split | dsimp +zetaDelta only)

theorem kept_execBins {o : Outside} (f : GFields) (s : State)
    (hk : Kept o s) :
    KeptR o (execBins f s) := by
  unfold execBins
  repeat' (first | with_reducible assumption | with_reducible apply kept_next | with_reducible apply kept_compute | extract_lets -underBinder | split | dsimp +zetaDelta only)

/-! ## DataOps -/

theorem kept_execHash32 {o : Outside} (f : GFields) (s : State)
    (hk : Kept o s) :
    KeptR o (execHash32 f s) := by
  unfold execHash32
  repeat' (first | with_reducible assumption | with_reducible apply kept_next | with_reducible apply kept_compute | extract_lets -underBinder | split | dsimp +zetaDelta only)

theorem kept_execHash64 {o : Outside} (f : GFields) (s : State)
    (hk : Kept o s) :
    KeptR o (execHash64 f s) := by
  unfold execHash64
  repeat' (first | with_reducible assumption | with_reducible apply kept_next | with_reducible apply kept_compute | extract_lets -underBinder | split | dsimp +zetaDelta only)

theorem kept_execHcomb {o : Outside} (f : GFields) (s : State)
    (hk : Kept o s) :
    KeptR o (execHcomb f s) := by
  unfold execHcomb
  repeat' (first | with_reducible assumption | with_reducible apply kept_next | with_reducible apply kept_compute | extract_lets -underBinder | split | dsimp +zetaDelta only)

theorem kept_execBucket {o : Outside} (f : GFields) (s : State)
    (hk : Kept o s) :
    KeptR o (execBucket f s) := by
  unfold execBucket
  repeat' (first | with_reducible assumption | with_reducible apply kept_next | with_reducible apply kept_compute | extract_lets -underBinder | split | dsimp +zetaDelta only)

theorem kept_execBkhist {o : Outside} (f : GFields) (s : State)
    (hk : Kept o s) :
    KeptR o (execBkhist f s) := by
  unfold execBkhist
  repeat' (first | with_reducible assumption | with_reducible apply kept_next | with_reducible apply kept_compute | extract_lets -underBinder | split | dsimp +zetaDelta only)

theorem kept_execBkscat {o : Outside} (f : GFields) (s : State)
    (hk : Kept o s) :
    KeptR o (execBkscat f s) := by
  unfold execBkscat
  repeat' (first | with_reducible assumption | with_reducible apply kept_next | with_reducible apply kept_fired | (with_reducible refine kept_fire (fun a b c s hk => ?_) ?_) | extract_lets -underBinder | split | dsimp +zetaDelta only)

theorem kept_execSlen {o : Outside} (f : GFields) (s : State)
    (hk : Kept o s) :
    KeptR o (execSlen f s) := by
  unfold execSlen
  repeat' (first | with_reducible assumption | with_reducible apply kept_next | with_reducible apply kept_compute | extract_lets -underBinder | split | dsimp +zetaDelta only)

theorem kept_execScmp {o : Outside} (f : GFields) (s : State)
    (hk : Kept o s) :
    KeptR o (execScmp f s) := by
  unfold execScmp
  repeat' (first | with_reducible assumption | with_reducible apply kept_next | with_reducible apply kept_compute | extract_lets -underBinder | split | dsimp +zetaDelta only)

theorem kept_execSpfx {o : Outside} (f : GFields) (s : State)
    (hk : Kept o s) :
    KeptR o (execSpfx f s) := by
  unfold execSpfx
  repeat' (first | with_reducible assumption | with_reducible apply kept_next | with_reducible apply kept_compute | extract_lets -underBinder | split | dsimp +zetaDelta only)

theorem kept_execSfind {o : Outside} (f : GFields) (s : State)
    (hk : Kept o s) :
    KeptR o (execSfind f s) := by
  unfold execSfind
  repeat' (first | with_reducible assumption | with_reducible apply kept_next | with_reducible apply kept_compute | extract_lets -underBinder | split | dsimp +zetaDelta only)

theorem kept_execShash {o : Outside} (f : GFields) (s : State)
    (hk : Kept o s) :
    KeptR o (execShash f s) := by
  unfold execShash
  repeat' (first | with_reducible assumption | with_reducible apply kept_next | with_reducible apply kept_compute | extract_lets -underBinder | split | dsimp +zetaDelta only)

theorem kept_execIsect {o : Outside} (f : GFields) (s : State)
    (hk : Kept o s) :
    KeptR o (execIsect f s) := by
  unfold execIsect
  repeat' (first | with_reducible assumption | with_reducible apply kept_next | with_reducible apply kept_broadcast | with_reducible apply kept_modFrame | extract_lets -underBinder | split | dsimp +zetaDelta only)

/-! ## Exits -/

theorem kept_tellExit {o : Outside} (s : State) (c : CtxId) (pos : Nat) (e : ExitRec)
    (hk : Kept o s) :
    Kept o (tellExit s c pos e) := by
  unfold tellExit
  repeat' (first | with_reducible assumption | with_reducible apply kept_modMate | (with_reducible refine kept_foldl (fun s b hk => ?_) ?_) | extract_lets -underBinder | split | dsimp +zetaDelta only)

theorem kept_takeExit {o : Outside} (i : Instr) (e : ExitRec) (s : State)
    (hk : Kept o s) :
    Kept o (takeExit i e s) := by
  unfold takeExit
  repeat' (first | with_reducible assumption | with_reducible apply kept_fired | with_reducible apply kept_followExit | with_reducible apply kept_modFrame | with_reducible apply kept_tellExit | extract_lets -underBinder | split | dsimp +zetaDelta only)

theorem kept_takeBr {o : Outside} (i : Instr) (f : BFields) (s : State)
    (hk : Kept o s) :
    Kept o (takeBr i f s) := by
  unfold takeBr
  repeat' (first | with_reducible assumption | with_reducible apply kept_takeExit | extract_lets -underBinder | split | dsimp +zetaDelta only)

theorem kept_execBr {o : Outside} (f : BFields) (s : State)
    (hk : Kept o s) :
    KeptR o (execBr f s) := by
  unfold execBr
  repeat' (first | with_reducible assumption | with_reducible apply kept_next | with_reducible apply kept_takeBr | (with_reducible refine kept_fire (fun a b c s hk => ?_) ?_) | extract_lets -underBinder | split | dsimp +zetaDelta only)

theorem kept_execBrLeave {o : Outside} (f : BFields) (s : State)
    (hk : Kept o s) :
    KeptR o (execBrLeave f s) := by
  unfold execBrLeave
  repeat' (first | with_reducible assumption | with_reducible apply kept_next | with_reducible apply kept_takeBr | (with_reducible refine kept_fire (fun a b c s hk => ?_) ?_) | extract_lets -underBinder | split | dsimp +zetaDelta only)

theorem kept_execBrMchk {o : Outside} (f : BFields) (s : State)
    (hk : Kept o s) :
    KeptR o (execBrMchk f s) := by
  unfold execBrMchk
  repeat' (first | with_reducible assumption | with_reducible apply kept_next | with_reducible apply kept_takeBr | (with_reducible refine kept_fire (fun a b c s hk => ?_) ?_) | extract_lets -underBinder | split | dsimp +zetaDelta only)

theorem kept_execBri {o : Outside} (f : BFields) (s : State)
    (hk : Kept o s) :
    KeptR o (execBri f s) := by
  unfold execBri
  repeat' (first | with_reducible assumption | with_reducible apply kept_next | with_reducible apply kept_takeExit | (with_reducible refine kept_fire (fun a b c s hk => ?_) ?_) | extract_lets -underBinder | split | dsimp +zetaDelta only)

/-! ## Frames -/

theorem kept_endYields {o : Outside} (s : State) (core : Nat)
    (hk : Kept o s) :
    Kept o (endYields s core) := by
  unfold endYields
  repeat' (first | with_reducible assumption | with_reducible apply kept_modCore | (intro _ hk; exact hk) | extract_lets -underBinder | split | dsimp +zetaDelta only)

theorem kept_grantFrame {o : Outside} (s : State) (c : CtxId) (addr : Word)
    (hk : Kept o s) :
    Kept o (grantFrame s c addr) := by
  unfold grantFrame
  repeat' (first | with_reducible assumption | with_reducible apply kept_endYields | with_reducible apply kept_modCore | with_reducible apply kept_modCtx | (intro _ hk; exact hk) | extract_lets -underBinder | split | dsimp +zetaDelta only)

theorem kept_execFrameGrant {o : Outside} (c : CtxId) (predicted : Option Word) (s : State)
    (hk : Kept o s) :
    KeptR o (execFrameGrant c predicted s) := by
  unfold execFrameGrant
  repeat' (first | with_reducible assumption | with_reducible apply kept_next | with_reducible apply kept_grantFrame | with_reducible apply kept_squashCourse | extract_lets -underBinder | split | dsimp +zetaDelta only)

theorem kept_fetchFault {o : Outside} (s : State) (c : CtxId) (n : Nat) (fr : Frame) (e : AccFault)
    (hk : Kept o s) :
    Kept o (fetchFault s c n fr e) := by
  unfold fetchFault
  repeat' (first | with_reducible assumption | with_reducible apply kept_modCtx | with_reducible apply kept_squashFrom | with_reducible apply kept_stopContext | extract_lets -underBinder | split | dsimp +zetaDelta only)

theorem kept_fillNext {o : Outside} (s : State) (c : CtxId) (line : Word)
    (hk : Kept o s) :
    Kept o (fillNext s c line) := by
  unfold fillNext
  repeat' (first | with_reducible assumption | with_reducible apply kept_cacheLine | with_reducible apply kept_fetchFault | extract_lets -underBinder | split | dsimp +zetaDelta only)

theorem kept_execBlockFetchFill {o : Outside} (c : CtxId) (line : Fill) (s : State)
    (hk : Kept o s) :
    KeptR o (execBlockFetchFill c line s) := by
  unfold execBlockFetchFill
  repeat' (first | with_reducible assumption | with_reducible apply kept_next | with_reducible apply kept_fillNext | with_reducible apply kept_modCore | (intro _ hk; exact hk) | extract_lets -underBinder | split | dsimp +zetaDelta only)

theorem kept_wakeBricks {o : Outside} (s : State) (core : Nat) (fr : Frame)
    (hk : Kept o s) :
    Kept o (wakeBricks s core fr) := by
  unfold wakeBricks
  repeat' (first | with_reducible assumption | with_reducible apply kept_modCore | (with_reducible refine kept_foldl (fun s b hk => ?_) ?_) | (intro _ hk; exact hk) | extract_lets -underBinder | split | dsimp +zetaDelta only)

theorem kept_forwardImage {o : Outside} (s : State) (c : CtxId) (fr : Frame)
    (hk : Kept o s) :
    Kept o (forwardImage s c fr) := by
  unfold forwardImage
  repeat' (first | with_reducible assumption | with_reducible apply kept_forwardTo | (with_reducible refine kept_foldl (fun s b hk => ?_) ?_) | extract_lets -underBinder | split | dsimp +zetaDelta only)

theorem kept_beginFrame {o : Outside} (s : State) (c : CtxId) (n : Nat) (fr : Frame)
    (hk : Kept o s) :
    Kept o (beginFrame s c n fr) := by
  unfold beginFrame
  repeat' (first | with_reducible assumption | with_reducible apply kept_forwardImage | with_reducible apply kept_modCtx | with_reducible apply kept_wakeBricks | extract_lets -underBinder | split | dsimp +zetaDelta only)

theorem kept_mapImage {o : Outside} (s : State) (c : CtxId) (n : Nat) (fr : Frame)
    (hk : Kept o s) :
    Kept o (mapImage s c n fr) := by
  unfold mapImage
  repeat' (first | with_reducible assumption | with_reducible apply kept_beginFrame | with_reducible apply kept_forwardImage | with_reducible apply kept_modFrame | extract_lets -underBinder | split | dsimp +zetaDelta only)

theorem kept_arriveMuster {o : Outside} (s : State) (c : CtxId) (addr : Word)
    (hk : Kept o s) :
    Kept o (arriveMuster s c addr) := by
  unfold arriveMuster
  repeat' (first | with_reducible assumption | with_reducible apply kept_dropFrom | with_reducible apply kept_modMate | (with_reducible refine kept_foldl (fun s b hk => ?_) ?_) | extract_lets -underBinder | split | dsimp +zetaDelta only)

theorem kept_execBlockMap {o : Outside} (c : CtxId) (s : State)
    (hk : Kept o s) :
    KeptR o (execBlockMap c s) := by
  unfold execBlockMap
  repeat' (first | with_reducible assumption | with_reducible apply kept_next | with_reducible apply kept_arriveMuster | with_reducible apply kept_fetchFault | with_reducible apply kept_mapImage | extract_lets -underBinder | split | dsimp +zetaDelta only)

theorem kept_refuseToken {o : Outside} (s : State) (c : CtxId) (n k : Nat) (fr : Frame) (f : Flight)
    (hk : Kept o s) :
    Kept o (refuseToken s c n k fr f) := by
  unfold refuseToken
  repeat' (first | with_reducible assumption | with_reducible apply kept_modCore | with_reducible apply kept_modFrame | (intro _ hk; exact hk) | extract_lets -underBinder | split | dsimp +zetaDelta only)

theorem kept_arrive {o : Outside} (s : State) (c : CtxId) (n k : Nat) (fr : Frame) (f : Flight) (parityError : Bool)
    (hk : Kept o s) :
    Kept o (arrive s c n k fr f parityError) := by
  unfold arrive
  repeat' (first | with_reducible assumption | with_reducible apply kept_modFrame | with_reducible apply kept_refuseToken | extract_lets -underBinder | split | dsimp +zetaDelta only)

theorem kept_countCorrected {o : Outside} (s : State) (core : Nat)
    (hk : Kept o s) :
    Kept o (countCorrected s core) := by
  unfold countCorrected
  repeat' (first | with_reducible assumption | with_reducible apply kept_modCore | (intro _ hk; exact hk) | extract_lets -underBinder | split | dsimp +zetaDelta only)

theorem kept_deliverRead {o : Outside} (s : State) (c : CtxId) (n j : Nat) (fr : Frame) (upset : Upset)
    (hk : Kept o s) :
    Kept o (deliverRead s c n j fr upset) := by
  unfold deliverRead
  repeat' (first | with_reducible assumption | with_reducible apply kept_modCore | with_reducible apply kept_modFrame | (with_reducible refine kept_foldl (fun s b hk => ?_) ?_) | (intro _ hk; exact hk) | extract_lets -underBinder | split | dsimp +zetaDelta only)

theorem kept_deliverUniform {o : Outside} (s : State) (c : CtxId) (n : Nat) (fr : Frame) (f : Flight) (parityError : Bool)
    (hk : Kept o s) :
    Kept o (deliverUniform s c n fr f parityError) := by
  unfold deliverUniform
  repeat' (first | with_reducible assumption | with_reducible apply kept_modCore | with_reducible apply kept_modCtx | (intro _ hk; exact hk) | extract_lets -underBinder | split | dsimp +zetaDelta only)

theorem kept_queueError {o : Outside} (s : State) (c : CtxId) (n idx : Nat) (fr : Frame)
    (hk : Kept o s) :
    Kept o (queueError s c n idx fr) := by
  unfold queueError
  repeat' (first | with_reducible assumption | with_reducible apply kept_modFrame | extract_lets -underBinder | split | dsimp +zetaDelta only)

theorem kept_arriveAt {o : Outside} (s : State) (c : CtxId) (frame n : Nat) (fr : Frame) (upset : Upset)
    (hk : Kept o s) :
    Kept o (arriveAt s c frame n fr upset) := by
  unfold arriveAt
  repeat' (first | with_reducible assumption | with_reducible apply kept_arrive | with_reducible apply kept_deliverRead | with_reducible apply kept_deliverUniform | extract_lets -underBinder | split | dsimp +zetaDelta only)

theorem kept_execTokenArrival {o : Outside} (c : CtxId) (frame : Nat) (n : Nat) (upset : Upset) (s : State)
    (hk : Kept o s) :
    KeptR o (execTokenArrival c frame n upset s) := by
  unfold execTokenArrival
  repeat' (first | with_reducible assumption | with_reducible apply kept_next | with_reducible apply kept_arriveAt | with_reducible apply kept_countCorrected | with_reducible apply kept_queueError | extract_lets -underBinder | split | dsimp +zetaDelta only)

theorem kept_execTokenResend {o : Outside} (c : CtxId) (frame : Nat) (n : Nat) (parityError : Bool) (s : State)
    (hk : Kept o s) :
    KeptR o (execTokenResend c frame n parityError s) := by
  unfold execTokenResend
  repeat' (first | with_reducible assumption | with_reducible apply kept_next | with_reducible apply kept_arrive | with_reducible apply kept_deliverUniform | extract_lets -underBinder | split | dsimp +zetaDelta only)

theorem kept_emit {o : Outside} (s : State) (c : CtxId) (n : Nat) (i : Instr) (f : LFields) (q : Stream)
    (hk : Kept o s) :
    Kept o (emit s c n i f q) := by
  unfold emit
  repeat' (first | with_reducible assumption | with_reducible apply kept_keepOrder | with_reducible apply kept_leaveLines | with_reducible apply kept_modFrame | with_reducible apply kept_renewLeases | extract_lets -underBinder | split | dsimp +zetaDelta only)

theorem kept_execLdsEmit {o : Outside} (c : CtxId) (index : Nat) (s : State)
    (hk : Kept o s) :
    KeptR o (execLdsEmit c index s) := by
  unfold execLdsEmit
  repeat' (first | with_reducible assumption | with_reducible apply kept_next | with_reducible apply kept_emit | extract_lets -underBinder | split | dsimp +zetaDelta only)

theorem kept_execBrickGate {o : Outside} (core : Nat) (brick : Nat) (s : State)
    (hk : Kept o s) :
    KeptR o (execBrickGate core brick s) := by
  unfold execBrickGate
  repeat' (first | with_reducible assumption | with_reducible apply kept_next | with_reducible apply kept_modCore | (intro _ hk; exact hk) | extract_lets -underBinder | split | dsimp +zetaDelta only)

/-! ## Fabric -/

theorem kept_execWset {o : Outside} (f : LFields) (s : State)
    (hk : Kept o s) :
    KeptR o (execWset f s) := by
  unfold execWset
  repeat' (first | with_reducible assumption | with_reducible apply kept_next | with_reducible apply kept_faulted | with_reducible apply kept_fired | (with_reducible refine kept_fire (fun a b c s hk => ?_) ?_) | extract_lets -underBinder | split | dsimp +zetaDelta only)

theorem kept_execWget {o : Outside} (f : LFields) (s : State)
    (hk : Kept o s) :
    KeptR o (execWget f s) := by
  unfold execWget
  repeat' (first | with_reducible assumption | with_reducible apply kept_next | with_reducible apply kept_fired | (with_reducible refine kept_fire (fun a b c s hk => ?_) ?_) | extract_lets -underBinder | split | dsimp +zetaDelta only)

theorem kept_startCollective {o : Outside} (f : LFields) (p : Word) (ws : List Word) (s : State)
    (hk : Kept o s) :
    Kept o (startCollective f p ws s) := by
  unfold startCollective
  repeat' (first | with_reducible assumption | with_reducible apply kept_faultAcc | with_reducible apply kept_faulted | with_reducible apply kept_fired | extract_lets -underBinder | split | dsimp +zetaDelta only)

theorem kept_execColl {o : Outside} (f : LFields) (s : State) (hk : Kept o s) : KeptR o (execColl f s) := by
  unfold execColl
  refine kept_fire (fun a _ _ s hk => ?_) hk
  extract_lets p
  clear_value p
  generalize locate s (whoAt s) Want.read p 64 = r
  cases collPointer p with
  | some e => exact kept_faultAcc _ _ hk
  | none =>
    cases r with
    | error e => exact kept_faultAcc _ _ hk
    | ok ls =>
      dsimp only
      split
      · exact kept_faulted _ _ _ _ s hk
      · exact kept_startCollective _ _ _ s hk

theorem kept_execCwait {o : Outside} (f : LFields) (s : State) (hk : Kept o s) : KeptR o (execCwait f s) := by
  unfold execCwait
  refine kept_fire (fun a _ _ s hk => ?_) hk
  extract_lets p c x
  clear_value p
  generalize locate s (whoAt s) Want.read (addrOf p 48) 8 = r
  refine kept_ite (kept_awaiting _ hk) (kept_ite hk ?_)
  cases collPointer p with
  | some e => exact kept_faultAcc _ _ hk
  | none =>
    cases r with
    | error e => exact kept_faultAcc _ _ hk
    | ok ls =>
      dsimp only
      cases lastColl x p with
      | none => exact kept_answerWord _ _ _ hk
      | some n =>
        dsimp only
        split
        · exact hk
        · exact kept_ite (kept_reloadLater _ _ _ _ (kept_answerWord _ _ _ hk)) (kept_awaiting _ (kept_modCtx hk))

theorem kept_execFlink {o : Outside} (f : LFields) (s : State)
    (hk : Kept o s) :
    KeptR o (execFlink f s) := by
  unfold execFlink
  repeat' (first | with_reducible assumption | with_reducible apply kept_next | with_reducible apply kept_fired | (with_reducible refine kept_fire (fun a b c s hk => ?_) ?_) | extract_lets -underBinder | split | dsimp +zetaDelta only)

theorem kept_modColl {o : Outside} (s : State) (c : CtxId) (n : Nat) (f : Coll → Coll)
    (hk : Kept o s) :
    Kept o (modColl s c n f) := by
  unfold modColl
  repeat' (first | with_reducible assumption | with_reducible apply kept_modCtx | extract_lets -underBinder | split | dsimp +zetaDelta only)

theorem kept_commitColl {o : Outside} (s : State) (c : CtxId) (desc : Word) (ws ms : List Word)
    (hk : Kept o s) :
    Kept o (commitColl s c desc ws ms) := by
  unfold commitColl
  repeat' (first | with_reducible assumption | with_reducible apply kept_modCtx | extract_lets -underBinder | split | dsimp +zetaDelta only)

theorem kept_writeFor {o : Outside} {s t : State} {c : CtxId} {p : Word} {bs : List Byte} (h : writeFor s c p bs = some t)
    (hk : Kept o s) : Kept o t := by
  unfold writeFor at h
  extract_lets w at h
  generalize locate s w Want.write p bs.length = r at h
  cases r with
  | error e => cases h
  | ok ls =>
    dsimp only at h
    generalize linesOf _ = lines at h
    have h2 : Kept o (lines.foldl (fun s l => dropClean (flushLine s w (64 * l)) l) s) :=
      kept_foldl (fun s b h => kept_dropClean _ _ (kept_flushLine _ _ _ h)) hk
    generalize lines.foldl (fun s l => dropClean (flushLine s w (64 * l)) l) s = u at h h2
    cases h
    exact kept_coherentWrite _ _ _ h2

theorem kept_writeForD {o : Outside} {s : State} {c : CtxId} {p : Word} {bs : List Byte} (hk : Kept o s) :
    Kept o ((writeFor s c p bs).getD s) := by
  cases h : writeFor s c p bs with
  | none => exact hk
  | some t => exact kept_writeFor h hk

theorem kept_wakeCwait {o : Outside} (s : State) (c : CtxId) (n : Nat) (status : Word)
    (hk : Kept o s) :
    Kept o (wakeCwait s c n status) := by
  unfold wakeCwait
  repeat' (first | with_reducible assumption | with_reducible apply kept_answerLater | with_reducible apply kept_modCtx | with_reducible apply kept_reloadLater | extract_lets -underBinder | split | dsimp +zetaDelta only)

theorem kept_closeMember {o : Outside} (s : State) (c : CtxId) (n : Nat) (q : Coll) (code : Nat) (hk : Kept o s) :
    Kept o (closeMember s c n q code) :=
  kept_wakeCwait _ _ _ _ (kept_modColl _ _ _ _ (kept_writeForD hk))

theorem kept_endMember {o : Outside} (s : State) (c : CtxId) (n code : Nat) (bs : List Byte) (q : Coll) (hk : Kept o s) :
    Kept o (endMember s c n code bs q) :=
  kept_closeMember _ _ _ _ _ (kept_writeForD hk)

theorem kept_finishMember {o : Outside} (s : State) (c : CtxId) (n code : Nat) (ks : List Contribution) (hk : Kept o s) :
    Kept o (finishMember s c n code ks) := by
  unfold finishMember
  split
  · exact hk
  · exact kept_endMember _ _ _ _ _ _ (kept_freeCounter hk)

theorem kept_endCollective {o : Outside} (s : State) (c : CtxId) (n : Nat)
    (hk : Kept o s) :
    Kept o (endCollective s c n) := by
  unfold endCollective
  repeat' (first | with_reducible assumption | with_reducible apply kept_finishMember | (with_reducible refine kept_foldl (fun s b hk => ?_) ?_) | extract_lets -underBinder | split | dsimp +zetaDelta only)

/-! ## FloatAlu -/

theorem kept_computeR {o : Outside} {i : Instr} {s : State} {r : RoundOvr} {f : Rounding → Wide → Wide → Wide → Wide × BitVec 6}
    (hk : Kept o s) : KeptR o (computeR i s r f) := by
  refine kept_fire (fun a b c t ht => ?_) hk
  dsimp only
  split
  · exact ht
  · exact kept_fired _ _ t ht

theorem kept_execFadd {o : Outside} (f : GFields) (s : State)
    (hk : Kept o s) :
    KeptR o (execFadd f s) := by
  unfold execFadd
  repeat' (first | with_reducible assumption | with_reducible apply kept_next | with_reducible apply kept_computeR | extract_lets -underBinder | split | dsimp +zetaDelta only)

theorem kept_execFsub {o : Outside} (f : GFields) (s : State)
    (hk : Kept o s) :
    KeptR o (execFsub f s) := by
  unfold execFsub
  repeat' (first | with_reducible assumption | with_reducible apply kept_next | with_reducible apply kept_computeR | extract_lets -underBinder | split | dsimp +zetaDelta only)

theorem kept_execFmul {o : Outside} (f : GFields) (s : State)
    (hk : Kept o s) :
    KeptR o (execFmul f s) := by
  unfold execFmul
  repeat' (first | with_reducible assumption | with_reducible apply kept_next | with_reducible apply kept_computeR | extract_lets -underBinder | split | dsimp +zetaDelta only)

theorem kept_execFdiv {o : Outside} (f : GFields) (s : State)
    (hk : Kept o s) :
    KeptR o (execFdiv f s) := by
  unfold execFdiv
  repeat' (first | with_reducible assumption | with_reducible apply kept_next | with_reducible apply kept_computeR | extract_lets -underBinder | split | dsimp +zetaDelta only)

theorem kept_execFma {o : Outside} (f : GFields) (s : State)
    (hk : Kept o s) :
    KeptR o (execFma f s) := by
  unfold execFma
  repeat' (first | with_reducible assumption | with_reducible apply kept_next | with_reducible apply kept_computeR | extract_lets -underBinder | split | dsimp +zetaDelta only)

theorem kept_execFms {o : Outside} (f : GFields) (s : State)
    (hk : Kept o s) :
    KeptR o (execFms f s) := by
  unfold execFms
  repeat' (first | with_reducible assumption | with_reducible apply kept_next | with_reducible apply kept_computeR | extract_lets -underBinder | split | dsimp +zetaDelta only)

theorem kept_execFnma {o : Outside} (f : GFields) (s : State)
    (hk : Kept o s) :
    KeptR o (execFnma f s) := by
  unfold execFnma
  repeat' (first | with_reducible assumption | with_reducible apply kept_next | with_reducible apply kept_computeR | extract_lets -underBinder | split | dsimp +zetaDelta only)

theorem kept_execFnms {o : Outside} (f : GFields) (s : State)
    (hk : Kept o s) :
    KeptR o (execFnms f s) := by
  unfold execFnms
  repeat' (first | with_reducible assumption | with_reducible apply kept_next | with_reducible apply kept_computeR | extract_lets -underBinder | split | dsimp +zetaDelta only)

theorem kept_execFmin {o : Outside} (f : GFields) (s : State)
    (hk : Kept o s) :
    KeptR o (execFmin f s) := by
  unfold execFmin
  repeat' (first | with_reducible assumption | with_reducible apply kept_next | with_reducible apply kept_compute | extract_lets -underBinder | split | dsimp +zetaDelta only)

theorem kept_execFmax {o : Outside} (f : GFields) (s : State)
    (hk : Kept o s) :
    KeptR o (execFmax f s) := by
  unfold execFmax
  repeat' (first | with_reducible assumption | with_reducible apply kept_next | with_reducible apply kept_compute | extract_lets -underBinder | split | dsimp +zetaDelta only)

theorem kept_execFabs {o : Outside} (f : GFields) (s : State)
    (hk : Kept o s) :
    KeptR o (execFabs f s) := by
  unfold execFabs
  repeat' (first | with_reducible assumption | with_reducible apply kept_next | with_reducible apply kept_compute | extract_lets -underBinder | split | dsimp +zetaDelta only)

theorem kept_execFneg {o : Outside} (f : GFields) (s : State)
    (hk : Kept o s) :
    KeptR o (execFneg f s) := by
  unfold execFneg
  repeat' (first | with_reducible assumption | with_reducible apply kept_next | with_reducible apply kept_compute | extract_lets -underBinder | split | dsimp +zetaDelta only)

theorem kept_execFsqrt {o : Outside} (f : GFields) (s : State)
    (hk : Kept o s) :
    KeptR o (execFsqrt f s) := by
  unfold execFsqrt
  repeat' (first | with_reducible assumption | with_reducible apply kept_next | with_reducible apply kept_computeR | extract_lets -underBinder | split | dsimp +zetaDelta only)

theorem kept_execFclass {o : Outside} (f : GFields) (s : State)
    (hk : Kept o s) :
    KeptR o (execFclass f s) := by
  unfold execFclass
  repeat' (first | with_reducible assumption | with_reducible apply kept_next | with_reducible apply kept_compute | extract_lets -underBinder | split | dsimp +zetaDelta only)

theorem kept_execFcpys {o : Outside} (f : GFields) (s : State)
    (hk : Kept o s) :
    KeptR o (execFcpys f s) := by
  unfold execFcpys
  repeat' (first | with_reducible assumption | with_reducible apply kept_next | with_reducible apply kept_compute | extract_lets -underBinder | split | dsimp +zetaDelta only)

theorem kept_execFrcp {o : Outside} (f : GFields) (s : State)
    (hk : Kept o s) :
    KeptR o (execFrcp f s) := by
  unfold execFrcp
  repeat' (first | with_reducible assumption | with_reducible apply kept_next | with_reducible apply kept_computeR | extract_lets -underBinder | split | dsimp +zetaDelta only)

theorem kept_execFrsq {o : Outside} (f : GFields) (s : State)
    (hk : Kept o s) :
    KeptR o (execFrsq f s) := by
  unfold execFrsq
  repeat' (first | with_reducible assumption | with_reducible apply kept_next | with_reducible apply kept_computeR | extract_lets -underBinder | split | dsimp +zetaDelta only)

theorem kept_execFexp2 {o : Outside} (f : GFields) (s : State)
    (hk : Kept o s) :
    KeptR o (execFexp2 f s) := by
  unfold execFexp2
  repeat' (first | with_reducible assumption | with_reducible apply kept_next | with_reducible apply kept_computeR | extract_lets -underBinder | split | dsimp +zetaDelta only)

theorem kept_execFlog2 {o : Outside} (f : GFields) (s : State)
    (hk : Kept o s) :
    KeptR o (execFlog2 f s) := by
  unfold execFlog2
  repeat' (first | with_reducible assumption | with_reducible apply kept_next | with_reducible apply kept_computeR | extract_lets -underBinder | split | dsimp +zetaDelta only)

theorem kept_execFsin {o : Outside} (f : GFields) (s : State)
    (hk : Kept o s) :
    KeptR o (execFsin f s) := by
  unfold execFsin
  repeat' (first | with_reducible assumption | with_reducible apply kept_next | with_reducible apply kept_computeR | extract_lets -underBinder | split | dsimp +zetaDelta only)

theorem kept_execFcos {o : Outside} (f : GFields) (s : State)
    (hk : Kept o s) :
    KeptR o (execFcos f s) := by
  unfold execFcos
  repeat' (first | with_reducible assumption | with_reducible apply kept_next | with_reducible apply kept_computeR | extract_lets -underBinder | split | dsimp +zetaDelta only)

theorem kept_execFtanh {o : Outside} (f : GFields) (s : State)
    (hk : Kept o s) :
    KeptR o (execFtanh f s) := by
  unfold execFtanh
  repeat' (first | with_reducible assumption | with_reducible apply kept_next | with_reducible apply kept_computeR | extract_lets -underBinder | split | dsimp +zetaDelta only)

theorem kept_execFsig {o : Outside} (f : GFields) (s : State)
    (hk : Kept o s) :
    KeptR o (execFsig f s) := by
  unfold execFsig
  repeat' (first | with_reducible assumption | with_reducible apply kept_next | with_reducible apply kept_computeR | extract_lets -underBinder | split | dsimp +zetaDelta only)

theorem kept_execFrnd {o : Outside} (f : GFields) (s : State)
    (hk : Kept o s) :
    KeptR o (execFrnd f s) := by
  unfold execFrnd
  repeat' (first | with_reducible assumption | with_reducible apply kept_next | with_reducible apply kept_computeR | extract_lets -underBinder | split | dsimp +zetaDelta only)

/-! ## Convert -/

theorem kept_execCvtf {o : Outside} (f : GFields) (s : State)
    (hk : Kept o s) :
    KeptR o (execCvtf f s) := by
  unfold execCvtf
  repeat' (first | with_reducible assumption | with_reducible apply kept_next | with_reducible apply kept_computeR | extract_lets -underBinder | split | dsimp +zetaDelta only)

theorem kept_execCvtfi {o : Outside} (f : GFields) (s : State)
    (hk : Kept o s) :
    KeptR o (execCvtfi f s) := by
  unfold execCvtfi
  repeat' (first | with_reducible assumption | with_reducible apply kept_next | with_reducible apply kept_computeR | extract_lets -underBinder | split | dsimp +zetaDelta only)

theorem kept_execCvtif {o : Outside} (f : GFields) (s : State)
    (hk : Kept o s) :
    KeptR o (execCvtif f s) := by
  unfold execCvtif
  repeat' (first | with_reducible assumption | with_reducible apply kept_next | with_reducible apply kept_computeR | extract_lets -underBinder | split | dsimp +zetaDelta only)

theorem kept_execCvti {o : Outside} (f : GFields) (s : State)
    (hk : Kept o s) :
    KeptR o (execCvti f s) := by
  unfold execCvti
  repeat' (first | with_reducible assumption | with_reducible apply kept_next | with_reducible apply kept_compute | extract_lets -underBinder | split | dsimp +zetaDelta only)

theorem kept_execPack8 {o : Outside} (f : GFields) (s : State)
    (hk : Kept o s) :
    KeptR o (execPack8 f s) := by
  unfold execPack8
  repeat' (first | with_reducible assumption | with_reducible apply kept_next | with_reducible apply kept_computeR | extract_lets -underBinder | split | dsimp +zetaDelta only)

theorem kept_execUnpk8 {o : Outside} (f : GFields) (s : State)
    (hk : Kept o s) :
    KeptR o (execUnpk8 f s) := by
  unfold execUnpk8
  repeat' (first | with_reducible assumption | with_reducible apply kept_next | with_reducible apply kept_compute | extract_lets -underBinder | split | dsimp +zetaDelta only)

theorem kept_execPackh {o : Outside} (f : GFields) (s : State)
    (hk : Kept o s) :
    KeptR o (execPackh f s) := by
  unfold execPackh
  repeat' (first | with_reducible assumption | with_reducible apply kept_next | with_reducible apply kept_compute | extract_lets -underBinder | split | dsimp +zetaDelta only)

theorem kept_execUnpkh {o : Outside} (f : GFields) (s : State)
    (hk : Kept o s) :
    KeptR o (execUnpkh f s) := by
  unfold execUnpkh
  repeat' (first | with_reducible assumption | with_reducible apply kept_next | with_reducible apply kept_compute | extract_lets -underBinder | split | dsimp +zetaDelta only)

theorem kept_execQl6 {o : Outside} (f : GFields) (s : State)
    (hk : Kept o s) :
    KeptR o (execQl6 f s) := by
  unfold execQl6
  repeat' (first | with_reducible assumption | with_reducible apply kept_next | with_reducible apply kept_computeR | extract_lets -underBinder | split | dsimp +zetaDelta only)

theorem kept_execDql6 {o : Outside} (f : GFields) (s : State)
    (hk : Kept o s) :
    KeptR o (execDql6 f s) := by
  unfold execDql6
  repeat' (first | with_reducible assumption | with_reducible apply kept_next | with_reducible apply kept_computeR | extract_lets -underBinder | split | dsimp +zetaDelta only)

theorem kept_execL6mul {o : Outside} (f : GFields) (s : State)
    (hk : Kept o s) :
    KeptR o (execL6mul f s) := by
  unfold execL6mul
  repeat' (first | with_reducible assumption | with_reducible apply kept_next | with_reducible apply kept_computeR | extract_lets -underBinder | split | dsimp +zetaDelta only)

theorem kept_execScalex {o : Outside} (f : GFields) (s : State)
    (hk : Kept o s) :
    KeptR o (execScalex f s) := by
  unfold execScalex
  repeat' (first | with_reducible assumption | with_reducible apply kept_next | with_reducible apply kept_computeR | extract_lets -underBinder | split | dsimp +zetaDelta only)

theorem kept_execScalea {o : Outside} (f : GFields) (s : State)
    (hk : Kept o s) :
    KeptR o (execScalea f s) := by
  unfold execScalea
  repeat' (first | with_reducible assumption | with_reducible apply kept_next | with_reducible apply kept_compute | extract_lets -underBinder | split | dsimp +zetaDelta only)

/-! ## Matrix -/

theorem kept_modAcc {o : Outside} (s : State) (core k : Nat) (f : Acc → Acc)
    (hk : Kept o s) :
    Kept o (modAcc s core k f) := by
  unfold modAcc
  repeat' (first | with_reducible assumption | with_reducible apply kept_modCore | (intro _ hk; exact hk) | extract_lets -underBinder | split | dsimp +zetaDelta only)

theorem enterDue_spad (n : Nat) (k : Core) : (enterDue n k).spad = k.spad := by
  induction n generalizing k with
  | zero => rfl
  | succ n ih =>
    unfold enterDue
    split
    · rfl
    · exact ih _

theorem startCommand_spad (s : State) (k : Core) (brick : Nat) : (startCommand s k brick).spad = k.spad := by
  unfold startCommand
  split
  · rfl
  · split <;> rfl

theorem kept_placeCommand {o : Outside} (s : State) (core acc ticket : Nat) (cmd : MCmd) (owner : CtxId) (job : Option Nat)
    (hk : Kept o s) : Kept o (placeCommand s core acc ticket cmd owner job) := by
  unfold placeCommand
  refine kept_modCore (fun k h => ?_) hk
  rw [enterDue_spad]
  exact h

theorem kept_countCommand {o : Outside} (s : State) (core acc : Nat) (cmd : MCmd) (hk : Kept o s) :
    Kept o (countCommand s core acc cmd).1 := by
  unfold countCommand
  exact kept_modAcc _ _ _ _ hk

theorem kept_commitCommand {o : Outside} (s : State) (core acc : Nat) (cmd : MCmd) (owner : CtxId) (hk : Kept o s) :
    Kept o (commitCommand s core acc cmd owner) := by
  unfold commitCommand
  exact kept_placeCommand _ _ _ _ _ _ _ (kept_countCommand _ _ _ _ hk)

theorem kept_writeWord {o : Outside} (s : State) (w : Who) (a : Nat) (v : Nat)
    (hk : Kept o s) :
    Kept o (writeWord s w a v) := by
  unfold writeWord
  repeat' (first | with_reducible assumption | with_reducible apply kept_coherentWrite | extract_lets -underBinder | split | dsimp +zetaDelta only)

theorem kept_runCommand {o : Outside} (s : State) (core : Nat) (q : QCmd)
    (hk : Kept o s) :
    Kept o (runCommand s core q) := by
  unfold runCommand
  repeat' (first | with_reducible assumption | with_reducible apply kept_coherentWrite | with_reducible apply kept_modAcc | with_reducible apply kept_writeWord | extract_lets -underBinder | split | dsimp +zetaDelta only)

theorem kept_answerAccq {o : Outside} (s : State) (core acc : Nat)
    (hk : Kept o s) :
    Kept o (answerAccq s core acc) := by
  unfold answerAccq
  repeat' (first | with_reducible assumption | with_reducible apply kept_answerLater | with_reducible apply kept_modCtx | with_reducible apply kept_squashLater | (with_reducible refine kept_foldl (fun s b hk => ?_) ?_) | extract_lets -underBinder | split | dsimp +zetaDelta only)

theorem kept_finishCommand {o : Outside} (s : State) (core brick : Nat) (hk : Kept o s) :
    Kept o (finishCommand s core brick) := by
  unfold finishCommand
  split
  · exact hk
  · refine kept_answerAccq _ _ _ (kept_modCore (fun k h => ?_) (kept_runCommand _ _ _ hk))
    rw [enterDue_spad]
    exact h

theorem kept_execMma {o : Outside} (f : XFields) (s : State)
    (hk : Kept o s) :
    KeptR o (execMma f s) := by
  unfold execMma
  repeat' (first | with_reducible assumption | with_reducible apply kept_next | with_reducible apply kept_faultAcc | with_reducible apply kept_fired | (with_reducible refine kept_fire (fun a b c s hk => ?_) ?_) | extract_lets -underBinder | split | dsimp +zetaDelta only)

theorem kept_execAccinit {o : Outside} (f : XFields) (s : State)
    (hk : Kept o s) :
    KeptR o (execAccinit f s) := by
  unfold execAccinit
  repeat' (first | with_reducible assumption | with_reducible apply kept_next | with_reducible apply kept_fired | (with_reducible refine kept_fire (fun a b c s hk => ?_) ?_) | extract_lets -underBinder | split | dsimp +zetaDelta only)

theorem kept_execAccout {o : Outside} (f : XFields) (s : State)
    (hk : Kept o s) :
    KeptR o (execAccout f s) := by
  unfold execAccout
  repeat' (first | with_reducible assumption | with_reducible apply kept_next | with_reducible apply kept_faultAcc | with_reducible apply kept_fired | (with_reducible refine kept_fire (fun a b c s hk => ?_) ?_) | extract_lets -underBinder | split | dsimp +zetaDelta only)

theorem kept_execAccclr {o : Outside} (f : XFields) (s : State)
    (hk : Kept o s) :
    KeptR o (execAccclr f s) := by
  unfold execAccclr
  repeat' (first | with_reducible assumption | with_reducible apply kept_next | with_reducible apply kept_fired | (with_reducible refine kept_fire (fun a b c s hk => ?_) ?_) | extract_lets -underBinder | split | dsimp +zetaDelta only)

theorem kept_execAccq {o : Outside} (f : XFields) (s : State)
    (hk : Kept o s) :
    KeptR o (execAccq f s) := by
  unfold execAccq
  repeat' (first | with_reducible assumption | with_reducible apply kept_next | with_reducible apply kept_answered | with_reducible apply kept_awaiting | with_reducible apply kept_modCtx | with_reducible apply kept_squashLater | (with_reducible refine kept_fire (fun a b c s hk => ?_) ?_) | extract_lets -underBinder | split | dsimp +zetaDelta only)

/-! ## Mortar -/

theorem kept_queueJob {o : Outside} (i : Instr) (f : LFields) (kind : Nat) (s : State)
    (hk : Kept o s) :
    KeptR o (queueJob i f kind s) := by
  unfold queueJob
  repeat' (first | with_reducible assumption | with_reducible apply kept_next | with_reducible apply kept_faultAcc | with_reducible apply kept_fired | (with_reducible refine kept_fire (fun a b c s hk => ?_) ?_) | extract_lets -underBinder | split | dsimp +zetaDelta only)

theorem kept_execMcopy {o : Outside} (f : LFields) (s : State)
    (hk : Kept o s) :
    KeptR o (execMcopy f s) := by
  unfold execMcopy
  repeat' (first | with_reducible assumption | with_reducible apply kept_next | with_reducible apply kept_queueJob | extract_lets -underBinder | split | dsimp +zetaDelta only)

theorem kept_execMput {o : Outside} (f : LFields) (s : State)
    (hk : Kept o s) :
    KeptR o (execMput f s) := by
  unfold execMput
  repeat' (first | with_reducible assumption | with_reducible apply kept_next | with_reducible apply kept_queueJob | extract_lets -underBinder | split | dsimp +zetaDelta only)

theorem kept_execMget {o : Outside} (f : LFields) (s : State)
    (hk : Kept o s) :
    KeptR o (execMget f s) := by
  unfold execMget
  repeat' (first | with_reducible assumption | with_reducible apply kept_next | with_reducible apply kept_queueJob | extract_lets -underBinder | split | dsimp +zetaDelta only)

theorem kept_jobWrite {o : Outside} (w : Who) (d : JobDesc) (r : JobRun) (l : Loc) (b : Byte) (hk : Kept o r.st) :
    Kept o (jobWrite w d r l b).st := by
  unfold jobWrite
  split
  · exact hk
  · split
    · exact kept_homeWriteBy _ _ _ hk
    · exact hk
  · exact kept_coherentPut _ _ _ hk

theorem kept_copyByte {o : Outside} (w : Who) (d : JobDesc) (r : JobRun) (b : Byte) (l : Loc) (hk : Kept o r.st) :
    Kept o (copyByte w d r b l).st := by
  unfold copyByte
  split
  · dsimp only
    split
    · exact kept_jobWrite _ _ _ _ _ (kept_freeCounter hk)
    · exact kept_freeCounter hk
  · exact kept_jobWrite _ _ _ _ _ hk

theorem kept_copyChecked {o : Outside} (w : Who) (d : JobDesc) (r : JobRun) (e : Nat)
    (a : Except AccFault Byte) (b : Except AccFault Loc) (hk : Kept o r.st) :
    Kept o (copyChecked w d r e a b).st := by
  cases a <;> cases b
  · exact hk
  · exact hk
  · exact hk
  · exact kept_copyByte _ _ _ _ _ hk

theorem kept_fillCounted {o : Outside} (w : Who) (d : JobDesc) (r : JobRun) (l : Loc) (hk : Kept o r.st) :
    Kept o (fillCounted w d r l).st := by
  unfold fillCounted
  split
  · exact kept_fillLine _ _ _ _ _ hk
  · exact kept_fillLine _ _ _ _ _ hk

theorem kept_countLine {o : Outside} (w : Who) (d : JobDesc) (e : Nat) (r : JobRun) (hk : Kept o r.st) :
    Kept o (countLine w d e r).st := by
  unfold countLine
  split
  · exact hk
  · cases hq : locateByte r.st w Want.write (lineOf (jobElement d e).2) 0 with
    | error _ =>
      simp only [hq]
      exact hk
    | ok l =>
      simp only [hq]
      cases hx : countFault r.st w.c (l, lineOf (jobElement d e).2) with
      | some _ => exact hk
      | none => exact kept_fillCounted w d r l hk

theorem kept_copyElement {o : Outside} (w : Who) (d : JobDesc) (r : JobRun) (e : Nat) (hk : Kept o r.st) :
    Kept o (copyElement w d r e).st := by
  unfold copyElement
  split
  · exact hk
  · exact kept_countLine _ _ _ _ (kept_copyChecked _ _ _ _ _ _ hk)

theorem kept_copyElements {o : Outside} (w : Who) (d : JobDesc) (first n : Nat) (r : JobRun) (hk : Kept o r.st) :
    Kept o (copyElements w d first n r).st := by
  unfold copyElements
  induction List.range n generalizing r with
  | nil => exact hk
  | cons k l ih => exact ih _ (kept_copyElement _ _ _ _ hk)

theorem kept_modJob {o : Outside} (s : State) (core seq : Nat) (f : Job → Job)
    (hk : Kept o s) :
    Kept o (modJob s core seq f) := by
  unfold modJob
  repeat' (first | with_reducible assumption | with_reducible apply kept_modCore | (intro _ hk; exact hk) | extract_lets -underBinder | split | dsimp +zetaDelta only)

theorem kept_castPayload {o : Outside} (s : State) (w : Who) (d : JobDesc)
    (hk : Kept o s) :
    Kept o (castPayload s w d) := by
  unfold castPayload
  repeat' (first | with_reducible assumption | with_reducible apply kept_coherentWrite | (with_reducible refine kept_foldl (fun s b hk => ?_) ?_) | extract_lets -underBinder | split | dsimp +zetaDelta only)

theorem kept_st_ite {o : Outside} {c : Prop} {_ : Decidable c} {a b : JobRun} (ha : Kept o a.st) (hb : Kept o b.st) :
    Kept o (if c then a else b).st := by
  split
  · exact ha
  · exact hb

theorem kept_copied {o : Outside} (s : State) (core : Nat) (w : Who) (d : JobDesc) (n m : Nat) (hk : Kept o s) :
    Kept o (copyElements w d n m ⟨drainCluster s core, [], [], [], none⟩).st := by
  have h := kept_drainCluster s core hk
  generalize drainCluster s core = t at h ⊢
  exact kept_copyElements w d n m ⟨t, [], [], [], none⟩ h

theorem kept_endRun {o : Outside} (d : JobDesc) (r : JobRun) (hk : Kept o r.st) : Kept o (endRun d r).st := by
  unfold endRun
  extract_lets s1 s2
  have h1 : Kept o s1 := kept_homeWriteBy _ _ _ hk
  have h2 : Kept o s2 := kept_foldl (fun s b h => kept_fabWrite _ _ _ h) h1
  exact kept_ite h2 (kept_heal _ _ h2)

theorem kept_runJob {o : Outside} (s : State) (core : Nat) (j : Job) (hk : Kept o s) : Kept o (runJob s core j).st :=
  kept_st_ite (kept_castPayload _ _ _ hk) (kept_endRun _ _ (kept_copied _ core _ _ _ _ hk))

theorem kept_landJob {o : Outside} (s : State) (core : Nat) (j : Job) (hk : Kept o s) : Kept o (landJob s core j) := by
  unfold landJob
  extract_lets -underBinder r s2
  have hr : Kept o r.st := kept_runJob _ _ _ hk
  clear_value r
  refine kept_ite hk (kept_ite hk ?_)
  have h2 : Kept o s2 := kept_modJob _ _ _ _ (kept_wakeWatches _ _ hr)
  clear_value s2
  split
  · exact kept_placeCommand _ _ _ _ _ _ _ h2
  · exact h2

theorem kept_faultJob {o : Outside} (s : State) (core : Nat) (j : Job) (hk : Kept o s) : Kept o (faultJob s core j) := by
  unfold faultJob
  refine kept_ite hk ?_
  extract_lets -underBinder r
  have hr : Kept o r.st := kept_runJob _ _ _ hk
  clear_value r
  split
  · exact hk
  · exact kept_asyncRecord _ _ _ (kept_modJob _ _ _ _ (kept_wakeWatches _ _ hr))

theorem kept_releaseSource {o : Outside} (s : State) (core : Nat) (j : Job)
    (hk : Kept o s) :
    Kept o (releaseSource s core j) := by
  unfold releaseSource
  repeat' (first | with_reducible assumption | with_reducible apply kept_releaseRecord | extract_lets -underBinder | split | dsimp +zetaDelta only)

theorem kept_dropJob {o : Outside} (s : State) (core : Nat) (j : Job)
    (hk : Kept o s) :
    Kept o (dropJob s core j) := by
  unfold dropJob
  repeat' (first | with_reducible assumption | with_reducible apply kept_modCore | with_reducible apply kept_modPartOf | with_reducible apply kept_releaseSource | (intro _ hk; exact hk) | extract_lets -underBinder | split | dsimp +zetaDelta only)

theorem kept_completeJob {o : Outside} (s : State) (core : Nat) (j : Job)
    (hk : Kept o s) :
    Kept o (completeJob s core j) := by
  unfold completeJob
  repeat' (first | with_reducible assumption | with_reducible apply kept_dropJob | with_reducible apply kept_writeWord | extract_lets -underBinder | split | dsimp +zetaDelta only)

theorem kept_suspendStart {o : Outside} (s : State) (core : Nat) (j : Job) (cls cause : Nat) (arg : Word)
    (hk : Kept o s) :
    Kept o (suspendStart s core j cls cause arg) := by
  unfold suspendStart
  repeat' (first | with_reducible assumption | with_reducible apply kept_asyncRecord | with_reducible apply kept_modJob | extract_lets -underBinder | split | dsimp +zetaDelta only)

theorem kept_acquireSource {o : Outside} (s : State) (core : Nat) (j : Job) (h : Word)
    (hk : Kept o s) :
    Kept o (acquireSource s core j h) := by
  unfold acquireSource
  repeat' (first | with_reducible assumption | with_reducible apply kept_grantTenure | with_reducible apply kept_modJob | with_reducible apply kept_modPart | with_reducible apply kept_suspendStart | extract_lets -underBinder | split | dsimp +zetaDelta only)

theorem kept_startJob {o : Outside} (s : State) (core : Nat) (j : Job)
    (hk : Kept o s) :
    Kept o (startJob s core j) := by
  unfold startJob
  repeat' (first | with_reducible assumption | with_reducible apply kept_acquireSource | with_reducible apply kept_modJob | extract_lets -underBinder | split | dsimp +zetaDelta only)

theorem kept_enterJob {o : Outside} (s : State) (core : Nat) (c : CtxId) (d : JobDesc) (card : Option Nat) (hk : Kept o s) :
    Kept o (enterJob s core c d card) := by
  unfold enterJob
  refine kept_modCore (fun _ h => h) ?_
  split
  · exact kept_countCommand _ _ _ _ hk
  · exact hk

theorem kept_execMquery {o : Outside} (f : LFields) (s : State)
    (hk : Kept o s) :
    KeptR o (execMquery f s) := by
  unfold execMquery
  repeat' (first | with_reducible assumption | with_reducible apply kept_next | with_reducible apply kept_fired | (with_reducible refine kept_fire (fun a b c s hk => ?_) ?_) | extract_lets -underBinder | split | dsimp +zetaDelta only)

theorem kept_execTask {o : Outside} (f : LFields) (s : State) (hk : Kept o s) : KeptR o (execTask f s) := by
  unfold execTask
  refine kept_fire (fun a _ _ s hk => ?_) hk
  extract_lets p
  clear_value p
  generalize locate s (whoAt s) Want.read p 128 = r
  generalize (basicCheck p <|> pathCheck servesTask p) = q
  cases frameAt s s.focus.c s.focus.frame with
  | none => exact hk
  | some fr =>
    cases q with
    | some e => exact kept_faultAcc _ _ hk
    | none =>
      cases r with
      | error e => exact kept_faultAcc _ _ hk
      | ok ls =>
        refine kept_ite (kept_faulted _ _ _ _ s hk) (kept_ite hk ?_)
        dsimp only
        generalize poisonedLine s (whoAt s) (decide (f.cache = 3)) (ls.zip (bytePtrs p 128)) = bad
        cases bad with
        | some line => exact kept_faulted _ _ _ _ s hk
        | none =>
          dsimp only
          generalize loadBytes s (whoAt s) s.focus.frame s.focus.tag f.lsid.toNat (decide (f.cache = 3)) ls = bytes
          generalize ((List.range 16).map (fun k => BitVec.ofNat 64 (ofBytes ((bytes.drop (8 * k)).take 8)))) = ws
          refine kept_ite (kept_faulted _ _ _ _ s hk) ?_
          cases cardStaging ws with
          | some base => exact kept_faulted _ _ _ _ s hk
          | none =>
            exact kept_fired _ _ _ (kept_modFrame (kept_renewLeases _ _ _
              (kept_leaveLines _ _ _ _ hk)))

theorem kept_execTdone {o : Outside} (f : LFields) (s : State)
    (hk : Kept o s) :
    KeptR o (execTdone f s) := by
  unfold execTdone
  repeat' (first | with_reducible assumption | with_reducible apply kept_next | with_reducible apply kept_fired | (with_reducible refine kept_fire (fun a b c s hk => ?_) ?_) | extract_lets -underBinder | split | dsimp +zetaDelta only)

theorem kept_modGroup {o : Outside} (s : State) (die part g : Nat) (f : Group → Group)
    (hk : Kept o s) :
    Kept o (modGroup s die part g f) := by
  unfold modGroup
  repeat' (first | with_reducible assumption | with_reducible apply kept_modPart | extract_lets -underBinder | split | dsimp +zetaDelta only)

theorem kept_completeBarrier {o : Outside} (s : State) (die part g : Nat) (self : CtxId)
    (hk : Kept o s) :
    Kept o (completeBarrier s die part g self) := by
  unfold completeBarrier
  repeat' (first | with_reducible assumption | with_reducible apply kept_acquireEffect | with_reducible apply kept_answerLater | with_reducible apply kept_modCtx | with_reducible apply kept_modGroup | (with_reducible refine kept_foldl (fun s b hk => ?_) ?_) | extract_lets -underBinder | split | dsimp +zetaDelta only)

theorem kept_execGbar {o : Outside} (f : LFields) (s : State)
    (hk : Kept o s) :
    KeptR o (execGbar f s) := by
  unfold execGbar
  repeat' (first | with_reducible assumption | with_reducible apply kept_next | with_reducible apply kept_acquire | with_reducible apply kept_answerWord | with_reducible apply kept_awaiting | with_reducible apply kept_completeBarrier | with_reducible apply kept_modCtx | with_reducible apply kept_modGroup | with_reducible apply kept_publish | (with_reducible refine kept_fire (fun a b c s hk => ?_) ?_) | extract_lets -underBinder | split | dsimp +zetaDelta only)

theorem kept_execGmcast {o : Outside} (f : LFields) (s : State)
    (hk : Kept o s) :
    KeptR o (execGmcast f s) := by
  unfold execGmcast
  repeat' (first | with_reducible assumption | with_reducible apply kept_next | with_reducible apply kept_faultAcc | with_reducible apply kept_faulted | with_reducible apply kept_fired | (with_reducible refine kept_fire (fun a b c s hk => ?_) ?_) | extract_lets -underBinder | split | dsimp +zetaDelta only)

/-! ## Threads -/

theorem kept_clearRegs {o : Outside} (s : State) (c : CtxId)
    (hk : Kept o s) :
    Kept o (clearRegs s c) := by
  unfold clearRegs
  repeat' (first | with_reducible assumption | with_reducible apply kept_writeReg | (with_reducible refine kept_foldl (fun s b hk => ?_) ?_) | extract_lets -underBinder | split | dsimp +zetaDelta only)

theorem kept_startThread {o : Outside} (s : State) (c : CtxId) (addr : Word) (rank part : Nat) (launch : Option (Nat × Nat)) (gang : Nat) (regs : List (Nat × Wide))
    (hk : Kept o s) :
    Kept o (startThread s c addr rank part launch gang regs) := by
  unfold startThread
  repeat' (first | with_reducible assumption | with_reducible apply kept_clearRegs | with_reducible apply kept_modCtx | with_reducible apply kept_writeReg | (with_reducible refine kept_foldl (fun s b hk => ?_) ?_) | extract_lets -underBinder | split | dsimp +zetaDelta only)

theorem kept_dropCard {o : Outside} (s : State) (cluster num : Nat)
    (hk : Kept o s) :
    Kept o (dropCard s cluster num) := by
  unfold dropCard
  repeat' (first | with_reducible assumption | with_reducible apply kept_modCluster | extract_lets -underBinder | split | dsimp +zetaDelta only)

theorem kept_retireTask {o : Outside} (s : State) (c : CtxId)
    (hk : Kept o s) :
    Kept o (retireTask s c) := by
  unfold retireTask
  repeat' (first | with_reducible assumption | with_reducible apply kept_acquire | with_reducible apply kept_dropCard | with_reducible apply kept_modCtx | with_reducible apply kept_publish | extract_lets -underBinder | split | dsimp +zetaDelta only)

theorem kept_cancelCard {o : Outside} (s : State) (cluster num : Nat)
    (hk : Kept o s) :
    Kept o (cancelCard s cluster num) := by
  unfold cancelCard
  repeat' (first | with_reducible assumption | with_reducible apply kept_dropCard | with_reducible apply kept_modCtx | extract_lets -underBinder | split | dsimp +zetaDelta only)

theorem kept_abandonJob {o : Outside} (s : State) (core : Nat) (j : Job)
    (hk : Kept o s) :
    Kept o (abandonJob s core j) := by
  unfold abandonJob
  repeat' (first | with_reducible assumption | with_reducible apply kept_cancelCard | with_reducible apply kept_dropJob | with_reducible apply kept_placeCommand | extract_lets -underBinder | split | dsimp +zetaDelta only)

theorem kept_abandonJobs {o : Outside} (s : State) (c : CtxId)
    (hk : Kept o s) :
    Kept o (abandonJobs s c) := by
  unfold abandonJobs
  repeat' (first | with_reducible assumption | with_reducible apply kept_abandonJob | (with_reducible refine kept_foldl (fun s b hk => ?_) ?_) | extract_lets -underBinder | split | dsimp +zetaDelta only)

theorem kept_retireGangs {o : Outside} (s : State) (die part : Nat)
    (hk : Kept o s) :
    Kept o (retireGangs s die part) := by
  unfold retireGangs
  repeat' (first | with_reducible assumption | with_reducible apply kept_modCore | with_reducible apply kept_modPart | (with_reducible refine kept_foldl (fun s b hk => ?_) ?_) | (intro _ hk; exact hk) | extract_lets -underBinder | split | dsimp +zetaDelta only)

theorem kept_keepLogs {o : Outside} (s : State) (c : CtxId)
    (hk : Kept o s) :
    Kept o (keepLogs s c) := by
  unfold keepLogs
  repeat' (first | with_reducible assumption | with_reducible apply kept_modPartOf | extract_lets -underBinder | split | dsimp +zetaDelta only)

theorem kept_endHolds {o : Outside} (s : State) (c : CtxId)
    (hk : Kept o s) :
    Kept o (endHolds s c) := by
  unfold endHolds
  repeat' (first | with_reducible assumption | with_reducible apply kept_modCore | (with_reducible refine kept_foldl (fun s b hk => ?_) ?_) | (intro _ hk; exact hk) | extract_lets -underBinder | split | dsimp +zetaDelta only)

theorem kept_freeCtx {o : Outside} (s : State) (c : CtxId)
    (hk : Kept o s) :
    Kept o (freeCtx s c) := by
  unfold freeCtx
  repeat' (first | with_reducible assumption | with_reducible apply kept_finishWalk | with_reducible apply kept_dropHolder | with_reducible apply kept_endHolds | with_reducible apply kept_keepLogs | with_reducible apply kept_modCore | with_reducible apply kept_modCtx | with_reducible apply kept_retireGangs | (intro _ hk; exact hk) | extract_lets -underBinder | split | dsimp +zetaDelta only)

theorem kept_leaveGroups {o : Outside} (s : State) (c : CtxId)
    (hk : Kept o s) :
    Kept o (leaveGroups s c) := by
  unfold leaveGroups
  repeat' (first | with_reducible assumption | with_reducible apply kept_completeBarrier | with_reducible apply kept_modGroup | (with_reducible refine kept_foldl (fun s b hk => ?_) ?_) | extract_lets -underBinder | split | dsimp +zetaDelta only)

theorem kept_wakeRestored {o : Outside} (s : State)
    (hk : Kept o s) :
    Kept o (wakeRestored s) := by
  unfold wakeRestored
  repeat' (first | with_reducible assumption | with_reducible apply kept_modCtx | (with_reducible refine kept_foldl (fun s b hk => ?_) ?_) | extract_lets -underBinder | split | dsimp +zetaDelta only)

theorem kept_settle {o : Outside} (s : State)
    (hk : Kept o s) :
    Kept o (settle s) := by
  unfold settle
  repeat' (first | with_reducible assumption | with_reducible apply kept_freeCtx | with_reducible apply kept_wakeRestored | (with_reducible refine kept_foldl (fun s b hk => ?_) ?_) | extract_lets -underBinder | split | dsimp +zetaDelta only)

theorem kept_quitAsyncs {o : Outside} (s : State) (c : CtxId)
    (hk : Kept o s) :
    Kept o (quitAsyncs s c) := by
  unfold quitAsyncs
  repeat' (first | with_reducible assumption | with_reducible apply kept_modCtx | with_reducible apply kept_slotRecords | extract_lets -underBinder | split | dsimp +zetaDelta only)

theorem kept_quitThread {o : Outside} (s : State) (c : CtxId)
    (hk : Kept o s) :
    Kept o (quitThread s c) := by
  unfold quitThread
  repeat' (first | with_reducible assumption | with_reducible apply kept_abandonJobs | with_reducible apply kept_freeCtx | with_reducible apply kept_leaveCourse | with_reducible apply kept_leaveGroups | with_reducible apply kept_modCtx | with_reducible apply kept_quitAsyncs | with_reducible apply kept_retireTask | extract_lets -underBinder | split | dsimp +zetaDelta only)

end Sys2Proof.Laws
end

