-- ==== Sys2Proof/Laws/KeptEvents.lean ====
section
/-! SUPPORT. One lemma per operation that answers a state, and per meaning: it keeps the memories canonical and
changes nothing outside; here the commit step, comparisons, searches and the events of dies, launches, messages and cores. -/

set_option linter.unusedTactic false
set_option linter.unreachableTactic false
set_option linter.unusedVariables false

namespace Sys2Proof.Laws

open Sys2Proof Sys2Proof.Machine

/-! ## Commit -/

theorem kept_writeNodes {o : Outside} (s : State) (a : Arena) (ns : List Nat)
    (hk : Kept o s) :
    Kept o (writeNodes s a ns) := by
  unfold writeNodes
  repeat' (first | with_reducible assumption | with_reducible apply kept_homeWrite | with_reducible apply kept_wakeWatches | extract_lets -underBinder | split | dsimp +zetaDelta only)

theorem kept_destroyArena {o : Outside} (s : State) (die : Nat) (a : Arena)
    (hk : Kept o s) :
    Kept o (destroyArena s die a) := by
  unfold destroyArena
  repeat' (first | with_reducible assumption | with_reducible apply kept_modDie | with_reducible apply kept_writeNodes | extract_lets -underBinder | split | dsimp +zetaDelta only)

theorem kept_withArena {o : Outside} {s : State} {w : Word} {node : Bool} {k : Arena → State}
    (hb : ∀ a, Kept o (k a)) (hk : Kept o s) : Kept o (withArena s w node k) := by
  unfold withArena
  split
  · exact kept_faulted _ _ _ _ s hk
  · split
    · exact kept_faulted _ _ _ _ s hk
    · exact hb _

theorem kept_engine {o : Outside} {i : Instr} {f : LFields} {s : State} {body : Wide → Wide → Wide → State → State}
    (hb : ∀ a b c t, Kept o t → Kept o (body a b c t)) (hk : Kept o s) : KeptR o (engine i f s body) := by
  refine kept_fire (fun a b c t ht => ?_) hk
  split
  · exact hb _ _ _ t ht
  · exact ht

theorem kept_walk {o : Outside} {i : Instr} {ar : Arena} {start : Arena × Walked} {s : State}
    (hk : Kept o s) : Kept o (walk i ar start s) := by
  unfold walk
  repeat' (first | with_reducible assumption | with_reducible apply kept_answerWord | with_reducible apply kept_modCtx | with_reducible apply kept_modArena | extract_lets -underBinder | split | dsimp +zetaDelta only)

theorem kept_execTarena {o : Outside} (f : LFields) (s : State)
    (hk : Kept o s) :
    KeptR o (execTarena f s) := by
  unfold execTarena
  repeat' (first | with_reducible assumption | with_reducible apply kept_next | with_reducible apply kept_answerWord | with_reducible apply kept_dropClean | with_reducible apply kept_faultAcc | with_reducible apply kept_faulted | with_reducible apply kept_modDie | with_reducible apply kept_writeNodes | (with_reducible refine kept_foldl (fun s b hk => ?_) ?_) | (with_reducible refine kept_engine (fun a b c s hk => ?_) ?_) | extract_lets -underBinder | split | dsimp +zetaDelta only)

theorem kept_execTarenaDestroy {o : Outside} (f : LFields) (s : State)
    (hk : Kept o s) :
    KeptR o (execTarenaDestroy f s) := by
  unfold execTarenaDestroy
  repeat' (first | with_reducible assumption | with_reducible apply kept_next | with_reducible apply kept_answerWord | with_reducible apply kept_destroyArena | (with_reducible refine kept_engine (fun a b c s hk => ?_) ?_) | (with_reducible refine kept_withArena (fun a => ?_) ?_) | extract_lets -underBinder | split | dsimp +zetaDelta only)

theorem kept_execTselect {o : Outside} (f : LFields) (s : State)
    (hk : Kept o s) :
    KeptR o (execTselect f s) := by
  unfold execTselect
  repeat' (first | with_reducible assumption | with_reducible apply kept_next | with_reducible apply kept_walk | (with_reducible refine kept_engine (fun a b c s hk => ?_) ?_) | (with_reducible refine kept_withArena (fun a => ?_) ?_) | extract_lets -underBinder | split | dsimp +zetaDelta only)

theorem kept_execTbatch {o : Outside} (f : LFields) (s : State)
    (hk : Kept o s) :
    KeptR o (execTbatch f s) := by
  unfold execTbatch
  repeat' (first | with_reducible assumption | with_reducible apply kept_next | with_reducible apply kept_answerWord | with_reducible apply kept_coherentWrite | with_reducible apply kept_faultAcc | with_reducible apply kept_flushLine | with_reducible apply kept_modArena | with_reducible apply kept_resolveWrite | (with_reducible refine kept_foldl (fun s b hk => ?_) ?_) | (with_reducible refine kept_engine (fun a b c s hk => ?_) ?_) | (with_reducible refine kept_withArena (fun a => ?_) ?_) | extract_lets -underBinder | split | dsimp +zetaDelta only)

theorem kept_expandNode {o : Outside} (f : LFields) (ar : Arena) (x : Nat) (es : List Nat) (s : State)
    (hk : Kept o s) :
    Kept o (expandNode f ar x es s) := by
  unfold expandNode
  repeat' (first | with_reducible assumption | with_reducible apply kept_answerWord | with_reducible apply kept_faulted | with_reducible apply kept_modArena | extract_lets -underBinder | split | dsimp +zetaDelta only)

theorem kept_execTexpand {o : Outside} (f : LFields) (s : State)
    (hk : Kept o s) :
    KeptR o (execTexpand f s) := by
  unfold execTexpand
  repeat' (first | with_reducible assumption | with_reducible apply kept_next | with_reducible apply kept_expandNode | with_reducible apply kept_faultAcc | with_reducible apply kept_faulted | (with_reducible refine kept_engine (fun a b c s hk => ?_) ?_) | (with_reducible refine kept_withArena (fun a => ?_) ?_) | extract_lets -underBinder | split | dsimp +zetaDelta only)

theorem kept_execTbackup {o : Outside} (f : LFields) (s : State)
    (hk : Kept o s) :
    KeptR o (execTbackup f s) := by
  unfold execTbackup
  repeat' (first | with_reducible assumption | with_reducible apply kept_next | with_reducible apply kept_walk | (with_reducible refine kept_engine (fun a b c s hk => ?_) ?_) | (with_reducible refine kept_withArena (fun a => ?_) ?_) | extract_lets -underBinder | split | dsimp +zetaDelta only)

theorem kept_execTreroot {o : Outside} (f : LFields) (s : State)
    (hk : Kept o s) :
    KeptR o (execTreroot f s) := by
  unfold execTreroot
  repeat' (first | with_reducible assumption | with_reducible apply kept_next | with_reducible apply kept_answerWord | with_reducible apply kept_modArena | (with_reducible refine kept_engine (fun a b c s hk => ?_) ?_) | (with_reducible refine kept_withArena (fun a => ?_) ?_) | extract_lets -underBinder | split | dsimp +zetaDelta only)

theorem kept_execTstat {o : Outside} (f : LFields) (s : State)
    (hk : Kept o s) :
    KeptR o (execTstat f s) := by
  unfold execTstat
  repeat' (first | with_reducible assumption | with_reducible apply kept_next | with_reducible apply kept_fired | (with_reducible refine kept_engine (fun a b c s hk => ?_) ?_) | (with_reducible refine kept_withArena (fun a => ?_) ?_) | extract_lets -underBinder | split | dsimp +zetaDelta only)

/-! ## DieEvents -/

theorem kept_reserveStep {o : Outside} (c : CtxId) (s : State) (p : Pending)
    (hk : Kept o s) :
    Kept o (reserveStep c s p) := by
  unfold reserveStep
  repeat' (first | with_reducible assumption | with_reducible apply kept_modL2 | with_reducible apply kept_modPartOf | with_reducible apply kept_spendUnit | extract_lets -underBinder | split | dsimp +zetaDelta only)

theorem kept_holdReservations {o : Outside} (s : State) (c : CtxId) (ps : List Pending)
    (hk : Kept o s) :
    Kept o (holdReservations s c ps) := by
  unfold holdReservations
  repeat' (first | with_reducible assumption | with_reducible apply kept_holdHandle | (with_reducible refine kept_foldl (fun s b hk => ?_) ?_) | extract_lets -underBinder | split | dsimp +zetaDelta only)

theorem kept_postEntry {o : Outside} (s : State) (c : CtxId) (kind : Nat) (ptr : Word) (bs : List (Loc × Byte)) (stq : Option (Word × Wide × Tab (Word × Word)))
    (hk : Kept o s) :
    Kept o (postEntry s c kind ptr bs stq) := by
  unfold postEntry
  repeat' (first | with_reducible assumption | with_reducible apply kept_modCore | (intro _ hk; exact hk) | extract_lets -underBinder | split | dsimp +zetaDelta only)

theorem kept_passThrough {o : Outside} (s : State) (w : Who) (policy : Nat) (keys : List Nat)
    (hk : Kept o s) :
    Kept o (passThrough s w policy keys) := by
  unfold passThrough
  repeat' (first | with_reducible assumption | with_reducible apply kept_asyncRecords | with_reducible apply kept_carryHomeBy | (with_reducible refine kept_foldl (fun s b hk => ?_) ?_) | extract_lets -underBinder | split | dsimp +zetaDelta only)

theorem kept_othersHome {o : Outside} (s : State) (w : Who) (keys : List Nat)
    (hk : Kept o s) :
    Kept o (othersHome s w keys) := by
  unfold othersHome
  repeat' (first | with_reducible assumption | with_reducible apply kept_asyncRecords | with_reducible apply kept_carryHomeBy | (with_reducible refine kept_foldl (fun s b hk => ?_) ?_) | extract_lets -underBinder | split | dsimp +zetaDelta only)

theorem kept_commitStore {o : Outside} (s : State) (c : CtxId) (core : Nat) (bs : List (Loc × Byte)) (ptr : Word) (kind policy : Nat)
    (hk : Kept o s) :
    Kept o (commitStore s c core bs ptr kind policy) := by
  unfold commitStore
  repeat' (first | with_reducible assumption | with_reducible apply kept_commitBytes | with_reducible apply kept_controlStores | with_reducible apply kept_dropOwnClean | with_reducible apply kept_othersHome | with_reducible apply kept_passThrough | with_reducible apply kept_postEntry | with_reducible apply kept_retain | with_reducible apply kept_storeRoom | (with_reducible refine kept_foldl (fun s b hk => ?_) ?_) | extract_lets -underBinder | split | dsimp +zetaDelta only)

theorem kept_writeBackAt {o : Outside} (invalidate : Bool) (blk : Word) (c : CtxId) (line : Nat)
    (a : State × List (CtxId × RecordArgs)) (home : Nat) (hk : Kept o a.1) :
    Kept o (writeBackAt invalidate blk c line a home).1 := by
  unfold writeBackAt
  extract_lets -underBinder held q s1
  have hq : Kept o q.1 := kept_carryHome a.1 home (fun k => decide (k / 64 = line)) (some (c, blk)) hk
  clear_value q
  have h1 : Kept o s1 :=
    kept_ite hq (kept_modCore (fun k h => (cacheClean_spad line (homeLine q.1 line) k).symm ▸ h) hq)
  clear_value s1
  exact h1

theorem kept_writeBackLine {o : Outside} (invalidate : Bool) (blk : Word) (c : CtxId)
    (a : State × List (CtxId × RecordArgs)) (line : Nat) (hk : Kept o a.1) :
    Kept o (writeBackLine invalidate blk c a line).1 := by
  unfold writeBackLine
  extract_lets -underBinder r
  have hr : Kept o r.1 := kept_foldl_fst (fun p b h => kept_writeBackAt invalidate blk c line p b h) hk
  clear_value r
  exact kept_ite (kept_dropOwnClean _ _ _ hr) hr

theorem kept_writeBackRange {o : Outside} (invalidate : Bool) (blk : Word) (c : CtxId) (s : State) (lines : List Nat)
    (hk : Kept o s) : Kept o (writeBackRange invalidate blk c s lines) := by
  unfold writeBackRange
  exact kept_asyncRecords _ _ (kept_foldl_fst (fun p b h => kept_writeBackLine invalidate blk c p b h) hk)

theorem kept_enterCard {o : Outside} (s : State) (cluster : Nat) (c : CtxId) (ws : List Word)
    (hk : Kept o s) :
    Kept o (enterCard s cluster c ws) := by
  unfold enterCard
  repeat' (first | with_reducible assumption | with_reducible apply kept_modCluster | extract_lets -underBinder | split | dsimp +zetaDelta only)

theorem kept_requestRepart {o : Outside} (s : State) (c : CtxId) (core : Nat) (v : Word)
    (hk : Kept o s) :
    Kept o (requestRepart s c core v) := by
  unfold requestRepart
  repeat' (first | with_reducible assumption | with_reducible apply kept_modCore | with_reducible apply kept_squashYounger | (intro _ hk; exact hk) | extract_lets -underBinder | split | dsimp +zetaDelta only)

theorem kept_commitPhase {o : Outside} (s : State) (c : CtxId) (scope : Nat) (blk : Word)
    (hk : Kept o s) :
    Kept o (commitPhase s c scope blk) := by
  unfold commitPhase
  repeat' (first | with_reducible assumption | with_reducible apply kept_modCtx | with_reducible apply kept_publish | with_reducible apply kept_squashYounger | extract_lets -underBinder | split | dsimp +zetaDelta only)

theorem kept_commitRett {o : Outside} (s : State) (c t : CtxId)
    (hk : Kept o s) :
    Kept o (commitRett s c t) := by
  unfold commitRett
  repeat' (first | with_reducible assumption | with_reducible apply kept_resumeThread | extract_lets -underBinder | split | dsimp +zetaDelta only)

theorem kept_commitLaunch {o : Outside} (s : State) (c : CtxId) (ptr blk : Word)
    (hk : Kept o s) :
    Kept o (commitLaunch s c ptr blk) := by
  unfold commitLaunch
  repeat' (first | with_reducible assumption | with_reducible apply kept_commitPhase | with_reducible apply kept_modDie | extract_lets -underBinder | split | dsimp +zetaDelta only)

theorem kept_commitFill {o : Outside} (s : State) (c : CtxId) (w : Who) (blk : Word) (l : Loc) (a : Nat) (data : Wide) (n : Nat)
    (hk : Kept o s) :
    Kept o (commitFill s c w blk l a data n) := by
  unfold commitFill
  repeat' (first | with_reducible assumption | with_reducible apply kept_asyncRecord | with_reducible apply kept_fillLine | with_reducible apply kept_flushOwn | with_reducible apply kept_heal | (with_reducible refine kept_foldl (fun s b hk => ?_) ?_) | extract_lets -underBinder | split | dsimp +zetaDelta only)

theorem kept_applyEffect {o : Outside} (c : CtxId) (core : Nat) (blk : Word) (s : State) (p : Pending)
    (hk : Kept o s) :
    Kept o (applyEffect c core blk s p) := by
  unfold applyEffect
  repeat' (first | with_reducible assumption | with_reducible apply kept_commitColl | with_reducible apply kept_commitCommand | with_reducible apply kept_commitFill | with_reducible apply kept_commitLaunch | with_reducible apply kept_commitPhase | with_reducible apply kept_commitRett | with_reducible apply kept_commitStore | with_reducible apply kept_countSent | with_reducible apply kept_drainOwn | with_reducible apply kept_enterCard | with_reducible apply kept_enterJob | with_reducible apply kept_fillLine | with_reducible apply kept_freeHandle | with_reducible apply kept_modCore | with_reducible apply kept_modCtx | with_reducible apply kept_postEntry | with_reducible apply kept_releaseTenure | with_reducible apply kept_requestRepart | with_reducible apply kept_spendUnit | with_reducible apply kept_squashYounger | with_reducible apply kept_startThread | with_reducible apply kept_writeBackRange | with_reducible apply kept_writeControl | (intro _ hk; exact hk) | extract_lets -underBinder | split | dsimp +zetaDelta only)

theorem kept_deferEffect {o : Outside} (c : CtxId) (core : Nat) (blk : Word) (s : State) (p : Pending)
    (hk : Kept o s) :
    Kept o (deferEffect c core blk s p) := by
  unfold deferEffect
  repeat' (first | with_reducible assumption | with_reducible apply kept_holdHandle | with_reducible apply kept_modCtx | extract_lets -underBinder | split | dsimp +zetaDelta only)

theorem kept_applyInOrder {o : Outside} (c : CtxId) (core : Nat) (blk : Word) (s : State) (p : Pending)
    (hk : Kept o s) :
    Kept o (applyInOrder c core blk s p) := by
  unfold applyInOrder
  repeat' (first | with_reducible assumption | with_reducible apply kept_applyEffect | with_reducible apply kept_deferEffect | extract_lets -underBinder | split | dsimp +zetaDelta only)

theorem kept_applyEffects {o : Outside} (s : State) (c : CtxId) (core : Nat) (blk : Word) (ps : List Pending)
    (hk : Kept o s) :
    Kept o (applyEffects s c core blk ps) := by
  unfold applyEffects
  repeat' (first | with_reducible assumption | with_reducible apply kept_applyInOrder | with_reducible apply kept_publish | (with_reducible refine kept_foldl (fun s b hk => ?_) ?_) | extract_lets -underBinder | split | dsimp +zetaDelta only)

theorem kept_commitFlags {o : Outside} (s : State) (c : CtxId) (fr : Frame) (tag : Tag) (draws : Nat)
    (hk : Kept o s) :
    Kept o (commitFlags s c fr tag draws) := by
  unfold commitFlags
  repeat' (first | with_reducible assumption | with_reducible apply kept_modCtx | (with_reducible refine kept_foldl (fun s b hk => ?_) ?_) | extract_lets -underBinder | split | dsimp +zetaDelta only)

theorem kept_dropOldest {o : Outside} (s : State) (c : CtxId) (fr : Frame) (target : Word)
    (hk : Kept o s) :
    Kept o (dropOldest s c fr target) := by
  unfold dropOldest
  repeat' (first | with_reducible assumption | with_reducible apply kept_endHolds | with_reducible apply kept_modCtx | with_reducible apply kept_modPartOf | extract_lets -underBinder | split | dsimp +zetaDelta only)

theorem kept_joinCourse {o : Outside} (c : CtxId) (low pos : Nat) (alone : Bool) (s : State) (k : Nat)
    (hk : Kept o s) :
    Kept o (joinCourse c low pos alone s k) := by
  unfold joinCourse
  repeat' (first | with_reducible assumption | with_reducible apply kept_dropFrom | with_reducible apply kept_modMate | extract_lets -underBinder | split | dsimp +zetaDelta only)

theorem kept_reform {o : Outside} (s : State) (c : CtxId) (members : List Nat) (pos : Nat)
    (hk : Kept o s) :
    Kept o (reform s c members pos) := by
  unfold reform
  repeat' (first | with_reducible assumption | with_reducible apply kept_joinCourse | (with_reducible refine kept_foldl (fun s b hk => ?_) ?_) | extract_lets -underBinder | split | dsimp +zetaDelta only)

theorem kept_musterCheck {o : Outside} (s : State) (c : CtxId) (target : Word)
    (hk : Kept o s) :
    Kept o (musterCheck s c target) := by
  unfold musterCheck
  repeat' (first | with_reducible assumption | with_reducible apply kept_reform | extract_lets -underBinder | split | dsimp +zetaDelta only)

theorem kept_followCourse {o : Outside} (s : State) (c : CtxId) (lead : Option ExitRec) (target : Word)
    (hk : Kept o s) :
    Kept o (followCourse s c lead target) := by
  unfold followCourse
  repeat' (first | with_reducible assumption | with_reducible apply kept_leaveCourse | with_reducible apply kept_squashFrom | extract_lets -underBinder | split | dsimp +zetaDelta only)

theorem kept_departBehind {o : Outside} (pos t : Nat) (s : State) (k : Nat)
    (hk : Kept o s) :
    Kept o (departBehind pos t s k) := by
  unfold departBehind
  repeat' (first | with_reducible assumption | with_reducible apply kept_leaveCourse | with_reducible apply kept_squashFrom | extract_lets -underBinder | split | dsimp +zetaDelta only)

theorem kept_partBehind {o : Outside} (s : State) (c : CtxId) (fr : Frame) (e : ExitRec)
    (hk : Kept o s) :
    Kept o (partBehind s c fr e) := by
  unfold partBehind
  repeat' (first | with_reducible assumption | with_reducible apply kept_departBehind | (with_reducible refine kept_foldl (fun s b hk => ?_) ?_) | extract_lets -underBinder | split | dsimp +zetaDelta only)

theorem kept_endAfter {o : Outside} (s : State) (c : CtxId) (p : Pending)
    (hk : Kept o s) :
    Kept o (endAfter s c p) := by
  unfold endAfter
  repeat' (first | with_reducible assumption | with_reducible apply kept_modCtx | with_reducible apply kept_quitThread | with_reducible apply kept_squashFrom | extract_lets -underBinder | split | dsimp +zetaDelta only)

theorem kept_afterCommit {o : Outside} (s : State) (c : CtxId) (ps : List Pending)
    (hk : Kept o s) :
    Kept o (afterCommit s c ps) := by
  unfold afterCommit
  repeat' (first | with_reducible assumption | with_reducible apply kept_endAfter | with_reducible apply kept_haltContext | with_reducible apply kept_modCtx | with_reducible apply kept_squashCourse | with_reducible apply kept_stopContext | extract_lets -underBinder | split | dsimp +zetaDelta only)

theorem kept_commitBlock {o : Outside} (s : State) (c : CtxId) (fr : Frame) (tag : Tag) (e : ExitRec)
    (hk : Kept o s) :
    Kept o (commitBlock s c fr tag e) := by
  unfold commitBlock
  repeat' (first | with_reducible assumption | with_reducible apply kept_afterCommit | with_reducible apply kept_applyEffects | with_reducible apply kept_commitFlags | with_reducible apply kept_dropOldest | with_reducible apply kept_followCourse | with_reducible apply kept_musterCheck | with_reducible apply kept_partBehind | with_reducible apply kept_settle | with_reducible apply kept_writeReg | (with_reducible refine kept_foldl (fun s b hk => ?_) ?_) | extract_lets -underBinder | split | dsimp +zetaDelta only)

theorem kept_refireStale {o : Outside} (s : State) (c : CtxId) (qs : List (Nat × Bool))
    (hk : Kept o s) :
    Kept o (refireStale s c qs) := by
  unfold refireStale
  repeat' (first | with_reducible assumption | with_reducible apply kept_acquire | with_reducible apply kept_restartAt | extract_lets -underBinder | split | dsimp +zetaDelta only)

theorem kept_tryCommit {o : Outside} (s : State) (c : CtxId) (fr : Frame) (tag : Tag) (ps : List Pending) (commit : State)
    (hk : Kept o s) (hc : Kept o commit) : Kept o (tryCommit s c fr tag ps commit) := by
  unfold tryCommit
  extract_lets -underBinder core
  split
  · exact kept_ite (kept_holdReservations _ _ _ hk) (kept_ite (kept_refireStale _ _ _ hk) hc)
  · exact kept_modFrame hk

theorem kept_execBlockCommit {o : Outside} (c : CtxId) (s : State)
    (hk : Kept o s) :
    KeptR o (execBlockCommit c s) := by
  unfold execBlockCommit
  repeat' (first | with_reducible assumption | with_reducible apply kept_next | with_reducible apply kept_commitBlock | with_reducible apply kept_tryCommit | extract_lets -underBinder | split | dsimp +zetaDelta only)

theorem kept_departPinned {o : Outside} (s : State) (c : CtxId) (fr : Frame) (t : Nat)
    (hk : Kept o s) :
    Kept o (departPinned s c fr t) := by
  unfold departPinned
  repeat' (first | with_reducible assumption | with_reducible apply kept_leaveCourse | with_reducible apply kept_squashFrom | extract_lets -underBinder | split | dsimp +zetaDelta only)

theorem kept_reloadBehind {o : Outside} (s : State) (c : CtxId) (ls : List Loc)
    (hk : Kept o s) :
    Kept o (reloadBehind s c ls) := by
  unfold reloadBehind
  repeat' (first | with_reducible assumption | with_reducible apply kept_restartAt | extract_lets -underBinder | split | dsimp +zetaDelta only)

theorem kept_commitIteration {o : Outside} (s : State) (c : CtxId) (fr : Frame) (ps : List Pending)
    (hk : Kept o s) :
    Kept o (commitIteration s c fr ps) := by
  unfold commitIteration
  repeat' (first | with_reducible assumption | with_reducible apply kept_applyEffects | with_reducible apply kept_commitFlags | with_reducible apply kept_departPinned | with_reducible apply kept_discardIters | with_reducible apply kept_followExit | with_reducible apply kept_modCtx | with_reducible apply kept_modFrame | with_reducible apply kept_reloadBehind | with_reducible apply kept_tellExit | extract_lets -underBinder | split | dsimp +zetaDelta only)

theorem kept_execIterationCommit {o : Outside} (c : CtxId) (s : State)
    (hk : Kept o s) :
    KeptR o (execIterationCommit c s) := by
  unfold execIterationCommit
  repeat' (first | with_reducible assumption | with_reducible apply kept_next | with_reducible apply kept_afterCommit | with_reducible apply kept_commitIteration | with_reducible apply kept_settle | with_reducible apply kept_tryCommit | extract_lets -underBinder | split | dsimp +zetaDelta only)

theorem kept_execFaultTaken {o : Outside} (c : CtxId) (s : State)
    (hk : Kept o s) :
    KeptR o (execFaultTaken c s) := by
  unfold execFaultTaken
  repeat' (first | with_reducible assumption | with_reducible apply kept_finishWalk | with_reducible apply kept_next | with_reducible apply kept_haltContext | with_reducible apply kept_squashCourse | with_reducible apply kept_stopContext | extract_lets -underBinder | split | dsimp +zetaDelta only)

theorem kept_execBlockIncompleteTimeout {o : Outside} (c : CtxId) (s : State)
    (hk : Kept o s) :
    KeptR o (execBlockIncompleteTimeout c s) := by
  unfold execBlockIncompleteTimeout
  repeat' (first | with_reducible assumption | with_reducible apply kept_next | with_reducible apply kept_stopContext | extract_lets -underBinder | split | dsimp +zetaDelta only)

theorem kept_execContextPark {o : Outside} (c : CtxId) (s : State)
    (hk : Kept o s) :
    KeptR o (execContextPark c s) := by
  unfold execContextPark
  repeat' (first | with_reducible assumption | with_reducible apply kept_next | with_reducible apply kept_modCtx | with_reducible apply kept_parkContext | extract_lets -underBinder | split | dsimp +zetaDelta only)

theorem kept_execContextUnpark {o : Outside} (c : CtxId) (s : State)
    (hk : Kept o s) :
    KeptR o (execContextUnpark c s) := by
  unfold execContextUnpark
  repeat' (first | with_reducible assumption | with_reducible apply kept_next | with_reducible apply kept_modCtx | extract_lets -underBinder | split | dsimp +zetaDelta only)

theorem kept_execYieldExpiry {o : Outside} (c : CtxId) (s : State)
    (hk : Kept o s) :
    KeptR o (execYieldExpiry c s) := by
  unfold execYieldExpiry
  repeat' (first | with_reducible assumption | with_reducible apply kept_next | with_reducible apply kept_modCtx | extract_lets -underBinder | split | dsimp +zetaDelta only)

theorem kept_execRepartApply {o : Outside} (core : Nat) (s : State)
    (hk : Kept o s) :
    KeptR o (execRepartApply core s) := by
  unfold execRepartApply
  repeat' (first | with_reducible assumption | with_reducible apply kept_next | with_reducible apply kept_modCore | (intro _ hk; exact hk) | extract_lets -underBinder | split | dsimp +zetaDelta only)

theorem kept_completeMuster {o : Outside} (addr : Word) (s : State) (core : Nat)
    (hk : Kept o s) :
    Kept o (completeMuster addr s core) := by
  unfold completeMuster
  repeat' (first | with_reducible assumption | with_reducible apply kept_reform | (with_reducible refine kept_foldl (fun s b hk => ?_) ?_) | extract_lets -underBinder | split | dsimp +zetaDelta only)

theorem kept_execMusterComplete {o : Outside} (cluster : Nat) (address : Word) (s : State)
    (hk : Kept o s) :
    KeptR o (execMusterComplete cluster address s) := by
  unfold execMusterComplete
  repeat' (first | with_reducible assumption | with_reducible apply kept_next | with_reducible apply kept_completeMuster | (with_reducible refine kept_foldl (fun s b hk => ?_) ?_) | extract_lets -underBinder | split | dsimp +zetaDelta only)

theorem kept_applyLate {o : Outside} (c : CtxId) (l : List (Nat × Word × Pending)) (s : State) (hk : Kept o s) :
    Kept o (applyLate c l s) := by
  induction l generalizing s with
  | nil => exact hk
  | cons e l ih =>
    obtain ⟨core, blk, p⟩ := e
    refine kept_ite hk (kept_ite (kept_quitThread _ _ (kept_modCtx hk)) ?_)
    refine ih _ (kept_ite (kept_drainOwn _ _ ?_) ?_) <;> exact kept_applyEffect _ _ _ _ _ (kept_modCtx hk)

theorem kept_execPhaseComplete {o : Outside} (c : CtxId) (s : State)
    (hk : Kept o s) :
    KeptR o (execPhaseComplete c s) := by
  unfold execPhaseComplete
  repeat' (first | with_reducible assumption | with_reducible apply kept_next | with_reducible apply kept_acquire | with_reducible apply kept_applyLate | with_reducible apply kept_modCtx | extract_lets -underBinder | split | dsimp +zetaDelta only)

/-! ## Compare -/

theorem kept_execCeq {o : Outside} (f : GFields) (s : State)
    (hk : Kept o s) :
    KeptR o (execCeq f s) := by
  unfold execCeq
  repeat' (first | with_reducible assumption | with_reducible apply kept_next | with_reducible apply kept_compute | extract_lets -underBinder | split | dsimp +zetaDelta only)

theorem kept_execCne {o : Outside} (f : GFields) (s : State)
    (hk : Kept o s) :
    KeptR o (execCne f s) := by
  unfold execCne
  repeat' (first | with_reducible assumption | with_reducible apply kept_next | with_reducible apply kept_compute | extract_lets -underBinder | split | dsimp +zetaDelta only)

theorem kept_execClt {o : Outside} (f : GFields) (s : State)
    (hk : Kept o s) :
    KeptR o (execClt f s) := by
  unfold execClt
  repeat' (first | with_reducible assumption | with_reducible apply kept_next | with_reducible apply kept_compute | extract_lets -underBinder | split | dsimp +zetaDelta only)

theorem kept_execCle {o : Outside} (f : GFields) (s : State)
    (hk : Kept o s) :
    KeptR o (execCle f s) := by
  unfold execCle
  repeat' (first | with_reducible assumption | with_reducible apply kept_next | with_reducible apply kept_compute | extract_lets -underBinder | split | dsimp +zetaDelta only)

theorem kept_execCgt {o : Outside} (f : GFields) (s : State)
    (hk : Kept o s) :
    KeptR o (execCgt f s) := by
  unfold execCgt
  repeat' (first | with_reducible assumption | with_reducible apply kept_next | with_reducible apply kept_compute | extract_lets -underBinder | split | dsimp +zetaDelta only)

theorem kept_execCge {o : Outside} (f : GFields) (s : State)
    (hk : Kept o s) :
    KeptR o (execCge f s) := by
  unfold execCge
  repeat' (first | with_reducible assumption | with_reducible apply kept_next | with_reducible apply kept_compute | extract_lets -underBinder | split | dsimp +zetaDelta only)

theorem kept_execCuo {o : Outside} (f : GFields) (s : State)
    (hk : Kept o s) :
    KeptR o (execCuo f s) := by
  unfold execCuo
  repeat' (first | with_reducible assumption | with_reducible apply kept_next | with_reducible apply kept_compute | extract_lets -underBinder | split | dsimp +zetaDelta only)

theorem kept_execTestz {o : Outside} (f : GFields) (s : State)
    (hk : Kept o s) :
    KeptR o (execTestz f s) := by
  unfold execTestz
  repeat' (first | with_reducible assumption | with_reducible apply kept_next | with_reducible apply kept_compute | extract_lets -underBinder | split | dsimp +zetaDelta only)

theorem kept_execTestnz {o : Outside} (f : GFields) (s : State)
    (hk : Kept o s) :
    KeptR o (execTestnz f s) := by
  unfold execTestnz
  repeat' (first | with_reducible assumption | with_reducible apply kept_next | with_reducible apply kept_compute | extract_lets -underBinder | split | dsimp +zetaDelta only)

theorem kept_execPand {o : Outside} (f : GFields) (s : State)
    (hk : Kept o s) :
    KeptR o (execPand f s) := by
  unfold execPand
  repeat' (first | with_reducible assumption | with_reducible apply kept_next | with_reducible apply kept_compute | extract_lets -underBinder | split | dsimp +zetaDelta only)

theorem kept_execPor {o : Outside} (f : GFields) (s : State)
    (hk : Kept o s) :
    KeptR o (execPor f s) := by
  unfold execPor
  repeat' (first | with_reducible assumption | with_reducible apply kept_next | with_reducible apply kept_compute | extract_lets -underBinder | split | dsimp +zetaDelta only)

theorem kept_execPxor {o : Outside} (f : GFields) (s : State)
    (hk : Kept o s) :
    KeptR o (execPxor f s) := by
  unfold execPxor
  repeat' (first | with_reducible assumption | with_reducible apply kept_next | with_reducible apply kept_compute | extract_lets -underBinder | split | dsimp +zetaDelta only)

theorem kept_execPnot {o : Outside} (f : GFields) (s : State)
    (hk : Kept o s) :
    KeptR o (execPnot f s) := by
  unfold execPnot
  repeat' (first | with_reducible assumption | with_reducible apply kept_next | with_reducible apply kept_compute | extract_lets -underBinder | split | dsimp +zetaDelta only)

theorem kept_execAnyl {o : Outside} (f : GFields) (s : State)
    (hk : Kept o s) :
    KeptR o (execAnyl f s) := by
  unfold execAnyl
  repeat' (first | with_reducible assumption | with_reducible apply kept_next | with_reducible apply kept_compute | extract_lets -underBinder | split | dsimp +zetaDelta only)

theorem kept_execAlll {o : Outside} (f : GFields) (s : State)
    (hk : Kept o s) :
    KeptR o (execAlll f s) := by
  unfold execAlll
  repeat' (first | with_reducible assumption | with_reducible apply kept_next | with_reducible apply kept_compute | extract_lets -underBinder | split | dsimp +zetaDelta only)

theorem kept_execCmask {o : Outside} (f : GFields) (s : State)
    (hk : Kept o s) :
    KeptR o (execCmask f s) := by
  unfold execCmask
  repeat' (first | with_reducible assumption | with_reducible apply kept_next | with_reducible apply kept_compute | extract_lets -underBinder | split | dsimp +zetaDelta only)

/-! ## Search -/

theorem kept_execL1Eviction {o : Outside} (core line : Nat) (s : State)
    (hk : Kept o s) :
    KeptR o (execL1Eviction core line s) := by
  unfold execL1Eviction
  repeat' (first | with_reducible assumption | with_reducible apply kept_next | with_reducible apply kept_asyncRecords | with_reducible apply kept_carryHome | with_reducible apply kept_drainSpad | with_reducible apply kept_modCore | (intro _ hk; exact hk) | extract_lets -underBinder | split | dsimp +zetaDelta only)

theorem kept_execL2Eviction {o : Outside} (line : Nat) (s : State)
    (hk : Kept o s) :
    KeptR o (execL2Eviction line s) := by
  unfold execL2Eviction
  repeat' (first | with_reducible assumption | with_reducible apply kept_next | with_reducible apply kept_writeBack | extract_lets -underBinder | split | dsimp +zetaDelta only)

theorem kept_execNodeCacheEviction {o : Outside} (die arena node : Nat) (s : State)
    (hk : Kept o s) :
    KeptR o (execNodeCacheEviction die arena node s) := by
  unfold execNodeCacheEviction
  repeat' (first | with_reducible assumption | with_reducible apply kept_next | with_reducible apply kept_writeNodes | extract_lets -underBinder | split | dsimp +zetaDelta only)

theorem kept_deliverAnswer {o : Outside} (s : State) (a : Acquire) (p : Part) (h : Handle) (v : Answer)
    (hk : Kept o s) :
    Kept o (deliverAnswer s a p h v) := by
  unfold deliverAnswer
  repeat' (first | with_reducible assumption | with_reducible apply kept_acquireEffect | with_reducible apply kept_answerLater | with_reducible apply kept_modCtx | with_reducible apply kept_modJob | with_reducible apply kept_suspendStart | extract_lets -underBinder | split | dsimp +zetaDelta only)

theorem kept_serveQueue {o : Outside} (s : State) (die part : Nat)
    (hk : Kept o s) :
    Kept o (serveQueue s die part) := by
  unfold serveQueue
  repeat' (first | with_reducible assumption | with_reducible apply kept_deliverAnswer | with_reducible apply kept_grantTenure | with_reducible apply kept_modPart | extract_lets -underBinder | split | dsimp +zetaDelta only)

theorem kept_execTenureGrant {o : Outside} (die part : Nat) (s : State)
    (hk : Kept o s) :
    KeptR o (execTenureGrant die part s) := by
  unfold execTenureGrant
  repeat' (first | with_reducible assumption | with_reducible apply kept_next | with_reducible apply kept_mirror | with_reducible apply kept_modHandle | with_reducible apply kept_serveQueue | extract_lets -underBinder | split | dsimp +zetaDelta only)

theorem kept_execLeaseExpiry {o : Outside} (die part handle holder : Nat) (s : State)
    (hk : Kept o s) :
    KeptR o (execLeaseExpiry die part handle holder s) := by
  unfold execLeaseExpiry
  repeat' (first | with_reducible assumption | with_reducible apply kept_next | with_reducible apply kept_dropSpan | with_reducible apply kept_modDie | with_reducible apply kept_modHandle | extract_lets -underBinder | split | dsimp +zetaDelta only)

theorem kept_execRegionEnd {o : Outside} (die part region : Nat) (s : State) (hk : Kept o s) :
    KeptR o (execRegionEnd die part region s) := by
  unfold execRegionEnd
  refine kept_next ?_
  split
  · exact hk
  · split
    · exact hk
    · split
      · exact hk
      · exact kept_answerLater _ _ _ _ _ _ (kept_endRegion _ _ _ _ _ hk)

theorem kept_execPageWalk {o : Outside} (die part va : Nat) (s : State)
    (hk : Kept o s) :
    KeptR o (execPageWalk die part va s) := by
  unfold execPageWalk
  repeat' (first | with_reducible assumption | with_reducible apply kept_next | with_reducible apply kept_modPart | extract_lets -underBinder | split | dsimp +zetaDelta only)

theorem kept_execHostAtsInvalidate {o : Outside} (va bytes : Nat) (s : State) (hk : Kept o s) :
    KeptR o (execHostAtsInvalidate va bytes s) :=
  kept_next (kept_ats hk)

theorem kept_execHostBackInvalidate {o : Outside} (line : Nat) (s : State)
    (hk : Kept o s) :
    KeptR o (execHostBackInvalidate line s) := by
  unfold execHostBackInvalidate
  repeat' (first | with_reducible assumption | with_reducible apply kept_next | with_reducible apply kept_dropClean | with_reducible apply kept_writeBack | extract_lets -underBinder | split | dsimp +zetaDelta only)

theorem kept_hbmError {o : Outside} (s : State) (address : Nat) (corrected : Bool)
    (hk : Kept o s) :
    Kept o (hbmError s address corrected) := by
  unfold hbmError
  dsimp only
  split
  · exact hk
  · split
    · exact kept_modDie hk
    · exact kept_modDie (kept_poison hk)

theorem kept_execHostMemRequest {o : Outside} (address : Nat) (write : HostMem) (s : State)
    (hk : Kept o s) :
    KeptR o (execHostMemRequest address write s) := by
  unfold execHostMemRequest
  repeat' (first | with_reducible assumption | with_reducible apply kept_next | with_reducible apply kept_hbmError | with_reducible apply kept_homeWrite | with_reducible apply kept_wakeWatches | extract_lets -underBinder | split | dsimp +zetaDelta only)

theorem kept_execRemoteAccess {o : Outside} (die part va : Nat) (write : Option (List Byte)) (s : State)
    (hk : Kept o s) :
    KeptR o (execRemoteAccess die part va write s) := by
  unfold execRemoteAccess
  repeat' (first | with_reducible assumption | with_reducible apply kept_next | with_reducible apply kept_homeWrite | with_reducible apply kept_wakeWatches | extract_lets -underBinder | split | dsimp +zetaDelta only)

theorem kept_execCollectiveComplete {o : Outside} (c : CtxId) (n : Nat) (s : State)
    (hk : Kept o s) :
    KeptR o (execCollectiveComplete c n s) := by
  unfold execCollectiveComplete
  repeat' (first | with_reducible assumption | with_reducible apply kept_next | with_reducible apply kept_endCollective | with_reducible apply kept_settle | extract_lets -underBinder | split | dsimp +zetaDelta only)

/-! ## Launches -/

theorem kept_modLaunch {o : Outside} (s : State) (die part lid : Nat) (f : Launch → Launch)
    (hk : Kept o s) :
    Kept o (modLaunch s die part lid f) := by
  unfold modLaunch
  repeat' (first | with_reducible assumption | with_reducible apply kept_modPart | extract_lets -underBinder | split | dsimp +zetaDelta only)

theorem kept_outrank {o : Outside} (s : State) (die part : Nat)
    (hk : Kept o s) :
    Kept o (outrank s die part) := by
  unfold outrank
  repeat' (first | with_reducible assumption | with_reducible apply kept_modLaunch | with_reducible apply kept_modPart | extract_lets -underBinder | split | dsimp +zetaDelta only)

theorem kept_flushCore {o : Outside} (s : State) (core : Nat)
    (hk : Kept o s) :
    Kept o (flushCore s core) := by
  unfold flushCore
  repeat' (first | with_reducible assumption | with_reducible apply kept_asyncRecord | with_reducible apply kept_carryHome | with_reducible apply kept_drainSpad | (with_reducible refine kept_foldl (fun s b hk => ?_) ?_) | extract_lets -underBinder | split | dsimp +zetaDelta only)

theorem kept_emptyL1 {o : Outside} (s : State) (core : Nat)
    (hk : Kept o s) :
    Kept o (emptyL1 s core) := by
  unfold emptyL1
  repeat' (first | with_reducible assumption | with_reducible apply kept_flushCore | with_reducible apply kept_modCore | (intro _ hk; exact hk) | extract_lets -underBinder | split | dsimp +zetaDelta only)

theorem kept_windowWrite {o : Outside} (s : State) (die : Nat) (bs : List (Nat × Byte))
    (hk : Kept o s) :
    Kept o (windowWrite s die bs) := by
  unfold windowWrite
  repeat' (first | with_reducible assumption | with_reducible apply kept_modDie | (with_reducible refine kept_foldl (fun s b hk => ?_) ?_) | extract_lets -underBinder | split | dsimp +zetaDelta only)

theorem kept_clearDrops {o : Outside} (s : State) (die : Nat)
    (hk : Kept o s) :
    Kept o (clearDrops s die) := by
  unfold clearDrops
  repeat' (first | with_reducible assumption | with_reducible apply kept_modDie | extract_lets -underBinder | split | dsimp +zetaDelta only)

theorem kept_setWake {o : Outside} (s : State) (die : Nat) (mask : Word)
    (hk : Kept o s) :
    Kept o (setWake s die mask) := by
  unfold setWake
  repeat' (first | with_reducible assumption | with_reducible apply kept_modDie | with_reducible apply kept_modPart | (with_reducible refine kept_foldl (fun s b hk => ?_) ?_) | extract_lets -underBinder | split | dsimp +zetaDelta only)

/-! ## Loader -/

theorem kept_execWinDrop {o : Outside} (die : Nat) (s : State)
    (hk : Kept o s) :
    KeptR o (execWinDrop die s) := by
  unfold execWinDrop
  repeat' (first | with_reducible assumption | with_reducible apply kept_next | with_reducible apply kept_clearDrops | extract_lets -underBinder | split | dsimp +zetaDelta only)

theorem kept_execPartWake {o : Outside} (die : Nat) (mask : Word) (s : State)
    (hk : Kept o s) :
    KeptR o (execPartWake die mask s) := by
  unfold execPartWake
  repeat' (first | with_reducible assumption | with_reducible apply kept_next | with_reducible apply kept_setWake | extract_lets -underBinder | split | dsimp +zetaDelta only)

theorem kept_writeStatus {o : Outside} (s : State) (die part : Nat) (ws : List Word) (status cause : Nat) (hk : Kept o s) :
    Kept o (writeStatus s die part ws status cause) := by
  unfold writeStatus
  extract_lets -underBinder
  split
  · exact hk
  · split
    · exact kept_deviceWriteD hk
    · split
      · exact hk
      · exact kept_hostMem (tabCanon_foldl _ _ (fun t b h => tabCanon_tabSet _ _ h) hk.hostMem) hk

theorem kept_refuseRecord {o : Outside} (s : State) (die : Nat) (part : Option Nat) (ws : List Word) (cause : Nat)
    (hk : Kept o s) :
    Kept o (refuseRecord s die part ws cause) := by
  unfold refuseRecord
  repeat' (first | with_reducible assumption | with_reducible apply kept_modDie | with_reducible apply kept_writeStatus | extract_lets -underBinder | split | dsimp +zetaDelta only)

theorem kept_acceptRecord {o : Outside} (s : State) (die part : Nat) (ws : List Word)
    (hk : Kept o s) :
    Kept o (acceptRecord s die part ws) := by
  unfold acceptRecord
  repeat' (first | with_reducible assumption | with_reducible apply kept_modDie | with_reducible apply kept_modPart | with_reducible apply kept_outrank | extract_lets -underBinder | split | dsimp +zetaDelta only)

theorem kept_judgeRecord {o : Outside} (s : State) (die : Nat) (by_ : Option (Nat × Nat)) (ws : List Word)
    (hk : Kept o s) :
    Kept o (judgeRecord s die by_ ws) := by
  unfold judgeRecord
  repeat' (first | with_reducible assumption | with_reducible apply kept_acceptRecord | with_reducible apply kept_refuseRecord | extract_lets -underBinder | split | dsimp +zetaDelta only)

theorem kept_execLoaderTake {o : Outside} (die : Nat) (s : State)
    (hk : Kept o s) :
    KeptR o (execLoaderTake die s) := by
  unfold execLoaderTake
  repeat' (first | with_reducible assumption | with_reducible apply kept_next | with_reducible apply kept_judgeRecord | with_reducible apply kept_modDie | with_reducible apply kept_refuseRecord | extract_lets -underBinder | split | dsimp +zetaDelta only)

theorem kept_execEffectivePriorityAging {o : Outside} (die lid : Nat) (s : State)
    (hk : Kept o s) :
    KeptR o (execEffectivePriorityAging die lid s) := by
  unfold execEffectivePriorityAging
  repeat' (first | with_reducible assumption | with_reducible apply kept_next | with_reducible apply kept_modLaunch | with_reducible apply kept_outrank | (with_reducible refine kept_foldl (fun s b hk => ?_) ?_) | extract_lets -underBinder | split | dsimp +zetaDelta only)

/-! ## Messages -/

theorem kept_stopSpill {o : Outside} (s : State) (t : Thread) (cause : Nat) (addr : Word)
    (hk : Kept o s) :
    Kept o (stopSpill s t cause addr) := by
  unfold stopSpill
  repeat' (first | with_reducible assumption | with_reducible apply kept_asideRecord | with_reducible apply kept_asyncRecord | with_reducible apply kept_modThread | extract_lets -underBinder | split | dsimp +zetaDelta only)

theorem kept_spill {o : Outside} (s : State) (t : Thread) (cls : Nat) (m : QMsg) (hk : Kept o s) : Kept o (spill s t cls m).2 := by
  unfold spill
  extract_lets -underBinder x stop
  have hs : ∀ n a, Kept o (stop n a).2 := fun n a => kept_ite (kept_stopSpill _ _ _ _ hk) hk
  clear_value stop
  split
  · exact hk
  · split
    · exact hs _ _
    · split
      · exact hs _ _
      · rename_i h
        exact kept_modThread (kept_deviceWrite h hk)

theorem kept_spillOldest {o : Outside} (s : State) (t : Thread) (hk : Kept o s) : Kept o (spillOldest s t).2 := by
  unfold spillOldest
  split
  · exact hk
  · rename_i cls m _
    have h := kept_spill s t cls m hk
    exact kept_ite (kept_modThreadCore (fun _ h => h) h) h

theorem kept_spillHeld {o : Outside} (n : Nat) (s : State) (t : Thread) (hk : Kept o s) : Kept o (spillHeld n s t) := by
  induction n generalizing s with
  | zero => exact hk
  | succ n ih =>
    have h := kept_spillOldest s t hk
    exact kept_ite (ih _ h) h

theorem kept_enqueue {o : Outside} (s : State) (t : Thread) (cls : Nat) (payload : Wide) (header : Word) (hk : Kept o s) :
    Kept o (enqueue s t cls payload header).2 := by
  unfold enqueue
  extract_lets -underBinder k m count
  have hc : ∀ s, Kept o s → Kept o (count s) := fun s h => kept_modThreadCore (fun _ h => h) h
  clear_value count
  cases areaIn k cls with
  | some n =>
    have h := kept_spill s { t with c := ⟨t.c.core, n⟩ } cls m hk
    dsimp only
    split
    · exact hk
    · exact kept_ite (hc _ h) h
  | none =>
    dsimp only
    split
    · exact hk
    · have h1 : ∀ q, Kept o (count (modThreadCore s t (fun k => { k with queues := tabSet [] k.queues cls q }))) :=
        fun q => hc _ (kept_modThreadCore (fun _ h => h) hk)
      dsimp only
      cases binderIn k cls with
      | some n => exact kept_modThread (h1 _)
      | none => exact h1 _

theorem kept_refill {o : Outside} (s : State) (c : CtxId) (hk : Kept o s) : Kept o (refill s c) := by
  unfold refill
  extract_lets -underBinder x
  split
  · exact hk
  · split
    · exact hk
    · extract_lets -underBinder ws m s1 s2
      have h2 : Kept o s2 := kept_modCtx (kept_modCore (fun _ h => h) hk)
      clear_value s2
      split
      · exact kept_modCtx h2
      · exact h2

theorem kept_refillAll {o : Outside} (n : Nat) (s : State) (c : CtxId) (hk : Kept o s) : Kept o (refillAll n s c) := by
  induction n generalizing s with
  | zero => exact hk
  | succ n ih => exact ih _ (kept_refill _ _ hk)

theorem kept_countIn {o : Outside} (s : State) (die part : Nat)
    (hk : Kept o s) :
    Kept o (countIn s die part) := by
  unfold countIn
  repeat' (first | with_reducible assumption | with_reducible apply kept_modPart | extract_lets -underBinder | split | dsimp +zetaDelta only)

theorem kept_sendOne {o : Outside} {s t : State} {th : Thread} {es l : List SendEntry} {n : Nat}
    (h : sendOne s th es n = some (t, l)) (hk : Kept o s) : Kept o t := by
  unfold sendOne at h
  split at h
  · cases h
  · split at h
    · cases h
      exact hk
    · split at h
      · cases h
      · have hq := fun a b p m => kept_enqueue (o := o) s a b p m hk
        simp only [Option.some.injEq] at h
        split at h
        · cases h
          exact kept_countIn _ _ _ (hq _ _ _ _)
        · cases h
          exact hq _ _ _ _

theorem kept_moveMessage {o : Outside} (s : State) (t : Thread) (n : Nat) (hk : Kept o s) : Kept o (moveMessage s t n) := by
  unfold moveMessage
  extract_lets -underBinder x
  refine kept_ite (kept_ite hk ?_) (kept_ite ?_ (kept_ite (kept_spillOldest _ _ hk) (kept_ite (kept_refill _ _ hk) hk)))
  · split
    · rename_i h
      exact kept_modThread (kept_sendOne h hk)
    · exact hk
  · split
    · rename_i h
      exact kept_modThread (kept_sendOne h hk)
    · exact hk

theorem kept_moveAmong {o : Outside} (ts : List Thread) (n : Nat) (s : State) (hk : Kept o s) : Kept o (moveAmong ts n s) := by
  induction ts generalizing n with
  | nil => exact hk
  | cons t ts ih => exact kept_ite (kept_moveMessage _ _ _ hk) (ih _)

theorem kept_execMessageArrival {o : Outside} (c : CtxId) (n : Nat) (s : State) (hk : Kept o s) :
    KeptR o (execMessageArrival c n s) := kept_next (kept_moveAmong _ _ _ hk)

theorem kept_freeRefusal {o : Outside} (s : State) (t : Thread) (r : Record)
    (hk : Kept o s) :
    Kept o (freeRefusal s t r) := by
  unfold freeRefusal
  repeat' (first | with_reducible assumption | with_reducible apply kept_modThreadCore | (intro _ hk; exact hk) | extract_lets -underBinder | split | dsimp +zetaDelta only)

theorem kept_recordGone {o : Outside} (s : State) (t : Thread) (r : Record) (h : CtxId)
    (hk : Kept o s) :
    Kept o (recordGone s t r h) := by
  unfold recordGone
  repeat' (first | with_reducible assumption | with_reducible apply kept_countIn | with_reducible apply kept_freeRefusal | with_reducible apply kept_modThread | extract_lets -underBinder | split | dsimp +zetaDelta only)

theorem kept_deliverRecord {o : Outside} (s : State) (t : Thread) (hk : Kept o s) : Kept o (deliverRecord s t) := by
  unfold deliverRecord
  split
  · exact hk
  · extract_lets -underBinder die w0 cls rank r'
    split
    · exact kept_modDie (kept_recordGone _ _ _ _ hk)
    · rename_i h tcls _
      extract_lets -underBinder q
      have hq : Kept o q.2 := kept_enqueue _ _ _ _ _ hk
      clear_value q
      exact kept_ite (kept_recordGone _ _ _ _ hq) hq

theorem kept_execTrapRecordDelivery {o : Outside} (c : CtxId) (s : State) (hk : Kept o s) :
    KeptR o (execTrapRecordDelivery c s) := by
  refine kept_next ?_
  split
  · exact hk
  · exact kept_deliverRecord _ _ hk

theorem kept_targetWrite {o : Outside} (s : State) (wins : Tab (Word × Word)) (p : Word) (bs : List Byte) (hk : Kept o s) :
    Kept o (targetWrite s wins p bs) := by
  unfold targetWrite
  exact kept_ite (kept_hostMem (tabCanon_foldl _ _ (fun t b h => tabCanon_tabSet _ _ h) hk.hostMem) hk) (kept_fabWrite _ _ _ hk)

theorem kept_performBytes {o : Outside} (s : State) (j : JEntry) (hk : Kept o s) : Kept o (performBytes s j) := by
  unfold performBytes
  split
  · split
    · exact hk
    · exact kept_targetWrite _ _ _ _ (kept_targetWrite _ _ _ _ hk)
  · refine kept_foldl (fun s b h => kept_fabWrite _ _ _ h) (kept_foldl (fun s b h => ?_) hk)
    split
    · exact kept_hostMem (tabCanon_tabSet _ _ h.hostMem) h
    · exact h

theorem kept_performPosted {o : Outside} (s : State) (t : Thread) (j : JEntry)
    (hk : Kept o s) :
    Kept o (performPosted s t j) := by
  unfold performPosted
  repeat' (first | with_reducible assumption | with_reducible apply kept_dropOwnClean | with_reducible apply kept_performBytes | (with_reducible refine kept_foldl (fun s b hk => ?_) ?_) | extract_lets -underBinder | split | dsimp +zetaDelta only)

theorem kept_execPostedAck {o : Outside} (core : Nat) (entry : Nat) (s : State)
    (hk : Kept o s) :
    KeptR o (execPostedAck core entry s) := by
  unfold execPostedAck
  repeat' (first | with_reducible assumption | with_reducible apply kept_next | with_reducible apply kept_modThreadCore | with_reducible apply kept_performPosted | (intro _ hk; exact hk) | extract_lets -underBinder | split | dsimp +zetaDelta only)

theorem kept_execPostedRefusal {o : Outside} (core : Nat) (entry : Nat) (cause : Nat) (s : State)
    (hk : Kept o s) :
    KeptR o (execPostedRefusal core entry cause s) := by
  unfold execPostedRefusal
  repeat' (first | with_reducible assumption | with_reducible apply kept_next | with_reducible apply kept_asideRecord | with_reducible apply kept_asyncRecord | with_reducible apply kept_modThreadCore | (intro _ hk; exact hk) | extract_lets -underBinder | split | dsimp +zetaDelta only)

/-! ## Preempt -/

theorem kept_writeSection {o : Outside} (s : State) (die part : Nat) (base : Word) (e : Nat × Nat × (Nat → Byte)) (hk : Kept o s) :
    Kept o (writeSection s die part base e) :=
  kept_foldl (fun _ _ h => kept_deviceWriteD h) hk

theorem kept_writeSections {o : Outside} (s : State) (core : Nat) (es : List (Nat × Nat × (Nat → Byte)))
    (hk : Kept o s) :
    Kept o (writeSections s core es) := by
  unfold writeSections
  repeat' (first | with_reducible assumption | with_reducible apply kept_writeSection | (with_reducible refine kept_foldl (fun s b hk => ?_) ?_) | extract_lets -underBinder | split | dsimp +zetaDelta only)

theorem kept_writeRecord {o : Outside} (s : State) (core : Nat)
    (hk : Kept o s) :
    Kept o (writeRecord s core) := by
  unfold writeRecord
  repeat' (first | with_reducible assumption | with_reducible apply kept_writeSections | with_reducible apply kept_freeCounter | extract_lets -underBinder | split | dsimp +zetaDelta only)

theorem kept_writeImage {o : Outside} (s : State) (core : Nat)
    (hk : Kept o s) :
    Kept o (writeImage s core) := by
  unfold writeImage
  repeat' (first | with_reducible assumption | with_reducible apply kept_writeSections | extract_lets -underBinder | split | dsimp +zetaDelta only)

theorem kept_withdraw {o : Outside} (s : State) (c : CtxId)
    (hk : Kept o s) :
    Kept o (withdraw s c) := by
  unfold withdraw
  repeat' (first | with_reducible assumption | with_reducible apply kept_modCtx | with_reducible apply kept_modPartOf | extract_lets -underBinder | split | dsimp +zetaDelta only)

theorem kept_saveCtx {o : Outside} (s : State) (c : CtxId)
    (hk : Kept o s) :
    Kept o (saveCtx s c) := by
  unfold saveCtx
  repeat' (first | with_reducible assumption | with_reducible apply kept_finishWalk | with_reducible apply kept_leaveCourse | with_reducible apply kept_modCtx | with_reducible apply kept_releaseAsyncs | with_reducible apply kept_squashCourse | with_reducible apply kept_withdraw | extract_lets -underBinder | split | dsimp +zetaDelta only)

theorem kept_finishStarted {o : Outside} (n : Nat) (s : State) (core : Nat) (hk : Kept o s) :
    Kept o (finishStarted n s core) := by
  induction n generalizing s with
  | zero => exact hk
  | succ n ih =>
    unfold finishStarted
    split
    · exact ih _ (kept_finishCommand _ _ _ (kept_finishCommand _ _ _ hk))
    · exact hk

theorem kept_saveCore {o : Outside} (s : State) (core : Nat)
    (hk : Kept o s) :
    Kept o (saveCore s core) := by
  unfold saveCore
  repeat' (first | with_reducible assumption | with_reducible apply kept_finishStarted | with_reducible apply kept_modCore | with_reducible apply kept_saveCtx | with_reducible apply kept_spillHeld | with_reducible apply kept_writeRecord | (with_reducible refine kept_foldl (fun s b hk => ?_) ?_) | (intro _ hk; exact hk) | extract_lets -underBinder | split | dsimp +zetaDelta only)

theorem kept_modGang {o : Outside} (s : State) (die part : Nat) (gang : Option (Nat × Nat)) (f : Gang → Gang)
    (hk : Kept o s) :
    Kept o (modGang s die part gang f) := by
  unfold modGang
  repeat' (first | with_reducible assumption | with_reducible apply kept_modLaunch | extract_lets -underBinder | split | dsimp +zetaDelta only)

theorem kept_preemptCore {o : Outside} (s : State) (core : Nat)
    (hk : Kept o s) :
    Kept o (preemptCore s core) := by
  unfold preemptCore
  repeat' (first | with_reducible assumption | with_reducible apply kept_modGang | with_reducible apply kept_outrank | with_reducible apply kept_saveCore | (with_reducible refine kept_foldl (fun s b hk => ?_) ?_) | extract_lets -underBinder | split | dsimp +zetaDelta only)

theorem kept_execPreemption {o : Outside} (core : Nat) (s : State)
    (hk : Kept o s) :
    KeptR o (execPreemption core s) := by
  unfold execPreemption
  repeat' (first | with_reducible assumption | with_reducible apply kept_next | with_reducible apply kept_preemptCore | extract_lets -underBinder | split | dsimp +zetaDelta only)

theorem kept_relabel {o : Outside} (s : State) (die part : Nat) (f : Nat → Nat)
    (hk : Kept o s) :
    Kept o (relabel s die part f) := by
  unfold relabel
  repeat' (first | with_reducible assumption | with_reducible apply kept_modPart | extract_lets -underBinder | split | dsimp +zetaDelta only)

theorem kept_standAside {o : Outside} (s : State) (core : Nat) (hk : Kept o s) : Kept o (standAside s core) := by
  unfold standAside
  extract_lets -underBinder die part s1 b k mark s2 bound s3
  have h1 : Kept o s1 := kept_writeRecord _ _ (kept_emptyL1 _ _ hk)
  have hsp : tabCanon 0 k.spad = true := h1.spad core
  clear_value s1 k b mark
  have h3 : Kept o s3 := kept_modPart (kept_relabel _ _ _ _ h1)
  clear_value s3
  exact kept_setCore hsp h3

theorem kept_convertCluster {o : Outside} (s : State) (cluster : Nat) (fused : Bool)
    (hk : Kept o s) :
    Kept o (convertCluster s cluster fused) := by
  unfold convertCluster
  repeat' (first | with_reducible assumption | with_reducible apply kept_emptyL1 | with_reducible apply kept_modCluster | (with_reducible refine kept_foldl (fun s b hk => ?_) ?_) | extract_lets -underBinder | split | dsimp +zetaDelta only)

theorem kept_reload {o : Outside} (s : State) (core : Nat) (image : Bool) (hk : Kept o s) :
    Kept o (reload s core image) := by
  unfold reload
  extract_lets -underBinder k rd accs wins spad
  have hs : tabCanon 0 spad = true := by
    unfold spad
    have hs : tabCanon 0 k.spad = true := hk.spad core
    generalize (if image = true then _ else _ : Option (List Byte)) = r
    cases r with
    | none => exact hs
    | some b => exact tabCanon_foldl _ _ (fun t b h => tabCanon_tabSet _ _ h) hs
  clear_value spad accs
  exact kept_setCore hs hk

theorem kept_bringBack {o : Outside} (s : State) (t : Thread) (hk : Kept o s) : Kept o (bringBack s t) := by
  unfold bringBack
  extract_lets -underBinder core die
  split
  · exact kept_reload _ _ _ hk
  · extract_lets -underBinder k mark s1 s2 b s3 s4 here
    have h1 : Kept o s1 := kept_modPart hk
    have h2 : Kept o s2 := kept_emptyL1 _ _ (kept_ite (kept_standAside _ _ h1) h1)
    have h4 : Kept o s4 := kept_modPart (kept_relabel _ _ _ _ h2)
    clear_value s4
    have hsp : tabCanon 0 here.spad = true := h4.spad core
    clear_value here
    exact kept_reload _ _ _ (kept_setCore hsp h4)

theorem kept_restoreCore {o : Outside} (gang : Option (Nat × Nat)) (cycles : Nat) (s : State) (core : Nat)
    (hk : Kept o s) :
    Kept o (restoreCore gang cycles s core) := by
  unfold restoreCore
  repeat' (first | with_reducible assumption | with_reducible apply kept_bringBack | with_reducible apply kept_modCore | with_reducible apply kept_refillAll | (with_reducible refine kept_foldl (fun s b hk => ?_) ?_) | (intro _ hk; exact hk) | extract_lets -underBinder | split | dsimp +zetaDelta only)

theorem kept_gangBack {o : Outside} (s : State) (die part : Nat) (gang : Option (Nat × Nat))
    (hk : Kept o s) :
    Kept o (gangBack s die part gang) := by
  unfold gangBack
  repeat' (first | with_reducible assumption | with_reducible apply kept_modGang | with_reducible apply kept_modLaunch | extract_lets -underBinder | split | dsimp +zetaDelta only)

theorem kept_arrangeFor {o : Outside} (s : State) (die part : Nat) (gang : Option (Nat × Nat)) (cluster : Nat)
    (hk : Kept o s) :
    Kept o (arrangeFor s die part gang cluster) := by
  unfold arrangeFor
  repeat' (first | with_reducible assumption | with_reducible apply kept_convertCluster | extract_lets -underBinder | split | dsimp +zetaDelta only)

theorem kept_execContextRestore {o : Outside} (core cycles : Nat) (s : State)
    (hk : Kept o s) :
    KeptR o (execContextRestore core cycles s) := by
  unfold execContextRestore
  repeat' (first | with_reducible assumption | with_reducible apply kept_next | with_reducible apply kept_arrangeFor | with_reducible apply kept_gangBack | with_reducible apply kept_modPart | with_reducible apply kept_restoreCore | with_reducible apply kept_settle | (with_reducible refine kept_foldl (fun s b hk => ?_) ?_) | extract_lets -underBinder | split | dsimp +zetaDelta only)

theorem kept_execQuantumEnd {o : Outside} (die part : Nat) (s : State)
    (hk : Kept o s) :
    KeptR o (execQuantumEnd die part s) := by
  unfold execQuantumEnd
  repeat' (first | with_reducible assumption | with_reducible apply kept_next | with_reducible apply kept_outrank | with_reducible apply kept_modLaunch | with_reducible apply kept_modPart | with_reducible apply kept_preemptCore | (with_reducible refine kept_foldl (fun s b hk => ?_) ?_) | extract_lets -underBinder | split | dsimp +zetaDelta only)

/-! ## Placement -/

theorem tabCanon_lostSpad (n core : Nat) : tabCanon 0 (lostSpad n core) = true := by
  have key : ∀ (m a : Nat) (f : Nat → Byte),
      tabCanon 0 ((List.range' a m).filterMap (fun q => if f q = 0 then none else some (q, f q))) = true ∧
      ∀ e ∈ (List.range' a m).filterMap (fun q => if f q = 0 then none else some (q, f q)), a ≤ e.1 := by
    intro m
    induction m with
    | zero => simp [tabCanon]
    | succ m ih =>
      intro a f
      obtain ⟨h1, h2⟩ := ih (a + 1) f
      rw [List.range'_succ, List.filterMap_cons]
      by_cases hf : f a = 0
      · simp only [hf, ↓reduceIte]
        exact ⟨h1, fun e he => le_trans (Nat.le_succ a) (h2 e he)⟩
      · simp only [hf, ↓reduceIte]
        refine ⟨tabCanon_cons hf (fun q hq => h2 q hq) h1, fun e he => ?_⟩
        rcases List.mem_cons.mp he with rfl | he
        · exact le_rfl
        · exact le_trans (Nat.le_succ a) (h2 e he)
  unfold lostSpad
  rw [List.range_eq_range']
  exact (key _ _ _).1

theorem kept_lostAll {o : Outside} (n : Nat) (l : List Nat) (s : State) (hk : Kept o s) :
    Kept o (l.foldl (fun s k => modCore s k (fun q => { q with spad := lostSpad n k, accs := [] })) s) := by
  refine kept_foldl (fun s k h => ?_) hk
  refine kept_modCore ?_ h
  intro q _
  generalize hx : lostSpad n k = x
  have : tabCanon 0 x = true := hx ▸ tabCanon_lostSpad n k
  clear hx
  exact this

theorem kept_execClusterPowerDown {o : Outside} (cluster : Nat) (s : State) (hk : Kept o s) :
    KeptR o (execClusterPowerDown cluster s) := by
  unfold execClusterPowerDown
  extract_lets -underBinder cores s1 n s2
  have h1 : Kept o s1 := kept_foldl (fun s k h => kept_emptyL1 _ _ h) hk
  have h2 : Kept o s2 := kept_lostAll _ _ _ h1
  clear_value s2 n
  exact kept_next (kept_ite hk (kept_modCluster (kept_freeCounter h2)))

theorem kept_prepareCore {o : Outside} (n : Nat) (s : State) (core : Nat)
    (hk : Kept o s) :
    Kept o (prepareCore n s core) := by
  unfold prepareCore
  repeat' (first | with_reducible assumption | with_reducible apply kept_modCluster | with_reducible apply kept_modCore | with_reducible apply kept_standAside | (intro _ hk; exact hk) | extract_lets -underBinder | split | dsimp +zetaDelta only)

theorem kept_execGangReserve {o : Outside} (die part : Nat) (s : State)
    (hk : Kept o s) :
    KeptR o (execGangReserve die part s) := by
  unfold execGangReserve
  repeat' (first | with_reducible assumption | with_reducible apply kept_next | with_reducible apply kept_modLaunch | with_reducible apply kept_modPart | with_reducible apply kept_prepareCore | (with_reducible refine kept_foldl (fun s b hk => ?_) ?_) | extract_lets -underBinder | split | dsimp +zetaDelta only)

theorem kept_installTables {o : Outside} (s : State) (die part : Nat) (l : Launch)
    (hk : Kept o s) :
    Kept o (installTables s die part l) := by
  unfold installTables
  repeat' (first | with_reducible assumption | with_reducible apply kept_modPart | extract_lets -underBinder | split | dsimp +zetaDelta only)

theorem kept_armCore {o : Outside} (s : State) (die part : Nat) (ws : List Word) (gang : Nat × Nat) (u : List Nat) (core : Nat)
    (hk : Kept o s) :
    Kept o (armCore s die part ws gang u core) := by
  unfold armCore
  repeat' (first | with_reducible assumption | with_reducible apply kept_modCore | (intro _ hk; exact hk) | extract_lets -underBinder | split | dsimp +zetaDelta only)

theorem kept_startGangThread {o : Outside} (die part : Nat) (l : Launch) (g : Nat) (cs : List Nat) (s : State) (e : CtxId × Nat)
    (hk : Kept o s) :
    Kept o (startGangThread die part l g cs s e) := by
  unfold startGangThread
  repeat' (first | with_reducible assumption | with_reducible apply kept_acquire | with_reducible apply kept_modCtx | with_reducible apply kept_startThread | extract_lets -underBinder | split | dsimp +zetaDelta only)

theorem kept_startGang {o : Outside} (s : State) (die part : Nat) (l : Launch) (r : Reservation)
    (hk : Kept o s) :
    Kept o (startGang s die part l r) := by
  unfold startGang
  repeat' (first | with_reducible assumption | with_reducible apply kept_armCore | with_reducible apply kept_installTables | with_reducible apply kept_modDie | with_reducible apply kept_modLaunch | with_reducible apply kept_modPart | with_reducible apply kept_startGangThread | (with_reducible refine kept_foldl (fun s b hk => ?_) ?_) | extract_lets -underBinder | split | dsimp +zetaDelta only)

theorem kept_execGangCommit {o : Outside} (die part : Nat) (s : State)
    (hk : Kept o s) :
    KeptR o (execGangCommit die part s) := by
  unfold execGangCommit
  repeat' (first | with_reducible assumption | with_reducible apply kept_next | with_reducible apply kept_convertCluster | with_reducible apply kept_outrank | with_reducible apply kept_startGang | extract_lets -underBinder | split | dsimp +zetaDelta only)

/-! ## Completion -/

theorem kept_unsend {o : Outside} (s : State) (die part n : Nat)
    (hk : Kept o s) :
    Kept o (unsend s die part n) := by
  unfold unsend
  repeat' (first | with_reducible assumption | with_reducible apply kept_modPart | extract_lets -underBinder | split | dsimp +zetaDelta only)

theorem kept_endThread {o : Outside} (s : State) (c : CtxId)
    (hk : Kept o s) :
    Kept o (endThread s c) := by
  unfold endThread
  repeat' (first | with_reducible assumption | with_reducible apply kept_finishWalk | with_reducible apply kept_abandonJobs | with_reducible apply kept_modCore | with_reducible apply kept_modCtx | with_reducible apply kept_quitThread | with_reducible apply kept_squashCourse | with_reducible apply kept_unsend | with_reducible apply kept_withdraw | (intro _ hk; exact hk) | extract_lets -underBinder | split | dsimp +zetaDelta only)

theorem kept_dropThread {o : Outside} (s : State) (t : Thread)
    (hk : Kept o s) :
    Kept o (dropThread s t) := by
  unfold dropThread
  repeat' (first | with_reducible assumption | with_reducible apply kept_modCtx | with_reducible apply kept_unsend | extract_lets -underBinder | split | dsimp +zetaDelta only)

theorem kept_dropPiece {o : Outside} (s : State) (t : Thread)
    (hk : Kept o s) :
    Kept o (dropPiece s t) := by
  unfold dropPiece
  repeat' (first | with_reducible assumption | with_reducible apply kept_cancelCard | with_reducible apply kept_dropThread | with_reducible apply kept_releaseRecord | (with_reducible refine kept_foldl (fun s b hk => ?_) ?_) | extract_lets -underBinder | split | dsimp +zetaDelta only)

theorem kept_dropAside {o : Outside} (s : State) (die part lid : Nat)
    (hk : Kept o s) :
    Kept o (dropAside s die part lid) := by
  unfold dropAside
  repeat' (first | with_reducible assumption | with_reducible apply kept_dropPiece | with_reducible apply kept_modPart | (with_reducible refine kept_foldl (fun s b hk => ?_) ?_) | extract_lets -underBinder | split | dsimp +zetaDelta only)

theorem kept_haltThread {o : Outside} (s : State) (c : CtxId)
    (hk : Kept o s) :
    Kept o (haltThread s c) := by
  unfold haltThread
  repeat' (first | with_reducible assumption | with_reducible apply kept_finishWalk | with_reducible apply kept_modCtx | with_reducible apply kept_squashCourse | extract_lets -underBinder | split | dsimp +zetaDelta only)

theorem kept_forgetSaved {o : Outside} (s : State) (die part lid : Nat)
    (hk : Kept o s) :
    Kept o (forgetSaved s die part lid) := by
  unfold forgetSaved
  repeat' (first | with_reducible assumption | with_reducible apply kept_modLaunch | extract_lets -underBinder | split | dsimp +zetaDelta only)

theorem kept_clearLaunch {o : Outside} (s : State) (die part : Nat) (l : Launch)
    (hk : Kept o s) :
    Kept o (clearLaunch s die part l) := by
  unfold clearLaunch
  repeat' (first | with_reducible assumption | with_reducible apply kept_answerRetired | with_reducible apply kept_destroyArena | with_reducible apply kept_modPart | with_reducible apply kept_retireHandle | with_reducible apply kept_undeclareRegion | (with_reducible refine kept_foldl (fun s b hk => ?_) ?_) | extract_lets -underBinder | split | dsimp +zetaDelta only)

theorem kept_reportLaunch {o : Outside} (s : State) (die part : Nat) (l : Launch)
    (hk : Kept o s) :
    Kept o (reportLaunch s die part l) := by
  unfold reportLaunch
  repeat' (first | with_reducible assumption | with_reducible apply kept_modDie | with_reducible apply kept_writeStatus | extract_lets -underBinder | split | dsimp +zetaDelta only)

theorem kept_regionsEnding {o : Outside} (s : State) (die part lid : Nat)
    (hk : Kept o s) :
    Kept o (regionsEnding s die part lid) := by
  unfold regionsEnding
  repeat' (first | with_reducible assumption | with_reducible apply kept_modPart | extract_lets -underBinder | split | dsimp +zetaDelta only)

theorem kept_endLaunch {o : Outside} (s : State) (die part : Nat) (l : Launch)
    (hk : Kept o s) :
    Kept o (endLaunch s die part l) := by
  unfold endLaunch
  repeat' (first | with_reducible assumption | with_reducible apply kept_clearLaunch | with_reducible apply kept_dropAside | with_reducible apply kept_endThread | with_reducible apply kept_flushCore | with_reducible apply kept_forgetSaved | with_reducible apply kept_haltThread | with_reducible apply kept_regionsEnding | with_reducible apply kept_reportLaunch | with_reducible apply kept_retireGangs | with_reducible apply kept_settle | (with_reducible refine kept_foldl (fun s b hk => ?_) ?_) | extract_lets -underBinder | split | dsimp +zetaDelta only)

theorem kept_execLaunchComplete {o : Outside} (die lid : Nat) (s : State)
    (hk : Kept o s) :
    KeptR o (execLaunchComplete die lid s) := by
  unfold execLaunchComplete
  repeat' (first | with_reducible assumption | with_reducible apply kept_next | with_reducible apply kept_endLaunch | extract_lets -underBinder | split | dsimp +zetaDelta only)

theorem kept_reportDeadlock {o : Outside} (s : State) (die part : Nat) (l : Launch) (cause : Nat)
    (hk : Kept o s) :
    Kept o (reportDeadlock s die part l cause) := by
  unfold reportDeadlock
  repeat' (first | with_reducible assumption | with_reducible apply kept_asyncRecord | with_reducible apply kept_modDie | with_reducible apply kept_modLaunch | extract_lets -underBinder | split | dsimp +zetaDelta only)

theorem kept_judgeQuiet {o : Outside} (die part : Nat) (s : State) (l : Launch)
    (hk : Kept o s) :
    Kept o (judgeQuiet die part s l) := by
  unfold judgeQuiet
  repeat' (first | with_reducible assumption | with_reducible apply kept_modLaunch | with_reducible apply kept_reportDeadlock | extract_lets -underBinder | split | dsimp +zetaDelta only)

theorem kept_execQuiescenceSample {o : Outside} (die part : Nat) (s : State)
    (hk : Kept o s) :
    KeptR o (execQuiescenceSample die part s) := by
  unfold execQuiescenceSample
  repeat' (first | with_reducible assumption | with_reducible apply kept_next | with_reducible apply kept_judgeQuiet | with_reducible apply kept_modPart | (with_reducible refine kept_foldl (fun s b hk => ?_) ?_) | extract_lets -underBinder | split | dsimp +zetaDelta only)

/-! ## Jobs -/

theorem kept_abandonDue {o : Outside} (s : State) (core seq : Nat)
    (hk : Kept o s) :
    Kept o (abandonDue s core seq) := by
  unfold abandonDue
  repeat' (first | with_reducible assumption | with_reducible apply kept_abandonJobs | extract_lets -underBinder | split | dsimp +zetaDelta only)

theorem kept_jobTurn {o : Outside} {core seq : Nat} {turn : State → Nat → Job → State} {s : State}
    (ht : ∀ s j, Kept o s → Kept o (turn s core j)) (hk : Kept o s) : Kept o (jobTurn core seq turn s) := by
  unfold jobTurn
  split
  · exact hk
  · exact kept_settle _ (kept_writeImage _ _ (kept_abandonDue _ _ _ (ht _ _ hk)))

theorem kept_execJobStart {o : Outside} (core seq : Nat) (s : State) (hk : Kept o s) : KeptR o (execJobStart core seq s) :=
  kept_next (kept_jobTurn (fun s j h => kept_startJob s core j h) hk)

theorem kept_execJobLand {o : Outside} (core seq : Nat) (s : State) (hk : Kept o s) : KeptR o (execJobLand core seq s) :=
  kept_next (kept_jobTurn (fun s j h => kept_landJob s core j h) hk)

theorem kept_execJobComplete {o : Outside} (core seq : Nat) (s : State) (hk : Kept o s) :
    KeptR o (execJobComplete core seq s) :=
  kept_next (kept_jobTurn (fun s j h => kept_completeJob s core j h) hk)

theorem kept_execJobFault {o : Outside} (core seq : Nat) (s : State) (hk : Kept o s) : KeptR o (execJobFault core seq s) :=
  kept_next (kept_jobTurn (fun s j h => kept_faultJob s core j h) hk)

theorem kept_modCard {o : Outside} (s : State) (cluster num : Nat) (f : Card → Card)
    (hk : Kept o s) :
    Kept o (modCard s cluster num f) := by
  unfold modCard
  repeat' (first | with_reducible assumption | with_reducible apply kept_modCluster | extract_lets -underBinder | split | dsimp +zetaDelta only)

theorem kept_issueFetch {o : Outside} (cluster : Nat) (d : Card) (t : CtxId) (s : State) (r : Word × Nat × Nat)
    (hk : Kept o s) :
    Kept o (issueFetch cluster d t s r) := by
  unfold issueFetch
  repeat' (first | with_reducible assumption | with_reducible apply kept_enterJob | with_reducible apply kept_modCard | extract_lets -underBinder | split | dsimp +zetaDelta only)

theorem kept_issueFetches {o : Outside} (s : State) (cluster : Nat) (d : Card) (t : CtxId)
    (hk : Kept o s) :
    Kept o (issueFetches s cluster d t) := by
  unfold issueFetches
  repeat' (first | with_reducible assumption | with_reducible apply kept_issueFetch | (with_reducible refine kept_foldl (fun s b hk => ?_) ?_) | extract_lets -underBinder | split | dsimp +zetaDelta only)

theorem kept_placeCard {o : Outside} (s : State) (cluster : Nat) (d : Card) (t : CtxId)
    (hk : Kept o s) :
    Kept o (placeCard s cluster d t) := by
  unfold placeCard
  repeat' (first | with_reducible assumption | with_reducible apply kept_issueFetches | with_reducible apply kept_modCard | with_reducible apply kept_modCtx | extract_lets -underBinder | split | dsimp +zetaDelta only)

theorem kept_execCardDispatch {o : Outside} (cluster : Nat) (s : State)
    (hk : Kept o s) :
    KeptR o (execCardDispatch cluster s) := by
  unfold execCardDispatch
  repeat' (first | with_reducible assumption | with_reducible apply kept_next | with_reducible apply kept_issueFetches | with_reducible apply kept_placeCard | extract_lets -underBinder | split | dsimp +zetaDelta only)

theorem kept_startTask {o : Outside} (s : State) (cluster : Nat) (d : Card) (c : CtxId)
    (hk : Kept o s) :
    Kept o (startTask s cluster d c) := by
  unfold startTask
  repeat' (first | with_reducible assumption | with_reducible apply kept_acquire | with_reducible apply kept_modCluster | with_reducible apply kept_modCtx | with_reducible apply kept_startThread | extract_lets -underBinder | split | dsimp +zetaDelta only)

theorem kept_execTaskStart {o : Outside} (c : CtxId) (s : State)
    (hk : Kept o s) :
    KeptR o (execTaskStart c s) := by
  unfold execTaskStart
  repeat' (first | with_reducible assumption | with_reducible apply kept_next | with_reducible apply kept_startTask | extract_lets -underBinder | split | dsimp +zetaDelta only)

theorem kept_execMatrixCommandStart {o : Outside} (core brick : Nat) (s : State) (hk : Kept o s) :
    KeptR o (execMatrixCommandStart core brick s) := by
  refine kept_next (kept_modCore (fun k h => ?_) hk)
  rw [startCommand_spad]
  exact h

theorem kept_execMatrixCommandFinish {o : Outside} (core brick : Nat) (s : State)
    (hk : Kept o s) :
    KeptR o (execMatrixCommandFinish core brick s) := by
  unfold execMatrixCommandFinish
  repeat' (first | with_reducible assumption | with_reducible apply kept_next | with_reducible apply kept_finishCommand | with_reducible apply kept_settle | extract_lets -underBinder | split | dsimp +zetaDelta only)

/-! ## Move -/

theorem kept_execMov {o : Outside} (f : GFields) (s : State)
    (hk : Kept o s) :
    KeptR o (execMov f s) := by
  unfold execMov
  repeat' (first | with_reducible assumption | with_reducible apply kept_next | with_reducible apply kept_compute | extract_lets -underBinder | split | dsimp +zetaDelta only)

theorem kept_execSel {o : Outside} (f : GFields) (s : State)
    (hk : Kept o s) :
    KeptR o (execSel f s) := by
  unfold execSel
  repeat' (first | with_reducible assumption | with_reducible apply kept_next | with_reducible apply kept_compute | extract_lets -underBinder | split | dsimp +zetaDelta only)

theorem kept_execConstI {o : Outside} (f : GFields) (s : State)
    (hk : Kept o s) :
    KeptR o (execConstI f s) := by
  unfold execConstI
  repeat' (first | with_reducible assumption | with_reducible apply kept_next | with_reducible apply kept_compute | extract_lets -underBinder | split | dsimp +zetaDelta only)

theorem kept_execConsth {o : Outside} (f : GFields) (s : State)
    (hk : Kept o s) :
    KeptR o (execConsth f s) := by
  unfold execConsth
  repeat' (first | with_reducible assumption | with_reducible apply kept_next | with_reducible apply kept_compute | extract_lets -underBinder | split | dsimp +zetaDelta only)

theorem kept_execNul {o : Outside} (f : GFields) (s : State)
    (hk : Kept o s) :
    KeptR o (execNul f s) := by
  unfold execNul
  repeat' (first | with_reducible assumption | with_reducible apply kept_next | with_reducible apply kept_fired | (with_reducible refine kept_fire (fun a b c s hk => ?_) ?_) | extract_lets -underBinder | split | dsimp +zetaDelta only)

theorem kept_execLane {o : Outside} (f : GFields) (s : State)
    (hk : Kept o s) :
    KeptR o (execLane f s) := by
  unfold execLane
  repeat' (first | with_reducible assumption | with_reducible apply kept_next | with_reducible apply kept_compute | extract_lets -underBinder | split | dsimp +zetaDelta only)

theorem kept_execInsl {o : Outside} (f : GFields) (s : State)
    (hk : Kept o s) :
    KeptR o (execInsl f s) := by
  unfold execInsl
  repeat' (first | with_reducible assumption | with_reducible apply kept_next | with_reducible apply kept_compute | extract_lets -underBinder | split | dsimp +zetaDelta only)

theorem kept_execBcast {o : Outside} (f : GFields) (s : State)
    (hk : Kept o s) :
    KeptR o (execBcast f s) := by
  unfold execBcast
  repeat' (first | with_reducible assumption | with_reducible apply kept_next | with_reducible apply kept_compute | extract_lets -underBinder | split | dsimp +zetaDelta only)

theorem kept_execPerm {o : Outside} (f : GFields) (s : State)
    (hk : Kept o s) :
    KeptR o (execPerm f s) := by
  unfold execPerm
  repeat' (first | with_reducible assumption | with_reducible apply kept_next | with_reducible apply kept_compute | extract_lets -underBinder | split | dsimp +zetaDelta only)

theorem kept_execLrot {o : Outside} (f : GFields) (s : State)
    (hk : Kept o s) :
    KeptR o (execLrot f s) := by
  unfold execLrot
  repeat' (first | with_reducible assumption | with_reducible apply kept_next | with_reducible apply kept_compute | extract_lets -underBinder | split | dsimp +zetaDelta only)

theorem kept_execRedadd {o : Outside} (f : GFields) (s : State)
    (hk : Kept o s) :
    KeptR o (execRedadd f s) := by
  unfold execRedadd
  repeat' (first | with_reducible assumption | with_reducible apply kept_next | with_reducible apply kept_compute | extract_lets -underBinder | split | dsimp +zetaDelta only)

theorem kept_execRedmin {o : Outside} (f : GFields) (s : State)
    (hk : Kept o s) :
    KeptR o (execRedmin f s) := by
  unfold execRedmin
  repeat' (first | with_reducible assumption | with_reducible apply kept_next | with_reducible apply kept_compute | extract_lets -underBinder | split | dsimp +zetaDelta only)

theorem kept_execRedmax {o : Outside} (f : GFields) (s : State)
    (hk : Kept o s) :
    KeptR o (execRedmax f s) := by
  unfold execRedmax
  repeat' (first | with_reducible assumption | with_reducible apply kept_next | with_reducible apply kept_compute | extract_lets -underBinder | split | dsimp +zetaDelta only)

theorem kept_execFredadd {o : Outside} (f : GFields) (s : State)
    (hk : Kept o s) :
    KeptR o (execFredadd f s) := by
  unfold execFredadd
  repeat' (first | with_reducible assumption | with_reducible apply kept_next | with_reducible apply kept_computeR | extract_lets -underBinder | split | dsimp +zetaDelta only)

end Sys2Proof.Laws
end

