-- ==== Sys2Proof/Laws/KeptExec.lean ====
section
/-! SUPPORT. Every instruction and event but those of the package keeps the memories canonical and changes nothing outside. -/

namespace Sys2Proof.Laws

open Sys2Proof Sys2Proof.Machine

/-- The events that change kiln or the package registers. -/
def changesPackage : Instr → Bool
  | .boot | .kilnRecoveryRequest | .kilnFlashRewrite | .moduleNumberSet _ | .attestationReport _
  | .powerLimitSet _ | .launchWindowWrite _ _ _
  | .powerThrottle _ | .linkRetrain _ _ _ | .hostPortRetrain _ _ | .flitRetry _ | .portRetrain _ _ => true
  | _ => false

/-- What an instruction that is no event of the package does to the memories' form and to the outside. -/
theorem kept_exec {o : Outside} {i : Instr} {s : State} (hp : changesPackage i = false) (hk : Kept o s) :
    KeptR o (exec i s) := by
  cases i with
  | add => exact kept_execAdd _ _ hk
  | sub => exact kept_execSub _ _ hk
  | neg => exact kept_execNeg _ _ hk
  | abs => exact kept_execAbs _ _ hk
  | mul => exact kept_execMul _ _ hk
  | mulh => exact kept_execMulh _ _ hk
  | mad => exact kept_execMad _ _ hk
  | div => exact kept_execDiv _ _ hk
  | rem => exact kept_execRem _ _ hk
  | minI => exact kept_execMinI _ _ hk
  | maxI => exact kept_execMaxI _ _ hk
  | clamp => exact kept_execClamp _ _ hk
  | absd => exact kept_execAbsd _ _ hk
  | avg => exact kept_execAvg _ _ hk
  | addc => exact kept_execAddc _ _ hk
  | subb => exact kept_execSubb _ _ hk
  | dot4 => exact kept_execDot4 _ _ hk
  | sad => exact kept_execSad _ _ hk
  | addp => exact kept_execAddp _ _ hk
  | subp => exact kept_execSubp _ _ hk
  | ptrf => exact kept_execPtrf _ _ hk
  | ptrx => exact kept_execPtrx _ _ hk
  | andB => exact kept_execAndB _ _ hk
  | orB => exact kept_execOrB _ _ hk
  | xorB => exact kept_execXorB _ _ hk
  | andn => exact kept_execAndn _ _ hk
  | orn => exact kept_execOrn _ _ hk
  | notB => exact kept_execNotB _ _ hk
  | shl => exact kept_execShl _ _ hk
  | shr => exact kept_execShr _ _ hk
  | sar => exact kept_execSar _ _ hk
  | rol => exact kept_execRol _ _ hk
  | ror => exact kept_execRor _ _ hk
  | popc => exact kept_execPopc _ _ hk
  | clz => exact kept_execClz _ _ hk
  | ctz => exact kept_execCtz _ _ hk
  | brev => exact kept_execBrev _ _ hk
  | bswap => exact kept_execBswap _ _ hk
  | bext => exact kept_execBext _ _ hk
  | bins => exact kept_execBins _ _ hk
  | ceq => exact kept_execCeq _ _ hk
  | cne => exact kept_execCne _ _ hk
  | clt => exact kept_execClt _ _ hk
  | cle => exact kept_execCle _ _ hk
  | cgt => exact kept_execCgt _ _ hk
  | cge => exact kept_execCge _ _ hk
  | cuo => exact kept_execCuo _ _ hk
  | testz => exact kept_execTestz _ _ hk
  | testnz => exact kept_execTestnz _ _ hk
  | pand => exact kept_execPand _ _ hk
  | por => exact kept_execPor _ _ hk
  | pxor => exact kept_execPxor _ _ hk
  | pnot => exact kept_execPnot _ _ hk
  | anyl => exact kept_execAnyl _ _ hk
  | alll => exact kept_execAlll _ _ hk
  | cmask => exact kept_execCmask _ _ hk
  | fadd => exact kept_execFadd _ _ hk
  | fsub => exact kept_execFsub _ _ hk
  | fmul => exact kept_execFmul _ _ hk
  | fdiv => exact kept_execFdiv _ _ hk
  | fma => exact kept_execFma _ _ hk
  | fms => exact kept_execFms _ _ hk
  | fnma => exact kept_execFnma _ _ hk
  | fnms => exact kept_execFnms _ _ hk
  | fmin => exact kept_execFmin _ _ hk
  | fmax => exact kept_execFmax _ _ hk
  | fabs => exact kept_execFabs _ _ hk
  | fneg => exact kept_execFneg _ _ hk
  | fsqrt => exact kept_execFsqrt _ _ hk
  | fclass => exact kept_execFclass _ _ hk
  | fcpys => exact kept_execFcpys _ _ hk
  | frcp => exact kept_execFrcp _ _ hk
  | frsq => exact kept_execFrsq _ _ hk
  | fexp2 => exact kept_execFexp2 _ _ hk
  | flog2 => exact kept_execFlog2 _ _ hk
  | fsin => exact kept_execFsin _ _ hk
  | fcos => exact kept_execFcos _ _ hk
  | ftanh => exact kept_execFtanh _ _ hk
  | fsig => exact kept_execFsig _ _ hk
  | frnd => exact kept_execFrnd _ _ hk
  | cvtf => exact kept_execCvtf _ _ hk
  | cvtfi => exact kept_execCvtfi _ _ hk
  | cvtif => exact kept_execCvtif _ _ hk
  | cvti => exact kept_execCvti _ _ hk
  | pack8 => exact kept_execPack8 _ _ hk
  | unpk8 => exact kept_execUnpk8 _ _ hk
  | packh => exact kept_execPackh _ _ hk
  | unpkh => exact kept_execUnpkh _ _ hk
  | ql6 => exact kept_execQl6 _ _ hk
  | dql6 => exact kept_execDql6 _ _ hk
  | l6mul => exact kept_execL6mul _ _ hk
  | scalex => exact kept_execScalex _ _ hk
  | scalea => exact kept_execScalea _ _ hk
  | hash32 => exact kept_execHash32 _ _ hk
  | hash64 => exact kept_execHash64 _ _ hk
  | hcomb => exact kept_execHcomb _ _ hk
  | bucket => exact kept_execBucket _ _ hk
  | bkhist => exact kept_execBkhist _ _ hk
  | bkscat => exact kept_execBkscat _ _ hk
  | slen => exact kept_execSlen _ _ hk
  | scmp => exact kept_execScmp _ _ hk
  | spfx => exact kept_execSpfx _ _ hk
  | sfind => exact kept_execSfind _ _ hk
  | shash => exact kept_execShash _ _ hk
  | isect => exact kept_execIsect _ _ hk
  | mov => exact kept_execMov _ _ hk
  | sel => exact kept_execSel _ _ hk
  | constI => exact kept_execConstI _ _ hk
  | consth => exact kept_execConsth _ _ hk
  | nul => exact kept_execNul _ _ hk
  | lane => exact kept_execLane _ _ hk
  | insl => exact kept_execInsl _ _ hk
  | bcast => exact kept_execBcast _ _ hk
  | perm => exact kept_execPerm _ _ hk
  | lrot => exact kept_execLrot _ _ hk
  | redadd => exact kept_execRedadd _ _ hk
  | redmin => exact kept_execRedmin _ _ hk
  | redmax => exact kept_execRedmax _ _ hk
  | fredadd => exact kept_execFredadd _ _ hk
  | br => exact kept_execBr _ _ hk
  | brLeave => exact kept_execBrLeave _ _ hk
  | brMchk => exact kept_execBrMchk _ _ hk
  | bri => exact kept_execBri _ _ hk
  | ld => exact kept_execLd _ _ hk
  | ldRc => exact kept_execLdRc _ _ hk
  | st => exact kept_execSt _ _ hk
  | stCnt => exact kept_execStCnt _ _ hk
  | gath => exact kept_execGath _ _ hk
  | scat => exact kept_execScat _ _ hk
  | stm => exact kept_execStm _ _ hk
  | pref => exact kept_execPref _ _ hk
  | prefCode => exact kept_execPrefCode _ _ hk
  | lds => exact kept_execLds _ _ hk
  | stq => exact kept_execStq _ _ hk
  | spawn => exact kept_execSpawn _ _ hk
  | quit => exact kept_execQuit _ _ hk
  | yield => exact kept_execYield _ _ hk
  | repart => exact kept_execRepart _ _ hk
  | bind => exact kept_execBind _ _ hk
  | unbind => exact kept_execUnbind _ _ hk
  | send => exact kept_execSend _ _ hk
  | recv => exact kept_execRecv _ _ hk
  | mcast => exact kept_execMcast _ _ hk
  | waita => exact kept_execWaita _ _ hk
  | getc => exact kept_execGetc _ _ hk
  | setc => exact kept_execSetc _ _ hk
  | trap => exact kept_execTrap _ _ hk
  | rett => exact kept_execRett _ _ hk
  | syncb => exact kept_execSyncb _ _ hk
  | launch => exact kept_execLaunch _ _ hk
  | mcopy => exact kept_execMcopy _ _ hk
  | mput => exact kept_execMput _ _ hk
  | mget => exact kept_execMget _ _ hk
  | mquery => exact kept_execMquery _ _ hk
  | task => exact kept_execTask _ _ hk
  | tdone => exact kept_execTdone _ _ hk
  | gbar => exact kept_execGbar _ _ hk
  | gmcast => exact kept_execGmcast _ _ hk
  | mma => exact kept_execMma _ _ hk
  | accinit => exact kept_execAccinit _ _ hk
  | accout => exact kept_execAccout _ _ hk
  | accclr => exact kept_execAccclr _ _ hk
  | accq => exact kept_execAccq _ _ hk
  | aadd => exact kept_execAadd _ _ hk
  | amin => exact kept_execAmin _ _ hk
  | amax => exact kept_execAmax _ _ hk
  | aand => exact kept_execAand _ _ hk
  | aor => exact kept_execAor _ _ hk
  | axor => exact kept_execAxor _ _ hk
  | axchg => exact kept_execAxchg _ _ hk
  | acas => exact kept_execAcas _ _ hk
  | afadd => exact kept_execAfadd _ _ hk
  | afmin => exact kept_execAfmin _ _ hk
  | afmax => exact kept_execAfmax _ _ hk
  | phase => exact kept_execPhase _ _ hk
  | rcdecl => exact kept_execRcdecl _ _ hk
  | rcend => exact kept_execRcend _ _ hk
  | rcq => exact kept_execRcq _ _ hk
  | rwb => exact kept_execRwb _ _ hk
  | rinv => exact kept_execRinv _ _ hk
  | rdisc => exact kept_execRdisc _ _ hk
  | thnew => exact kept_execThnew _ _ hk
  | thfree => exact kept_execThfree _ _ hk
  | tacq => exact kept_execTacq _ _ hk
  | trel => exact kept_execTrel _ _ hk
  | tsplit => exact kept_execTsplit _ _ hk
  | tquery => exact kept_execTquery _ _ hk
  | tarena => exact kept_execTarena _ _ hk
  | tarenaDestroy => exact kept_execTarenaDestroy _ _ hk
  | tselect => exact kept_execTselect _ _ hk
  | tbatch => exact kept_execTbatch _ _ hk
  | texpand => exact kept_execTexpand _ _ hk
  | tbackup => exact kept_execTbackup _ _ hk
  | treroot => exact kept_execTreroot _ _ hk
  | tstat => exact kept_execTstat _ _ hk
  | wset => exact kept_execWset _ _ hk
  | wget => exact kept_execWget _ _ hk
  | coll => exact kept_execColl _ _ hk
  | cwait => exact kept_execCwait _ _ hk
  | flink => exact kept_execFlink _ _ hk
  | round => exact kept_execRound _ _ hk
  | seed => exact kept_execSeed _ _ hk
  | feCtl => exact kept_execFeCtl _ _ hk
  | coreErr => exact kept_execCoreErr _ _ hk
  | tlbInv => exact kept_execTlbInv _ _ hk
  | ptRoot => exact kept_execPtRoot _ _ hk
  | rcLogctl => exact kept_execRcLogctl _ _ hk
  | spillCtl => exact kept_execSpillCtl _ _ hk
  | partCfg => exact kept_execPartCfg _ _ hk
  | distKill => exact kept_execDistKill _ _ hk
  | launchWindowWrite => cases hp
  | winDrop => exact kept_execWinDrop _ _ hk
  | partWake => exact kept_execPartWake _ _ _ hk
  | kilnRecoveryRequest => cases hp
  | kilnFlashRewrite => cases hp
  | moduleNumberSet => cases hp
  | powerLimitSet => cases hp
  | attestationReport => cases hp
  | frameGrant => exact kept_execFrameGrant _ _ _ hk
  | blockMap => exact kept_execBlockMap _ _ hk
  | blockFetchFill => exact kept_execBlockFetchFill _ _ _ hk
  | tokenArrival => exact kept_execTokenArrival _ _ _ _ _ hk
  | tokenResend => exact kept_execTokenResend _ _ _ _ _ hk
  | blockCommit => exact kept_execBlockCommit _ _ hk
  | faultTaken => exact kept_execFaultTaken _ _ hk
  | blockIncompleteTimeout => exact kept_execBlockIncompleteTimeout _ _ hk
  | contextPark => exact kept_execContextPark _ _ hk
  | contextUnpark => exact kept_execContextUnpark _ _ hk
  | yieldExpiry => exact kept_execYieldExpiry _ _ hk
  | brickGate => exact kept_execBrickGate _ _ _ hk
  | repartApply => exact kept_execRepartApply _ _ hk
  | iterationCommit => exact kept_execIterationCommit _ _ hk
  | ldsEmit => exact kept_execLdsEmit _ _ _ hk
  | musterComplete => exact kept_execMusterComplete _ _ _ hk
  | messageArrival => exact kept_execMessageArrival _ _ _ hk
  | trapRecordDelivery => exact kept_execTrapRecordDelivery _ _ hk
  | postedAck => exact kept_execPostedAck _ _ _ hk
  | postedRefusal => exact kept_execPostedRefusal _ _ _ _ hk
  | preemption => exact kept_execPreemption _ _ hk
  | contextRestore => exact kept_execContextRestore _ _ _ hk
  | quantumEnd => exact kept_execQuantumEnd _ _ _ hk
  | jobStart => exact kept_execJobStart _ _ _ hk
  | jobLand => exact kept_execJobLand _ _ _ hk
  | jobComplete => exact kept_execJobComplete _ _ _ hk
  | jobFault => exact kept_execJobFault _ _ _ hk
  | cardDispatch => exact kept_execCardDispatch _ _ hk
  | taskStart => exact kept_execTaskStart _ _ hk
  | matrixCommandStart => exact kept_execMatrixCommandStart _ _ _ hk
  | matrixCommandFinish => exact kept_execMatrixCommandFinish _ _ _ hk
  | phaseComplete => exact kept_execPhaseComplete _ _ hk
  | l1Eviction => exact kept_execL1Eviction _ _ _ hk
  | tenureGrant => exact kept_execTenureGrant _ _ _ hk
  | leaseExpiry => exact kept_execLeaseExpiry _ _ _ _ _ hk
  | regionEnd => exact kept_execRegionEnd _ _ _ _ hk
  | pageWalk => exact kept_execPageWalk _ _ _ _ hk
  | hostAtsInvalidate => exact kept_execHostAtsInvalidate _ _ _ hk
  | hostBackInvalidate => exact kept_execHostBackInvalidate _ _ hk
  | hostMemRequest => exact kept_execHostMemRequest _ _ _ hk
  | remoteAccess => exact kept_execRemoteAccess _ _ _ _ _ hk
  | collectiveComplete => exact kept_execCollectiveComplete _ _ _ hk
  | flitRetry => cases hp
  | portRetrain => cases hp
  | loaderTake => exact kept_execLoaderTake _ _ hk
  | gangReserve => exact kept_execGangReserve _ _ _ hk
  | gangCommit => exact kept_execGangCommit _ _ _ hk
  | launchComplete => exact kept_execLaunchComplete _ _ _ hk
  | quiescenceSample => exact kept_execQuiescenceSample _ _ _ hk
  | clusterPowerDown => exact kept_execClusterPowerDown _ _ hk
  | powerThrottle => cases hp
  | linkRetrain => cases hp
  | boot => cases hp
  | effectivePriorityAging => exact kept_execEffectivePriorityAging _ _ _ hk
  | nodeCacheEviction => exact kept_execNodeCacheEviction _ _ _ _ hk
  | l2Eviction => exact kept_execL2Eviction _ _ hk
  | hostPortRetrain => cases hp

end Sys2Proof.Laws
end

