-- ==== Sys2Proof/Laws/Memory.lean ====
section
/-! SUPPORT. Reading one byte: when two states read alike at every place. -/

namespace Sys2Proof.Laws

open Sys2Proof Sys2Proof.Machine

variable {s t u : State}

theorem SameMemory.refl (s : State) : SameMemory s s := fun _ => rfl

theorem SameMemory.trans (h : SameMemory s t) (k : SameMemory t u) : SameMemory s u := fun l => (k l).trans (h l)

/-- Equal HBM, L2 lines, host memory and scratchpads read alike. -/
theorem sameMemory_of (h1 : t.hbm = s.hbm) (h2 : t.l2 = s.l2) (h3 : t.hostMem = s.hostMem)
    (h4 : ∀ k, (coreAt t k).spad = (coreAt s k).spad) : SameMemory s t := by
  have h : ∀ a, homeByte t a = homeByte s a := fun a => by unfold homeByte l2At; rw [h1, h2]
  intro l
  cases l <;> simp only [readByte, h, h3, h4]

/-- What changes the frame of the site alone leaves every byte. -/
theorem OnlySiteFrame.sameMemory (h : OnlySiteFrame s t) : SameMemory s t := by
  obtain ⟨h1, -, h2, -⟩ := h
  refine sameMemory_of ?_ ?_ ?_ (fun k => by rw [h2 k])
  all_goals rw [h1]

/-- What changes the frame of the site alone leaves every register. -/
theorem OnlySiteFrame.sameRegs (h : OnlySiteFrame s t) : SameRegs s t := fun k => by
  rw [h.2.2.1 k]; exact ⟨rfl, rfl⟩

theorem sameSaves.refl (p : Part) : sameSaves p p := ⟨rfl, rfl, fun _ e h => ⟨e.2, h, rfl, fun _ => rfl⟩⟩

theorem SameDies.refl (s : State) : SameDies s s := fun _ => ⟨rfl, fun _ => sameSaves.refl _⟩

theorem OnlySiteFrame.refl (s : State) : OnlySiteFrame s s :=
  ⟨rfl, SameDies.refl s, fun _ => rfl, fun _ => rfl, fun _ _ => rfl, fun _ _ => rfl⟩

/-- Changing a frame changes no byte. -/
theorem sameMemory_modFrame (c : CtxId) (n : Nat) (f : Frame → Frame) : SameMemory s (modFrame s c n f) :=
  sameMemory_of rfl rfl rfl (fun k => by unfold modFrame; rw [coreAt_modCtx])

/-- A context's change changes no byte. -/
theorem sameMemory_modCtx (c : CtxId) (f : Ctx → Ctx) : SameMemory s (modCtx s c f) :=
  sameMemory_of rfl rfl rfl (fun k => by rw [coreAt_modCtx])

end Sys2Proof.Laws
end

