-- ==== Sys2Proof/Laws/PerInstr.lean ====
section
/-! SUPPORT. Per instruction: its opcode fits the ten bits of the map, and the map gives its constructor back. -/

set_option linter.unusedSimpArgs false

namespace Sys2Proof.Laws.Encoding

open Sys2Proof Sys2Proof.Machine

/-- The opcode of an instruction is one of the map (R52), never 0x000 (R50), and the map's row with its class and low
bits, applied to its fields, is the instruction itself where its distinguishing bits are its own. -/
def Statement (i : Instr) : Prop :=
  match i.fields with
  | .event => encode i = 0 ∧ i.wf = false
  | .g f => 0 < i.opcode ∧ i.opcode < 1024
      ∧ (i.canonical = true → (gClass (i.opcode / 64) (i.opcode % 64)).map (fun mk => mk f) = some i)
  | .l f => 0 < i.opcode ∧ i.opcode < 1024 ∧ gClass (i.opcode / 64) (i.opcode % 64) = none
      ∧ (i.canonical = true → (lClass (i.opcode / 64) (i.opcode % 64)).map (fun mk => mk f) = some i)
  | .b f => i.opcode / 64 = 8 ∧ gClass 8 (i.opcode % 64) = none ∧ lClass 8 (i.opcode % 64) = none
      ∧ (i.canonical = true → (lookupLow class8 (i.opcode % 64)).map (fun mk => mk f) = some i)
  | .x f => i.opcode / 64 = 12 ∧ gClass 12 (i.opcode % 64) = none ∧ lClass 12 (i.opcode % 64) = none
      ∧ (lookupLow classC (i.opcode % 64)).map (fun mk => mk f) = some i

theorem rowG (i : Instr) (f : GFields) (n : Nat) (hf : i.fields = .g f) (ho : i.opcode = n) (hn : 0 < n ∧ n < 1024)
    (hg : i.canonical = true → (gClass (n / 64) (n % 64)).map (fun mk => mk f) = some i) : Statement i := by
  unfold Statement; rw [hf]; subst ho; exact ⟨hn.1, hn.2, hg⟩

theorem rowL (i : Instr) (f : LFields) (n : Nat) (hf : i.fields = .l f) (ho : i.opcode = n) (hn : 0 < n ∧ n < 1024)
    (h0 : gClass (n / 64) (n % 64) = none)
    (hg : i.canonical = true → (lClass (n / 64) (n % 64)).map (fun mk => mk f) = some i) : Statement i := by
  unfold Statement; rw [hf]; subst ho; exact ⟨hn.1, hn.2, h0, hg⟩

theorem rowB (i : Instr) (f : BFields) (n : Nat) (hf : i.fields = .b f) (ho : i.opcode = n) (hn : n / 64 = 8)
    (h0 : gClass 8 (n % 64) = none) (h1 : lClass 8 (n % 64) = none)
    (hg : i.canonical = true → (lookupLow class8 (n % 64)).map (fun mk => mk f) = some i) : Statement i := by
  unfold Statement; rw [hf]; subst ho; exact ⟨hn, h0, h1, hg⟩

theorem rowX (i : Instr) (f : XFields) (n : Nat) (hf : i.fields = .x f) (ho : i.opcode = n) (hn : n / 64 = 12)
    (h0 : gClass 12 (n % 64) = none) (h1 : lClass 12 (n % 64) = none)
    (hg : (lookupLow classC (n % 64)).map (fun mk => mk f) = some i) : Statement i := by
  unfold Statement; rw [hf]; subst ho; exact ⟨hn, h0, h1, hg⟩

theorem setcRow : gClass (0x28A / 64) (0x28A % 64) = some decodeSetc := rfl

theorem add (f : GFields) : Statement (.add f) :=
  rowG _ f 0x1 rfl rfl (by decide) (fun _ => rfl)
theorem sub (f : GFields) : Statement (.sub f) :=
  rowG _ f 0x2 rfl rfl (by decide) (fun _ => rfl)
theorem neg (f : GFields) : Statement (.neg f) :=
  rowG _ f 0x3 rfl rfl (by decide) (fun _ => rfl)
theorem abs (f : GFields) : Statement (.abs f) :=
  rowG _ f 0x4 rfl rfl (by decide) (fun _ => rfl)
theorem mul (f : GFields) : Statement (.mul f) :=
  rowG _ f 0x5 rfl rfl (by decide) (fun _ => rfl)
theorem mulh (f : GFields) : Statement (.mulh f) :=
  rowG _ f 0x6 rfl rfl (by decide) (fun _ => rfl)
theorem mad (f : GFields) : Statement (.mad f) :=
  rowG _ f 0x7 rfl rfl (by decide) (fun _ => rfl)
theorem div (f : GFields) : Statement (.div f) :=
  rowG _ f 0x8 rfl rfl (by decide) (fun _ => rfl)
theorem rem (f : GFields) : Statement (.rem f) :=
  rowG _ f 0x9 rfl rfl (by decide) (fun _ => rfl)
theorem minI (f : GFields) : Statement (.minI f) :=
  rowG _ f 0xa rfl rfl (by decide) (fun _ => rfl)
theorem maxI (f : GFields) : Statement (.maxI f) :=
  rowG _ f 0xb rfl rfl (by decide) (fun _ => rfl)
theorem clamp (f : GFields) : Statement (.clamp f) :=
  rowG _ f 0xc rfl rfl (by decide) (fun _ => rfl)
theorem absd (f : GFields) : Statement (.absd f) :=
  rowG _ f 0xd rfl rfl (by decide) (fun _ => rfl)
theorem avg (f : GFields) : Statement (.avg f) :=
  rowG _ f 0xe rfl rfl (by decide) (fun _ => rfl)
theorem addc (f : GFields) : Statement (.addc f) :=
  rowG _ f 0xf rfl rfl (by decide) (fun _ => rfl)
theorem subb (f : GFields) : Statement (.subb f) :=
  rowG _ f 0x10 rfl rfl (by decide) (fun _ => rfl)
theorem dot4 (f : GFields) : Statement (.dot4 f) :=
  rowG _ f 0x11 rfl rfl (by decide) (fun _ => rfl)
theorem sad (f : GFields) : Statement (.sad f) :=
  rowG _ f 0x12 rfl rfl (by decide) (fun _ => rfl)
theorem addp (f : GFields) : Statement (.addp f) :=
  rowG _ f 0x13 rfl rfl (by decide) (fun _ => rfl)
theorem subp (f : GFields) : Statement (.subp f) :=
  rowG _ f 0x14 rfl rfl (by decide) (fun _ => rfl)
theorem ptrf (f : GFields) : Statement (.ptrf f) :=
  rowG _ f 0x15 rfl rfl (by decide) (fun _ => rfl)
theorem ptrx (f : GFields) : Statement (.ptrx f) :=
  rowG _ f 0x16 rfl rfl (by decide) (fun _ => rfl)
theorem andB (f : GFields) : Statement (.andB f) :=
  rowG _ f 0x40 rfl rfl (by decide) (fun _ => rfl)
theorem orB (f : GFields) : Statement (.orB f) :=
  rowG _ f 0x41 rfl rfl (by decide) (fun _ => rfl)
theorem xorB (f : GFields) : Statement (.xorB f) :=
  rowG _ f 0x42 rfl rfl (by decide) (fun _ => rfl)
theorem andn (f : GFields) : Statement (.andn f) :=
  rowG _ f 0x43 rfl rfl (by decide) (fun _ => rfl)
theorem orn (f : GFields) : Statement (.orn f) :=
  rowG _ f 0x44 rfl rfl (by decide) (fun _ => rfl)
theorem notB (f : GFields) : Statement (.notB f) :=
  rowG _ f 0x45 rfl rfl (by decide) (fun _ => rfl)
theorem shl (f : GFields) : Statement (.shl f) :=
  rowG _ f 0x46 rfl rfl (by decide) (fun _ => rfl)
theorem shr (f : GFields) : Statement (.shr f) :=
  rowG _ f 0x47 rfl rfl (by decide) (fun _ => rfl)
theorem sar (f : GFields) : Statement (.sar f) :=
  rowG _ f 0x48 rfl rfl (by decide) (fun _ => rfl)
theorem rol (f : GFields) : Statement (.rol f) :=
  rowG _ f 0x49 rfl rfl (by decide) (fun _ => rfl)
theorem ror (f : GFields) : Statement (.ror f) :=
  rowG _ f 0x4a rfl rfl (by decide) (fun _ => rfl)
theorem popc (f : GFields) : Statement (.popc f) :=
  rowG _ f 0x4b rfl rfl (by decide) (fun _ => rfl)
theorem clz (f : GFields) : Statement (.clz f) :=
  rowG _ f 0x4c rfl rfl (by decide) (fun _ => rfl)
theorem ctz (f : GFields) : Statement (.ctz f) :=
  rowG _ f 0x4d rfl rfl (by decide) (fun _ => rfl)
theorem brev (f : GFields) : Statement (.brev f) :=
  rowG _ f 0x4e rfl rfl (by decide) (fun _ => rfl)
theorem bswap (f : GFields) : Statement (.bswap f) :=
  rowG _ f 0x4f rfl rfl (by decide) (fun _ => rfl)
theorem bext (f : GFields) : Statement (.bext f) :=
  rowG _ f 0x50 rfl rfl (by decide) (fun _ => rfl)
theorem bins (f : GFields) : Statement (.bins f) :=
  rowG _ f 0x51 rfl rfl (by decide) (fun _ => rfl)
theorem ceq (f : GFields) : Statement (.ceq f) :=
  rowG _ f 0x80 rfl rfl (by decide) (fun _ => rfl)
theorem cne (f : GFields) : Statement (.cne f) :=
  rowG _ f 0x81 rfl rfl (by decide) (fun _ => rfl)
theorem clt (f : GFields) : Statement (.clt f) :=
  rowG _ f 0x82 rfl rfl (by decide) (fun _ => rfl)
theorem cle (f : GFields) : Statement (.cle f) :=
  rowG _ f 0x83 rfl rfl (by decide) (fun _ => rfl)
theorem cgt (f : GFields) : Statement (.cgt f) :=
  rowG _ f 0x84 rfl rfl (by decide) (fun _ => rfl)
theorem cge (f : GFields) : Statement (.cge f) :=
  rowG _ f 0x85 rfl rfl (by decide) (fun _ => rfl)
theorem cuo (f : GFields) : Statement (.cuo f) :=
  rowG _ f 0x86 rfl rfl (by decide) (fun _ => rfl)
theorem testz (f : GFields) : Statement (.testz f) :=
  rowG _ f 0x87 rfl rfl (by decide) (fun _ => rfl)
theorem testnz (f : GFields) : Statement (.testnz f) :=
  rowG _ f 0x88 rfl rfl (by decide) (fun _ => rfl)
theorem pand (f : GFields) : Statement (.pand f) :=
  rowG _ f 0x89 rfl rfl (by decide) (fun _ => rfl)
theorem por (f : GFields) : Statement (.por f) :=
  rowG _ f 0x8a rfl rfl (by decide) (fun _ => rfl)
theorem pxor (f : GFields) : Statement (.pxor f) :=
  rowG _ f 0x8b rfl rfl (by decide) (fun _ => rfl)
theorem pnot (f : GFields) : Statement (.pnot f) :=
  rowG _ f 0x8c rfl rfl (by decide) (fun _ => rfl)
theorem anyl (f : GFields) : Statement (.anyl f) :=
  rowG _ f 0x8d rfl rfl (by decide) (fun _ => rfl)
theorem alll (f : GFields) : Statement (.alll f) :=
  rowG _ f 0x8e rfl rfl (by decide) (fun _ => rfl)
theorem cmask (f : GFields) : Statement (.cmask f) :=
  rowG _ f 0x8f rfl rfl (by decide) (fun _ => rfl)
theorem fadd (f : GFields) : Statement (.fadd f) :=
  rowG _ f 0xc0 rfl rfl (by decide) (fun _ => rfl)
theorem fsub (f : GFields) : Statement (.fsub f) :=
  rowG _ f 0xc1 rfl rfl (by decide) (fun _ => rfl)
theorem fmul (f : GFields) : Statement (.fmul f) :=
  rowG _ f 0xc2 rfl rfl (by decide) (fun _ => rfl)
theorem fdiv (f : GFields) : Statement (.fdiv f) :=
  rowG _ f 0xc3 rfl rfl (by decide) (fun _ => rfl)
theorem fma (f : GFields) : Statement (.fma f) :=
  rowG _ f 0xc4 rfl rfl (by decide) (fun _ => rfl)
theorem fms (f : GFields) : Statement (.fms f) :=
  rowG _ f 0xc5 rfl rfl (by decide) (fun _ => rfl)
theorem fnma (f : GFields) : Statement (.fnma f) :=
  rowG _ f 0xc6 rfl rfl (by decide) (fun _ => rfl)
theorem fnms (f : GFields) : Statement (.fnms f) :=
  rowG _ f 0xc7 rfl rfl (by decide) (fun _ => rfl)
theorem fmin (f : GFields) : Statement (.fmin f) :=
  rowG _ f 0xc8 rfl rfl (by decide) (fun _ => rfl)
theorem fmax (f : GFields) : Statement (.fmax f) :=
  rowG _ f 0xc9 rfl rfl (by decide) (fun _ => rfl)
theorem fabs (f : GFields) : Statement (.fabs f) :=
  rowG _ f 0xca rfl rfl (by decide) (fun _ => rfl)
theorem fneg (f : GFields) : Statement (.fneg f) :=
  rowG _ f 0xcb rfl rfl (by decide) (fun _ => rfl)
theorem fsqrt (f : GFields) : Statement (.fsqrt f) :=
  rowG _ f 0xcc rfl rfl (by decide) (fun _ => rfl)
theorem fclass (f : GFields) : Statement (.fclass f) :=
  rowG _ f 0xcd rfl rfl (by decide) (fun _ => rfl)
theorem fcpys (f : GFields) : Statement (.fcpys f) :=
  rowG _ f 0xce rfl rfl (by decide) (fun _ => rfl)
theorem frcp (f : GFields) : Statement (.frcp f) :=
  rowG _ f 0x100 rfl rfl (by decide) (fun _ => rfl)
theorem frsq (f : GFields) : Statement (.frsq f) :=
  rowG _ f 0x101 rfl rfl (by decide) (fun _ => rfl)
theorem fexp2 (f : GFields) : Statement (.fexp2 f) :=
  rowG _ f 0x102 rfl rfl (by decide) (fun _ => rfl)
theorem flog2 (f : GFields) : Statement (.flog2 f) :=
  rowG _ f 0x103 rfl rfl (by decide) (fun _ => rfl)
theorem fsin (f : GFields) : Statement (.fsin f) :=
  rowG _ f 0x104 rfl rfl (by decide) (fun _ => rfl)
theorem fcos (f : GFields) : Statement (.fcos f) :=
  rowG _ f 0x105 rfl rfl (by decide) (fun _ => rfl)
theorem ftanh (f : GFields) : Statement (.ftanh f) :=
  rowG _ f 0x106 rfl rfl (by decide) (fun _ => rfl)
theorem fsig (f : GFields) : Statement (.fsig f) :=
  rowG _ f 0x107 rfl rfl (by decide) (fun _ => rfl)
theorem frnd (f : GFields) : Statement (.frnd f) :=
  rowG _ f 0x108 rfl rfl (by decide) (fun _ => rfl)
theorem cvtf (f : GFields) : Statement (.cvtf f) :=
  rowG _ f 0x109 rfl rfl (by decide) (fun _ => rfl)
theorem cvtfi (f : GFields) : Statement (.cvtfi f) :=
  rowG _ f 0x10a rfl rfl (by decide) (fun _ => rfl)
theorem cvtif (f : GFields) : Statement (.cvtif f) :=
  rowG _ f 0x10b rfl rfl (by decide) (fun _ => rfl)
theorem cvti (f : GFields) : Statement (.cvti f) :=
  rowG _ f 0x10c rfl rfl (by decide) (fun _ => rfl)
theorem pack8 (f : GFields) : Statement (.pack8 f) :=
  rowG _ f 0x140 rfl rfl (by decide) (fun _ => rfl)
theorem unpk8 (f : GFields) : Statement (.unpk8 f) :=
  rowG _ f 0x141 rfl rfl (by decide) (fun _ => rfl)
theorem packh (f : GFields) : Statement (.packh f) :=
  rowG _ f 0x142 rfl rfl (by decide) (fun _ => rfl)
theorem unpkh (f : GFields) : Statement (.unpkh f) :=
  rowG _ f 0x143 rfl rfl (by decide) (fun _ => rfl)
theorem ql6 (f : GFields) : Statement (.ql6 f) :=
  rowG _ f 0x144 rfl rfl (by decide) (fun _ => rfl)
theorem dql6 (f : GFields) : Statement (.dql6 f) :=
  rowG _ f 0x145 rfl rfl (by decide) (fun _ => rfl)
theorem l6mul (f : GFields) : Statement (.l6mul f) :=
  rowG _ f 0x146 rfl rfl (by decide) (fun _ => rfl)
theorem scalex (f : GFields) : Statement (.scalex f) :=
  rowG _ f 0x147 rfl rfl (by decide) (fun _ => rfl)
theorem scalea (f : GFields) : Statement (.scalea f) :=
  rowG _ f 0x148 rfl rfl (by decide) (fun _ => rfl)
theorem hash32 (f : GFields) : Statement (.hash32 f) :=
  rowG _ f 0x180 rfl rfl (by decide) (fun _ => rfl)
theorem hash64 (f : GFields) : Statement (.hash64 f) :=
  rowG _ f 0x181 rfl rfl (by decide) (fun _ => rfl)
theorem hcomb (f : GFields) : Statement (.hcomb f) :=
  rowG _ f 0x182 rfl rfl (by decide) (fun _ => rfl)
theorem bucket (f : GFields) : Statement (.bucket f) :=
  rowG _ f 0x183 rfl rfl (by decide) (fun _ => rfl)
theorem bkhist (f : GFields) : Statement (.bkhist f) :=
  rowG _ f 0x184 rfl rfl (by decide) (fun _ => rfl)
theorem bkscat (f : GFields) : Statement (.bkscat f) :=
  rowG _ f 0x185 rfl rfl (by decide) (fun _ => rfl)
theorem slen (f : GFields) : Statement (.slen f) :=
  rowG _ f 0x186 rfl rfl (by decide) (fun _ => rfl)
theorem scmp (f : GFields) : Statement (.scmp f) :=
  rowG _ f 0x187 rfl rfl (by decide) (fun _ => rfl)
theorem spfx (f : GFields) : Statement (.spfx f) :=
  rowG _ f 0x188 rfl rfl (by decide) (fun _ => rfl)
theorem sfind (f : GFields) : Statement (.sfind f) :=
  rowG _ f 0x189 rfl rfl (by decide) (fun _ => rfl)
theorem shash (f : GFields) : Statement (.shash f) :=
  rowG _ f 0x18a rfl rfl (by decide) (fun _ => rfl)
theorem isect (f : GFields) : Statement (.isect f) :=
  rowG _ f 0x18b rfl rfl (by decide) (fun _ => rfl)
theorem mov (f : GFields) : Statement (.mov f) :=
  rowG _ f 0x1c0 rfl rfl (by decide) (fun _ => rfl)
theorem sel (f : GFields) : Statement (.sel f) :=
  rowG _ f 0x1c1 rfl rfl (by decide) (fun _ => rfl)
theorem constI (f : GFields) : Statement (.constI f) :=
  rowG _ f 0x1c2 rfl rfl (by decide) (fun _ => rfl)
theorem consth (f : GFields) : Statement (.consth f) :=
  rowG _ f 0x1c3 rfl rfl (by decide) (fun _ => rfl)
theorem nul (f : GFields) : Statement (.nul f) :=
  rowG _ f 0x1c4 rfl rfl (by decide) (fun _ => rfl)
theorem lane (f : GFields) : Statement (.lane f) :=
  rowG _ f 0x1c5 rfl rfl (by decide) (fun _ => rfl)
theorem insl (f : GFields) : Statement (.insl f) :=
  rowG _ f 0x1c6 rfl rfl (by decide) (fun _ => rfl)
theorem bcast (f : GFields) : Statement (.bcast f) :=
  rowG _ f 0x1c7 rfl rfl (by decide) (fun _ => rfl)
theorem perm (f : GFields) : Statement (.perm f) :=
  rowG _ f 0x1c8 rfl rfl (by decide) (fun _ => rfl)
theorem lrot (f : GFields) : Statement (.lrot f) :=
  rowG _ f 0x1c9 rfl rfl (by decide) (fun _ => rfl)
theorem redadd (f : GFields) : Statement (.redadd f) :=
  rowG _ f 0x1ca rfl rfl (by decide) (fun _ => rfl)
theorem redmin (f : GFields) : Statement (.redmin f) :=
  rowG _ f 0x1cb rfl rfl (by decide) (fun _ => rfl)
theorem redmax (f : GFields) : Statement (.redmax f) :=
  rowG _ f 0x1cc rfl rfl (by decide) (fun _ => rfl)
theorem fredadd (f : GFields) : Statement (.fredadd f) :=
  rowG _ f 0x1cd rfl rfl (by decide) (fun _ => rfl)
theorem br (f : BFields) : Statement (.br f) :=
  rowB _ f 0x200 rfl rfl rfl rfl rfl (fun h => by
    refine Eq.trans (b := some (decodeBr f)) rfl (congrArg some ?_)
    simp_all [decodeBr, Instr.canonical])
theorem brLeave (f : BFields) : Statement (.brLeave f) :=
  rowB _ f 0x200 rfl rfl rfl rfl rfl (fun h => by
    refine Eq.trans (b := some (decodeBr f)) rfl (congrArg some ?_)
    simp_all [decodeBr, Instr.canonical])
theorem brMchk (f : BFields) : Statement (.brMchk f) :=
  rowB _ f 0x200 rfl rfl rfl rfl rfl (fun h => by
    refine Eq.trans (b := some (decodeBr f)) rfl (congrArg some ?_)
    simp_all [decodeBr, Instr.canonical])
theorem bri (f : BFields) : Statement (.bri f) :=
  rowB _ f 0x201 rfl rfl rfl rfl rfl (fun _ => rfl)
theorem ld (f : LFields) : Statement (.ld f) :=
  rowL _ f 0x240 rfl rfl (by decide) rfl (fun h => by
    refine Eq.trans (b := some (decodeLd f)) rfl (congrArg some ?_)
    simp_all [decodeLd, Instr.canonical])
theorem ldRc (f : LFields) : Statement (.ldRc f) :=
  rowL _ f 0x240 rfl rfl (by decide) rfl (fun h => by
    refine Eq.trans (b := some (decodeLd f)) rfl (congrArg some ?_)
    simp_all [decodeLd, Instr.canonical])
theorem st (f : LFields) : Statement (.st f) :=
  rowL _ f 0x241 rfl rfl (by decide) rfl (fun h => by
    refine Eq.trans (b := some (decodeSt f)) rfl (congrArg some ?_)
    simp_all [decodeSt, Instr.canonical])
theorem stCnt (f : LFields) : Statement (.stCnt f) :=
  rowL _ f 0x241 rfl rfl (by decide) rfl (fun h => by
    refine Eq.trans (b := some (decodeSt f)) rfl (congrArg some ?_)
    simp_all [decodeSt, Instr.canonical])
theorem gath (f : LFields) : Statement (.gath f) :=
  rowL _ f 0x242 rfl rfl (by decide) rfl (fun _ => rfl)
theorem scat (f : LFields) : Statement (.scat f) :=
  rowL _ f 0x243 rfl rfl (by decide) rfl (fun _ => rfl)
theorem stm (f : LFields) : Statement (.stm f) :=
  rowL _ f 0x244 rfl rfl (by decide) rfl (fun _ => rfl)
theorem pref (f : LFields) : Statement (.pref f) :=
  rowL _ f 0x245 rfl rfl (by decide) rfl (fun h => by
    refine Eq.trans (b := some (decodePref f)) rfl (congrArg some ?_)
    simp_all [decodePref, Instr.canonical])
theorem prefCode (f : LFields) : Statement (.prefCode f) :=
  rowL _ f 0x245 rfl rfl (by decide) rfl (fun h => by
    refine Eq.trans (b := some (decodePref f)) rfl (congrArg some ?_)
    simp_all [decodePref, Instr.canonical])
theorem lds (f : LFields) : Statement (.lds f) :=
  rowL _ f 0x246 rfl rfl (by decide) rfl (fun _ => rfl)
theorem stq (f : LFields) : Statement (.stq f) :=
  rowL _ f 0x247 rfl rfl (by decide) rfl (fun _ => rfl)
theorem spawn (f : GFields) : Statement (.spawn f) :=
  rowG _ f 0x280 rfl rfl (by decide) (fun _ => rfl)
theorem quit (f : GFields) : Statement (.quit f) :=
  rowG _ f 0x281 rfl rfl (by decide) (fun _ => rfl)
theorem yield (f : GFields) : Statement (.yield f) :=
  rowG _ f 0x282 rfl rfl (by decide) (fun _ => rfl)
theorem repart (f : GFields) : Statement (.repart f) :=
  rowG _ f 0x283 rfl rfl (by decide) (fun _ => rfl)
theorem bind (f : GFields) : Statement (.bind f) :=
  rowG _ f 0x284 rfl rfl (by decide) (fun h => by
    refine Eq.trans (b := some (decodeBind f)) rfl (congrArg some ?_)
    simp_all [decodeBind, Instr.canonical])
theorem unbind (f : GFields) : Statement (.unbind f) :=
  rowG _ f 0x284 rfl rfl (by decide) (fun h => by
    refine Eq.trans (b := some (decodeBind f)) rfl (congrArg some ?_)
    simp_all [decodeBind, Instr.canonical])
theorem send (f : GFields) : Statement (.send f) :=
  rowG _ f 0x285 rfl rfl (by decide) (fun _ => rfl)
theorem recv (f : GFields) : Statement (.recv f) :=
  rowG _ f 0x286 rfl rfl (by decide) (fun _ => rfl)
theorem mcast (f : GFields) : Statement (.mcast f) :=
  rowG _ f 0x287 rfl rfl (by decide) (fun _ => rfl)
theorem waita (f : GFields) : Statement (.waita f) :=
  rowG _ f 0x288 rfl rfl (by decide) (fun _ => rfl)
theorem getc (f : GFields) : Statement (.getc f) :=
  rowG _ f 0x289 rfl rfl (by decide) (fun _ => rfl)
theorem setc (f : GFields) : Statement (.setc f) :=
  rowG _ f 0x28a rfl rfl (by decide) (fun h => by
    rw [setcRow]; simp_all [decodeSetc, Instr.canonical, ownRowRegister]; omega)
theorem trap (f : GFields) : Statement (.trap f) :=
  rowG _ f 0x28b rfl rfl (by decide) (fun _ => rfl)
theorem rett (f : GFields) : Statement (.rett f) :=
  rowG _ f 0x28c rfl rfl (by decide) (fun _ => rfl)
theorem syncb (f : GFields) : Statement (.syncb f) :=
  rowG _ f 0x28d rfl rfl (by decide) (fun _ => rfl)
theorem launch (f : GFields) : Statement (.launch f) :=
  rowG _ f 0x28e rfl rfl (by decide) (fun _ => rfl)
theorem mcopy (f : LFields) : Statement (.mcopy f) :=
  rowL _ f 0x2c0 rfl rfl (by decide) rfl (fun _ => rfl)
theorem mput (f : LFields) : Statement (.mput f) :=
  rowL _ f 0x2c1 rfl rfl (by decide) rfl (fun _ => rfl)
theorem mget (f : LFields) : Statement (.mget f) :=
  rowL _ f 0x2c2 rfl rfl (by decide) rfl (fun _ => rfl)
theorem mquery (f : LFields) : Statement (.mquery f) :=
  rowL _ f 0x2c3 rfl rfl (by decide) rfl (fun _ => rfl)
theorem task (f : LFields) : Statement (.task f) :=
  rowL _ f 0x2c4 rfl rfl (by decide) rfl (fun _ => rfl)
theorem tdone (f : LFields) : Statement (.tdone f) :=
  rowL _ f 0x2c5 rfl rfl (by decide) rfl (fun _ => rfl)
theorem gbar (f : LFields) : Statement (.gbar f) :=
  rowL _ f 0x2c6 rfl rfl (by decide) rfl (fun _ => rfl)
theorem gmcast (f : LFields) : Statement (.gmcast f) :=
  rowL _ f 0x2c7 rfl rfl (by decide) rfl (fun _ => rfl)
theorem mma (f : XFields) : Statement (.mma f) :=
  rowX _ f 0x300 rfl rfl rfl rfl rfl (rfl)
theorem accinit (f : XFields) : Statement (.accinit f) :=
  rowX _ f 0x301 rfl rfl rfl rfl rfl (rfl)
theorem accout (f : XFields) : Statement (.accout f) :=
  rowX _ f 0x302 rfl rfl rfl rfl rfl (rfl)
theorem accclr (f : XFields) : Statement (.accclr f) :=
  rowX _ f 0x303 rfl rfl rfl rfl rfl (rfl)
theorem accq (f : XFields) : Statement (.accq f) :=
  rowX _ f 0x304 rfl rfl rfl rfl rfl (rfl)
theorem aadd (f : LFields) : Statement (.aadd f) :=
  rowL _ f 0x340 rfl rfl (by decide) rfl (fun _ => rfl)
theorem amin (f : LFields) : Statement (.amin f) :=
  rowL _ f 0x341 rfl rfl (by decide) rfl (fun _ => rfl)
theorem amax (f : LFields) : Statement (.amax f) :=
  rowL _ f 0x342 rfl rfl (by decide) rfl (fun _ => rfl)
theorem aand (f : LFields) : Statement (.aand f) :=
  rowL _ f 0x343 rfl rfl (by decide) rfl (fun _ => rfl)
theorem aor (f : LFields) : Statement (.aor f) :=
  rowL _ f 0x344 rfl rfl (by decide) rfl (fun _ => rfl)
theorem axor (f : LFields) : Statement (.axor f) :=
  rowL _ f 0x345 rfl rfl (by decide) rfl (fun _ => rfl)
theorem axchg (f : LFields) : Statement (.axchg f) :=
  rowL _ f 0x346 rfl rfl (by decide) rfl (fun _ => rfl)
theorem acas (f : LFields) : Statement (.acas f) :=
  rowL _ f 0x347 rfl rfl (by decide) rfl (fun _ => rfl)
theorem afadd (f : LFields) : Statement (.afadd f) :=
  rowL _ f 0x348 rfl rfl (by decide) rfl (fun _ => rfl)
theorem afmin (f : LFields) : Statement (.afmin f) :=
  rowL _ f 0x349 rfl rfl (by decide) rfl (fun _ => rfl)
theorem afmax (f : LFields) : Statement (.afmax f) :=
  rowL _ f 0x34a rfl rfl (by decide) rfl (fun _ => rfl)
theorem phase (f : LFields) : Statement (.phase f) :=
  rowL _ f 0x34b rfl rfl (by decide) rfl (fun _ => rfl)
theorem rcdecl (f : LFields) : Statement (.rcdecl f) :=
  rowL _ f 0x34c rfl rfl (by decide) rfl (fun _ => rfl)
theorem rcend (f : LFields) : Statement (.rcend f) :=
  rowL _ f 0x34d rfl rfl (by decide) rfl (fun _ => rfl)
theorem rcq (f : LFields) : Statement (.rcq f) :=
  rowL _ f 0x34e rfl rfl (by decide) rfl (fun _ => rfl)
theorem rwb (f : LFields) : Statement (.rwb f) :=
  rowL _ f 0x34f rfl rfl (by decide) rfl (fun _ => rfl)
theorem rinv (f : LFields) : Statement (.rinv f) :=
  rowL _ f 0x350 rfl rfl (by decide) rfl (fun _ => rfl)
theorem rdisc (f : LFields) : Statement (.rdisc f) :=
  rowL _ f 0x351 rfl rfl (by decide) rfl (fun _ => rfl)
theorem thnew (f : LFields) : Statement (.thnew f) :=
  rowL _ f 0x380 rfl rfl (by decide) rfl (fun _ => rfl)
theorem thfree (f : LFields) : Statement (.thfree f) :=
  rowL _ f 0x381 rfl rfl (by decide) rfl (fun _ => rfl)
theorem tacq (f : LFields) : Statement (.tacq f) :=
  rowL _ f 0x382 rfl rfl (by decide) rfl (fun _ => rfl)
theorem trel (f : LFields) : Statement (.trel f) :=
  rowL _ f 0x383 rfl rfl (by decide) rfl (fun _ => rfl)
theorem tsplit (f : LFields) : Statement (.tsplit f) :=
  rowL _ f 0x384 rfl rfl (by decide) rfl (fun _ => rfl)
theorem tquery (f : LFields) : Statement (.tquery f) :=
  rowL _ f 0x385 rfl rfl (by decide) rfl (fun _ => rfl)
theorem tarena (f : LFields) : Statement (.tarena f) :=
  rowL _ f 0x390 rfl rfl (by decide) rfl (fun h => by
    refine Eq.trans (b := some (decodeTarena f)) rfl (congrArg some ?_)
    simp_all [decodeTarena, Instr.canonical])
theorem tarenaDestroy (f : LFields) : Statement (.tarenaDestroy f) :=
  rowL _ f 0x390 rfl rfl (by decide) rfl (fun h => by
    refine Eq.trans (b := some (decodeTarena f)) rfl (congrArg some ?_)
    simp_all [decodeTarena, Instr.canonical])
theorem tselect (f : LFields) : Statement (.tselect f) :=
  rowL _ f 0x391 rfl rfl (by decide) rfl (fun _ => rfl)
theorem tbatch (f : LFields) : Statement (.tbatch f) :=
  rowL _ f 0x392 rfl rfl (by decide) rfl (fun _ => rfl)
theorem texpand (f : LFields) : Statement (.texpand f) :=
  rowL _ f 0x393 rfl rfl (by decide) rfl (fun _ => rfl)
theorem tbackup (f : LFields) : Statement (.tbackup f) :=
  rowL _ f 0x394 rfl rfl (by decide) rfl (fun _ => rfl)
theorem treroot (f : LFields) : Statement (.treroot f) :=
  rowL _ f 0x395 rfl rfl (by decide) rfl (fun _ => rfl)
theorem tstat (f : LFields) : Statement (.tstat f) :=
  rowL _ f 0x396 rfl rfl (by decide) rfl (fun _ => rfl)
theorem wset (f : LFields) : Statement (.wset f) :=
  rowL _ f 0x3c0 rfl rfl (by decide) rfl (fun _ => rfl)
theorem wget (f : LFields) : Statement (.wget f) :=
  rowL _ f 0x3c1 rfl rfl (by decide) rfl (fun _ => rfl)
theorem coll (f : LFields) : Statement (.coll f) :=
  rowL _ f 0x3c2 rfl rfl (by decide) rfl (fun _ => rfl)
theorem cwait (f : LFields) : Statement (.cwait f) :=
  rowL _ f 0x3c3 rfl rfl (by decide) rfl (fun _ => rfl)
theorem flink (f : LFields) : Statement (.flink f) :=
  rowL _ f 0x3c4 rfl rfl (by decide) rfl (fun _ => rfl)
theorem round (f : GFields) : Statement (.round f) :=
  rowG _ f 0x28a rfl rfl (by decide) (fun h => by
    rw [setcRow]; simp_all [decodeSetc, Instr.canonical])
theorem seed (f : GFields) : Statement (.seed f) :=
  rowG _ f 0x28a rfl rfl (by decide) (fun h => by
    rw [setcRow]; simp_all [decodeSetc, Instr.canonical])
theorem feCtl (f : GFields) : Statement (.feCtl f) :=
  rowG _ f 0x28a rfl rfl (by decide) (fun h => by
    rw [setcRow]; simp_all [decodeSetc, Instr.canonical])
theorem coreErr (f : GFields) : Statement (.coreErr f) :=
  rowG _ f 0x28a rfl rfl (by decide) (fun h => by
    rw [setcRow]; simp_all [decodeSetc, Instr.canonical])
theorem tlbInv (f : GFields) : Statement (.tlbInv f) :=
  rowG _ f 0x28a rfl rfl (by decide) (fun h => by
    rw [setcRow]; simp_all [decodeSetc, Instr.canonical])
theorem ptRoot (f : GFields) : Statement (.ptRoot f) :=
  rowG _ f 0x28a rfl rfl (by decide) (fun h => by
    rw [setcRow]; simp_all [decodeSetc, Instr.canonical])
theorem rcLogctl (f : GFields) : Statement (.rcLogctl f) :=
  rowG _ f 0x28a rfl rfl (by decide) (fun h => by
    rw [setcRow]; simp_all [decodeSetc, Instr.canonical])
theorem spillCtl (f : GFields) : Statement (.spillCtl f) :=
  rowG _ f 0x28a rfl rfl (by decide) (fun h => by
    rw [setcRow]; simp_all [decodeSetc, Instr.canonical])
theorem partCfg (f : GFields) : Statement (.partCfg f) :=
  rowG _ f 0x28a rfl rfl (by decide) (fun h => by
    simp only [Instr.canonical, Bool.and_eq_true, decide_eq_true_eq] at h
    rw [setcRow]
    simp only [Option.map_some, decodeSetc, beq_iff_eq]
    repeat rw [if_neg (by omega)]
    rw [if_pos (by simpa using h)])
theorem distKill (f : GFields) : Statement (.distKill f) :=
  rowG _ f 0x28a rfl rfl (by decide) (fun h => by
    rw [setcRow]; simp_all [decodeSetc, Instr.canonical])
theorem launchWindowWrite (die : Nat) (offset : Nat) (access : BarAccess) : Statement (.launchWindowWrite die offset access) := ⟨rfl, rfl⟩
theorem winDrop (die : Nat) : Statement (.winDrop die) := ⟨rfl, rfl⟩
theorem partWake (die : Nat) (mask : Word) : Statement (.partWake die mask) := ⟨rfl, rfl⟩
theorem kilnRecoveryRequest : Statement (.kilnRecoveryRequest) := ⟨rfl, rfl⟩
theorem kilnFlashRewrite : Statement (.kilnFlashRewrite) := ⟨rfl, rfl⟩
theorem moduleNumberSet (m : Nat) : Statement (.moduleNumberSet m) := ⟨rfl, rfl⟩
theorem powerLimitSet (watts : Nat) : Statement (.powerLimitSet watts) := ⟨rfl, rfl⟩
theorem attestationReport (nonce : List Byte) : Statement (.attestationReport nonce) := ⟨rfl, rfl⟩
theorem frameGrant (c : CtxId) (predicted : Option Word) : Statement (.frameGrant c predicted) := ⟨rfl, rfl⟩
theorem blockMap (c : CtxId) : Statement (.blockMap c) := ⟨rfl, rfl⟩
theorem blockFetchFill (c : CtxId) (line : Fill) : Statement (.blockFetchFill c line) := ⟨rfl, rfl⟩
theorem tokenArrival (c : CtxId) (frame : Nat) (n : Nat) (upset : Upset) : Statement (.tokenArrival c frame n upset) := ⟨rfl, rfl⟩
theorem tokenResend (c : CtxId) (frame : Nat) (n : Nat) (parityError : Bool) : Statement (.tokenResend c frame n parityError) := ⟨rfl, rfl⟩
theorem blockCommit (c : CtxId) : Statement (.blockCommit c) := ⟨rfl, rfl⟩
theorem faultTaken (c : CtxId) : Statement (.faultTaken c) := ⟨rfl, rfl⟩
theorem blockIncompleteTimeout (c : CtxId) : Statement (.blockIncompleteTimeout c) := ⟨rfl, rfl⟩
theorem contextPark (c : CtxId) : Statement (.contextPark c) := ⟨rfl, rfl⟩
theorem contextUnpark (c : CtxId) : Statement (.contextUnpark c) := ⟨rfl, rfl⟩
theorem yieldExpiry (c : CtxId) : Statement (.yieldExpiry c) := ⟨rfl, rfl⟩
theorem brickGate (core : Nat) (brick : Nat) : Statement (.brickGate core brick) := ⟨rfl, rfl⟩
theorem repartApply (core : Nat) : Statement (.repartApply core) := ⟨rfl, rfl⟩
theorem iterationCommit (c : CtxId) : Statement (.iterationCommit c) := ⟨rfl, rfl⟩
theorem ldsEmit (c : CtxId) (index : Nat) : Statement (.ldsEmit c index) := ⟨rfl, rfl⟩
theorem musterComplete (cluster : Nat) (address : Word) : Statement (.musterComplete cluster address) := ⟨rfl, rfl⟩
theorem messageArrival (c : CtxId) (n : Nat) : Statement (.messageArrival c n) := ⟨rfl, rfl⟩
theorem trapRecordDelivery (c : CtxId) : Statement (.trapRecordDelivery c) := ⟨rfl, rfl⟩
theorem postedAck (core : Nat) (entry : Nat) : Statement (.postedAck core entry) := ⟨rfl, rfl⟩
theorem postedRefusal (core : Nat) (entry : Nat) (cause : Nat) : Statement (.postedRefusal core entry cause) := ⟨rfl, rfl⟩
theorem preemption (core : Nat) : Statement (.preemption core) := ⟨rfl, rfl⟩
theorem contextRestore (core : Nat) (cycles : Nat) : Statement (.contextRestore core cycles) := ⟨rfl, rfl⟩
theorem quantumEnd (die : Nat) (part : Nat) : Statement (.quantumEnd die part) := ⟨rfl, rfl⟩
theorem jobStart (core : Nat) (seq : Nat) : Statement (.jobStart core seq) := ⟨rfl, rfl⟩
theorem jobLand (core : Nat) (seq : Nat) : Statement (.jobLand core seq) := ⟨rfl, rfl⟩
theorem jobComplete (core : Nat) (seq : Nat) : Statement (.jobComplete core seq) := ⟨rfl, rfl⟩
theorem jobFault (core : Nat) (seq : Nat) : Statement (.jobFault core seq) := ⟨rfl, rfl⟩
theorem cardDispatch (cluster : Nat) : Statement (.cardDispatch cluster) := ⟨rfl, rfl⟩
theorem taskStart (c : CtxId) : Statement (.taskStart c) := ⟨rfl, rfl⟩
theorem matrixCommandStart (core : Nat) (brick : Nat) : Statement (.matrixCommandStart core brick) := ⟨rfl, rfl⟩
theorem matrixCommandFinish (core : Nat) (brick : Nat) : Statement (.matrixCommandFinish core brick) := ⟨rfl, rfl⟩
theorem phaseComplete (c : CtxId) : Statement (.phaseComplete c) := ⟨rfl, rfl⟩
theorem l1Eviction (core : Nat) (line : Nat) : Statement (.l1Eviction core line) := ⟨rfl, rfl⟩
theorem tenureGrant (die : Nat) (part : Nat) : Statement (.tenureGrant die part) := ⟨rfl, rfl⟩
theorem leaseExpiry (die : Nat) (part : Nat) (handle : Nat) (holder : Nat) : Statement (.leaseExpiry die part handle holder) := ⟨rfl, rfl⟩
theorem regionEnd (die : Nat) (part : Nat) (region : Nat) : Statement (.regionEnd die part region) := ⟨rfl, rfl⟩
theorem pageWalk (die : Nat) (part : Nat) (va : Nat) : Statement (.pageWalk die part va) := ⟨rfl, rfl⟩
theorem hostAtsInvalidate (va : Nat) (bytes : Nat) : Statement (.hostAtsInvalidate va bytes) := ⟨rfl, rfl⟩
theorem hostBackInvalidate (line : Nat) : Statement (.hostBackInvalidate line) := ⟨rfl, rfl⟩
theorem hostMemRequest (address : Nat) (write : HostMem) : Statement (.hostMemRequest address write) := ⟨rfl, rfl⟩
theorem remoteAccess (die : Nat) (part : Nat) (va : Nat) (write : Option (List Byte)) : Statement (.remoteAccess die part va write) := ⟨rfl, rfl⟩
theorem collectiveComplete (c : CtxId) (n : Nat) : Statement (.collectiveComplete c n) := ⟨rfl, rfl⟩
theorem flitRetry (port : Nat) : Statement (.flitRetry port) := ⟨rfl, rfl⟩
theorem portRetrain (port : Nat) (lanes : Nat) : Statement (.portRetrain port lanes) := ⟨rfl, rfl⟩
theorem loaderTake (die : Nat) : Statement (.loaderTake die) := ⟨rfl, rfl⟩
theorem gangReserve (die : Nat) (part : Nat) : Statement (.gangReserve die part) := ⟨rfl, rfl⟩
theorem gangCommit (die : Nat) (part : Nat) : Statement (.gangCommit die part) := ⟨rfl, rfl⟩
theorem launchComplete (die : Nat) (lid : Nat) : Statement (.launchComplete die lid) := ⟨rfl, rfl⟩
theorem quiescenceSample (die : Nat) (part : Nat) : Statement (.quiescenceSample die part) := ⟨rfl, rfl⟩
theorem clusterPowerDown (cluster : Nat) : Statement (.clusterPowerDown cluster) := ⟨rfl, rfl⟩
theorem powerThrottle (averageMilliwatts : Nat) : Statement (.powerThrottle averageMilliwatts) := ⟨rfl, rfl⟩
theorem linkRetrain (die : Nat) (neighbour : Nat) (succeeds : Bool) : Statement (.linkRetrain die neighbour succeeds) := ⟨rfl, rfl⟩
theorem boot : Statement (.boot) := ⟨rfl, rfl⟩
theorem effectivePriorityAging (die : Nat) (lid : Nat) : Statement (.effectivePriorityAging die lid) := ⟨rfl, rfl⟩
theorem nodeCacheEviction (die : Nat) (arena : Nat) (node : Nat) : Statement (.nodeCacheEviction die arena node) := ⟨rfl, rfl⟩
theorem l2Eviction (line : Nat) : Statement (.l2Eviction line) := ⟨rfl, rfl⟩
theorem hostPortRetrain (port : Nat) (width : Nat) : Statement (.hostPortRetrain port width) := ⟨rfl, rfl⟩

end Sys2Proof.Laws.Encoding
end

