-- ==== Sys2Proof/Tests/Slice0.lean ====
section
/-! SUPPORT. Tests: words written out from the spec's encodings decode to what they stand for; an ill-formed term for each
check is refused; and for each statement with premises a state and operands that meet them. -/

set_option Elab.async false

namespace Sys2Proof.Tests

open Sys2Proof Sys2Proof.Machine

/-! ## Decoding: words of every constructor, by class -/

/-- Class 0x0: words assembled from R40 to R49 and R52, every field varied. -/
def words0 : List (Nat × Instr) :=
  [(0x00684250198CD61A, .add ⟨.bf16, .always, .operand .a 18, .write 6, .next, .out, false, false, .stochastic, false, false, 0xD61A⟩),
   (0x008800106C817131, .sub ⟨.i32, .always, .none, .write 27, .same, .out, false, false, .context, false, true, 0x7131⟩),
   (0x00C6000E922831E2, .neg ⟨.i16, .onFalse, .none, .operand .p 36, .out, .same, true, false, .zero, false, false, 0x31E2⟩),
   (0x010A001035BB997B, .abs ⟨.i32, .onFalse, .none, .write 13, .next, .out, true, true, .zero, true, true, 0x997B⟩),
   (0x015C81E002733C73, .mul ⟨.n64, .always, .write 15, .none, .out, .next, true, true, .context, true, true, 0x3C73⟩),
   (0x01B45FA84EBF2334, .mulh ⟨.e5m2, .always, .operand .b 125, .operand .a 19, .out, .out, true, true, .stochastic, true, true, 0x2334⟩),
   (0x01C941F04EB3EC63, .mad ⟨.i32, .onTrue, .operand .a 15, .write 19, .out, .out, true, true, .context, true, true, 0xEC63⟩),
   (0x022C80E8DD13552D, .div ⟨.f16, .always, .write 7, .operand .a 55, .next, .same, false, true, .context, true, true, 0x552D⟩),
   (0x0279822001B74D45, .rem ⟨.l6, .onTrue, .write 17, .none, .next, .out, true, true, .nearest, true, true, 0x4D45⟩),
   (0x0288000002190218, .minI ⟨.i32, .always, .none, .none, .out, .same, false, true, .zero, false, true, 0x218⟩),
   (0x02D182F0509FC9CA, .maxI ⟨.n8, .onTrue, .write 23, .write 20, .same, .out, false, true, .stochastic, true, true, 0xC9CA⟩),
   (0x030D832000181AEB, .clamp ⟨.i64, .onTrue, .write 25, .none, .same, .same, false, true, .zero, false, false, 0x1AEB⟩),
   (0x034C813019858127, .absd ⟨.i64, .always, .write 9, .write 6, .next, .out, false, false, .nearest, false, true, 0x8127⟩),
   (0x03AE73E001763451, .avg ⟨.f16, .onFalse, .operand .p 31, .none, .next, .next, true, true, .nearest, true, false, 0x3451⟩),
   (0x03EA753004A185B0, .addc ⟨.bf16, .onFalse, .operand .p 41, .write 1, .same, .out, true, false, .context, false, true, 0x85B0⟩),
   (0x042C5A903A1CB60C, .subb ⟨.f16, .always, .operand .b 84, .write 14, .out, .same, false, true, .stochastic, false, false, 0xB60C⟩),
   (0x0440784002B370E0, .dot4 ⟨.i8, .always, .operand .p 66, .none, .out, .out, true, true, .context, true, true, 0x70E0⟩),
   (0x048C5AC00192C6EE, .sad ⟨.i64, .always, .operand .b 86, .none, .next, .out, false, true, .context, true, false, 0xC6EE⟩),
   (0x04D9000C5A74410B, .addp ⟨.n32, .onTrue, .none, .operand .c 22, .out, .next, true, true, .nearest, false, false, 0x410B⟩),
   (0x050083B026B0074A, .subp ⟨.i8, .always, .write 29, .write 9, .out, .out, true, true, .context, false, false, 0x74A⟩),
   (0x054E810AD859D688, .ptrf ⟨.i64, .onFalse, .write 8, .operand .b 54, .same, .next, false, true, .zero, false, true, 0xD688⟩),
   (0x059082CE8614583D, .ptrx ⟨.n8, .always, .write 22, .operand .p 33, .out, .same, false, true, .nearest, false, false, 0x583D⟩)]

theorem test_decode_class0 : words0.map (fun e => decodeTableWord 64 e.1) = words0.map (fun e => some e.2) := by
  decide +kernel

/-- Class 0x1: words assembled from R40 to R49 and R52, every field varied. -/
def words1 : List (Nat × Instr) :=
  [(0x101180F00DA48DC8, .andB ⟨.n8, .onTrue, .write 7, .write 3, .next, .out, true, false, .nearest, false, false, 0x8DC8⟩),
   (0x10448390046F7ECC, .orB ⟨.i16, .always, .write 28, .write 1, .same, .next, true, false, .stochastic, true, true, 0x7ECC⟩),
   (0x10A2000BA87C2570, .xorB ⟨.f64, .onFalse, .none, .operand .b 106, .same, .next, true, true, .stochastic, false, false, 0x2570⟩),
   (0x10DA44F05C5CF97A, .andn ⟨.n32, .onFalse, .operand .a 39, .write 23, .same, .next, false, true, .stochastic, false, false, 0xF97A⟩),
   (0x11160000027AA315, .orn ⟨.n16, .onFalse, .none, .none, .out, .next, true, true, .zero, true, false, 0xA315⟩),
   (0x114A4AD0759339C7, .notB ⟨.i32, .onFalse, .operand .a 86, .write 29, .next, .out, false, true, .context, true, true, 0x39C7⟩),
   (0x119C000C2857FD3D, .shl ⟨.n64, .always, .none, .operand .c 10, .same, .next, false, true, .nearest, true, true, 0xFD3D⟩),
   (0x11E845C910908766, .shr ⟨.bf16, .always, .operand .a 46, .operand .a 68, .same, .out, false, true, .context, false, false, 0x8766⟩),
   (0x120D000F120819CB, .sar ⟨.i64, .onTrue, .none, .operand .p 68, .out, .same, false, false, .zero, false, false, 0x19CB⟩),
   (0x1254668EB5506100, .rol ⟨.n16, .always, .operand .c 52, .operand .p 45, .next, .next, false, true, .context, false, false, 0x6100⟩),
   (0x12BC4DD07E654789, .ror ⟨.l6s, .always, .operand .a 110, .write 31, .out, .next, true, false, .nearest, false, true, 0x4789⟩),
   (0x12F100000030C302, .popc ⟨.e4m3, .onTrue, .none, .none, .same, .same, true, true, .context, false, false, 0xC302⟩),
   (0x13260010484386C7, .clz ⟨.f32, .onFalse, .none, .write 18, .same, .next, false, false, .context, true, true, 0x86C7⟩),
   (0x136D82800058C364, .ctz ⟨.f16, .onTrue, .write 20, .none, .same, .next, false, true, .zero, false, false, 0xC364⟩),
   (0x138957F0004E0B84, .brev ⟨.i32, .onTrue, .operand .b 63, .write 0, .same, .next, false, false, .stochastic, true, false, 0xB84⟩),
   (0x13E581C00297917F, .bswap ⟨.f32, .onTrue, .write 14, .none, .out, .out, false, true, .nearest, true, true, 0x917F⟩),
   (0x1410837022804424, .bext ⟨.n8, .always, .write 27, .write 8, .out, .out, false, false, .context, false, false, 0x4424⟩),
   (0x146C7190069E23E5, .bins ⟨.f16, .always, .operand .p 12, .write 1, .out, .out, false, true, .stochastic, true, false, 0x23E5⟩)]

theorem test_decode_class1 : words1.map (fun e => decodeTableWord 64 e.1) = words1.map (fun e => some e.2) := by
  decide +kernel

/-- Class 0x2: words assembled from R40 to R49 and R52, every field varied. -/
def words2 : List (Nat × Instr) :=
  [(0x200A8090792CFCE6, .ceq ⟨.i32, .onFalse, .write 4, .write 30, .next, .same, true, false, .stochastic, false, false, 0xFCE6⟩),
   (0x2070617030970662, .cne ⟨.e4m3, .always, .operand .c 11, .write 12, .same, .out, false, true, .nearest, true, true, 0x662⟩),
   (0x20BC6330367F3CAC, .clt ⟨.l6s, .always, .operand .c 25, .write 13, .out, .next, true, true, .stochastic, true, true, 0x3CAC⟩),
   (0x20D9000929362633, .cle ⟨.n32, .onTrue, .none, .operand .a 74, .next, .same, true, true, .nearest, true, false, 0x2633⟩),
   (0x2108820B1CAF0CB7, .cgt ⟨.i32, .always, .write 16, .operand .b 71, .same, .out, true, false, .stochastic, true, true, 0xCB7⟩),
   (0x21547CEBA96AAD32, .cge ⟨.n16, .always, .operand .p 103, .operand .b 106, .next, .next, true, false, .zero, true, false, 0xAD32⟩),
   (0x21B00010027D271D, .cuo ⟨.e4m3, .always, .none, .write 0, .out, .next, true, true, .stochastic, false, true, 0x271D⟩),
   (0x21ED48E000ADA196, .testz ⟨.f16, .onTrue, .operand .a 71, .none, .same, .out, true, false, .stochastic, false, true, 0xA196⟩),
   (0x22194CD0361AF89D, .testnz ⟨.n32, .onTrue, .operand .a 102, .write 13, .out, .same, false, true, .zero, true, false, 0xF89D⟩),
   (0x22460000017BCFFA, .pand ⟨.i16, .onFalse, .none, .none, .next, .next, true, true, .zero, true, true, 0xCFFA⟩),
   (0x229D73C0020EAA69, .por ⟨.n64, .onTrue, .operand .p 30, .none, .out, .same, false, false, .stochastic, true, false, 0xAA69⟩),
   (0x22F900103015BC92, .pxor ⟨.l6, .onTrue, .none, .write 12, .same, .same, false, true, .nearest, false, true, 0xBC92⟩),
   (0x232200000279AD28, .pnot ⟨.f64, .onFalse, .none, .none, .out, .next, true, true, .zero, false, true, 0xAD28⟩),
   (0x23456410345F9FC0, .anyl ⟨.i16, .onTrue, .operand .c 32, .write 13, .same, .next, false, true, .stochastic, true, true, 0x9FC0⟩),
   (0x2380000FF4327295, .alll ⟨.i8, .always, .none, .operand .p 125, .same, .same, true, true, .context, true, false, 0x7295⟩),
   (0x23D080D074809B89, .cmask ⟨.n8, .always, .write 6, .write 29, .same, .out, false, false, .context, false, false, 0x9B89⟩)]

theorem test_decode_class2 : words2.map (fun e => decodeTableWord 64 e.1) = words2.map (fun e => some e.2) := by
  decide +kernel

/-- Class 0x3: words assembled from R40 to R49 and R52, every field varied. -/
def words3 : List (Nat × Instr) :=
  [(0x301273800052055B, .fadd ⟨.n8, .onFalse, .operand .p 28, .none, .same, .next, false, true, .context, true, false, 0x55B⟩),
   (0x306567CAFC6CD70C, .fsub ⟨.f32, .onTrue, .operand .c 62, .operand .b 63, .same, .next, true, false, .stochastic, false, false, 0xD70C⟩),
   (0x308900106D2BCAEF, .fmul ⟨.i32, .onTrue, .none, .write 27, .next, .same, true, false, .zero, true, true, 0xCAEF⟩),
   (0x30D8468B3C23FDD4, .fdiv ⟨.n32, .always, .operand .a 52, .operand .b 79, .same, .same, true, false, .context, true, true, 0xFDD4⟩),
   (0x311471D025011ECA, .fma ⟨.n16, .always, .operand .p 14, .write 9, .next, .same, false, false, .context, false, true, 0x1ECA⟩),
   (0x31556380004AC1DA, .fms ⟨.n16, .onTrue, .operand .c 28, .none, .same, .next, false, false, .zero, true, false, 0xC1DA⟩),
   (0x31AD53600056C2A0, .fnma ⟨.f16, .onTrue, .operand .b 27, .none, .same, .next, false, true, .nearest, true, false, 0xC2A0⟩),
   (0x31ED4190786F0F81, .fnms ⟨.f16, .onTrue, .operand .a 12, .write 30, .same, .next, true, false, .stochastic, true, true, 0xF81⟩),
   (0x323483200125202E, .fmin ⟨.e5m2, .always, .write 25, .none, .next, .same, true, false, .nearest, false, true, 0x202E⟩),
   (0x3269616D190CEE75, .fmax ⟨.bf16, .onTrue, .operand .c 11, .operand .c 70, .next, .same, false, false, .stochastic, false, false, 0xEE75⟩),
   (0x32B1742A0A4FB945, .fabs ⟨.e4m3, .onTrue, .operand .p 33, .operand .b 2, .out, .next, false, false, .stochastic, true, true, 0xB945⟩),
   (0x32CA000AFD1E35DF, .fneg ⟨.i32, .onFalse, .none, .operand .b 63, .next, .same, false, true, .stochastic, true, false, 0x35DF⟩),
   (0x330980A00074D56C, .fsqrt ⟨.i32, .onTrue, .write 5, .none, .same, .next, true, true, .nearest, false, false, 0xD56C⟩),
   (0x337A81F01D7B65FC, .fclass ⟨.l6, .onFalse, .write 15, .write 7, .next, .next, true, true, .zero, true, true, 0x65FC⟩),
   (0x33B80000002E80D8, .fcpys ⟨.l6, .always, .none, .none, .same, .same, true, false, .stochastic, true, false, 0x80D8⟩)]

theorem test_decode_class3 : words3.map (fun e => decodeTableWord 64 e.1) = words3.map (fun e => some e.2) := by
  decide +kernel

/-- Class 0x4: words assembled from R40 to R49 and R52, every field varied. -/
def words4 : List (Nat × Instr) :=
  [(0x401E81D01A45E587, .frcp ⟨.n64, .onFalse, .write 14, .write 6, .out, .next, false, false, .nearest, false, true, 0xE587⟩),
   (0x406C53C0008E8517, .frsq ⟨.f16, .always, .operand .b 30, .none, .same, .out, false, false, .stochastic, true, false, 0x8517⟩),
   (0x408082C000681393, .fexp2 ⟨.i8, .always, .write 22, .none, .same, .next, true, false, .zero, false, false, 0x1393⟩),
   (0x40D87BE0024D2065, .flog2 ⟨.n32, .always, .operand .p 95, .none, .out, .next, false, false, .stochastic, false, true, 0x2065⟩),
   (0x413452F029BF1A4B, .fsin ⟨.e5m2, .always, .operand .b 23, .write 10, .next, .out, true, true, .stochastic, true, true, 0x1A4B⟩),
   (0x416682CE1192DE4A, .fcos ⟨.f32, .onFalse, .write 22, .operand .p 4, .next, .out, false, true, .context, true, false, 0xDE4A⟩),
   (0x4195000001B01A77, .ftanh ⟨.n16, .onTrue, .none, .none, .next, .out, true, true, .context, false, false, 0x1A77⟩),
   (0x41D24BD02860C478, .fsig ⟨.n8, .onFalse, .operand .a 94, .write 10, .same, .next, true, false, .context, false, false, 0xC478⟩),
   (0x423C516C36AC6468, .frnd ⟨.l6s, .always, .operand .b 11, .operand .c 13, .out, .out, true, false, .stochastic, false, false, 0x6468⟩),
   (0x427C81A001967E7E, .cvtf ⟨.l6s, .always, .write 13, .none, .next, .out, false, true, .nearest, true, false, 0x7E7E⟩),
   (0x429880505077D9FA, .cvtfi ⟨.n32, .always, .write 2, .write 20, .same, .next, true, true, .nearest, true, true, 0xD9FA⟩),
   (0x42F27E00003D5BF0, .cvtif ⟨.e4m3, .onFalse, .operand .p 112, .none, .same, .same, true, true, .stochastic, false, true, 0x5BF0⟩),
   (0x433D0000007114D0, .cvti ⟨.l6s, .onTrue, .none, .none, .same, .next, true, true, .context, false, true, 0x14D0⟩)]

theorem test_decode_class4 : words4.map (fun e => decodeTableWord 64 e.1) = words4.map (fun e => some e.2) := by
  decide +kernel

/-- Class 0x5: words assembled from R40 to R49 and R52, every field varied. -/
def words5 : List (Nat × Instr) :=
  [(0x5010829014A0632D, .pack8 ⟨.n8, .always, .write 20, .write 5, .same, .out, true, false, .context, false, false, 0x632D⟩),
   (0x5051570001AF4982, .unpk8 ⟨.n8, .onTrue, .operand .b 56, .none, .next, .out, true, false, .stochastic, true, true, 0x4982⟩),
   (0x50A258703D458E6F, .packh ⟨.f64, .onFalse, .operand .b 67, .write 15, .next, .next, false, false, .nearest, false, true, 0x8E6F⟩),
   (0x50E90008326B878D, .unpkh ⟨.bf16, .onTrue, .none, .operand .a 12, .out, .next, true, false, .zero, true, true, 0x878D⟩),
   (0x5131812C510BA013, .ql6 ⟨.e4m3, .onTrue, .write 9, .operand .c 20, .next, .same, false, false, .zero, true, true, 0xA013⟩),
   (0x514200000076FA0E, .dql6 ⟨.i8, .onFalse, .none, .none, .same, .next, true, true, .nearest, true, false, 0xFA0E⟩),
   (0x519E80400035D393, .l6mul ⟨.n64, .onFalse, .write 2, .none, .same, .same, true, true, .nearest, false, true, 0xD393⟩),
   (0x51E6000001A44C72, .scalex ⟨.f32, .onFalse, .none, .none, .next, .out, true, false, .nearest, false, false, 0x4C72⟩),
   (0x523800102678E333, .scalea ⟨.l6, .always, .none, .write 9, .out, .next, true, true, .zero, false, false, 0xE333⟩)]

theorem test_decode_class5 : words5.map (fun e => decodeTableWord 64 e.1) = words5.map (fun e => some e.2) := by
  decide +kernel

/-- Class 0x6: words assembled from R40 to R49 and R52, every field varied. -/
def words6 : List (Nat × Instr) :=
  [(0x603C000000141DE3, .hash32 ⟨.l6s, .always, .none, .none, .same, .same, false, true, .nearest, false, false, 0x1DE3⟩),
   (0x604C8180012A18D3, .hash64 ⟨.i64, .always, .write 12, .none, .next, .same, true, false, .zero, true, false, 0x18D3⟩),
   (0x60BE800FDCA876EF, .hcomb ⟨.l6s, .onFalse, .write 0, .operand .p 119, .same, .out, true, false, .zero, false, false, 0x76EF⟩),
   (0x60C461AF0D8878E3, .bucket ⟨.i16, .always, .operand .c 13, .operand .p 67, .next, .out, false, false, .zero, false, false, 0x78E3⟩),
   (0x6118828001530D93, .bkhist ⟨.n32, .always, .write 20, .none, .next, .next, false, true, .context, true, true, 0xD93⟩),
   (0x617600104C40394A, .bkscat ⟨.e5m2, .onFalse, .none, .write 19, .same, .next, false, false, .context, false, false, 0x394A⟩),
   (0x618E000A1C00BA10, .slen ⟨.i64, .onFalse, .none, .operand .b 7, .same, .same, false, false, .context, false, false, 0xBA10⟩),
   (0x61DA809060002CC8, .scmp ⟨.n32, .onFalse, .write 4, .write 24, .same, .same, false, false, .context, false, false, 0x2CC8⟩),
   (0x62250000009F85B6, .spfx ⟨.f32, .onTrue, .none, .none, .same, .out, false, true, .stochastic, true, true, 0x85B6⟩),
   (0x624161905DB1DF76, .sfind ⟨.i8, .onTrue, .operand .c 12, .write 23, .next, .out, true, true, .context, false, true, 0xDF76⟩),
   (0x628D46F016581BA1, .shash ⟨.i64, .onTrue, .operand .a 55, .write 5, .out, .next, false, true, .zero, false, false, 0x1BA1⟩),
   (0x62C14FB02DB5768A, .isect ⟨.i8, .onTrue, .operand .a 125, .write 11, .next, .out, true, true, .nearest, false, true, 0x768A⟩)]

theorem test_decode_class6 : words6.map (fun e => decodeTableWord 64 e.1) = words6.map (fun e => some e.2) := by
  decide +kernel

/-- Class 0x7: words assembled from R40 to R49 and R52, every field varied. -/
def words7 : List (Nat × Instr) :=
  [(0x703C0010159ECA08, .mov ⟨.l6s, .always, .none, .write 5, .next, .out, false, true, .stochastic, true, false, 0xCA08⟩),
   (0x7049802B35551159, .sel ⟨.i32, .onTrue, .write 1, .operand .b 77, .next, .next, false, true, .nearest, false, true, 0x1159⟩),
   (0x70AE5E705078EC8D, .constI ⟨.f16, .onFalse, .operand .b 115, .write 20, .same, .next, true, true, .zero, false, false, 0xEC8D⟩),
   (0x70DE000C9E16A7F9, .consth ⟨.n64, .onFalse, .none, .operand .c 39, .out, .same, false, true, .nearest, true, false, 0xA7F9⟩),
   (0x711980C002189845, .nul ⟨.n32, .onTrue, .write 6, .none, .out, .same, false, true, .zero, false, false, 0x9845⟩),
   (0x7175000002230675, .lane ⟨.e5m2, .onTrue, .none, .none, .out, .same, true, false, .context, true, true, 0x675⟩),
   (0x71B181D04916DC2C, .insl ⟨.e4m3, .onTrue, .write 14, .write 18, .next, .same, false, true, .nearest, true, false, 0xDC2C⟩),
   (0x71F481D02E33D6D3, .bcast ⟨.e5m2, .always, .write 14, .write 11, .out, .same, true, true, .context, true, true, 0xD6D3⟩),
   (0x721D814FED2EFACC, .perm ⟨.n64, .onTrue, .write 10, .operand .p 123, .next, .same, true, false, .stochastic, true, false, 0xFACC⟩),
   (0x724C55303251BD65, .lrot ⟨.i64, .always, .operand .b 41, .write 12, .out, .next, false, true, .context, false, true, 0xBD65⟩),
   (0x72A983A0022A8C78, .redadd ⟨.bf16, .onTrue, .write 29, .none, .out, .same, true, false, .zero, true, false, 0x8C78⟩),
   (0x72F1000000769B63, .redmin ⟨.e4m3, .onTrue, .none, .none, .same, .next, true, true, .nearest, true, false, 0x9B63⟩),
   (0x7332000ED806B4CD, .redmax ⟨.e4m3, .onFalse, .none, .operand .p 54, .same, .same, false, false, .nearest, true, false, 0xB4CD⟩),
   (0x73755F0B12718FFA, .fredadd ⟨.e5m2, .onTrue, .operand .b 120, .operand .b 68, .out, .next, true, true, .context, false, true, 0x8FFA⟩)]

theorem test_decode_class7 : words7.map (fun e => decodeTableWord 64 e.1) = words7.map (fun e => some e.2) := by
  decide +kernel

/-- Class 0x8: words assembled from R40 to R49 and R52, every field varied. -/
def words8 : List (Nat × Instr) :=
  [(0x800178A3262BD000, .br ⟨.onTrue, 3, true, true, false, false, 0xA3262BD0⟩),
   (0x8002ACF14F10CB00, .brLeave ⟨.onFalse, 5, false, true, true, false, 0xF14F10CB⟩),
   (0x8002A2A7ECC7EE00, .brMchk ⟨.onFalse, 5, false, false, false, true, 0xA7ECC7EE⟩),
   (0x8041222715818D00, .bri ⟨.onTrue, 1, false, false, false, true, 0x2715818D⟩)]

theorem test_decode_class8 : words8.map (fun e => decodeTableWord 64 e.1) = words8.map (fun e => some e.2) := by
  decide +kernel

/-- Class 0x9: words assembled from R40 to R49 and R52, every field varied. -/
def words9 : List (Nat × Instr) :=
  [(0x90320005976D1B8B, .ld ⟨.e4m3, .onFalse, .none, 5, 2, 1, 7, 0x6D1B8B⟩),
   (0x900A43D0DCF24CBF, .ldRc ⟨.i32, .onFalse, .operand .a 30, 16, 3, 1, 12, 0xF24CBF⟩),
   (0x907E001EDB7E3DFA, .st ⟨.l6s, .onFalse, .none, 30, 3, 1, 11, 0x7E3DFA⟩),
   (0x907C800ABF97F874, .stCnt ⟨.l6s, .always, .write 0, 10, 2, 3, 15, 0x97F874⟩),
   (0x90B9726B80177C4F, .gath ⟨.l6, .onTrue, .operand .p 19, 11, 2, 0, 0, 0x177C4F⟩),
   (0x90E883DF46D4C86A, .scat ⟨.bf16, .always, .write 30, 31, 1, 0, 6, 0xD4C86A⟩),
   (0x91110017B6917C3F, .stm ⟨.n8, .onTrue, .none, 23, 2, 3, 6, 0x917C3F⟩),
   (0x917561B2AFCEB5A8, .pref ⟨.e5m2, .onTrue, .operand .c 13, 18, 2, 2, 15, 0xCEB5A8⟩),
   (0x916A669FE6A25A24, .prefCode ⟨.bf16, .onFalse, .operand .c 52, 31, 3, 2, 6, 0xA25A24⟩),
   (0x91A480A2F1CC05D8, .lds ⟨.f32, .always, .write 5, 2, 3, 3, 1, 0xCC05D8⟩),
   (0x91E4000271C088DD, .stq ⟨.f32, .always, .none, 2, 1, 3, 1, 0xC088DD⟩)]

theorem test_decode_class9 : words9.map (fun e => decodeTableWord 64 e.1) = words9.map (fun e => some e.2) := by
  decide +kernel

/-- Class 0xA: words assembled from R40 to R49 and R52, every field varied. -/
def wordsA : List (Nat × Instr) :=
  [(0xA01280A000A0D7D8, .spawn ⟨.n8, .onFalse, .write 5, .none, .same, .out, true, false, .context, false, false, 0xD7D8⟩),
   (0xA04E000B3EB1A30F, .quit ⟨.i64, .onFalse, .none, .operand .b 79, .out, .out, true, true, .context, false, true, 0xA30F⟩),
   (0xA081806879BC4F82, .yield ⟨.i8, .onTrue, .write 3, .operand .a 30, .next, .out, true, true, .stochastic, false, false, 0x4F82⟩),
   (0xA0FD80C0024104C6, .repart ⟨.l6s, .onTrue, .write 6, .none, .out, .next, false, false, .context, false, true, 0x4C6⟩),
   (0xA10C0000005518AB, .bind ⟨.i64, .always, .none, .none, .same, .next, false, true, .nearest, false, true, 0x18AB⟩),
   (0xA12E813015B205D6, .unbind ⟨.f16, .onFalse, .write 9, .write 5, .next, .out, true, true, .context, true, false, 0x5D6⟩),
   (0xA14480AD3E99E0A0, .send ⟨.i16, .always, .write 5, .operand .c 79, .out, .out, false, true, .zero, false, true, 0xE0A0⟩),
   (0xA1BE0000005F8B41, .recv ⟨.l6s, .onFalse, .none, .none, .same, .next, false, true, .stochastic, true, true, 0x8B41⟩),
   (0xA1E94AB000BDC09D, .mcast ⟨.bf16, .onTrue, .operand .a 85, .write 0, .same, .out, true, true, .stochastic, false, true, 0xC09D⟩),
   (0xA21D4A4DB098FFFC, .waita ⟨.n64, .onTrue, .operand .a 82, .operand .c 108, .same, .out, false, true, .zero, false, false, 0xFFFC⟩),
   (0xA26E00107D1D69C5, .getc ⟨.f16, .onFalse, .none, .write 31, .next, .same, false, true, .stochastic, false, true, 0x69C5⟩),
   (0xA2A2000E5A4BF00A, .setc ⟨.f64, .onFalse, .none, .operand .p 22, .out, .next, false, false, .zero, true, true, 0xF00A⟩),
   (0xA2D8000000377E1B, .trap ⟨.n32, .always, .none, .none, .same, .same, true, true, .nearest, true, true, 0x7E1B⟩),
   (0xA3054BF07423302B, .rett ⟨.i16, .onTrue, .operand .a 95, .write 29, .same, .same, true, false, .context, true, true, 0x302B⟩),
   (0xA34483F0356A1363, .syncb ⟨.i16, .always, .write 31, .write 13, .next, .next, true, false, .zero, true, false, 0x1363⟩),
   (0xA3A800081C3E3D65, .launch ⟨.bf16, .always, .none, .operand .a 7, .same, .same, true, true, .stochastic, true, false, 0x3D65⟩),
   (0xA28952D064541008, .round ⟨.i32, .onTrue, .operand .b 22, .write 25, .same, .next, false, true, .nearest, false, false, 0x1008⟩),
   (0xA2A1001004680009, .seed ⟨.f64, .onTrue, .none, .write 1, .same, .next, true, false, .zero, false, false, 0x9⟩),
   (0xA29A8270723F3004, .feCtl ⟨.n32, .onFalse, .write 19, .write 28, .out, .same, true, true, .stochastic, true, true, 0x3004⟩),
   (0xA2AD5E0000947006, .coreErr ⟨.f16, .onTrue, .operand .b 112, .none, .same, .out, false, true, .nearest, false, false, 0x7006⟩),
   (0xA28A5E400117F024, .tlbInv ⟨.i32, .onFalse, .operand .b 114, .none, .next, .same, false, true, .nearest, true, true, 0xF024⟩),
   (0xA28E5A8002158025, .ptRoot ⟨.i64, .onFalse, .operand .b 84, .none, .out, .same, false, true, .nearest, false, true, 0x8025⟩),
   (0xA2B50000007D3023, .rcLogctl ⟨.e5m2, .onTrue, .none, .none, .same, .next, true, true, .stochastic, false, true, 0x3023⟩),
   (0xA2A944F00E9A6013, .spillCtl ⟨.bf16, .onTrue, .operand .a 39, .write 3, .out, .out, false, true, .zero, true, false, 0x6013⟩),
   (0xA2AD57800165003A, .partCfg ⟨.f16, .onTrue, .operand .b 60, .none, .next, .next, true, false, .nearest, false, true, 0x3A⟩),
   (0xA2BA5E20025E6035, .distKill ⟨.l6, .onFalse, .operand .b 113, .none, .out, .next, false, true, .stochastic, true, false, 0x6035⟩)]

theorem test_decode_classA : wordsA.map (fun e => decodeTableWord 64 e.1) = wordsA.map (fun e => some e.2) := by
  decide +kernel

/-- Class 0xB: words assembled from R40 to R49 and R52, every field varied. -/
def wordsB : List (Nat × Instr) :=
  [(0xB02200085564B75F, .mcopy ⟨.f64, .onFalse, .none, 8, 1, 1, 5, 0x64B75F⟩),
   (0xB04883F154626567, .mput ⟨.i32, .always, .write 31, 17, 1, 1, 4, 0x626567⟩),
   (0xB0A40004CBABA1E0, .mget ⟨.f32, .always, .none, 4, 3, 0, 11, 0xABA1E0⟩),
   (0xB0E6407AD87F266B, .mquery ⟨.f32, .onFalse, .operand .a 3, 26, 3, 1, 8, 0x7F266B⟩),
   (0xB11645372E2486E9, .task ⟨.n16, .onFalse, .operand .a 41, 23, 0, 2, 14, 0x2486E9⟩),
   (0xB14D81F4C93722F4, .tdone ⟨.i64, .onTrue, .write 15, 20, 3, 0, 9, 0x3722F4⟩),
   (0xB1BD8028127288AC, .gbar ⟨.l6s, .onTrue, .write 1, 8, 0, 1, 2, 0x7288AC⟩),
   (0xB1D40013803164B2, .gmcast ⟨.n16, .always, .none, 19, 2, 0, 0, 0x3164B2⟩)]

theorem test_decode_classB : wordsB.map (fun e => decodeTableWord 64 e.1) = wordsB.map (fun e => some e.2) := by
  decide +kernel

/-- Class 0xC: words assembled from R40 to R49 and R52, every field varied. -/
def wordsC : List (Nat × Instr) :=
  [(0xC01A041D7A0BA600, .mma ⟨.n32, .f64, 0, .write 29, 0x7A0B, .onFalse, true, 6⟩),
   (0xC06CD0008BC83F00, .accinit ⟨.f16, .i64, 2, .none, 0x8BC8, .always, true, 31⟩),
   (0xC0A0C800CFB10E00, .accout ⟨.f64, .i64, 1, .none, 0xCFB1, .always, false, 14⟩),
   (0xC0D3B0000979BA00, .accclr ⟨.n8, .l6, 6, .none, 0x979, .onFalse, true, 26⟩),
   (0xC10703667B127400, .accq ⟨.i16, .e4m3, 0, .operand .c 102, 0x7B12, .onTrue, true, 20⟩)]

theorem test_decode_classC : wordsC.map (fun e => decodeTableWord 64 e.1) = wordsC.map (fun e => some e.2) := by
  decide +kernel

/-- Class 0xD: words assembled from R40 to R49 and R52, every field varied. -/
def wordsD : List (Nat × Instr) :=
  [(0xD032001467D8223A, .aadd ⟨.e4m3, .onFalse, .none, 20, 1, 2, 7, 0xD8223A⟩),
   (0xD041000B2D66CD46, .amin ⟨.i8, .onTrue, .none, 11, 0, 2, 13, 0x66CD46⟩),
   (0xD080001AF1149DD9, .amax ⟨.i8, .always, .none, 26, 3, 3, 1, 0x149DD9⟩),
   (0xD0C68231083E4F68, .aand ⟨.i16, .onFalse, .write 17, 17, 0, 0, 8, 0x3E4F68⟩),
   (0xD101000289B1F28B, .aor ⟨.i8, .onTrue, .none, 2, 2, 0, 9, 0xB1F28B⟩),
   (0xD154001134E144AF, .axor ⟨.n16, .always, .none, 17, 0, 3, 4, 0xE144AF⟩),
   (0xD18E0012E87C9F03, .axchg ⟨.i64, .onFalse, .none, 18, 3, 2, 8, 0x7C9F03⟩),
   (0xD1CA825D76BBCF03, .acas ⟨.i32, .onFalse, .write 18, 29, 1, 3, 6, 0xBBCF03⟩),
   (0xD23A7F131A717303, .afadd ⟨.l6, .onFalse, .operand .p 120, 19, 0, 1, 10, 0x717303⟩),
   (0xD25A8319257A221B, .afmin ⟨.n32, .onFalse, .write 24, 25, 0, 2, 5, 0x7A221B⟩),
   (0xD2AA78B2610B2782, .afmax ⟨.bf16, .onFalse, .operand .p 69, 18, 1, 2, 1, 0xB2782⟩),
   (0xD2D60016CCE13A33, .phase ⟨.n16, .onFalse, .none, 22, 3, 0, 12, 0xE13A33⟩),
   (0xD32E000E7AB474E0, .rcdecl ⟨.f16, .onFalse, .none, 14, 1, 3, 10, 0xB474E0⟩),
   (0xD3520011384129E1, .rcend ⟨.n8, .onFalse, .none, 17, 0, 3, 8, 0x4129E1⟩),
   (0xD3B4001A3C4C9CB5, .rcq ⟨.e5m2, .always, .none, 26, 0, 3, 12, 0x4C9CB5⟩),
   (0xD3F580F8F9B48A70, .rwb ⟨.e5m2, .onTrue, .write 7, 24, 3, 3, 9, 0xB48A70⟩),
   (0xD4257A40FE999C94, .rinv ⟨.f32, .onTrue, .operand .p 82, 0, 3, 3, 14, 0x999C94⟩),
   (0xD4565DF84AA5D1E2, .rdisc ⟨.n16, .onFalse, .operand .b 111, 24, 1, 0, 10, 0xA5D1E2⟩)]

theorem test_decode_classD : wordsD.map (fun e => decodeTableWord 64 e.1) = wordsD.map (fun e => some e.2) := by
  decide +kernel

/-- Class 0xE: words assembled from R40 to R49 and R52, every field varied. -/
def wordsE : List (Nat × Instr) :=
  [(0xE01D001B01835A59, .thnew ⟨.n64, .onTrue, .none, 27, 0, 0, 1, 0x835A59⟩),
   (0xE07D827BFEB72608, .thfree ⟨.l6s, .onTrue, .write 19, 27, 3, 3, 14, 0xB72608⟩),
   (0xE08682DC0732ABB5, .tacq ⟨.i16, .onFalse, .write 22, 28, 0, 0, 7, 0x32ABB5⟩),
   (0xE0F583297FCDA3DD, .trel ⟨.e5m2, .onTrue, .write 25, 9, 1, 3, 15, 0xCDA3DD⟩),
   (0xE13A82A56ABBBA8F, .tsplit ⟨.l6, .onFalse, .write 21, 5, 1, 2, 10, 0xBBBA8F⟩),
   (0xE1498167AD50139D, .tquery ⟨.i32, .onTrue, .write 11, 7, 2, 2, 13, 0x50139D⟩),
   (0xE426000CD13696EC, .tarena ⟨.f32, .onFalse, .none, 12, 3, 1, 1, 0x3696EC⟩),
   (0xE42E805A090200E5, .tarenaDestroy ⟨.f16, .onFalse, .write 2, 26, 0, 0, 9, 0x200E5⟩),
   (0xE465000015FEE7AD, .tselect ⟨.f32, .onTrue, .none, 0, 0, 1, 5, 0xFEE7AD⟩),
   (0xE4A2812CC4504444, .tbatch ⟨.f64, .onFalse, .write 9, 12, 3, 0, 4, 0x504444⟩),
   (0xE4CC00047EDC7A64, .texpand ⟨.i64, .always, .none, 4, 1, 3, 14, 0xDC7A64⟩),
   (0xE50600145B8D077D, .tbackup ⟨.i16, .onFalse, .none, 20, 1, 1, 11, 0x8D077D⟩),
   (0xE55442167C0A023D, .treroot ⟨.n16, .always, .operand .a 16, 22, 1, 3, 12, 0xA023D⟩),
   (0xE5844E0357168462, .tstat ⟨.i16, .always, .operand .a 112, 3, 1, 1, 7, 0x168462⟩)]

theorem test_decode_classE : wordsE.map (fun e => decodeTableWord 64 e.1) = wordsE.map (fun e => some e.2) := by
  decide +kernel

/-- Class 0xF: words assembled from R40 to R49 and R52, every field varied. -/
def wordsF : List (Nat × Instr) :=
  [(0xF016001439D6356F, .wset ⟨.n16, .onFalse, .none, 20, 0, 3, 9, 0xD6356F⟩),
   (0xF061000FDD9E49F1, .wget ⟨.f64, .onTrue, .none, 15, 3, 1, 13, 0x9E49F1⟩),
   (0xF0B247C55BC20D80, .coll ⟨.e4m3, .onFalse, .operand .a 62, 5, 1, 1, 11, 0xC20D80⟩),
   (0xF0D47B87BACE6FB7, .cwait ⟨.n16, .always, .operand .p 92, 7, 2, 3, 10, 0xCE6FB7⟩),
   (0xF10867D879B05F8E, .flink ⟨.i32, .always, .operand .c 62, 24, 1, 3, 9, 0xB05F8E⟩)]

theorem test_decode_classF : wordsF.map (fun e => decodeTableWord 64 e.1) = wordsF.map (fun e => some e.2) := by
  decide +kernel

def gf (ty : ElemType) : GFields := ⟨ty, .always, .none, .none, .same, .same, false, false, .context, false, false, 0⟩
def lf (ty : ElemType) : LFields := ⟨ty, .always, .none, 0, 0, 0, 0, 0⟩
def bf : BFields := ⟨.always, 0, false, false, false, false, 1⟩
def xf : XFields := ⟨.bf16, .bf16, 0, .none, 0, .always, false, 0⟩

/-! ## Decoding: the words that the spec itself writes out -/

def wordsSpec : List (Nat × Instr) :=
  [-- R54's worked blocks and the examples of the encoding chapter
   (0x901C502000000000, .ld ⟨.n64, .always, .operand .b 1, 0, 0, 0, 0, 0⟩),
   (0x004C800814020008, .add ⟨.i64, .always, .write 0, .operand .a 5, .same, .same, false, false, .context, true, false, 8⟩),
   (0x8001000000000000, .br ⟨.onTrue, 0, false, false, false, false, 0⟩),
   (0x8002200000000200, .br ⟨.onFalse, 1, false, false, false, false, 2⟩),
   (0x03DC406C44000000, .addc ⟨.n64, .always, .operand .a 3, .operand .c 17, .same, .same, false, false, .context, false, false, 0⟩),
   -- loads, stores, messages, exits
   (0x902440A308000040, .ldRc ⟨.f32, .always, .operand .a 5, 3, 0, 0, 8, 0x40⟩),
   (0x907C000004000000, .stCnt ⟨.l6s, .always, .none, 0, 0, 0, 4, 0⟩),
   (0x91FC000100000000, .stq ⟨.l6s, .always, .none, 1, 0, 0, 0, 0⟩),
   (0xA140000000000001, .send ⟨.i8, .always, .none, .none, .same, .same, false, false, .context, false, false, 1⟩),
   (0xA142000000000000, .send ⟨.i8, .onFalse, .none, .none, .same, .same, false, false, .context, false, false, 0⟩),
   (0xA180506E24000005, .recv ⟨.i8, .always, .operand .b 3, .operand .p 9, .same, .same, false, false, .context, false, false, 5⟩),
   (0xA180416834000102, .recv ⟨.i8, .always, .operand .a 11, .operand .a 13, .same, .same, false, false, .context, false, false, 0x102⟩),
   (0xA040000000000000, .quit ⟨.i8, .always, .none, .none, .same, .same, false, false, .context, false, false, 0⟩),
   (0x8040280000000000, .bri ⟨.always, 1, false, true, false, false, 0⟩),
   -- the matrix unit
   (0xC03FC80021000000, .mma ⟨.l6s, .l6s, 1, .none, 0x2100, .always, false, 0⟩),
   (0xC0BC080003D70000, .accout ⟨.l6s, .i8, 1, .none, 0x03D7, .always, false, 0⟩),
   (0xC040000000020000, .accinit ⟨.i8, .i8, 0, .none, 2, .always, false, 0⟩),
   (0xC0A4000000800000, .accout ⟨.f32, .i8, 0, .none, 0x80, .always, false, 0⟩),
   (0xC100029000000000, .accq ⟨.i8, .i8, 0, .operand .b 16, 0, .always, false, 0⟩),
   -- tiles, atomics, trees, the fabric
   (0xE080506000000002, .tacq ⟨.i8, .always, .operand .b 3, 0, 0, 0, 0, 2⟩),
   (0xE080506100000093, .tacq ⟨.i8, .always, .operand .b 3, 1, 0, 0, 0, 0x93⟩),
   (0xE100412200001001, .tsplit ⟨.i8, .always, .operand .a 9, 2, 0, 0, 0, 0x1001⟩),
   (0xE0C0000300000000, .trel ⟨.i8, .always, .none, 3, 0, 0, 0, 0⟩),
   (0xD01C40600C000000, .aadd ⟨.n64, .always, .operand .a 3, 0, 0, 0, 12, 0⟩),
   (0xD00C000103000000, .aadd ⟨.i64, .always, .none, 1, 0, 0, 3, 0⟩),
   (0xD1DC406008000000, .acas ⟨.n64, .always, .operand .a 3, 0, 0, 0, 8, 0⟩),
   (0xD2C0000200000001, .phase ⟨.i8, .always, .none, 2, 0, 0, 0, 1⟩),
   (0xE440406000000000, .tselect ⟨.i8, .always, .operand .a 3, 0, 0, 0, 0, 0⟩),
   (0xE48050A200000040, .tbatch ⟨.i8, .always, .operand .b 5, 2, 0, 0, 0, 0x40⟩),
   (0xE580406300000006, .tstat ⟨.i8, .always, .operand .a 3, 3, 0, 0, 0, 6⟩),
   (0xF000000000000002, .wset ⟨.i8, .always, .none, 0, 0, 0, 0, 2⟩),
   (0xF080000100000000, .coll ⟨.i8, .always, .none, 1, 0, 0, 0, 0⟩),
   (0xF0C0412200000000, .cwait ⟨.i8, .always, .operand .a 9, 2, 0, 0, 0, 0⟩)]

theorem test_decode_spec : wordsSpec.map (fun e => decodeTableWord 64 e.1) = wordsSpec.map (fun e => some e.2) := by
  decide +kernel

/-- Each of them is well-formed, as the spec's programs use it. -/
theorem test_wf_spec : wordsSpec.all (fun e => e.2.wf) = true := by decide +kernel

/-- R50 and R53: the empty encoding and an unassigned opcode. -/
theorem test_decode_refuses : decodeTableWord 64 0 = none ∧ decodeTableWord 64 1 = none
    ∧ decodeTableWord 64 0x05C0000000000000 = none := by decide +kernel

/-! ## Values that the spec works out -/

/-- R427's ACCQ: N 1, C 0, E 0, RND 2, neither FREE nor RELEASED. -/
theorem test_accStatus : accStatus ⟨[], 1, 0, 0, 2, 0, 0⟩ 0 = 0x0001000000000200 := by decide +kernel

/-- R408's ACCQ: N 2, C 0, E 0, RND 2. -/
theorem test_accStatus_two : accStatus ⟨[], 2, 0, 0, 2, 0, 0⟩ 0 = 0x0002000000000200 := by decide +kernel

/-- R76: the Galois LFSR shifts right and folds the bit that falls out. -/
theorem test_lfsr : lfsrStep 1 = 0x80200003#32 ∧ lfsrStep 2 = 1#32 := by decide

/-- R89: the least value divided by -1 wraps, a division by zero delivers all ones. -/
theorem test_div : (valDiv (gf .i32) 0x80000000 0xFFFFFFFF 0).1 = (BitVec.ofInt 64 (-2147483648)).setWidth 512
    ∧ (valDiv (gf .n32) 5 0 0).1 = 0xFFFFFFFF := by decide +kernel

/-- R94: counts of w or more. -/
theorem test_shift : (valShl (gf .n32) 1 32 0).1 = 0 ∧ (valShr (gf .n32) 1 0xFFFFFFFF 0).1 = 0
    ∧ (valSar (gf .i32) 0x80000000 40 0).1 = (BitVec.ofInt 64 (-1)).setWidth 512 := by decide +kernel

/-- R58: the address field wraps and bits [63:54] stay. -/
theorem test_addrOf : addrOf 0xE03FFFFFFFFFFFFF 1 = 0xE000000000000000 := by decide +kernel

/-! ## Small states -/

/-- After reset, with one cluster in partition 0, a page of 2 MiB and a page of host memory. -/
def world : State :=
  modPart { State.reset with iommu := [⟨0, 4096, true⟩] } 0 0 (fun p =>
    { p with cfg := 0x8000, tlb := [⟨0, 2 ^ 21, 0, true, true, false⟩], thCap := 16 })

/-- The state that runs one instruction with values in slots a, b and c. -/
def site (i : Instr) (a b c : Wide) : State :=
  modFrame (world.withFetchWord 64 (encode i).toNat) ⟨0, 0⟩ 0 (fun fr =>
    { fr with ops := fr.ops.map (fun o => match o.slot with
        | .a => { o with tok := wideTok a }
        | .b => { o with tok := wideTok b }
        | .c => { o with tok := wideTok c }
        | .p => o) })

/-- The instruction at the site is ready with its tokens. -/
def goes (i : Instr) (s : State) : Bool :=
  match readiness i s with
  | .go _ _ _ => true
  | _ => false

/-- It is ready with these values. -/
def goesWith (i : Instr) (a b c : Wide) (s : State) : Bool :=
  decide (readiness i s = .go (wideTok a) (wideTok b) (wideTok c))

/-- The state after an instruction. -/
def after (i : Instr) (s : State) : State :=
  match exec i s with
  | .next t => t
  | _ => s

def moves (i : Instr) (s : State) : Bool := decide (after i s ≠ s)

def frame0 (s : State) : Frame := (frameAt s ⟨0, 0⟩ 0).getD blankFrame

/-! ## Every brick is ready somewhere: the premise of each statement about a result -/

theorem witness_ready_compute0 : (words0 ++ words1 ++ words2).all (fun e => goes e.2 (State.reset.withFetchWord 64 e.1)) = true := by
  decide +kernel
theorem witness_ready_compute1 : (words3 ++ words4 ++ words5).all (fun e => goes e.2 (State.reset.withFetchWord 64 e.1)) = true := by
  decide +kernel
theorem witness_ready_compute2 : (words6 ++ words7 ++ words8).all (fun e =>
    (e.2.opcode == 0x18B) || goes e.2 (State.reset.withFetchWord 64 e.1)) = true := by decide +kernel
theorem witness_ready_core : (words9 ++ wordsA).all (fun e => goes e.2 (State.reset.withFetchWord 64 e.1)) = true := by
  decide +kernel
theorem witness_ready_cluster : (wordsB ++ wordsC ++ wordsD).all (fun e => goes e.2 (State.reset.withFetchWord 64 e.1)) = true := by
  decide +kernel
theorem witness_ready_die : (wordsE ++ wordsF).all (fun e => goes e.2 (State.reset.withFetchWord 64 e.1)) = true := by
  decide +kernel

/-! ## Well-formedness refuses -/

/-- R44: saturate on a logic opcode. -/
theorem test_wf_saturate : Instr.wf (.andB { gf .n32 with sat := true }) = false ∧ Instr.wf (.andB (gf .n32)) = true := by
  decide +kernel
/-- R42: an element type that an entry does not accept. -/
theorem test_wf_type : Instr.wf (.fadd (gf .n32)) = false ∧ Instr.wf (.fadd (gf .f32)) = true := by decide +kernel
/-- R45: imm16 without the immediate form. -/
theorem test_wf_imm : Instr.wf (.add { gf .n32 with imm16 := 1 }) = false
    ∧ Instr.wf (.add { gf .n32 with imm16 := 1, imm := true }) = true := by decide +kernel
/-- R47: a memory-control bit that the class does not use. -/
theorem test_wf_mc : Instr.wf (.ld { lf .n32 with mc := 1 }) = false ∧ Instr.wf (.ld (lf .n32)) = true := by decide +kernel
/-- R48: two of the exit bits. -/
theorem test_wf_exit : Instr.wf (.br { bf with call := true, ret := true }) = false ∧ Instr.wf (.br bf) = true := by
  decide +kernel
/-- The constructor must be the row of its distinguishing bits. -/
theorem test_wf_row : Instr.wf (.ld { lf .n32 with mc := 8 }) = false ∧ Instr.wf (.ldRc { lf .n32 with mc := 8 }) = true
    ∧ Instr.wf (.setc { gf .i8 with imm16 := 0x008 }) = false ∧ Instr.wf (.round { gf .i8 with imm16 := 0x008 }) = true := by
  decide +kernel
/-- An event is no instruction of a block. -/
theorem test_wf_event : Instr.wf .boot = false := by decide +kernel

/-! ## Premises: encoding, reset and the step -/

theorem witness_DecodeOfEncode : (Instr.add (gf .n32)).wf = true ∧ (Instr.st (lf .n64)).wf = true ∧ (Instr.br bf).wf = true
    ∧ (Instr.mma xf).wf = true := by decide +kernel

theorem witness_EncodeOfDecode : decodeTableWord 64 0x0058000000000000 = some (.add (gf .n32)) := by decide +kernel

theorem witness_EmptyEncoding : (1 : Word) ≠ 0 ∧ (1 : Word).toNat / 2 ^ 54 = 0 := by decide

/-- One past the last low bits of a class, low bits 0 of class 0, and both ends of the gap of class 0xE. -/
theorem witness_UnassignedOpcodesRefused :
    [(0x017, 0x16), (0x052, 0x11), (0x245, 0x07), (0x248, 0x07), (0x3FF, 0x04)].all (fun e => e.2 < e.1 % 64 || e.1 == 0x245) = true
    ∧ wordCauses (0x386#10 ++ 0#54) = [0x04] ∧ wordCauses (0x38F#10 ++ 0#54) = [0x04] ∧ wordCauses (0x017#10 ++ 0#54) = [0x04]
    ∧ wordCauses (0x202#10 ++ 0#54) = [0x04] ∧ wordCauses (1 : Word) = [0x04] := by decide +kernel

theorem witness_Legal : memoryWf State.reset = true ∧ packageLegal State.reset = true := by decide +kernel

theorem witness_StepKeepsLegal : (match step (State.reset.withFetchWord 64 0x0058000000000000) with
    | .next t => decide (t ≠ State.reset.withFetchWord 64 0x0058000000000000)
    | _ => false) = true ∧ memoryWf (State.reset.withFetchWord 64 0x0058000000000000) = true
    ∧ packageLegal (State.reset.withFetchWord 64 0x0058000000000000) = true := by decide +kernel

theorem witness_BricksLeaveThePackage : isBrick (.st (lf .n64)) = true ∧ moves (.st (lf .n64)) (site (.st (lf .n64)) 0 0 0) = true
    ∧ packageLegal (site (.st (lf .n64)) 0 0 0) = true := by decide +kernel

theorem witness_StepRunsTheDecodedInstruction :
    let s := State.reset.withFetchWord 64 0x0058000000000000
    s.pkg.failed = false ∧ s.agenda = [] ∧ (frame0 s).mapped = true ∧ instrAt (frame0 s) s.focus.idx = some (.add (gf .n32))
      ∧ moves (.add (gf .n32)) s = true := by decide +kernel

theorem witness_StepTakesTheAgenda : isBrick .boot = false ∧ { State.reset with agenda := [.happens .boot] }.pkg.failed = false
    ∧ (let s := State.reset.withFetchWord 64 0x0058000000000000
       let u := s.focus
       let t := { rotate { s with agenda := [] } u.c.core with focus := u }
       ((frameAt s u.c u.frame).any (fun fr => fr.mapped && instrAt fr u.idx == some (.add (gf .n32)))) = true
         ∧ moves (.add (gf .n32)) t = true)
    ∧ { State.reset with pkg := { State.reset.pkg with failed := true } }.pkg.failed = true := by decide +kernel

/-! ## Premises: firing -/

/-- Every clause of Supplied, with every data slot holding a token that is no stop token, and nothing logged. -/
def supplied (i : Instr) (s : State) : Bool :=
  let fr := frame0 s
  let idx := s.focus.idx
  let tag := s.focus.tag
  (ctxAt s ⟨0, 0⟩).st == .running && fr.mapped && tagOpen fr tag && (!isPinned fr || (isFinal fr idx == (tag == .final)))
    && !hasFired fr idx tag && !isAgainst fr idx tag && !followsAt fr i
    && (predMode i == .always || (slotToken fr idx .p tag).any (fun p =>
      !p.null && p.stop.isNone && (p.value.getLsbD 0 == (predMode i == .onTrue))))
    && (!(lsidOf i).isSome || (decide (lsqUsed s 0 fr < 64) && (isOldest fr 0 tag || decide (lsqUsed s 0 fr ≤ 48))))
    && (dataSlots i).all (fun sl => (slotToken fr idx sl tag).any (fun t => t.stop.isNone))
    && (logged (ctxAt s ⟨0, 0⟩) idx tag).isNone

/-- A predicated ADD in a block of which others have fired, are decided against, wait, and have exited; an exit and an
irrevocable instruction with nothing before them. -/
theorem witness_ReadyWhenEverySlotHolds :
    (let i := Instr.add { gf .n32 with pm := .onTrue }
     let s := modFrame (site i 5 7 0) ⟨0, 0⟩ 0 (fun fr =>
       { fr with fired := [(3, .iter 0)], against := [(4, .iter 0)], exits := [⟨0, .iter 0, false, false⟩], waiting := [(5, .iter 0)] })
     supplied i s = true ∧ (dataSlots i).all (fun sl => (slotToken (frame0 s) s.focus.idx sl (.iter 0)).any (!·.null)) = true
       ∧ lsidTaken (frame0 s) i (.iter 0) = false ∧ isExit i = false ∧ alwaysIrrevocable i = false
       ∧ readiness i s = .go (wideTok 5) (wideTok 7) (wideTok 0))
    ∧ (let s := site (.br bf) 128 0 0
       supplied (.br bf) s = true ∧ isExit (.br bf) = true ∧ exitFired (frame0 s) (.iter 0) = false)
    ∧ (let i := Instr.aadd (lf .n32)
       let s := site i 0 0 0
       supplied i s = true ∧ alwaysIrrevocable i = true ∧ isOldest (frame0 s) 0 (.iter 0) = true
         ∧ lsidOf i = some 0 ∧ lowerResolved (frame0 s) 0 (.iter 0) = true
         ∧ loadsBelow isSyncLoad (frame0 s) 0 s.focus.idx (.iter 0) = false ∧ goes i s = true) := by decide +kernel

/-- A store without p token value: on-true against a false p, by value and by a null token. -/
theorem witness_PredicateDecidesAgainst :
    let i := Instr.st { lf .n32 with pm := .onTrue }
    let s := modFrame (site i 0 0 0) ⟨0, 0⟩ 0 (fun fr => { fr with ops := fr.ops.map (fun o =>
      if o.slot = .p then { o with tok := predTok false } else o) })
    let fr := frame0 s
    (ctxAt s ⟨0, 0⟩).st = .running ∧ fr.mapped = true ∧ isPinned fr = false ∧ s.focus.tag = .iter 0
      ∧ hasFired fr s.focus.idx s.focus.tag = false ∧ isAgainst fr s.focus.idx s.focus.tag = false
      ∧ fr.follows = false ∧ isBrick i = true ∧ predMode i = .onTrue
      ∧ slotToken fr s.focus.idx .p s.focus.tag = some (predTok false)
      ∧ lsidHolders fr 0 = [s.focus.idx] := by decide +kernel

/-- The three other decisions, each of an instruction that every slot supplies: a null operand, a second exit, an LSID that
another holder has resolved, a logged result. -/
theorem witness_ReadinessDecides :
    (let s := modFrame (site (.add (gf .n32)) 0 0 0) ⟨0, 0⟩ 0 (fun fr =>
        { fr with ops := fr.ops.map (fun o => if o.slot = .a then { o with tok := nullTok } else o) })
     supplied (.add (gf .n32)) s = true ∧ readiness (.add (gf .n32)) s = .null)
    ∧ (let s := modFrame (site (.br bf) 0 0 0) ⟨0, 0⟩ 0 (fun fr => { fr with exits := [⟨0, .iter 0, false, false⟩] })
       supplied (.br bf) s = true ∧ lsidTaken (frame0 s) (.br bf) (.iter 0) = false ∧ exitFired (frame0 s) (.iter 0) = true
         ∧ readiness (.br bf) s = .dup)
    ∧ (let s := modFrame (site (.st (lf .n64)) 0 0 0) ⟨0, 0⟩ 0 (fun fr =>
          { fr with image := fr.image.set 24 (encode (.st (lf .n64))), fired := [(8, .iter 0)] })
       supplied (.st (lf .n64)) s = true ∧ lsidTaken (frame0 s) (.st (lf .n64)) (.iter 0) = true
         ∧ readiness (.st (lf .n64)) s = .dup)
    ∧ readiness (.rcq (lf .i8)) (modCtx (site (.rcq (lf .i8)) 0 0 0) ⟨0, 0⟩ (fun x =>
        { x with log := [⟨0, .iter 0, some 7, 7⟩] })) = .logged ⟨0, .iter 0, some 7, 7⟩ := by decide +kernel

theorem witness_FiringChangesItsFrameOnly :
    let s := site (.add { gf .n32 with t0 := .operand .a 3 }) 5 7 0
    isPinned (frame0 s) = false ∧ s.focus.tag = .iter 0
      ∧ (targetsOf (.add { gf .n32 with t0 := .operand .a 3 })).all (fun t => t.2 == .same) = true
      ∧ (frame0 (fired (.add { gf .n32 with t0 := .operand .a 3 }) { r0 := some (wideTok 12) } s)).flight.length = 1 := by
  decide +kernel

theorem witness_ComputeFrame : isBrick (.add (gf .n32)) = true ∧ (Instr.add (gf .n32)).opcode < 0x200
    ∧ moves (.add (gf .n32)) (site (.add (gf .n32)) 5 7 0) = true := by decide +kernel

/-! ## Premises: arithmetic -/

/-- The result statements: each instruction is ready with named operands; the boundary clauses of each. -/
theorem witness_IntegerResults :
    [Instr.add (gf .i32), .sub (gf .i32), .neg (gf .i32), .abs (gf .i32), .mul (gf .i32), .mulh (gf .i32), .mad (gf .i32),
      .minI (gf .i32), .maxI (gf .i32), .clamp (gf .i32), .absd (gf .n32), .avg (gf .n32), .div (gf .i32), .rem (gf .i32)].all
      (fun i => goesWith i 5 0 1 (site i 5 0 1)) = true := by decide +kernel

theorem witness_CarryAndPointerResults :
    [Instr.addc (gf .n64), .subb (gf .n64), .dot4 (gf .i32), .sad (gf .n64), .addp (gf .i64), .subp (gf .i64), .ptrf (gf .n64),
      .ptrx (gf .n64)].all (fun i => goesWith i 5 0 1 (site i 5 0 1)) = true := by decide +kernel

theorem witness_LogicShiftFieldResults :
    [Instr.andB (gf .n32), .orB (gf .n32), .xorB (gf .n32), .andn (gf .n32), .orn (gf .n32), .notB (gf .n32), .shl (gf .n32),
      .shr (gf .n32), .sar (gf .i32), .rol (gf .n32), .ror (gf .n32), .popc (gf .n32), .clz (gf .n32), .ctz (gf .n32),
      .brev (gf .n32), .bswap (gf .n32), .bext (gf .n32), .bins (gf .n32)].all
      (fun i => goesWith i 5 31 1 (site i 5 31 1) && goesWith i 5 32 1 (site i 5 32 1)) = true := by decide +kernel

theorem witness_CompareAndPredicateResults :
    [Instr.ceq (gf .i32), .cne (gf .f32), .clt (gf .f32), .cle (gf .i32), .cgt (gf .i32), .cge (gf .i32), .cuo (gf .f32),
      .testz (gf .n32), .testnz (gf .n32), .pand (gf .i8), .por (gf .i8), .pxor (gf .i8), .pnot (gf .i8), .anyl (gf .n8),
      .alll (gf .n8), .cmask (gf .n8)].all (fun i => goesWith i 5 0x7FC00000 1 (site i 5 0x7FC00000 1)
        && goesWith i 0x80000000 0 1 (site i 0x80000000 0 1)) = true
    ∧ [0x80000000, 0, 1, 0x7F800000, 0xFF800000].all (fun x => !isNaN (readF .f32 x)) = true ∧ isNaN (readF .f32 0x7FC00000) = true := by
  decide +kernel

/-- A NaN operand among them; a mode that does not draw, and one that draws in the oldest block. -/
theorem witness_FloatResults :
    [Instr.fadd (gf .f32), .fsub (gf .f32), .fmul (gf .f32), .fdiv (gf .f32), .fma (gf .f32), .fms (gf .f32), .fnma (gf .f32),
      .fnms (gf .f32), .fsqrt (gf .f32), .frcp (gf .f32), .frsq (gf .f32), .fexp2 (gf .f32), .flog2 (gf .f32), .fsin (gf .f32),
      .fcos (gf .f32), .ftanh (gf .f32), .fsig (gf .f32)].all (fun i =>
        goesWith i 0x7FC00000 1 0 (site i 0x7FC00000 1 0) && decide ((roundingAt (site i 0 1 0) i .context).mode ≠ .stochastic)) = true
    ∧ (roundingAt (site (.fadd (gf .f32)) 0 1 0) (.fadd (gf .f32)) .stochastic).mode = .stochastic
    ∧ isOldest (frame0 (site (.fadd (gf .f32)) 0 1 0)) 0 (.iter 0) = true
    ∧ readF .f32 0x7FC00000 = .nan := by decide +kernel

/-- A NaN in a, in b, in both and in neither; a pattern of each class; −0 before +0. -/
theorem witness_FloatSignResults :
    ElemType.f32 ∈ tFP ∧ [(0x7FC00000, 0), (0, 0x7FC00000), (0x7FC00000, 0x7FC00000), (0x80000000, 0)].all (fun v =>
      [Instr.fabs (gf .f32), .fneg (gf .f32), .fcpys (gf .f32), .fclass (gf .f32), .fmin (gf .f32), .fmax (gf .f32)].all
        (fun i => goesWith i (BitVec.ofNat 512 v.1) (BitVec.ofNat 512 v.2) 0
          (site i (BitVec.ofNat 512 v.1) (BitVec.ofNat 512 v.2) 0))) = true
    ∧ [0xFF800000, 0xBF800000, 0x80000001, 0x80000000, 0, 1, 0x3F800000, 0x7F800000, 0x7FC00000].map (classBit .f32) = List.range 9
    ∧ [0x7E, 0x7F].map (classBit .e4m3) = [6, 8] ∧ beforeF .f32 0x80000000 0 :=
  ⟨by decide, by decide +kernel, by decide +kernel, by decide +kernel, .inr (by decide +kernel)⟩

/-- Types that PACKH and UNPKH accept at both ends of the lists; a block scale of 255 and one of 254 for SCALEA. -/
theorem witness_ConversionResults :
    [Instr.frnd (gf .f32), .cvtf { gf .f32 with imm16 := 8 }, .cvtfi { gf .i32 with imm16 := 9 }, .cvtif { gf .f32 with imm16 := 2 },
      .cvti (gf .i32), .pack8 (gf .e4m3), .unpk8 (gf .e5m2), .packh (gf .i16), .packh (gf .n64), .unpkh (gf .i8), .unpkh (gf .n32),
      .ql6 (gf .l6s), .dql6 (gf .l6s), .l6mul (gf .l6), .scalex (gf .f32), .scalea (gf .l6s), .fredadd (gf .f32)].all
      (fun i => goesWith i 0xFF000001FE000001 1 0 (site i 0xFF000001FE000001 1 0)) = true := by decide +kernel

/-- A scan that is done, with outcome 10. -/
theorem witness_HashAndScanResults :
    [Instr.hash32 (gf .n32), .hash64 (gf .n64), .hcomb (gf .n32), .bucket (gf .n32), .bkhist (gf .n32), .bkscat (gf .n32),
      .slen (gf .n8), .scmp (gf .n8), .spfx (gf .n8), .sfind (gf .n8), .shash (gf .n8)].all
      (fun i => goesWith i 3 0 0xC000000000000005 (site i 3 0 0xC000000000000005)) = true
    ∧ (word 0xC000000000000005 0).getLsbD 63 = true ∧ (word 0xC000000000000005 0).extractLsb' 61 2 ≠ 3 := by decide +kernel

theorem witness_MoveAndReductionResults :
    [Instr.mov (gf .i8), .sel (gf .n32), .constI (gf .n32), .consth (gf .n64), .nul (gf .i8), .lane (gf .n32), .insl (gf .n32),
      .bcast (gf .n32), .perm (gf .n32), .lrot (gf .n32), .redadd (gf .n32), .redmin (gf .i32), .redmax (gf .n32)].all
      (fun i => goes i (site i 5 31 1)) = true := by decide +kernel

/-- Two streams whose heads stand in each order, and equal. -/
theorem witness_IsectComparesHeads :
    let st := fun (x y : BitVec 32) => modFrame (site (.isect (gf .i8)) 0 0 0) ⟨0, 0⟩ 0 (fun fr => { fr with ops :=
      [⟨1, .a, .iter 0, { Token.zero with coord := some x }, none⟩, ⟨1, .b, .iter 0, { Token.zero with coord := some y }, none⟩] })
    [(st 1 2), (st 2 1), (st 2 2)].all (fun s =>
      let fr := frame0 s
      (ctxAt s ⟨0, 0⟩).st == .running && fr.mapped && !(isectNow fr 1).done && !fr.finalPh && !fr.follows
        && (ctxAt s ⟨0, 0⟩).course != .leader
        && (headToken fr 1 .a (isectNow fr 1).na).isSome && (headToken fr 1 .b (isectNow fr 1).nb).isSome
        && isOpen fr (isectNow fr 1).k && s.focus.idx == 1) = true := by decide +kernel

/-! ## Premises: exits and memory accesses -/

def okay {α β : Type} : Except α β → Bool
  | .ok _ => true
  | .error _ => false

/-- A pointer into the own scratchpad, to general memory and to host memory. -/
def pSpad (a : Nat) : Word := BitVec.ofNat 64 (2 ^ 61 + 2 ^ 22 + a)
def pGen (a : Nat) : Word := BitVec.ofNat 64 a
def pHost (a : Nat) : Word := BitVec.ofNat 64 (3 * 2 ^ 61 + a)
def tok1 (w : Word) : Wide := w.setWidth 512

/-- A younger block at the target, at another address, and none. -/
theorem witness_ExitResults :
    [Instr.br bf, .brLeave { bf with leave := true }, .brMchk { bf with mchk := true }, .bri { bf with off := 0 }].all (fun i =>
      goes i (site i (tok1 128) 0 0)) = true
    ∧ (let s := modCtx (site (.br bf) 0 0 0) ⟨0, 0⟩ (fun x => { x with frames := x.frames ++ [{ blankFrame with addr := 128 }] })
       (ctxAt s ⟨0, 0⟩).course = .solo ∧ brTarget (frame0 s) bf = 128 ∧ goes (.br bf) s = true)
    ∧ (let s := modCtx (site (.br bf) 0 0 0) ⟨0, 0⟩ (fun x => { x with frames := x.frames ++ [{ blankFrame with addr := 256 }] })
       (frameAt s ⟨0, 0⟩ 1).any (fun g => g.addr != brTarget (frame0 s) bf) = true ∧ goes (.br bf) s = true) := by decide +kernel

/-- A pointer to device space and one through fabric window 0. -/
def pDev (a : Nat) : Word := BitVec.ofNat 64 (2 ^ 63 + a)
def pFab (a : Nat) : Word := BitVec.ofNat 64 (5 * 2 ^ 61 + a)

/-- The site with window 0 on the own module's die 0, partition 0, which accepts reads and writes, or nothing. -/
def farSite (i : Instr) (a : Wide) (accept : Word) : State :=
  modPart (modCtx (site i a 0 0) ⟨0, 0⟩ (fun x => { x with windows := [(0, (0x0000030000000000, 0))] })) 0 0
    (fun p => { p with fabAccept := accept })

theorem witness_LoadResults :
    [pSpad 0, pSpad 0x7BFFC, pGen 0, pHost 4092].all (fun p =>
      let s := site (.ld (lf .n32)) (tok1 p) 0 0
      goes (.ld (lf .n32)) s && okay (checkAccess .n32 servesAll .read 4 s (addrOf p 0)) && !(holdLoad s (frame0 s) 0)
        && [0, 2, 3].all (fun q => (match locate s (whoAt s) .read p 4 with
          | .ok ls => (poisonAt s (whoAt s) (q == 3) ls).isNone
            && (!(bypasses { lf .n32 with cache := BitVec.ofNat 2 q } ls) || !(syncHeld s (frame0 s) (.ld { lf .n32 with cache := BitVec.ofNat 2 q })))
          | .error _ => false))) = true
    ∧ (let s := { site (.ld (lf .n32)) (tok1 (pGen 64)) 0 0 with poison := [1] }
       goes (.ld (lf .n32)) s = true ∧ okay (checkAccess .n32 servesAll .read 4 s (pGen 64)) = true
         ∧ (poisonAt s (whoAt s) false [.pa 64 64]).isSome = true)
    ∧ [(pDev 0, (0 : Word)), (pFab 64, 1), (pFab 64, 0)].all (fun e =>
        let s := farSite (.ld (lf .n32)) (tok1 e.1) e.2
        goes (.ld (lf .n32)) s && okay (checkAccess .n32 servesAll .read 4 s e.1)
          && irrevocableMay (frame0 s) 0 0 (.ld (lf .n32)) (.iter 0) && !(farHeld s (frame0 s) (.ld (lf .n32)))
          && (ptrPath e.1 == pathDEV || (fabRefusal s (windowOf s ⟨0, 0⟩ 0).1 false [64]).isNone == (e.2 == 1))) = true
    ∧ (let s := site (.gath (lf .n32)) (tok1 (pSpad 0)) 0x80000000 0
       goes (.gath (lf .n32)) s = true ∧ syncHeld s (frame0 s) (.gath (lf .n32)) = false
       ∧ okay (checkLanes .n32 servesLanes .read s (indexedLanes (lf .n32) (tok1 (pSpad 0)) 0x80000000)) = true
       ∧ (indexedLanes (lf .n32) (tok1 (pSpad 0)) 0x80000000).length = 15)
    ∧ (let r : LoadRec := ⟨0, 0, .iter 0, [.pa 64 64], [0]⟩
       let s := modFrame (site (.ld (lf .n32)) 0 0 0) ⟨0, 0⟩ 0 (fun fr => { fr with loads := [r] })
       (ctxAt s ⟨0, 0⟩).frames.length = 1 ∧ (frame0 s).loads = [r] ∧ loadBytes s (whoAt s) 0 (.iter 0) 0 false [.pa 64 64] = [0]
         ∧ memByte s (whoAt s) true (.pa 64 64) = 0) := by decide +kernel

/-- A counted scratchpad line with a unit left, with a unit for a load that waits before it, with none, and one that is not
counted. -/
theorem witness_ConsumingLoads :
    [((2, 1), ([] : List RcWait)), ((2, 1), [⟨.spad 0 0, ⟨1, 0⟩, 0, 0, .iter 0⟩]), ((1, 1), [])].all (fun e =>
      let s := modCore (modPart { site (.ldRc { lf .n32 with mc := 8 }) (tok1 (pSpad 0)) 0 0 with rcQueue := e.2 } 0 0 (fun p =>
        { p with regions := [⟨0, some 0, 0, 64, false, ⟨0, 0⟩, 0, 0, none, none⟩] })) 0 (fun k => { k with spadCnt := [(0, e.1)] })
      goes (.ldRc { lf .n32 with mc := 8 }) s && (basicCheck (pSpad 0)).isNone && (formatCheck .n32 (pSpad 0)).isNone
        && okay (locate s (whoAt s) .write (pSpad 0) 4) && !(holdLoad s (frame0 s) 0) && !(fillDue s (.spad 0 0))
        && (poisonAt s (whoAt s) true [.spad 0 0]).isNone && !(syncHeld s (frame0 s) (.ldRc { lf .n32 with mc := 8 }))
        && (notCounted (partAt s (whoAt s).die (whoAt s).part) (.spad 0 0) (pSpad 0)).isNone
        && countAt s (.spad 0 0) == e.1 && aheadAt s (frame0 s) (.spad 0 0) == e.2.length && isOldest (frame0 s) 0 (.iter 0)) = true
    ∧ (notCounted (partAt world 0 0) (.spad 0 0) (pSpad 0)).isSome = true := by decide +kernel

theorem witness_StoreResults :
    (let s := site (.st (lf .n64)) (tok1 (pGen 64)) 5 0
     goes (.st (lf .n64)) s = true ∧ okay (checkAccess .n64 servesStore .write 8 s (addrOf (pGen 64) 0)) = true)
    ∧ (let s := site (.scat (lf .n64)) (tok1 (pSpad 0)) 0 5
       goes (.scat (lf .n64)) s = true ∧ okay (checkLanes .n64 servesScatter .write s (indexedLanes (lf .n64) (tok1 (pSpad 0)) 0)) = true)
    ∧ (let s := site (.stm (lf .n64)) (tok1 (pSpad 0)) 5 1
       goes (.stm (lf .n64)) s = true ∧ okay (checkLanes .n64 servesScatter .write s (maskedLanes (lf .n64) (tok1 (pSpad 0)) 1)) = true)
    ∧ ([1, 254].all (fun n =>
        let i := Instr.stCnt { lf .n8 with mc := 4 }
        let s := modPart (site i (tok1 (pSpad 0)) 5 (BitVec.ofNat 512 n)) 0 0 (fun p =>
          { p with regions := [⟨0, some 0, 0, 64, false, ⟨0, 0⟩, 0, 0, none, none⟩] })
        goes i s && okay (checkAccess .n8 servesFill .write 64 s (pSpad 0))
          && (notCounted (partAt s (whoAt s).die (whoAt s).part) (.spad 0 0) (pSpad 0)).isNone) = true)
    ∧ (let s := site (.stq (lf .i8)) (tok1 (pHost 64)) 0 0
       goes (.stq (lf .i8)) s = true ∧ okay (checkAccess .i8 servesStq .write 32 s (pHost 64)) = true) := by decide +kernel

theorem witness_HintResults : goes (.pref (lf .i8)) (site (.pref (lf .i8)) 0 0 0) = true
    ∧ goes (.prefCode { lf .i8 with cache := 3 }) (site (.prefCode { lf .i8 with cache := 3 }) 0 0 0) = true
    ∧ (let d : Wide := BitVec.ofNat 512 (2 ^ 256 + 2 ^ 224 + 2 ^ 192)
       let s := site (.lds (lf .n32)) (tok1 (pSpad 0)) d 0
       goes (.lds (lf .n32)) s = true ∧ (frame0 s).streams = [] ∧ (frame0 s).faults = [] ∧ streamBad d = false) := by decide +kernel

/-- A byte written twice, and one written once. -/
theorem witness_AddressesAndHomeWrites : homeByte (homeWrite State.reset [(5, 1), (6, 2), (5, 3)]) 5 = 3
    ∧ homeByte (homeWrite State.reset [(5, 1), (6, 2), (5, 3)]) 6 = 2 ∧ addrOf 0xFFFFFFFFFFFFFFFF 1 = 0xFFC0000000000000 := by
  decide +kernel

/-! ## Premises: contexts, messages, control registers -/

theorem witness_EffectsWaitForTheCommit :
    [Instr.quit (gf .i8), .yield (gf .i8), .repart (gf .i8), .trap (gf .i8), .syncb (gf .i8), .tdone (lf .i8), .phase (lf .i8),
      .accinit xf, .accclr { xf with ta := .i8, tb := .i8 }, .mcast (gf .i8)].all (fun i => goes i (site i 0 0 0)) = true
    ∧ (let s := site (.send (gf .i8)) 0x2000 0 0
       goes (.send (gf .i8)) s = true ∧ (sendCore s ⟨0, 0⟩ 0 0x2000).isSome = true)
    ∧ (let s := site (.send (gf .i8)) 0x100 0 0
       goes (.send (gf .i8)) s = true ∧ cfgSize (partOf s ⟨0, 0⟩).cfg ≤ field 0x100 8 5)
    ∧ (let s := site (.launch (gf .i8)) (tok1 (pGen 128)) 0 0
       goes (.launch (gf .i8)) s = true ∧ (basicCheck (pGen 128)).isNone = true
         ∧ okay (locate s (whoAt s) .read (pGen 128) 128) = true) := by decide +kernel

/-- SPAWN of a CTX that can start, of one that cannot, with ANY where a lower context cannot start, with ANY where none can, with
SELF, with a rank above the issuer's, and of a cluster outside; WAITA on a word that differs and one that is equal; RETT of a
target of each status. -/
theorem witness_ContextResults :
    (let s := modCore (modDie (site (.spawn (gf .i8)) 0 0x2001 0) 0 (fun d => { d with coreMask := 0xFF })) 1 (fun k => { k with contexts := 4 })
     let busy := modCtx s ⟨1, 0⟩ (fun x => { x with st := .running })
     let free := fun (s : State) (core n : Nat) => decide (n < (coreAt s core).contexts) && (coreAt s core).kind == 0
       && !(coreAt s core).pend && (ctxIn (coreAt s core) n).st == .free && !(ctxIn (coreAt s core) n).reserved
       && !(coreAt s core).saving && (dieAt s 0).coreMask.getLsbD core && (dieAt s 0).parts.all (fun q => q.2.reserve.isNone)
     goes (.spawn (gf .i8)) s = true ∧ basicCheck 0 = none ∧ ptrAddr 0 % 128 = 0 ∧ ptrPath 0 = 0
       ∧ free s 1 0 = true ∧ free s 1 3 = true ∧ free s 1 4 = false ∧ free busy 1 0 = false ∧ free busy 1 1 = true
       ∧ (List.range 16).all (fun n => !free s 0 n) = true
       ∧ [1, 0x201, 0x2001].map (fun d => Nat.testBit d 13) = [false, false, true] ∧ Nat.testBit 0x2100 8 = true
       ∧ field 1 3 5 < cfgSize (partOf s ⟨0, 0⟩).cfg ∧ coreNamed s ⟨0, 0⟩ (field 1 3 5) (field 1 0 3) = 1
       ∧ cfgSize (partOf s ⟨0, 0⟩).cfg ≤ field 0x8 3 5 ∧ (ctxAt s ⟨0, 0⟩).rank < field 0x4001 14 3
       ∧ spawnTarget s ⟨0, 0⟩ 1 0x2001 = some ⟨1, 0⟩ ∧ spawnTarget busy ⟨0, 0⟩ 1 0x2001 = some ⟨1, 1⟩)
    ∧ ([0, 1].all (fun v =>
        let s := site (.waita (gf .i8)) (tok1 (pSpad 0)) (BitVec.ofNat 512 v) 0
        goes (.waita (gf .i8)) s && okay (locate s (whoAt s) .read (pSpad 0) 8) && !readPending s
          && (poisonHome s [.spad 0 0]).isNone
          && (ctxAt s ⟨0, 0⟩).watch.isNone && (coherentWord s (whoAt s) [.spad 0 0] == 0)) = true)
    ∧ ([(true, 1), (false, 1), (true, 0)].all (fun e =>
        let s := modCtx (modCtx (site (.rett (gf .i8)) 0x20 0 0) ⟨0, 0⟩ (fun x => { x with rank := e.2 })) ⟨1, 0⟩ (fun x =>
          { x with st := .parked, stopped := e.1, handlers := [⟨0, 0⟩] })
        goes (.rett (gf .i8)) s && decide (field 0x20 8 5 < cfgSize (partOf s ⟨0, 0⟩).cfg)
          && rettTarget s ⟨0, 0⟩ 0x20 == ⟨1, 0⟩
          && (threadAt s (stoppedThread s ⟨0, 0⟩ ⟨1, 0⟩)).stopped == e.1
          && (threadAt s (stoppedThread s ⟨0, 0⟩ ⟨1, 0⟩)).rank == 0) = true) := by decide +kernel

/-- A class that is free, the context's own and another's; a queue with a message and an empty one. -/
theorem witness_MessageResults :
    [Instr.bind (gf .i8), .unbind { gf .i8 with imm16 := 0x100 }, .recv (gf .i8), .recv { gf .i8 with imm16 := 0x100 }].all (fun i =>
      [[], [(0, 0)], [(0, 1)]].all (fun b => [[], [(0, [(⟨7, 1, 0⟩ : QMsg)])]].all (fun q =>
        !readPending (site i 0 0 0) && goes i (modCore (site i 0 0 0) 0 (fun k => { k with bound := b, queues := q }))))) = true := by decide +kernel

theorem witness_ControlRegisters :
    [0x008, 0x087, 0x7FF].all (fun n => goes (.getc { gf .i8 with imm16 := BitVec.ofNat 16 n })
      (site (.getc { gf .i8 with imm16 := BitVec.ofNat 16 n }) 0 0 0)) = true
    ∧ [(Instr.setc { gf .i8 with imm16 := 0x00A }, 0x00A), (.round { gf .i8 with imm16 := 8 }, 8), (.seed { gf .i8 with imm16 := 9 }, 9),
        (.feCtl { gf .i8 with imm16 := 4 }, 4), (.coreErr { gf .i8 with imm16 := 6 }, 6), (.tlbInv { gf .i8 with imm16 := 0x24 }, 0x24),
        (.ptRoot { gf .i8 with imm16 := 0x25 }, 0x25), (.rcLogctl { gf .i8 with imm16 := 0x23 }, 0x23),
        (.spillCtl { gf .i8 with imm16 := 0x13 }, 0x13), (.partCfg { gf .i8 with imm16 := 0x38 }, 0x38),
        (.distKill { gf .i8 with imm16 := 0x35 }, 0x35)].all (fun e => goes e.1 (site e.1 0 0 0)) = true
    ∧ setcAllowed world ⟨0, 0⟩ 0x008 0 = true ∧ (ctxAt world ⟨0, 0⟩).rank < 1 := by decide +kernel

/-! ## Premises: atomics, counted regions, ranges -/

theorem witness_AtomicsComplete :
    (atomicTable (lf .n32)).all (fun e =>
      [pSpad 4, pSpad 2].all (fun p =>
        let s := site e.1 (tok1 p) 5 0
        goes e.1 s && okay (checkAccess .n32 servesAtomic .write 4 s p) && !(atomicHeld s (lf .n32) [.spad 0 4])
          && (poisonHome s [.spad 0 4]).isNone && (atomicRefusal s (whoAt s) [.spad 0 4]).isNone)) = true
    ∧ (lf .n32).mc.getLsbD 0 = false ∧ (lf .n32).mc.getLsbD 1 = false
    ∧ (sendCore world ⟨0, 0⟩ 0 0x2001).isSome = true := by decide +kernel

/-- RCDECL at each of its statuses; the range instructions on GEN. -/
theorem witness_RegionAndRangeResults :
    (let s := site (.rcdecl (lf .i8)) (tok1 (pSpad 0)) 64 0
     goes (.rcdecl (lf .i8)) s = true ∧ basicCheck (pSpad 0) = none ∧ ptrPath (pSpad 0) = pathSPAD
       ∧ (partOf s ⟨0, 0⟩).regions = [] ∧ (spadLoc (whoAt s) (ptrAddr (pSpad 0))).2 + 64 ≤ 0x7C000)
    ∧ ([(List.range 1).map (fun n => (⟨n, some 0, 0, 64, false, ⟨0, 0⟩, 0, 0, none, none⟩ : Region)),
        (List.range 64).map (fun n => (⟨n, some 1, 64 * n, 64, false, ⟨0, 0⟩, 0, 0, none, none⟩ : Region))].all (fun rs =>
        let s := modPart (site (.rcdecl (lf .i8)) (tok1 (pSpad 0)) 64 0) 0 0 (fun p => { p with regions := rs })
        goes (.rcdecl (lf .i8)) s && rs.any (fun r => r.spad == some 0 && decide (0 < r.lo + r.len ∧ r.lo < 0 + 64)) == decide (rs.length = 1))
        = true)
    ∧ (let s := site (.rcdecl (lf .i8)) (tok1 (pGen 4096)) 4096 0
       goes (.rcdecl (lf .i8)) s = true ∧ okay (locateByte s (whoAt s) .write (pGen 4096) 0) = true
         ∧ okay (locateByte s (whoAt s) .write (pGen 4096) 4032) = true)
    ∧ (let s := modPart (site (.rcend (lf .i8)) 0 0 0) 0 0 (fun p =>
          { p with regions := [⟨0, some 0, 0, 64, false, ⟨0, 0⟩, 0, 0, none, none⟩] })
       goes (.rcend (lf .i8)) s = true ∧ (frame0 s).reserved = []
         ∧ (let t := modPart s 0 0 (fun p => { p with regions := [⟨0, some 0, 0, 64, true, ⟨0, 0⟩, 0, 0, none, none⟩] })
            (partOf t ⟨0, 0⟩).regions.any (fun r => r.num == 0 && r.ending && r.waiter.isNone) = true ∧ goes (.rcend (lf .i8)) t = true)
         ∧ anyReserved s (regionLines s 0 0 ⟨0, some 0, 0, 64, false, ⟨0, 0⟩, 0, 0, none, none⟩) = false)
    ∧ (let s := site (.rcq (lf .i8)) (tok1 (pSpad 0)) 0 0
       goes (.rcq (lf .i8)) s = true ∧ okay (locateByte s (whoAt s) .read (pSpad 0) 0) = true)
    ∧ ([Instr.rwb (lf .i8), .rinv (lf .i8), .rdisc (lf .i8)].all (fun i =>
        let s := site i (tok1 (pGen 64)) 128 0
        goes i s && (checkRange .write s (pGen 64) 128).isNone && (checkRange .read s (pGen 64) 128).isNone
          && (frame0 s).reserved.isEmpty && (rangeLines s (whoAt s) (pGen 64) 128).all (fun q =>
            !(foreignTenure (partAt s 0 0) (holderOf s (whoAt s)) q.2) && (l2At s q.1).v == 0)) = true) := by decide +kernel

/-! ## Premises: mortar and the matrix unit -/

/-- A job of one element from an address to another. -/
def oneElement (dest : Word) : Wide := BitVec.ofNat 512 (dest.toNat + 2 ^ 64 * (1 + 2 ^ 16 + 2 ^ 32))

/-- A good MCOPY, MPUT and MGET of one element and a job with a bad field; a card that is good, one with a bad field and one
whose SPAD region is staging; a barrier of the own group and of another. -/
theorem witness_MortarResults :
    [Instr.mcopy (lf .i8), .mput (lf .i8), .mget (lf .i8), .mquery (lf .i8), .mquery { lf .i8 with off := 8 }, .gmcast (lf .i8),
      .task (lf .i8), .gbar (lf .i8)].all (fun i => goes i (site i (tok1 (pGen 128)) 0 0)) = true
    ∧ [(Instr.mcopy (lf .i8), 0, pGen 0, pSpad 0), (.mput (lf .i8), 1, pSpad 0, pFab 0), (.mget (lf .i8), 2, pFab 0, pSpad 0)].all (fun e =>
        okay (checkJob (farSite e.1 (tok1 e.2.2.1) 3) e.2.1 (lf .i8) (tok1 e.2.2.1) (oneElement e.2.2.2))) = true
    ∧ okay (checkJob (site (.mcopy (lf .i8)) (tok1 (pGen 0)) 0 0) 0 (lf .i8) (tok1 (pGen 0)) (BitVec.ofNat 512 (2 ^ 512 - 1))) = false
    ∧ basicCheck (pSpad 64) = none ∧ ptrPath (pSpad 64) = pathSPAD ∧ ptrAddr (pSpad 64) % 2 ^ 19 < 0x7C000
    ∧ (let s := site (.task (lf .i8)) (tok1 (pGen 128)) 0 0
       basicCheck (pGen 128) = none ∧ okay (locate s (whoAt s) .read (pGen 128) 128) = true ∧ holdLoad s (frame0 s) 0 = false
         ∧ (poisonAt s (whoAt s) false [.pa 128 128]).isNone = true ∧ cardBad (List.replicate 16 0) = false
         ∧ cardBad (128 :: 0 :: 16 :: List.replicate 13 0) = true ∧ cardStaging (List.replicate 16 0) = none)
    ∧ (let s := modPart (site (.gbar (lf .i8)) 0 0 0) 0 0 (fun p => { p with groups := [⟨0, [0], 0, [], []⟩] })
       (groupMembers s ⟨0, 0⟩ 0).contains (memberNum s ⟨0, 0⟩) = true ∧ (groupMembers s ⟨0, 0⟩ 1).contains (memberNum s ⟨0, 0⟩) = false
         ∧ (ctxAt s ⟨0, 0⟩).gbarWait = none ∧ syncPending s = false) := by decide +kernel

/-- Both forms of MMA, an ACCOUT whose tile fits, and ACCQ without and with a command in the queue. -/
theorem witness_MatrixResults :
    (let g : Word := BitVec.ofNat 64 (2 ^ 30 * 1 + 2 ^ 23 * 1 + 2 ^ 16 * 1)
     let a : Word := BitVec.ofNat 64 (8 * 2 ^ 32)
     let i := Instr.mma { xf with flags := 1 }
     goes (.mma xf) (site (.mma xf) 0 0 0) = true ∧ goes i (site i (tok1 a) (tok1 g) 0) = true)
    ∧ (let i := Instr.accout { xf with ta := .f32, tb := .i8 }
       let a : Word := BitVec.ofNat 64 (8 * 2 ^ 32)
       goes i (site i (tok1 a) 0 0) = true ∧ checkTiles (addrWordBad a) (tileAddr a) (tilePitch a) 0 [⟨(0 : Nat), 1, 4⟩] = none
         ∧ outWordFault 0 = none)
    ∧ ([[], [(⟨0, 0, .accClr, ⟨0, 0⟩, none, true, false⟩ : QCmd)]].all (fun q =>
        let i := Instr.accq { xf with ta := .i8, tb := .i8 }
        let s := modCore (site i 0 0 0) 0 (fun k => { k with mq := q })
        goes i s && (ctxAt s ⟨0, 0⟩).accWait.isEmpty) = true) := by decide +kernel

/-! ## Premises: tiles, trees, the fabric -/

/-- The handle of 16 bytes at address 64, index 1 of generation 1, with given tenures. -/
def tile (ts : List Tenure) : Handle :=
  ⟨1, 1, [64, 0x0001000100010010, 1, 0, 0], 64, 80, 0, 0, 1, ts, [], [], none, false⟩

def withTile (ts : List Tenure) (s : State) : State := modPart s 0 0 (fun p => { p with handles := [tile ts] })

/-- A live handle without a tenure, one of the context's own, and another's WRITE; a stale number; a split of 16 elements that
cuts at 5, at neither end, with no tenure, with the own WRITE and with another's, and with the index table full. -/
theorem witness_TileResults :
    [[], [(⟨holderOf world (whoOf world ⟨0, 0⟩), 1, 0, 0, false, 0, []⟩ : Tenure)], [⟨99, 2, 0, 0, false, 0, []⟩]].all (fun ts =>
      [Instr.thfree (lf .i8), .trel (lf .i8), .tquery (lf .i8), .tacq { lf .i8 with off := 1 }, .tsplit { lf .i8 with off := 256 }].all (fun i =>
        let s := withTile ts (site i (tok1 0x101) 0 0)
        goes i s && okay (findHandle (partOf s ⟨0, 0⟩) 0x101) && !(okay (findHandle (partOf s ⟨0, 0⟩) 0x102))
          && (ctxAt s ⟨0, 0⟩).tenWait.isNone && !syncPending s)) = true
    ∧ (let s := withTile [] (site (.tacq (lf .i8)) 0 0 0)
       admitted (partOf s ⟨0, 0⟩) 1 (tile []) 1 0 0 = true ∧ tenuresHeld (partOf s ⟨0, 0⟩) 1 < 32 ∧ (tile []).st = 1
         ∧ (partOf s ⟨0, 0⟩).acquires = [] ∧ recordsAt s 0 0 = 0)
    ∧ (let s := withTile [⟨99, 2, 0, 0, false, 0, []⟩] (site (.tacq (lf .i8)) 0 0 0)
       admitted (partOf s ⟨0, 0⟩) 1 (tile [⟨99, 2, 0, 0, false, 0, []⟩]) 1 0 0 = false)
    ∧ (let me := holderOf world (whoOf world ⟨0, 0⟩)
       let i := Instr.tsplit { lf .i8 with off := 0x500 }
       let n := ((descDims (tile []).desc).getD 0 (1, 0)).1
       field 0x500 8 16 = 5 ∧ 5 < n ∧ 0 ≤ field ((tile []).desc.getD 4 0).toNat 0 2
         ∧ [[], [(⟨me, 2, 0, 0, false, 0, []⟩ : Tenure)], [⟨99, 2, 0, 0, false, 0, []⟩]].all (fun ts =>
           let s := withTile ts (site i (tok1 0x101) 0 0)
           goes i s && (tile ts).st != 2 && (partOf s ⟨0, 0⟩).acquires.isEmpty && freeIndex (partOf s ⟨0, 0⟩) == some 2
             && (ts.all (·.holder == me) == (tenureOf (tile ts) me).any (·.kind == 2) || ts.isEmpty)) = true
         ∧ freeIndex { Part.blank with thCap := 1, handles := [tile []] } = none)
    ∧ (let ws : List Word := (tile []).desc
       let v : Wide := BitVec.ofNat 512 (64 + 0x0001000100010010 * 2 ^ 64 + 2 ^ 128)
       let s := site (.thnew (lf .i8)) v 0 0
       goes (.thnew (lf .i8)) s = true ∧ (List.range 5).map (word v) = ws ∧ [5, 6, 7].all (fun n => word v n == 0) = true ∧ basicCheck (word v 0) = none ∧ descBad ws = false
         ∧ okay (locateByte s (whoAt s) .read (withAddr (word v 0) (spanOf ws).1.toNat) 0) = true
         ∧ overlapping (partOf s ⟨0, 0⟩) (spanOf ws).1.toNat (spanOf ws).2.toNat = [] ∧ freeIndex (partOf s ⟨0, 0⟩) = some 1) := by
  decide +kernel

/-- A home with no tenure record taken has room for one, whatever the number of its records. -/
theorem witness_tenureRoom (s : State) (h : Handle) (e : recordsAt s h.die h.slice = 0) : tenureRoom s h = true := by
  simp [tenureRoom, e]

/-- A holder of 32 tenures, and a REDUCE request in a format of another width. -/
theorem witness_TacqRefused :
    (let ts := (List.range 32).map (fun n => { tile [⟨1, 1, 0, 0, false, 0, []⟩] with idx := n + 2 })
     32 ≤ tenuresHeld { Part.blank with handles := ts } 1) ∧ (elemOfCode 2).width ≠ 8 * elemBytes (tile []) := by decide +kernel

/-- An arena of four nodes: an expanded root with one child, and two free nodes; its first two leaves in the queue. -/
def grown : Arena :=
  let a := { newArena world ⟨0, 0⟩ 0 (pGen 4096) 4 with trapen := true }
  { a with nodes := [(0, { newNode 0xFFFFFFFF 0x3F80 0 with first := 1, count := 1, expanded := true }), (1, newNode 0 0x3F80 7)], queue := [1, 0] }

/-- TARENA of a good area; on a live arena each instruction, with a list on SPAD and one on GEN, and a stale word; a walk that
stands at each stage. -/
theorem witness_SearchResults :
    (let v : Wide := BitVec.ofNat 512 4
     let s := site (.tarena (lf .i8)) (tok1 (pGen 4096)) v 0
     goes (.tarena (lf .i8)) s = true ∧ engineTurn s 0 = true ∧ basicCheck (pGen 4096) = none ∧ arenaParamsBad (pGen 4096) v = false
       ∧ rangeFault s (whoAt s) .write (pGen 4096) 128 = none ∧ areaOverlaps s 0 0 4096 128 = false)
    ∧ [Instr.tarenaDestroy { lf .i8 with off := 1 }, .tselect (lf .i8), .tbatch { lf .i8 with off := 1 }, .texpand (lf .i8),
        .tbackup (lf .i8), .treroot (lf .i8), .tstat (lf .i8)].all (fun i =>
        let s := modDie (site i (tok1 (BitVec.ofNat 64 (2 ^ 40 + 1))) (tok1 (pSpad 0)) 1) 0 (fun d => { d with arenas := [grown] })
        goes i s && engineTurn s 0 && findArena s ⟨0, 0⟩ (BitVec.ofNat 64 (2 ^ 40 + 1)) == some grown && (findArena s ⟨0, 0⟩ 0).isNone
          && (ctxAt s ⟨0, 0⟩).walk.isNone && nodeOf (BitVec.ofNat 64 (2 ^ 40 + 1)) == 1
          && okay (engineList s .i8 (pSpad 0) .write 4) && okay (engineList s .i8 (pGen 64) .write 4)
          && (match engineList s .i8 (pSpad 0) .read 4 with
            | .ok ls => (poisonHome s ls).isNone
            | .error _ => false)
          && [Stage.read 0 0, .score 0 0 (nodeAt grown 0) 0 none, .backup 1 1 0 1].all (fun st =>
            (ctxAt (modCtx s ⟨0, 0⟩ (fun x => { x with walk := some ⟨s.focus.idx, s.focus.tag, grown.id, st⟩ })) ⟨0, 0⟩).walk
              == some ⟨s.focus.idx, s.focus.tag, 0, st⟩)) = true
    ∧ 1 < grown.cap ∧ (nodeAt grown 1).free = false ∧ (nodeAt grown 1).expanded = false ∧ (nodeAt grown 0).expanded = true
    ∧ basicCheck (pSpad 0) = none ∧ (nodeAt grown grown.root).vl = 0 ∧ grown.pslots = 0 := by decide +kernel

/-- A run of one node is at 2, and there is no run of three; a node of the subtree of the root, and one that is not. -/
theorem witness_SearchHelpers : LowestRun grown 1 2 ∧ (∀ first, ¬ LowestRun grown 3 first) ∧ Under grown 0 1 ∧ ¬ Under grown 1 0 := by
  have cap : grown.cap = 4 := by decide +kernel
  have n0 : (nodeAt grown 0).free = false := by decide +kernel
  have n1 : (nodeAt grown 1).free = false := by decide +kernel
  have n2 : (nodeAt grown 2).free = true := by decide +kernel
  refine ⟨⟨by omega, ?_, ?_⟩, ?_, ⟨[1, 0], by simp [cap], rfl, rfl, ?_⟩, ?_⟩
  · intro j hj
    obtain rfl : j = 0 := by omega
    exact n2
  · intro m hm
    refine ⟨0, by omega, ?_⟩
    rcases (by omega : m = 0 ∨ m = 1) with rfl | rfl <;> assumption
  · rintro first ⟨h, free, -⟩
    rcases (by omega : first = 0 ∨ first = 1) with rfl | rfl
    · exact absurd (free 0 (by omega)) (by simp [n0])
    · exact absurd (free 0 (by omega)) (by simp [n1])
  · decide +kernel
  · rintro ⟨c, -, hd, hl, step⟩
    match c, hd, hl, step with
    | [_], hd, hl, _ => simp_all
    | x :: y :: c, hd, hl, step =>
      obtain rfl : x = 0 := by simpa using hd
      exact (step (0, y) (by simp)).1 rfl

/-- Words at the bounds of their reserved fields; a port that is up and one that is down. -/
theorem witness_WindowAndPortResults :
    [(0 : Nat), 2 ^ 64 - 2 ^ 40, 2 ^ 64 * (2 ^ 54 - 1), 2 ^ 39, 2 ^ 118].all (fun v =>
      goes (.wset (lf .i8)) (site (.wset (lf .i8)) (BitVec.ofNat 512 v) 0 0)) = true
    ∧ goes (.wget (lf .i8)) (site (.wget (lf .i8)) 0 0 0) = true ∧ goes (.flink (lf .i8)) (site (.flink (lf .i8)) 0 0 0) = true := by
  decide +kernel

/-- A descriptor of zeros; one of a barrier with one member, whose list stands behind it; the waits on a collective. -/
theorem witness_CollectiveResults :
    [false, true].all (fun good =>
      let d : List Word := if good then [0, 0, 0x9300, 0x10000, pSpad 128, 0, 0, 0] else List.replicate 8 0
      let s := modCore (site (.coll (lf .i8)) (tok1 (pSpad 64)) 0 0) 0 (fun k =>
        { k with spad := (wordBytes d).zipIdx.foldl (fun t e => tabSet 0 t (64 + e.2) e.1) [] })
      let w := whoAt s
      match locate s w .read (pSpad 64) 64 with
      | .error _ => false
      | .ok ls =>
        let ws := (chunksOf 8 8 (coherentBytes s w ls)).map (BitVec.ofNat 64)
        goes (.coll (lf .i8)) s && (collPointer (pSpad 64)).isNone && (poisonHome s ls).isNone
          && decide (ws = d) && collBad ws == !good && (collPointers ws).all (fun q => (basicCheck q).isNone)
          && (!good || ((spanFault s w .read (ws.getD 4 0) (4 * collMembers ws)).isNone
            && decide (coherentRead s w (ws.getD 4 0) (4 * collMembers ws) = some [0, 0, 0, 0]) && ownEntry s ⟨0, 0⟩ == 0
            && (spanFault s w .read (ws.getD 0 0) (collSrc ws)).isNone && (spanFault s w .write (ws.getD 1 0) (collDst ws)).isNone
            && (spanFault s w .write (addrOf (pSpad 64) 48) 8).isNone))) = true
    ∧ (let s := site (.cwait (lf .i8)) (tok1 (pSpad 64)) 0 0
       goes (.cwait (lf .i8)) s = true ∧ okay (locate s (whoAt s) .read (addrOf (pSpad 64) 48) 8) = true
         ∧ (ctxAt s ⟨0, 0⟩).cwait = none ∧ lastColl (ctxAt s ⟨0, 0⟩) (pSpad 64) = none)
    ∧ (let s := modCtx (site (.cwait (lf .i8)) (tok1 (pSpad 64)) 0 0) ⟨0, 0⟩ (fun x =>
        { x with colls := [⟨pSpad 64, [], [], [], 0, false, 0⟩] })
       lastColl (ctxAt s ⟨0, 0⟩) (pSpad 64) = some 0) := by decide +kernel

/-- The locations of an atomic on a GEN word, on host memory and on the core's own scratchpad, with and without RELEASE. -/
theorem witness_AtomicValues : (lf .n32).mc.getLsbD 1 = false ∧ ({ lf .n32 with mc := 2 } : LFields).mc.getLsbD 1 = true
    ∧ [Loc.pa 64 64, .pa 65 65] = (List.range 2).map (fun k => Loc.pa (64 + k) (64 + k))
    ∧ [Loc.host 64, .host 65] = (List.range 2).map (fun k => Loc.host (64 + k))
    ∧ [Loc.spad (whoAt world).core 8] = (List.range 1).map (fun k => Loc.spad (whoAt world).core (8 + k)) := by decide +kernel

/-! ## Premises: faults, commits, the front end, the network -/

/-- A valid block of one chunk: BR to the next block at index 1. -/
def goodImage : List Word :=
  (List.range 32).map (fun k => if k = 0 then 0xB710000000000000 else if k = 17 then encode (.br bf) else 0)

def goodFrame : Frame := { blankFrame with image := goodImage, mapped := true }

/-- The world with one running context of some frames. -/
def running (frs : List Frame) : State := modCtx world ⟨0, 0⟩ (fun x => { x with st := .running, frames := frs })

/-- A frame whose ADD waits for an operand that never comes, and a recorded fault. -/
def stuckFrame : Frame :=
  { blankFrame with image := (List.range 32).map (fun k => if k = 0 then 0xB710000000000000 else if k = 17 then 0x0058000000000000 else 0),
                    mapped := true }

theorem witness_FaultsAreTakenAndReturned :
    (let s := running [{ goodFrame with faults := [⟨clsTrap, 0, 0, false, .iter 0, 0, 7⟩] }]
     (ctxAt s ⟨0, 0⟩).st = .running ∧ (ctxAt s ⟨0, 0⟩).asyncs = [] ∧ (ctxAt s ⟨0, 0⟩).rank < 8 ∧ isMgmt 0 = false
       ∧ (ctxAt s ⟨0, 0⟩).walk = none
       ∧ firstFault (dueFaults (frame0 s)) = some ⟨clsTrap, 0, 0, false, .iter 0, 0, 7⟩)
    ∧ (let s := running [stuckFrame]
       dueFaults stuckFrame = [] ∧ stuckFrame.waiting = [] ∧ frameActive s ⟨0, 0⟩ stuckFrame 0 = false
         ∧ blockComplete s ⟨0, 0⟩ stuckFrame = false ∧ iterationDone s ⟨0, 0⟩ stuckFrame = false
         ∧ phasing (ctxAt s ⟨0, 0⟩) = false ∧ outstanding s ⟨0, 0⟩ stuckFrame = false ∧ (ctxAt s ⟨0, 0⟩).course = .solo)
    ∧ [CtxState.parked, .saved].all (fun st =>
        let s := modCtx world ⟨1, 0⟩ (fun x => { x with st := st, prior := .parked, stopped := true, rettHold := some ⟨0, 0⟩ })
        (ctxAt s ⟨1, 0⟩).stopped && (ctxAt s ⟨1, 0⟩).rettHold == some ⟨0, 0⟩ && (ctxAt s ⟨1, 0⟩).st == st
          && (ctxAt s ⟨1, 0⟩).prior == .parked) = true := by decide +kernel

/-- A complete block with one write slot; one whose fill faults at its reservation; a pinned block with its iteration done. -/
theorem witness_CommitWritesTheRegisters :
    (let im := goodImage.set 0 0xB710000000800000
     let fr := { goodFrame with image := im.set 13 5, exits := [⟨128, .iter 0, false, false⟩], fired := [(1, .iter 0)],
                                   wslots := [(0, wideTok 9)] }
     let s := running [fr]
     blockComplete s ⟨0, 0⟩ fr = true ∧ leaderDone s ⟨0, 0⟩ fr = true ∧ isPinned fr = false
       ∧ writeCount fr = 1 ∧ writeDest fr 0 = 5 ∧ fr.effects = [] ∧ orderedEffects fr (.iter 0) = []
       ∧ reserveFaults s ⟨0, 0⟩ (execCore ⟨0, 0⟩ fr s) [] = [] ∧ reserveWaits s ⟨0, 0⟩ (execCore ⟨0, 0⟩ fr s) [] = false
       ∧ staleLoads s ⟨0, 0⟩ (execCore ⟨0, 0⟩ fr s) fr (.iter 0) [] = [] ∧ (ctxAt s ⟨0, 0⟩).asyncs = []
       ∧ s.cores.all (fun e => e.2.ctxs.all (fun x => x.2.st != .draining && x.2.prior != .draining)) = true)
    ∧ (let p : Pending := ⟨1, some 0, .iter 0, .thfree 0x101⟩
       let s := running [{ goodFrame with effects := [p] }]
       reserveFaults s ⟨0, 0⟩ 0 [p] ≠ [])
    ∧ (let fr := { goodFrame with image := goodImage.set 0 0xB711000000000000 |>.set 17 0 }
       let s := running [fr]
       iterationDone s ⟨0, 0⟩ fr = true ∧ reserveFaults s ⟨0, 0⟩ 0 (orderedEffects fr (.iter 0)) = []
         ∧ reserveWaits s ⟨0, 0⟩ 0 (orderedEffects fr (.iter 0)) = false
         ∧ staleLoads s ⟨0, 0⟩ 0 fr (.iter 0) (orderedEffects fr (.iter 0)) = []) := by decide +kernel

/-- A policy of each parity; an L1 with room and no dirty byte; a scratchpad that is open before and after the store. -/
theorem witness_CommittedStores :
    (0 : Nat) % 2 = 0 ∧ (3 : Nat) % 2 = 1 ∧ isMgmt 0 = false ∧ (coreAt world 0).dirty = []
    ∧ (world.cores.all (fun e => decide ((l1Lines e.2).length + 8 ≤ l1Ways))) = true ∧ (l1Lines Core.blank).length + 8 ≤ l1Ways ∧ 64 < spadBase
    ∧ reduceAt (partAt world 0 0) (holderOf world (whoOf world ⟨0, 0⟩)) 64 = none ∧ pubCause world (whoOf world ⟨0, 0⟩) 64 64 = none
    ∧ (whoOf world ⟨0, 0⟩).core ∈ bondMembers world 0 ∧ windowOpen world (whoOf world ⟨0, 0⟩) 0 = true
    ∧ windowOpen (commitByte (whoOf world ⟨0, 0⟩) world (.spad 0 0, 5)) (whoOf world ⟨0, 0⟩) 0 = true := by decide +kernel

/-- A context without a frame; a line not cached, one whose page is missing, as the oldest block and as a younger one; a good
image and a bad one, one whose page is gone, and one that musters; an idle brick. -/
theorem witness_FrontEndEvents :
    (let s := running []
     nextAddress s ⟨0, 0⟩ none = some 0 ∧ grantTurn s ⟨0, 0⟩ none = some 0
       ∧ framesOn s 0 (memberFor s ⟨0, 0⟩ (nextPos (ctxAt s ⟨0, 0⟩))) < 8 ∧ mappingFrame (ctxAt s ⟨0, 0⟩) = none)
    ∧ [((128 : Word), true, 0), (0x8000000, false, 0), (0x8000000, false, 1)].all (fun e =>
        let fr := { blankFrame with addr := e.1 }
        let s := running (List.replicate e.2.2 goodFrame ++ [fr])
        mappingFrame (ctxAt s ⟨0, 0⟩) == some e.2.2 && nextLine s ⟨0, 0⟩ fr == some e.1
          && okay (fetchLine s (fetchWho s ⟨0, 0⟩ fr) e.1) == e.2.1 && decide ((coreAt s 0).bcache.length ≤ bcacheLines)) = true
    ∧ (let fr := { blankFrame with image := goodImage }
       let s := running [fr]
       mappingFrame (ctxAt s ⟨0, 0⟩) = some 0 ∧ gatherImage s ⟨0, 0⟩ fr = some (.ok goodImage) ∧ musters s ⟨0, 0⟩ fr = false
         ∧ validate fr (regsPerCtx (coreAt s 0).contexts) = none
         ∧ (validate { fr with image := goodImage.set 1 1 } (regsPerCtx (coreAt s 0).contexts)).isSome = true)
    ∧ (let fr := { blankFrame with addr := 0x8000000 }
       let s := running [fr]
       (match gatherImage s ⟨0, 0⟩ fr with
         | some (.error _) => true
         | _ => false) = true)
    ∧ (let fr := { blankFrame with image := goodImage.set 0 (0xB710000000000000 ||| (1 <<< 47)) }
       let s := modCore (running [fr]) 0 (fun k => { k with kind := 2, set := 3 })
       gatherImage s ⟨0, 0⟩ fr = some (.ok fr.image) ∧ musters s ⟨0, 0⟩ fr = true ∧ (ctxAt s ⟨0, 0⟩).course ≠ .leader)
    ∧ (coreAt (running [goodFrame]) 0).noGate = false ∧ indices goodFrame = [1] := by decide +kernel

/-- A token for an operand, a refused one, one refused twice, a read entry, a uniform token, and a stream with and without a
page. -/
theorem witness_TokenEvents :
    (let f : Flight := ⟨.operand .a 1, .iter 0, wideTok 7, some 0, 0, false⟩
     let fr := { stuckFrame with flight := [f] }
     fr.flight[0]? = some f ∧ (place { fr with flight := fr.flight.eraseIdx 0 } f).isSome = true
       ∧ isHead fr 1 = false ∧ followsIdx fr 1 = false ∧ tagOpen fr (.iter 0) = true ∧ fr.ops = []
       ∧ { f with refusals := 2 }.refused = false ∧ { f with refusals := 1, refused := true }.refused = true)
    ∧ (let fr := { stuckFrame with image := stuckFrame.image.set 0 0xB710000010000000, reads := [0] }
       let s := running [fr]
       fr.reads[0]? = some 0 ∧ forwarded s ⟨0, 0⟩ fr (readSource fr 0) [] = some 0 ∧ (readTargets fr 0).length = 2)
    ∧ (let f : Flight := ⟨.operand .a 1, .iter 0, wideTok 7, some 0, 0, false⟩
       let s := modCtx (running [stuckFrame]) ⟨0, 0⟩ (fun x => { x with utoks := [(0, f)] })
       ((ctxAt s ⟨0, 0⟩).utoks.filter (·.1 = stuckFrame.pos))[0]? = some (0, f) ∧ f.refused = false
         ∧ (takeUniform stuckFrame f).isSome = true)
    ∧ [(pSpad 0, true), (pGen 0x8000000, false)].all (fun p =>
        let d : Wide := BitVec.ofNat 512 (2 ^ 256 + 2 ^ 224 + 2 ^ 192 + 2 ^ 128)
        let fr := frame0 (after (.lds (lf .n32)) (site (.lds (lf .n32)) (tok1 p.1) d 0))
        let s := running [fr]
        fr.mapped && (streamNow fr 0).any (fun q => !loadHeld (ctxAt s ⟨0, 0⟩) fr 0 0 0 (.iter q.k))
          && (streamNow fr 0).any (fun q => mayEmit fr (.lds (lf .n32)) q && okay (emission s ⟨0, 0⟩ 0 (lf .n32) q) == p.2)
          && instrAt fr 0 == some (.lds (lf .n32))) = true := by decide +kernel

theorem witness_ContextEvents :
    (let fr := { stuckFrame with waiting := [(1, .iter 0)] }
     let s := running [fr]
     dueFaults fr = [] ∧ frameActive s ⟨0, 0⟩ fr 0 = false ∧ blockComplete s ⟨0, 0⟩ fr = false
       ∧ iterationDone s ⟨0, 0⟩ fr = false)
    ∧ [true, false].all (fun st => (ctxAt (modCtx world ⟨0, 0⟩ (fun x => { x with st := .parked, ready := true, stopped := st })) ⟨0, 0⟩).ready) = true
    ∧ postedLeft (modCtx world ⟨0, 0⟩ (fun x => { x with phases := [3] })) ⟨0, 0⟩ = false
    ∧ (ctxAt (modCtx world ⟨0, 0⟩ (fun x => { x with phases := [3] })) ⟨0, 0⟩).late = [] ∧ (ctxAt world ⟨0, 0⟩).phases = []
    ∧ [(1, 4), (4, 1)].all (fun r =>
        let s := modCore world 0 (fun k => { k with repartBy := some r })
        (coreAt s 0).journal.isEmpty && (coreAt s 0).jobs.isEmpty && (coreAt s 0).mq.isEmpty
          && (coreAt s 0).ctxs.all (fun e => e.2.frames.isEmpty && !phasing e.2 && (e.2.st == .free || decide (e.1 < 1)))) = true
    ∧ (let s := [0, 1].foldl (fun s k => modCtx (modCore s k (fun c => { c with kind := 2, set := 3 })) ⟨k, 0⟩ (fun x =>
          { x with st := .running, course := .waiting 128 })) world
       mates s ⟨0, 0⟩ = [1] ∧ (coreAt s 0).kind = 2
         ∧ [0, 1].all (fun k => (mateAt s ⟨0, 0⟩ k).course == .waiting 128) = true) := by decide +kernel

/-! ## Premises: the memory system, the package, launches and work -/

/-- Lines with and without a count, of HBM and of a CXL port, of the memory and of a scratchpad; a page not yet in the TLB; a
page a host's invalidation takes away. -/
theorem witness_CacheEventsKeepMemory : (l2At world 0).n = 0 ∧ (l2At world 0).dirty = false ∧ 2 ^ 40 ≤ 64 * 2 ^ 34 ∧ 64 * 0 < spadBase ∧ spadBase ≤ 64 * 2 ^ 56
    ∧ (l2At { world with l2 := [(0, ⟨5, false, 1, 0, 0⟩)] } 0).n ≠ 0
    ∧ (partAt State.reset 0 0).tlb = [] ∧ (findPage world 0 0 64).isSome = true := by decide +kernel

/-- A handle with a waiting acquire that is answered. -/
def asking (ts : List Tenure) (a : Acquire) : State := modPart (withTile ts world) 0 0 (fun p => { p with acquires := [a] })

/-- A waiting acquire that is refused, since its holder has tenure already; what makes one granted, whatever the number of the
home's records is; a mirror that is due; a held READ lease; an ending region; an arena; a module that accepts. -/
theorem witness_HomeEvents :
    (let a : Acquire := ⟨1, 1, ⟨0, 0⟩, 1, 0, 0, 0, .iter 0, 0, none⟩
     let s := asking [⟨1, 1, 0, 0, false, 0, []⟩] a
     (partAt s 0 0).handles.find? (·.due) = none
       ∧ answerable s (partAt s 0 0) [] [a] = some (a, tile [⟨1, 1, 0, 0, false, 0, []⟩], .refuse 0x01))
    ∧ (let s := modPart world 0 0 (fun p => { p with handles := [{ tile [] with due := true }] })
       ((partAt s 0 0).handles.find? (·.due)).isSome = true)
    ∧ (partAt (withTile [⟨1, 1, 0, 0, false, 0, []⟩] world) 0 0).handles = [tile [⟨1, 1, 0, 0, false, 0, []⟩]]
    ∧ (let r : Region := ⟨0, some 0, 0, 64, true, ⟨0, 0⟩, 0, 0, some (⟨0, 0⟩, 0, .iter 0), none⟩
       let s := modPart world 0 0 (fun p => { p with regions := [r] })
       (partAt s 0 0).regions.find? (fun q => q.num = r.num && q.ending) = some r ∧ anyReserved s (regionLines s 0 0 r) = false)
    ∧ (let s := modDie world 0 (fun d => { d with arenas := [newArena world ⟨0, 0⟩ 0 (pGen 4096) 4] })
       (dieAt s 0).arenas.find? (·.id = 0) = some (newArena world ⟨0, 0⟩ 0 (pGen 4096) 4))
    ∧ (let s := modPart world 0 0 (fun p => { p with fabAccept := 3 })
       ownRefusal s 0 0 true 64 = none ∧ okay (translate s 0 0 64 false .write false) = true)
    ∧ (ownRefusal world 0 0 true 64).isSome = true ∧ (5 : Nat) + [(1 : Byte)].length ≤ 2 ^ 39 := by decide +kernel

/-- An acquire of a live handle that nothing conflicts with, at a home with no record taken, is granted. -/
theorem witness_answerable_grant : answerable (asking [] ⟨1, 1, ⟨0, 0⟩, 1, 0, 0, 0, .iter 0, 0, none⟩)
    (partAt (asking [] ⟨1, 1, ⟨0, 0⟩, 1, 0, 0, 0, .iter 0, 0, none⟩) 0 0) [] [⟨1, 1, ⟨0, 0⟩, 1, 0, 0, 0, .iter 0, 0, none⟩]
    = some (⟨1, 1, ⟨0, 0⟩, 1, 0, 0, 0, .iter 0, 0, none⟩, tile [], .grant) := by
  have room := witness_tenureRoom (asking [] ⟨1, 1, ⟨0, 0⟩, 1, 0, 0, 0, .iter 0, 0, none⟩) (tile []) (by decide +kernel)
  have found : (partAt (asking [] ⟨1, 1, ⟨0, 0⟩, 1, 0, 0, 0, .iter 0, 0, none⟩) 0 0).handles.find? (·.idx = 1) = some (tile []) := by
    decide +kernel
  have free : tenuresHeld (partAt (asking [] ⟨1, 1, ⟨0, 0⟩, 1, 0, 0, 0, .iter 0, 0, none⟩) 0 0) 1 = 0
      ∧ admitted (partAt (asking [] ⟨1, 1, ⟨0, 0⟩, 1, 0, 0, 0, .iter 0, 0, none⟩) 0 0) 1 (tile []) 1 0 0 = true := by decide +kernel
  simp only [answerable, found, answerFor, room, free.1, free.2]
  rfl

/-- Boot not begun and boot stopped; the power limit at its bounds; ports above each width; an idle cluster. -/
theorem witness_PackageEvents :
    State.reset.kiln.bootStep = 0 ∧ imageFault State.reset.kiln.flash ≠ none
    ∧ (after .boot State.reset).kiln.bootStep = 1
    ∧ State.reset.pkg.p0w < 16 ∧ State.reset.pkg.p1w < 16 ∧ 1250 ≤ State.reset.pkg.clock ∧ State.reset.pkg.clock ≤ 2500
    ∧ (after (.powerLimitSet 1) State.reset).pkg.limit = 1 ∧ (after (.powerLimitSet 3200) State.reset).pkg.limit = 3200
    ∧ (after (.powerLimitSet 3201) State.reset).pkg.limit = 3200
    ∧ (0 : Nat) < 4 ∧ (2 : Nat) = 0 ^^^ 2 ∧ (0x4 : Nat) < 0xF ∧ (0x8 : Nat) < 0xF
    ∧ (portAt { State.reset with pkg := { State.reset.pkg with ports := [(0, ⟨1, 0, 8⟩)] } } 0).lanes = 8
    ∧ (clusterAt State.reset 0).powered = true ∧ clusterIdle State.reset 0 = true := by decide +kernel

/-- A launch record of one gang of one single-context core, and a state that serves it. -/
def launchWords : List Word := 0 :: 0 :: 0x10800 :: 0x0000000100010001 :: (BitVec.ofNat 64 (2 ^ 12 - 1)) :: List.replicate 11 0

def launch0 (gangs : List Gang) (next : Nat) : Launch :=
  { lid := 1, words := launchWords, part := 0, st := 0, aged := 0, order := 0, nextGang := next, gangs := gangs, placedAt := 0,
    reported := false, quiesced := false, killed := false, groups := [], route := [] }

/-- The world after boot with its cores enabled and partition 0 holding some launches. -/
def withLaunches (ls : List Launch) : State :=
  modPart (modDie { world with kiln := { world.kiln with bootStep := 5 } } 0 (fun d => { d with coreMask := 0xFF })) 0 0
    (fun p => { p with launches := ls })

theorem witness_LaunchEvents :
    (dieAt State.reset 0).lqueue.length < 64 ∧ State.reset.kiln.bootStep < 5
    ∧ (let s := modDie (withLaunches [launch0 [] 0]) 0 (fun d => { d with lqueue := [.window launchWords, .pointer 128 0 0] })
       5 ≤ s.kiln.bootStep ∧ (dieAt s 0).lqueue.length = 2)
    ∧ (let s := withLaunches [launch0 [] 0]
       (partAt s 0 0).reserve = none ∧ (served (partAt s 0 0)).any (fun m => decide (m.nextGang < gangTotal m.words)
         && m.gangs.all (fun g => !g.saved) && placeFor s 0 0 m == some [0]) = true)
    ∧ (let s := modPart (withLaunches [launch0 [] 0]) 0 0 (fun p => { p with reserve := some ⟨1, 0, [0]⟩ })
       (clusterAt s 0).fused = recFused launchWords ∧ outrank s 0 0 = s)
    ∧ (0x40 : Nat) ≤ 0x78 ∧ 0x80 ≤ 0x40 + 0x48 ∧ 0x40 + 0x48 ≤ 0x88
    ∧ (let s := withLaunches [launch0 [] 1]
       ((List.range 8).findSome? (fun p => ((partAt s 0 p).launches.find? (fun l => l.lid = 1 && mayEnd l)).map (fun l => (p, l)))).isSome = true)
    ∧ resident (partAt (withLaunches [launch0 [⟨0, [0], false⟩] 1]) 0 0) ≠ []
    ∧ gangsLeft (launch0 [] 0) = true
    ∧ (let s := modCtx world ⟨0, 0⟩ (fun x => { x with st := .running })
       (coreAt s 0).kind = 0 ∧ (coreAt s 0).saving = false ∧ (coreAt s 0).ctxs.all (fun x => isLive x.2) = true)
    ∧ (let s := modCore world 0 (fun k => { k with saving := true })
       ((savedPieces s 0).find? (restorable s)).any (fun r => (threadCore s r).kind != 1) = true)
    ∧ (let busy := { launch0 [⟨0, [0], false⟩] 1 with st := 2 }
       let s := modPart (withLaunches []) 0 0 (fun p => { p with launches := [busy, { launch0 [] 0 with lid := 2 }] })
       let s := (List.range 8).foldl (fun s k => modCore s k (fun c => { c with kind := 1, gang := if k = 0 then some (1, 0) else none })) s
       quantumVictim s 0 0 = some busy
         ∧ (partAt s 0 0).launches.any (fun l => l.lid != busy.lid && gangsLeft l && l.st != 1
             && decide (recPrio busy.words ≤ effPrio l) && l.gangs.isEmpty && placeFor s 0 0 l == none) = true) := by
  decide +kernel

/-- A sent message and a queue with room; a record for the management core and one for a handler; posted stores; a job in each
state; a card placed and one whose task starts; matrix commands; a collective whose member does not accept it. -/
theorem witness_WorkEvents :
    (let s := modCtx world ⟨0, 0⟩ (fun x => { x with st := .running, sendq := [⟨[(1, 3)], 5, 6⟩], slot := [⟨[0], 0, true⟩] })
     (coreWhere s (ctxAt s ⟨0, 0⟩).part (ctxAt s ⟨0, 0⟩).launch 1).aside = none ∧ phasing (ctxAt s ⟨0, 0⟩) = false
       ∧ areaIn (coreAt s 1) 3 = none ∧ (tabGet [] (coreAt s 1).queues 3).length < 16 ∧ routeFor s 0 0 0 0 = none)
    ∧ (let s := modCtx (modPart world 0 0 (fun p => { p with route := [(0, 0x91800800)] })) ⟨0, 1⟩ (fun x =>
         { x with st := .running, rank := 1 })
       routeFor s 0 0 0 0 = some (⟨⟨0, 1⟩, 0, none⟩, 3) ∧ areaIn (coreAt s 0) 3 = none ∧ (tabGet [] (coreAt s 0).queues 3).length < 16)
    ∧ (let j : JEntry := ⟨0, 0, 1, 0, 0, pHost 64, [(.host 64, 5)], none, none⟩
       let s := modCore world 0 (fun k => { k with journal := [j] })
       postedDue s 0 0 = some (⟨⟨0, 0⟩, 0, none⟩, j) ∧ entryRefusal s j = none ∧ j.stq = none
         ∧ (entryRefusal s { j with bytes := [(.host 8192, 5)] }).isSome = true)
    ∧ [JobState.queued, .active, .completing].all (fun st =>
        let j : Job := ⟨0, { blankJob with kind := 3 }, 0, 0, st, 0, false, false, false, false, none, none⟩
        let s := modCore world 0 (fun k => { k with jobs := [j] })
        jobAt s 0 0 == some j && !phasing (ctxAt s (jobOwner j)) && decide (activeJobs s 0 < 32) && (st != .active || jobRuns s 0 j) && (runJob s 0 j).bad.isNone
          && (earlierJobs s 0 0).isEmpty && followEntered s 0 j && j.desc.cw.isNone && j.desc.follow.isNone && j.desc.handle.isNone) = true
    ∧ (let j : Job := ⟨0, { blankJob with src := pGen 0x8000000, dest := pSpad 0, count := 1, n0 := 64, n1 := 1, n2 := 1 }, 0, 0, .active, 0,
        false, false, false, false, none, none⟩
       let s := modCore world 0 (fun k => { k with jobs := [j] })
       jobRuns s 0 j = true ∧ (runJob s 0 j).bad.isSome = true)
    ∧ (let d : Card := ⟨0, 0 :: 0 :: 8 :: List.replicate 13 0, ⟨0, 0⟩, 0, [], 1, none, []⟩
       let s := modCluster (modDie world 0 (fun d => { d with coreMask := 0xFF })) 0 (fun k => { k with cards := [d] })
       cardPlace s 0 d = some ⟨0, 0⟩ ∧ fetchDue s 0 = none)
    ∧ (let d : Card := ⟨0, List.replicate 16 0, ⟨0, 0⟩, 0, [], 2, some ⟨0, 0⟩, []⟩
       let s := modCluster world 0 (fun k => { k with cards := [d] })
       (clusterAt s 0).cards.find? (fun d => d.st = 2 && d.target == some ⟨0, 0⟩) = some d ∧ fetchesLeft d = [] ∧ (coreAt s 0).jobs = [])
    ∧ (let s := modCore world 0 (fun k => { k with mq := [⟨0, 0, .accClr, ⟨0, 0⟩, none, true, false⟩] })
       let k := coreAt s 0
       k.saving = false ∧ (List.range k.mq.length).find? (fun n =>
         (k.mq[n]?).any (fun q => brickOf q.acc = 7 && mayStart k (k.mq.take n) q && !phasing (ctxAt s q.owner))) = some 0)
    ∧ (let q : QCmd := ⟨0, 0, .accClr, ⟨0, 0⟩, none, true, true⟩
       let s := modCore world 0 (fun k => { k with mq := [q] })
       (coreAt s 0).mq.find? (fun q => q.started && brickOf q.acc = 7) = some q)
    ∧ (let q : Coll := ⟨pSpad 64, List.replicate 8 0, [0], [], 0, false, 0⟩
       let s := modCtx world ⟨0, 0⟩ (fun x => { x with st := .running, colls := [q] })
       (ctxAt s ⟨0, 0⟩).colls[0]? = some q ∧ collOutcome s q = some (0x03, [])) := by decide +kernel
end Sys2Proof.Tests
end

section
/-! SUPPORT. Bytes of tokens and of numbers: a token with one byte replaced, a number made of bytes and back (R2). -/

namespace Sys2Proof.Laws

open Sys2Proof Sys2Proof.Machine

@[simp] theorem ofBytes_cons (b : Byte) (bs : List Byte) : ofBytes (b :: bs) = ofBytes bs * 256 + b.toNat := rfl

theorem ofBytes_div_mod (bs : List Byte) (k : Nat) : ofBytes bs / 256 ^ k % 256 = (bs.getD k 0).toNat := by
  induction bs generalizing k with
  | nil => simp [ofBytes]
  | cons b bs ih =>
    have hb : b.toNat < 256 := b.isLt
    cases k with
    | zero =>
      rw [ofBytes_cons, Nat.pow_zero, Nat.div_one, List.getD_cons_zero]
      omega
    | succ k =>
      have hq : (ofBytes bs * 256 + b.toNat) / 256 = ofBytes bs := by omega
      rw [ofBytes_cons, Nat.pow_succ', ← Nat.div_div_eq_div_mul, hq, ih, List.getD_cons_succ]

theorem toBytes_succ (n v : Nat) : toBytes (n + 1) v = BitVec.ofNat 8 v :: toBytes n (v / 256) := by
  simp [toBytes, List.range_succ_eq_map, Nat.pow_succ', Nat.div_div_eq_div_mul]

theorem ofBytes_toBytes (n v : Nat) : ofBytes (toBytes n v) = v % 256 ^ n := by
  induction n generalizing v with
  | zero => simp [toBytes, ofBytes, Nat.mod_one]
  | succ n ih =>
    rw [toBytes_succ, ofBytes_cons, ih, Nat.pow_succ', Nat.mod_mul, BitVec.toNat_ofNat]
    omega

/-- A slice that lies within a word of a number's low bits is that slice of the number. -/
theorem toNat_extractLsb'_ofNat (x : Nat) {w a b : Nat} (h : a + b ≤ w) :
    ((BitVec.ofNat w x).extractLsb' a b).toNat = x / 2 ^ a % 2 ^ b := by
  obtain ⟨c, rfl⟩ := Nat.exists_eq_add_of_le h
  rw [BitVec.extractLsb'_toNat, BitVec.toNat_ofNat, Nat.shiftRight_eq_div_pow, Nat.add_assoc, Nat.pow_add,
    Nat.mod_mul_right_div_self, Nat.pow_add, Nat.mod_mul_right_mod]

theorem byteOf_ofNat_ofBytes (bs : List Byte) {k : Nat} (hk : k < 64) :
    byteOf (BitVec.ofNat 512 (ofBytes bs)) k = bs.getD k 0 := by
  apply BitVec.eq_of_toNat_eq
  rw [byteOf, toNat_extractLsb'_ofNat _ (by omega), Nat.pow_mul]
  exact ofBytes_div_mod bs k

theorem getLsbD_byteMask (i : Nat) : (0xFF : Wide).getLsbD i = decide (i < 8) := by
  have h : (0xFF : Wide).getLsbD i = (decide (i < 512) && Nat.testBit (2 ^ 8 - 1) i) := BitVec.getLsbD_ofNat ..
  rw [h, Nat.testBit_two_pow_sub_one, ← Bool.decide_and]
  exact decide_eq_decide.mpr (by omega)

theorem getLsbD_setByte (v : Wide) (n : Nat) (b : Byte) {i : Nat} (hi : i < 512) :
    (setByte v n b).getLsbD i = if 8 * n ≤ i ∧ i < 8 * n + 8 then b.getLsbD (i - 8 * n) else v.getLsbD i := by
  have hin : i - 8 * n < 512 := by omega
  simp only [setByte, BitVec.getLsbD_or, BitVec.getLsbD_and, BitVec.getLsbD_not, BitVec.getLsbD_shiftLeft,
    getLsbD_byteMask, BitVec.getLsbD_setWidth, hi, hin, decide_true, Bool.true_and]
  by_cases hlo : i < 8 * n
  · simp [hlo]
  · by_cases hhi : i < 8 * n + 8
    · have hk : i - 8 * n < 8 := by omega
      have hlo' : 8 * n ≤ i := by omega
      simp [hlo, hlo', hhi, hk]
    · have hk : 8 ≤ i - 8 * n := by omega
      simp [hhi, hlo, hk]

@[simp] theorem byteOf_setByte_self (v : Wide) {n : Nat} (b : Byte) (hn : n < 64) : byteOf (setByte v n b) n = b := by
  ext i hi
  rw [byteOf, BitVec.getElem_extractLsb', getLsbD_setByte _ _ _ (by omega), if_pos (by omega), Nat.add_sub_cancel_left,
    BitVec.getLsbD_eq_getElem hi]

theorem byteOf_setByte_other (v : Wide) {m n : Nat} (b : Byte) (hm : m < 64) (h : m ≠ n) :
    byteOf (setByte v n b) m = byteOf v m := by
  ext i hi
  rw [byteOf, byteOf, BitVec.getElem_extractLsb', BitVec.getElem_extractLsb', getLsbD_setByte _ _ _ (by omega),
    if_neg (by omega)]

end Sys2Proof.Laws
end

section
/-! SUPPORT. Writes at the homes (R257, R265, R272): what each operation on a slice changes, and what a byte reads after a
list of writes. An eviction moves a line from its slice to HBM, so no byte changes by it. -/

namespace Sys2Proof.Laws

open Sys2Proof Sys2Proof.Machine

/-- A run of n keys written in a table: a read in the run gives the value written, any other what it gave. -/
theorem tabGet_foldl_tabSet {α : Type} [DecidableEq α] (d : α) (t : Tab α) (b n : Nat) (f : Nat → α) (a : Nat) :
    tabGet d ((List.range n).foldl (fun t k => tabSet d t (b + k) (f k)) t) a
      = if b ≤ a ∧ a < b + n then f (a - b) else tabGet d t a := by
  induction n with
  | zero => rw [if_neg (by omega)]; rfl
  | succ n ih =>
    rw [List.range_succ, List.foldl_append, List.foldl_cons, List.foldl_nil, tabGet_tabSet, ih]
    by_cases ha : a = b + n
    · subst ha
      simp
    · rw [if_neg ha]
      congr 1
      simp only [eq_iff_iff]
      omega

variable {s t u : State}

/-! ## A byte at its home -/

/-- A line that its slice holds reads from there. -/
theorem homeByte_of_held {a : Nat} (h : (l2At s (a / 64)).dirty = true ∨ (l2At s (a / 64)).n ≠ 0) :
    homeByte s a = byteOf (l2At s (a / 64)).data (a % 64) := by
  simp [homeByte, h]

/-- A line that no slice holds reads from HBM. -/
theorem homeByte_of_notHeld {a : Nat} (hd : (l2At s (a / 64)).dirty = false) (hn : (l2At s (a / 64)).n = 0) :
    homeByte s a = tabGet 0 s.hbm a := by
  simp [homeByte, hd, hn]

theorem homeByte_congr {a : Nat} (hh : tabGet 0 t.hbm a = tabGet 0 s.hbm a) (hl : l2At t (a / 64) = l2At s (a / 64)) :
    homeByte t a = homeByte s a := by
  simp only [homeByte, hh, hl]

theorem byteOf_homeLine (s : State) (a : Nat) : byteOf (homeLine s (a / 64)) (a % 64) = homeByte s a := by
  have hk : a % 64 < 64 := Nat.mod_lt _ (by decide)
  unfold homeLine homeByte
  extract_lets l
  split
  · rfl
  · rw [byteOf_ofNat_ofBytes _ hk]
    simp [List.getD, hk, Nat.div_add_mod]

/-- An eviction changes nothing, or it blanks a line that is not pinned and leaves in HBM what the line's bytes read. -/
theorem writeBack_cases (s : State) (line : Nat) :
    writeBack s line = s ∨ ∃ hbm, (l2At s line).n = 0
      ∧ writeBack s line = modL2 { s with hbm := hbm } line (fun _ => blankLine)
      ∧ ∀ a, tabGet 0 hbm a = if a / 64 = line then homeByte s a else tabGet 0 s.hbm a := by
  unfold writeBack
  extract_lets l s'
  by_cases hn : l.n = 0
  · rw [if_neg (not_not.mpr hn)]
    cases hd : l.dirty with
    | true =>
      refine .inr ⟨s'.hbm, hn, rfl, fun a => ?_⟩
      rw [tabGet_foldl_tabSet]
      by_cases ha : a / 64 = line
      · rw [if_pos (by omega), if_pos ha, homeByte_of_held (by rw [ha]; exact .inl hd), ha]
        congr 1
        omega
      · rw [if_neg (by omega), if_neg ha]
    | false =>
      by_cases hh : l2Holds s line = true
      · refine .inr ⟨s.hbm, hn, if_pos hh, fun a => ?_⟩
        split
        · rename_i ha
          rw [homeByte_of_notHeld (by rw [ha]; exact hd) (by rw [ha]; exact hn)]
        · rfl
      · exact .inl (if_neg hh)
  · exact .inl (if_pos hn)

/-! ## What a write at a home leaves alone -/

/-- The two states differ at most in HBM, the lines of the slices and the poison marks. -/
def OnlyHomes (s t : State) : Prop := t = { s with hbm := t.hbm, l2 := t.l2, poison := t.poison }

theorem OnlyHomes.refl (s : State) : OnlyHomes s s := rfl

theorem OnlyHomes.trans (h : OnlyHomes s t) (k : OnlyHomes t u) : OnlyHomes s u := by
  unfold OnlyHomes at h k ⊢
  rw [k, h]

theorem OnlyHomes.coreAt (h : OnlyHomes s t) (k : Nat) : coreAt t k = coreAt s k := by rw [h]; rfl

theorem OnlyHomes.hostMem (h : OnlyHomes s t) : t.hostMem = s.hostMem := by rw [h]

theorem onlyHomes_ite {c : Prop} [Decidable c] (ht : OnlyHomes s t) (hu : OnlyHomes s u) :
    OnlyHomes s (if c then t else u) := by
  split
  · exact ht
  · exact hu

theorem onlyHomes_hbm (s : State) (hbm : Tab Byte) : OnlyHomes s { s with hbm := hbm } := rfl

theorem onlyHomes_modL2 (s : State) (line : Nat) (f : L2Line → L2Line) : OnlyHomes s (modL2 s line f) := rfl

theorem onlyHomes_writeBack (s : State) (line : Nat) : OnlyHomes s (writeBack s line) := by
  rcases writeBack_cases s line with h | ⟨hbm, -, h, -⟩
  · rw [h]
    exact .refl s
  · rw [h]
    exact (onlyHomes_hbm s hbm).trans (onlyHomes_modL2 _ _ _)

theorem makeWay_cases (s : State) (line : Nat) : makeWay s line = s ∨ ∃ q, makeWay s line = writeBack s q := by
  unfold makeWay
  extract_lets
  split
  · exact .inl rfl
  · split
    · exact .inr ⟨_, rfl⟩
    · exact .inl rfl

theorem onlyHomes_makeWay (s : State) (line : Nat) : OnlyHomes s (makeWay s line) := by
  rcases makeWay_cases s line with h | ⟨q, h⟩
  · rw [h]; rfl
  · rw [h]; exact onlyHomes_writeBack s q

theorem onlyHomes_heal (s : State) (lines : List Nat) : OnlyHomes s (heal s lines) := onlyHomes_ite rfl rfl

theorem onlyHomes_homeWriteLine (s : State) (line : Nat) (bs : List (Nat × Byte)) :
    OnlyHomes s (homeWriteLine s line bs) := by
  unfold homeWriteLine
  extract_lets d held s1 s2
  have h1 : OnlyHomes s s1 := (onlyHomes_ite (.refl s) (onlyHomes_makeWay s line)).trans (onlyHomes_modL2 _ _ _)
  have h2 : OnlyHomes s s2 := onlyHomes_ite (h1.trans (onlyHomes_writeBack _ _)) h1
  exact onlyHomes_ite (h2.trans (onlyHomes_heal _ _)) h2

theorem onlyHomes_homeWrite (s : State) (bs : List (Nat × Byte)) : OnlyHomes s (homeWrite s bs) := by
  unfold homeWrite
  generalize linesOf bs = ls
  induction ls generalizing s with
  | nil => exact .refl s
  | cons l ls ih => exact (onlyHomes_homeWriteLine _ _ _).trans (ih _)

/-! ## What a byte reads -/

@[simp] theorem homeByte_writeBack (s : State) (line a : Nat) : homeByte (writeBack s line) a = homeByte s a := by
  rcases writeBack_cases s line with h | ⟨hbm, -, h, hbytes⟩
  · rw [h]
  · rw [h]
    by_cases ha : a / 64 = line
    · have hl : l2At (modL2 { s with hbm := hbm } line (fun _ => blankLine)) (a / 64) = blankLine := by
        rw [ha, l2At_modL2_self]
      rw [homeByte_of_notHeld (by rw [hl]; rfl) (by rw [hl]; rfl), modL2_hbm, hbytes, if_pos ha]
    · refine homeByte_congr ?_ (l2At_modL2_other _ _ ha)
      rw [modL2_hbm, hbytes, if_neg ha]

@[simp] theorem homeByte_makeWay (s : State) (line a : Nat) : homeByte (makeWay s line) a = homeByte s a := by
  rcases makeWay_cases s line with h | ⟨q, h⟩
  · rw [h]
  · rw [h, homeByte_writeBack]

@[simp] theorem homeByte_heal (s : State) (lines : List Nat) (a : Nat) : homeByte (heal s lines) a = homeByte s a := by
  unfold heal
  split <;> rfl

/-- The byte that the last write of an address gives, where some write is to it. -/
def lastWrite (bs : List (Nat × Byte)) (a : Nat) : Option Byte := (bs.reverse.find? (fun e => e.1 = a)).map (·.2)

theorem lastWrite_append_singleton (bs : List (Nat × Byte)) (e : Nat × Byte) (a : Nat) :
    lastWrite (bs ++ [e]) a = if e.1 = a then some e.2 else lastWrite bs a := by
  by_cases h : e.1 = a <;> simp [lastWrite, h]

theorem lastWrite_eq_none {bs : List (Nat × Byte)} {a : Nat} (h : ∀ e ∈ bs, e.1 ≠ a) : lastWrite bs a = none := by
  simpa [lastWrite] using h

theorem lastWrite_of_last (pre : List (Nat × Byte)) (a : Nat) (v : Byte) {post : List (Nat × Byte)}
    (h : ∀ e ∈ post, e.1 ≠ a) : lastWrite (pre ++ (a, v) :: post) a = some v := by
  have hpost : post.reverse.find? (fun e => e.1 = a) = none := by simpa using h
  simp [lastWrite, List.find?_append, hpost]

/-- Only the writes to an address's own line count for it. -/
theorem lastWrite_filter_line (bs : List (Nat × Byte)) (a : Nat) :
    lastWrite (bs.filter (fun e => e.1 / 64 = a / 64)) a = lastWrite bs a := by
  induction bs using List.reverseRecOn with
  | nil => rfl
  | append_singleton bs e ih =>
    rw [List.filter_append, lastWrite_append_singleton]
    by_cases hl : e.1 / 64 = a / 64
    · rw [List.filter_cons_of_pos (by simpa using hl), List.filter_nil, lastWrite_append_singleton, ih]
    · have ha : e.1 ≠ a := fun h => hl (h ▸ rfl)
      rw [List.filter_cons_of_neg (by simpa using hl), List.filter_nil, List.append_nil, ih, if_neg ha]

/-- Replacing bytes of one line's data in turn: each byte holds what was written to it last. -/
theorem byteOf_foldl_setByte (v : Wide) {bs : List (Nat × Byte)} {a : Nat} (h : ∀ e ∈ bs, e.1 / 64 = a / 64) :
    byteOf (bs.foldl (fun v e => setByte v (e.1 % 64) e.2) v) (a % 64)
      = (lastWrite bs a).getD (byteOf v (a % 64)) := by
  have hk : a % 64 < 64 := Nat.mod_lt _ (by decide)
  induction bs using List.reverseRecOn with
  | nil => rfl
  | append_singleton bs e ih =>
    have hbs := ih fun q hq => h q (List.mem_append_left _ hq)
    have he := h e (by simp)
    rw [List.foldl_append, List.foldl_cons, List.foldl_nil, lastWrite_append_singleton]
    by_cases ha : e.1 = a
    · rw [if_pos ha, ha, byteOf_setByte_self _ _ hk, Option.getD_some]
    · rw [if_neg ha, byteOf_setByte_other _ _ hk (by omega), hbs]

theorem homeByte_modL2_data (s : State) (line : Nat) (d : Wide) (a : Nat) :
    homeByte (modL2 s line (fun l => { l with data := d, dirty := true })) a
      = if a / 64 = line then byteOf d (a % 64) else homeByte s a := by
  split
  · rename_i ha
    have hl := l2At_modL2_self s line (fun l => { l with data := d, dirty := true })
    rw [homeByte_of_held (by rw [ha, hl]; exact .inl rfl), ha, hl]
  · rename_i ha
    exact homeByte_congr rfl (l2At_modL2_other _ _ ha)

/-- The evictions before and after a write at one line change no byte: the line's bytes hold its data as replaced. -/
theorem homeByte_homeWriteLine (s : State) (line : Nat) (bs : List (Nat × Byte)) (a : Nat) :
    homeByte (homeWriteLine s line bs) a
      = if a / 64 = line then byteOf (bs.foldl (fun v e => setByte v (e.1 % 64) e.2) (homeLine s line)) (a % 64)
        else homeByte s a := by
  unfold homeWriteLine
  extract_lets d held s1 s2
  have hway : homeByte (if held = true then s else makeWay s line) a = homeByte s a := by
    split
    · rfl
    · exact homeByte_makeWay s line a
  have h1 : homeByte s1 a = if a / 64 = line then byteOf d (a % 64) else homeByte s a := by
    rw [homeByte_modL2_data, hway]
  have h2 : homeByte s2 a = homeByte s1 a := by
    unfold s2
    split
    · exact homeByte_writeBack _ _ _
    · rfl
  rw [← h1, ← h2]
  split
  · exact homeByte_heal _ _ _
  · rfl

/-- A write of a line's own bytes among many: each byte of the line holds what was written to it last. -/
theorem homeByte_homeWriteLine_filter (s : State) (line : Nat) (bs : List (Nat × Byte)) (a : Nat) :
    homeByte (homeWriteLine s line (bs.filter (fun e => e.1 / 64 = line))) a
      = if a / 64 = line then (lastWrite bs a).getD (homeByte s a) else homeByte s a := by
  rw [homeByte_homeWriteLine]
  split
  · rename_i ha
    subst ha
    rw [byteOf_foldl_setByte _ (fun e he => by simpa using (List.mem_filter.mp he).2), lastWrite_filter_line,
      byteOf_homeLine]
  · rfl

theorem homeByte_foldl_homeWriteLine (s : State) (ls : List Nat) (bs : List (Nat × Byte)) (a : Nat) :
    homeByte (ls.foldl (fun s l => homeWriteLine s l (bs.filter (fun e => e.1 / 64 = l))) s) a
      = if a / 64 ∈ ls then (lastWrite bs a).getD (homeByte s a) else homeByte s a := by
  induction ls generalizing s with
  | nil => simp
  | cons l ls ih =>
    rw [List.foldl_cons, ih, homeByte_homeWriteLine_filter]
    by_cases hl : a / 64 = l
    · cases lastWrite bs a <;> simp [hl]
    · simp [hl]

theorem linesOf_append_singleton (bs : List (Nat × Byte)) (e : Nat × Byte) :
    linesOf (bs ++ [e]) = if e.1 / 64 ∈ linesOf bs then linesOf bs else linesOf bs ++ [e.1 / 64] := by
  simp [linesOf]

theorem mem_linesOf {bs : List (Nat × Byte)} {e : Nat × Byte} (h : e ∈ bs) : e.1 / 64 ∈ linesOf bs := by
  induction bs using List.reverseRecOn with
  | nil => exact absurd h List.not_mem_nil
  | append_singleton bs q ih =>
    rw [linesOf_append_singleton]
    rcases List.mem_append.mp h with h | h
    · split
      · exact ih h
      · exact List.mem_append_left _ (ih h)
    · obtain rfl := List.mem_singleton.mp h
      split
      · assumption
      · exact List.mem_append_right _ (List.mem_singleton.mpr rfl)

/-- After a list of writes at the homes a byte reads what was written to it last, and where nothing was as before. -/
theorem homeByte_homeWrite (s : State) (bs : List (Nat × Byte)) (a : Nat) :
    homeByte (homeWrite s bs) a = (lastWrite bs a).getD (homeByte s a) := by
  rw [homeWrite, homeByte_foldl_homeWriteLine]
  split
  · rfl
  · rename_i hl
    rw [lastWrite_eq_none fun e he h => hl (by rw [← h]; exact mem_linesOf he), Option.getD_none]

end Sys2Proof.Laws
end

section
/-! SUPPORT. Address arithmetic on fat pointers (R58). -/

namespace Sys2Proof.Laws

open Sys2Proof Sys2Proof.Machine

theorem wrapTo_lt (w : Nat) (x : Int) : wrapTo w x < 2 ^ w := by
  have h : (0 : Int) < (2 ^ w : Nat) := by positivity
  have h1 := Int.emod_lt_of_pos x h
  have h2 := Int.emod_nonneg x h.ne'
  unfold wrapTo
  omega

theorem wrapTo_natCast (w n : Nat) : wrapTo w n = n % 2 ^ w := by
  rw [wrapTo, ← Int.natCast_mod, Int.toNat_natCast]

theorem toNat_ofInt_eq_wrapTo (w : Nat) (x : Int) : (BitVec.ofInt w x).toNat = wrapTo w x := by
  rw [BitVec.toNat_ofInt]
  rfl

theorem toNat_addrOf (p : Word) (off : Int) :
    (addrOf p off).toNat = p.toNat / 2 ^ 54 * 2 ^ 54 + wrapTo 54 ((ptrAddr p : Int) + off) := by
  have hp := p.isLt
  have hw := wrapTo_lt 54 ((ptrAddr p : Int) + off)
  rw [addrOf, BitVec.toNat_ofNat]
  generalize wrapTo 54 ((ptrAddr p : Int) + off) = w at hw ⊢
  exact Nat.mod_eq_of_lt (by omega)

theorem toNat_addrOf_div (p : Word) (off : Int) : (addrOf p off).toNat / 2 ^ 54 = p.toNat / 2 ^ 54 := by
  rw [toNat_addrOf, Nat.mul_comm, Nat.mul_add_div (by decide), Nat.div_eq_of_lt (wrapTo_lt _ _), Nat.add_zero]

theorem ptrAddr_addrOf (p : Word) (off : Int) : ptrAddr (addrOf p off) = wrapTo 54 ((ptrAddr p : Int) + off) := by
  rw [ptrAddr, toNat_addrOf, Nat.mul_comm, Nat.mul_add_mod, Nat.mod_eq_of_lt (wrapTo_lt _ _)]

theorem addrOf_keeps_high (p : Word) (off : Int) : (addrOf p off).extractLsb' 54 10 = p.extractLsb' 54 10 := by
  apply BitVec.eq_of_toNat_eq
  rw [BitVec.extractLsb'_toNat, BitVec.extractLsb'_toNat, Nat.shiftRight_eq_div_pow, Nat.shiftRight_eq_div_pow,
    toNat_addrOf_div]

theorem extractLsb'_eq_ofInt_ptrAddr (p : Word) : p.extractLsb' 0 54 = BitVec.ofInt 54 (ptrAddr p) := by
  apply BitVec.eq_of_toNat_eq
  rw [BitVec.extractLsb'_toNat, Nat.shiftRight_zero, toNat_ofInt_eq_wrapTo, wrapTo_natCast, ptrAddr, Nat.mod_mod]

theorem addrOf_wraps_address (p : Word) (off : Int) :
    (addrOf p off).extractLsb' 0 54 = p.extractLsb' 0 54 + BitVec.ofInt 54 off := by
  rw [extractLsb'_eq_ofInt_ptrAddr p, ← BitVec.ofInt_add]
  apply BitVec.eq_of_toNat_eq
  rw [toNat_ofInt_eq_wrapTo, BitVec.extractLsb'_toNat, Nat.shiftRight_zero, ← ptrAddr_addrOf]
  rfl

end Sys2Proof.Laws
end

section
/-! CERTIFICATES. The statements of the scope: the reset state, addresses, and writes at the homes. -/

namespace Sys2Proof.Laws

open Sys2Proof Sys2Proof.Machine

theorem memoryWf_reset : memoryWf State.reset = true :=
  memoryWf_iff.mpr ⟨rfl, rfl, fun _ he => absurd he List.not_mem_nil⟩

theorem packageLegal_reset : packageLegal State.reset = true := by decide

/-- Settles O7: at reset the memories list nothing, and the package registers hold first values that R375, R380 and R382
allow. -/
theorem resetLegal : Obligations.ResetLegal := ⟨memoryWf_reset, packageLegal_reset⟩

/-- Settles O35: address generation is arithmetic modulo 2^54 on the address field alone, and a byte at its home reads
the last write to it, however the slices evict lines. -/
theorem addressesAndHomeWrites : Obligations.AddressesAndHomeWrites := by
  refine ⟨fun p off => ⟨addrOf_keeps_high p off, addrOf_wraps_address p off⟩, fun s bs => ⟨?_, ?_, ?_, ?_, ?_⟩⟩
  · rintro pre a v post rfl hpost
    rw [homeByte_homeWrite, lastWrite_of_last pre a v hpost, Option.getD_some]
  · intro a ha
    rw [homeByte_homeWrite, lastWrite_eq_none ha, Option.getD_none]
  · exact (onlyHomes_homeWrite s bs).coreAt
  · exact (onlyHomes_homeWrite s bs).hostMem
  · exact ofBytes_toBytes

end Sys2Proof.Laws
end

section
/-! SUPPORT. Readiness: when an instruction is decided against, and what one does that every slot supplies (R13 to R16, R199). -/

namespace Sys2Proof.Laws

open Sys2Proof Sys2Proof.Machine

theorem decode_zero (i : Instr) : decode 0#64 ≠ .ok i := by
  simp [decode]

theorem fetch_of_decode {s : State} {t : Site} {fr : Frame} {i : Instr} (hf : frameAt s t.c t.frame = some fr)
    (hm : fr.mapped = true) (hd : decode (instrWord fr t.idx) = .ok i) : fetch s t = some (.ok i) := by
  have h0 : ¬ instrWord fr t.idx = 0#64 := fun h => decode_zero i (h ▸ hd)
  simp [fetch, hf, hm, h0, hd]

theorem moves_of_ne {r : Result} {s : State} (h : r ≠ .next s) : moves r s = true := by
  cases r with
  | next t => simpa [moves] using h
  | _ => rfl

/-! ## The p slot (R15) -/

variable {i : Instr} {s : State} {fr : Frame}

theorem predMatches_iff {m : PredMode} {p : Token} (hm : m ≠ .always) (hn : p.null = false) :
    predMatches m p = true ↔ (p.value.getLsbD 0 = true ↔ m = .onTrue) := by
  cases m <;> simp_all [predMatches]

theorem predMatches_false_of {m : PredMode} {p : Token} (hm : m ≠ .always)
    (h : p.null = true ∨ (p.value.getLsbD 0 = true ↔ m = .onFalse)) : predMatches m p = false := by
  rcases h with h | h <;> cases m <;> simp_all [predMatches]

/-- The load-store queue never holds back an instruction without an LSID, nor one for which it has room (R131). -/
theorem readiness_eq_readyAt (hf : frameAt s s.focus.c s.focus.frame = some fr)
    (hq : (lsidOf i).isSome = true → lsqUsed s s.focus.c.core fr < 64
      ∧ (isOldest fr s.focus.frame s.focus.tag = false → lsqUsed s s.focus.c.core fr ≤ 48)) :
    readiness i s = readyAt (ctxAt s s.focus.c) fr s.focus.frame s.focus.idx s.focus.tag i := by
  simp only [readiness, hf]
  cases hl : lsidOf i with
  | none => cases readyAt (ctxAt s s.focus.c) fr s.focus.frame s.focus.idx s.focus.tag i <;> rfl
  | some k =>
    obtain ⟨h64, h48⟩ := hq (by rw [hl]; rfl)
    have hy : (!isOldest fr s.focus.frame s.focus.tag && decide (48 < lsqUsed s s.focus.c.core fr)) = false := by
      cases ho : isOldest fr s.focus.frame s.focus.tag
      · simpa using h48 ho
      · rfl
    have hg : ¬ 64 ≤ lsqUsed s s.focus.c.core fr := by omega
    cases readyAt (ctxAt s s.focus.c) fr s.focus.frame s.focus.idx s.focus.tag i <;> simp [hy, hg]

/-- An instruction whose p token does not match is decided against, whatever its other slots hold. -/
theorem readiness_against {p : Token} (hf : frameAt s s.focus.c s.focus.frame = some fr)
    (hr : (ctxAt s s.focus.c).st = .running) (hm : fr.mapped = true) (hnp : isPinned fr = false)
    (ht : s.focus.tag = .iter 0) (hfi : hasFired fr s.focus.idx s.focus.tag = false)
    (hag : isAgainst fr s.focus.idx s.focus.tag = false) (hfo : fr.follows = false) (hpm : predMode i ≠ .always)
    (hp : slotToken fr s.focus.idx .p s.focus.tag = some p) (hst : p.stop = none)
    (hno : p.null = true ∨ (p.value.getLsbD 0 = true ↔ predMode i = .onFalse)) : readiness i s = .against := by
  have ho : tagOpen fr s.focus.tag = true := by rw [ht]; simp [tagOpen, hnp]
  have hx : readyAt (ctxAt s s.focus.c) fr s.focus.frame s.focus.idx s.focus.tag i = .against := by
    simp [readyAt, hr, hm, ho, hfi, hag, followsAt, hfo, hnp, hpm, hp, hst, predMatches_false_of hpm hno]
  simp only [readiness, hf, hx]

/-! ## An instruction that every slot supplies -/

/-- What is left to decide once every slot of an instruction is supplied: the replay log, the orders of R13 and R28, and
null tokens (R16). -/
def suppliedReady (x : Ctx) (fr : Frame) (n idx : Nat) (tag : Tag) (i : Instr) : Ready :=
  match (if n = 0 then logged x idx tag else none) with
  | some e => .logged e
  | none =>
    if lsidTaken fr i tag then .dup
    else if fr.waiting.contains (idx, tag) && !retries i then .wait
    else if (dataSlots i).any (fun sl => (slotToken fr idx sl tag).any (·.null)) then .null
    else if isExit i && exitFired fr tag then .dup
    else if alwaysIrrevocable i && (phasing x || !irrevocableMay fr n idx i tag) then .wait
    else .go ((slotToken fr idx .a tag).getD nullTok) ((slotToken fr idx .b tag).getD nullTok)
      ((slotToken fr idx .c tag).getD nullTok)

/-- No stop token stands in a used slot: a supplied p slot holds none either (R155). -/
theorem stopLevels_nil (hs : Supplied i s fr) (hd : DataSlotsHold i s fr) : stopLevels fr i s.focus.idx s.focus.tag = [] := by
  obtain ⟨-, -, -, -, -, -, -, -, hp, -⟩ := hs
  refine List.filterMap_eq_nil_iff.mpr fun sl hsl => ?_
  rcases List.mem_append.mp hsl with h | h
  · obtain ⟨t, ht, hst⟩ := hd sl h
    simp [ht, hst]
  · by_cases hm : predMode i = .always
    · simp [hm] at h
    · obtain ⟨p, hpt, -, hst, -⟩ := hp hm
      simp [hm] at h
      simp [h, hpt, hst]

theorem readyAt_of_supplied (hs : Supplied i s fr) (hd : DataSlotsHold i s fr) :
    readyAt (ctxAt s s.focus.c) fr s.focus.frame s.focus.idx s.focus.tag i
      = suppliedReady (ctxAt s s.focus.c) fr s.focus.frame s.focus.idx s.focus.tag i := by
  have hl := stopLevels_nil hs hd
  obtain ⟨-, hr, hm, ho, hfin, hfi, hag, hfo, hp, -⟩ := hs
  have hpin : (isPinned fr && isFinal fr s.focus.idx != (s.focus.tag == .final)) = false := by
    cases hpi : isPinned fr
    · rfl
    · have := hfin hpi
      cases hF : isFinal fr s.focus.idx <;> simp_all
  have hgate : (predMode i != .always && (slotToken fr s.focus.idx .p s.focus.tag).isNone) = false
      ∧ (predMode i != .always && !((slotToken fr s.focus.idx .p s.focus.tag).bind (·.stop)).isSome
          && !((slotToken fr s.focus.idx .p s.focus.tag).any (predMatches (predMode i)))) = false
      ∧ (isExit i && predMode i != .always && ((slotToken fr s.focus.idx .p s.focus.tag).bind (·.stop)).isSome
          && !((slotToken fr s.focus.idx .p s.focus.tag).any (fun t => t.stop == some 3))) = false := by
    by_cases hpm : predMode i = .always
    · simp [hpm]
    · obtain ⟨p, hpt, hnull, hst, hbit⟩ := hp hpm
      simp [hpt, hst, (predMatches_iff hpm hnull).mpr hbit]
  obtain ⟨hg1, hg2, hg3⟩ := hgate
  have hsome : ((dataSlots i).any (fun sl => (slotToken fr s.focus.idx sl s.focus.tag).isNone)) = false := by
    simp only [List.any_eq_false]
    intro sl hsl
    obtain ⟨t, ht, -⟩ := hd sl hsl
    simp [ht]
  have hnull : ((dataSlots i).any (fun sl => (slotToken fr s.focus.idx sl s.focus.tag).any (fun t => t.null || t.stop.isSome)))
      = (dataSlots i).any (fun sl => (slotToken fr s.focus.idx sl s.focus.tag).any (·.null)) := by
    refine Bool.eq_iff_iff.mpr ?_
    simp only [List.any_eq_true]
    refine exists_congr fun sl => and_congr_right fun hsl => ?_
    obtain ⟨t, ht, hst⟩ := hd sl hsl
    simp [ht, hst]
  have hfirst : ((ctxAt s s.focus.c).st != .running || !fr.mapped || !tagOpen fr s.focus.tag
      || hasFired fr s.focus.idx s.focus.tag || isAgainst fr s.focus.idx s.focus.tag || followsAt fr i
      || (isPinned fr && isFinal fr s.focus.idx != (s.focus.tag == .final))) = false := by
    simp [hr, hm, ho, hfi, hag, hfo, hpin]
  simp only [readyAt, hfirst, hg1, hg2, hg3, hsome, hnull, hl, suppliedReady, Bool.false_eq_true, if_false,
    List.isEmpty_nil, Bool.not_true, Bool.and_false] <;> rfl

theorem readiness_of_supplied (hs : Supplied i s fr) (hd : DataSlotsHold i s fr) :
    readiness i s = suppliedReady (ctxAt s s.focus.c) fr s.focus.frame s.focus.idx s.focus.tag i := by
  rw [← readyAt_of_supplied hs hd]
  obtain ⟨hf, -, -, -, -, -, -, -, -, hq⟩ := hs
  exact readiness_eq_readyAt hf hq

theorem noLog_of_notLogged (hn : NotLogged s) :
    (if s.focus.frame = 0 then logged (ctxAt s s.focus.c) s.focus.idx s.focus.tag else none) = none := by
  split
  · exact hn ‹_›
  · rfl

/-- No data slot holds a null token. -/
theorem noNull_of {tag : Tag} {idx : Nat} (h : ∀ sl ∈ dataSlots i, ∀ t, slotToken fr idx sl tag = some t → t.null = false) :
    (dataSlots i).any (fun sl => (slotToken fr idx sl tag).any (·.null)) = false := by
  simp only [List.any_eq_false]
  intro sl hsl
  cases ht : slotToken fr idx sl tag with
  | none => simp
  | some t => simp [h sl hsl t ht]

end Sys2Proof.Laws
end

section
/-! CERTIFICATES. The step and the readiness of an instruction (R11, R13 to R16, R199). -/

namespace Sys2Proof.Laws

open Sys2Proof Sys2Proof.Machine

/-- Settles O10: the site in focus is looked at first, and what stands there moves the machine. -/
theorem stepRunsTheDecodedInstruction : Obligations.StepRunsTheDecodedInstruction := by
  intro s fr i hp ha hf hm hd hx
  have hs : siteMove s s.focus = some (exec i s) := by
    simp only [siteMove, fetch_of_decode hf hm hd, moves_of_ne hx, if_true]
  simp only [step, hp, ha, chosen, hs, Bool.false_eq_true, if_false]

/-- Settles O12: nothing that `suppliedReady` tests holds the instruction back. -/
theorem readyWhenEverySlotHolds : Obligations.ReadyWhenEverySlotHolds := by
  intro i s fr a b c hs hd hl hn hk hw he hi ha hb hc
  have hw' : fr.waiting.contains (s.focus.idx, s.focus.tag) = false := by simpa using hw
  have he' : (isExit i && exitFired fr s.focus.tag) = false := by
    cases h : isExit i
    · rfl
    · simp [he h]
  have hi' : (alwaysIrrevocable i && (phasing (ctxAt s s.focus.c)
      || !irrevocableMay fr s.focus.frame s.focus.idx i s.focus.tag)) = false := by
    cases h : alwaysIrrevocable i
    · rfl
    · obtain ⟨hph, hold, hlow⟩ := hi h
      cases hid : lsidOf i with
      | none => simp [hph, irrevocableMay, hold, hid]
      | some k => simp [hph, irrevocableMay, hold, hid, hlow k hid]
  rw [readiness_of_supplied hs hd]
  simp only [suppliedReady, noLog_of_notLogged hl, hk, hw', noNull_of hn, he', hi', ha, hb, hc, Bool.false_and,
    Bool.false_eq_true, if_false]

end Sys2Proof.Laws
end

section
/-! SUPPORT. The frame of a firing: only the frame of the site changes, and the uniform tokens that followers wait for (R145). -/

namespace Sys2Proof.Laws

open Sys2Proof Sys2Proof.Machine

variable {s t u : State}

/-! ## Changes of uniform tokens alone (R145) -/

/-- The machine is as before but for uniform tokens: no context's frames change. -/
def OnlyTokens (s t : State) : Prop :=
  t = { s with cores := t.cores, dies := t.dies } ∧ SameDies s t
    ∧ (∀ k, coreAt t k = { coreAt s k with ctxs := (coreAt t k).ctxs })
    ∧ ∀ c, ctxAt t c = { ctxAt s c with utoks := (ctxAt t c).utoks }

theorem sameButTokens_trans {k k' k'' : Core} (h : sameButTokens k k') (h' : sameButTokens k' k'') : sameButTokens k k'' := by
  obtain ⟨hk, hx⟩ := h
  obtain ⟨hk', hx'⟩ := h'
  exact ⟨by rw [hk', hk], fun m => by rw [hx' m, hx m]⟩

theorem sameSaves_trans {p q r : Part} (h : sameSaves p q) (h' : sameSaves q r) : sameSaves p r := by
  obtain ⟨hp, hl, he⟩ := h
  obtain ⟨hq, hl', he'⟩ := h'
  refine ⟨by rw [hq, hp], hl'.trans hl, fun n e hn => ?_⟩
  obtain ⟨k, hk, hs⟩ := he n e hn
  obtain ⟨k', hk', hs'⟩ := he' n _ hk
  exact ⟨k', hk', sameButTokens_trans hs hs'⟩

theorem sameDies_trans (h : SameDies s t) (h' : SameDies t u) : SameDies s u := fun d => by
  obtain ⟨hd, hp⟩ := h d
  obtain ⟨hd', hp'⟩ := h' d
  exact ⟨by rw [hd', hd], fun p => sameSaves_trans (hp p) (hp' p)⟩

theorem OnlyTokens.refl (s : State) : OnlyTokens s s := ⟨rfl, SameDies.refl s, fun _ => rfl, fun _ => rfl⟩

theorem OnlyTokens.trans (h : OnlyTokens s t) (h' : OnlyTokens t u) : OnlyTokens s u := by
  obtain ⟨hs, hd, hk, hc⟩ := h
  obtain ⟨hs', hd', hk', hc'⟩ := h'
  refine ⟨by rw [hs', hs], sameDies_trans hd hd', fun k => by rw [hk' k, hk k], fun c => by rw [hc' c, hc c]⟩

/-- A fold of changes of tokens alone. -/
theorem onlyTokens_foldl {β : Type} {f : State → β → State} (hf : ∀ s b, OnlyTokens s (f s b)) (l : List β) (s : State) :
    OnlyTokens s (l.foldl f s) := by
  induction l generalizing s with
  | nil => exact OnlyTokens.refl s
  | cons b l ih => exact (hf s b).trans (ih _)

theorem ctxIn_setCtxs (k : Core) (n m : Nat) (x : Ctx) :
    ctxIn { k with ctxs := tabSet Ctx.blank k.ctxs n x } m = if m = n then x else ctxIn k m :=
  tabGet_tabSet _ _ _ _ _

theorem partAt_modPart (s : State) (d p d' p' : Nat) (f : Part → Part) :
    partAt (modPart s d p f) d' p' = if d' = d ∧ p' = p then f (partAt s d p) else partAt s d' p' := by
  unfold partAt modPart
  by_cases hd : d' = d
  · subst hd
    rw [dieAt_modDie_self]
    simp only [partIn, tabGet_tabSet, true_and]
  · rw [dieAt_modDie_other _ _ hd]
    simp [hd]

/-- What an update of a partition does to the dies: the other fields stay. -/
theorem dieAt_modPart (s : State) (d p q : Nat) (f : Part → Part) :
    dieAt (modPart s d p f) q = { dieAt s q with parts := (dieAt (modPart s d p f) q).parts } := by
  unfold modPart
  by_cases h : q = d
  · subst h
    rw [dieAt_modDie_self]
  · rw [dieAt_modDie_other _ _ h]

/-- A context whose tokens alone change, in its core. -/
theorem sameButTokens_setCtxs (k : Core) (n : Nat) {x : Ctx} (hx : x = { ctxIn k n with utoks := x.utoks }) :
    sameButTokens k { k with ctxs := tabSet Ctx.blank k.ctxs n x } := by
  refine ⟨rfl, fun m => ?_⟩
  rw [ctxIn_setCtxs]
  split
  · subst m
    exact hx
  · rfl

theorem onlyTokens_modThread (s : State) (t : Thread) {f : Ctx → Ctx} (hf : ∀ x, f x = { x with utoks := (f x).utoks }) :
    OnlyTokens s (modThread s t f) := by
  unfold modThread modThreadCore
  cases t.aside with
  | none =>
    refine ⟨rfl, SameDies.refl s, fun k => ?_, fun c => ?_⟩
    · dsimp only
      rw [coreAt_modCore]
      split
      · subst k
        rfl
      · rfl
    · unfold ctxAt
      dsimp only
      rw [coreAt_modCore]
      split
      · rename_i h
        rw [h]
        exact (sameButTokens_setCtxs _ _ (hf _)).2 _
      · rfl
  | some n =>
    refine ⟨rfl, fun d => ⟨dieAt_modPart _ _ _ _ _, fun p => ?_⟩, fun _ => rfl, fun _ => rfl⟩
    dsimp only
    rw [partAt_modPart]
    split
    · rename_i h
      obtain ⟨rfl, rfl⟩ := h
      refine ⟨rfl, by simp [listSet], fun m e hm => ?_⟩
      by_cases hmn : n = m
      · subst hmn
        exact ⟨_, by simp only [listSet, List.getElem?_modify_eq, hm]; rfl, sameButTokens_setCtxs _ t.c.ctx (hf _)⟩
      · exact ⟨e.2, by simp [listSet, hm, hmn], rfl, fun _ => rfl⟩
    · exact sameSaves.refl _

theorem onlyTokens_broadcast (i : Instr) (s : State) (fls : List Flight) : OnlyTokens s (broadcast i s fls) := by
  unfold broadcast
  split
  · exact OnlyTokens.refl s
  · split
    · refine onlyTokens_foldl (fun s k => onlyTokens_modThread _ _ fun x => ?_) _ _
      split <;> rfl
    · exact OnlyTokens.refl s

/-- The frames of a context stand where only tokens change. -/
theorem OnlyTokens.frameAt (h : OnlyTokens s t) (c : CtxId) (n : Nat) : frameAt t c n = frameAt s c n := by
  obtain ⟨-, -, -, hc⟩ := h
  unfold Machine.frameAt
  rw [hc c]

/-! ## The frame of the site -/

theorem onlySiteFrame_modFrame (s : State) (f : Frame → Frame) : OnlySiteFrame s (modFrame s s.focus.c s.focus.frame f) := by
  refine ⟨rfl, SameDies.refl s, fun k => coreAt_modCtx _ _ _ _, fun c => ?_, fun c hc => ?_, fun n hn => ?_⟩
  · by_cases h : c = s.focus.c
    · subst h
      rw [ctxAt_modFrame_self]
      rfl
    · rw [ctxAt_modFrame_other _ _ _ h]
      rfl
  · rw [ctxAt_modFrame_other _ _ _ hc]
  · exact frameAt_modFrame_other _ _ _ hn

theorem onlySiteFrame_thenTokens (h : OnlySiteFrame s t) (h' : OnlyTokens t u) : OnlySiteFrame s u := by
  have hfr := h'.frameAt
  obtain ⟨hs, hd, hk, hc, ho, hn⟩ := h
  obtain ⟨hs', hd', hk', hc'⟩ := h'
  refine ⟨by rw [hs', hs], sameDies_trans hd hd', fun k => by rw [hk' k, hk k], fun c => ?_, fun c h => ?_, fun n h => ?_⟩
  · have := hc c
    unfold sameButFrames at this ⊢
    rw [hc' c, this]
  · rw [hc' c]
    exact ho c h
  · rw [hfr]
    exact hn n h

/-- R12, R145: a firing changes the frame of its site, and sends tokens to followers. -/
theorem onlySiteFrame_fired (i : Instr) (r : Firing) (s : State) : OnlySiteFrame s (fired i r s) :=
  onlySiteFrame_thenTokens (onlySiteFrame_modFrame s _) (onlyTokens_broadcast _ _ _)

@[simp] theorem frameAt_fired (i : Instr) (r : Firing) (s : State) (c : CtxId) (n : Nat) :
    frameAt (fired i r s) c n
      = frameAt (modFrame s s.focus.c s.focus.frame (frameFired i s.focus.idx s.focus.tag r)) c n :=
  (onlyTokens_broadcast _ _ _).frameAt c n

theorem frameAt_fired_site (i : Instr) (r : Firing) (s : State) :
    frameAt (fired i r s) s.focus.c s.focus.frame
      = (frameAt s s.focus.c s.focus.frame).map (frameFired i s.focus.idx s.focus.tag r) := by
  rw [frameAt_fired, frameAt_modFrame_self]

/-! ## What a firing makes of its frame -/

theorem addOut_adds_fault (t : Nat) (fr : Frame) (f : Flight) :
    (∃ ds, addOut t fr f = { fr with faults := fr.faults ++ ds }) ∨ ∃ o, addOut t fr f = { fr with outs := fr.outs ++ [o] } := by
  unfold addOut
  split
  · exact .inl ⟨_, rfl⟩
  · exact .inr ⟨_, rfl⟩

/-- Final tokens that join those of their iteration change the outputs, and the faults by duplicates alone. -/
theorem foldl_addOut (t : Nat) (fls : List Flight) (fr : Frame) :
    ∃ os ds, fls.foldl (addOut t) fr = { fr with outs := os, faults := fr.faults ++ ds } := by
  induction fls generalizing fr with
  | nil => exact ⟨fr.outs, [], by simp⟩
  | cons f fls ih =>
    rw [List.foldl_cons]
    obtain ⟨os, ds, h⟩ := ih (addOut t fr f)
    rw [h]
    rcases addOut_adds_fault t fr f with ⟨ds', h'⟩ | ⟨o, h'⟩
    · exact ⟨os, ds' ++ ds, by rw [h']; simp⟩
    · exact ⟨os, ds, by rw [h']⟩

/-- What a firing leaves of its frame: the tokens that leave, with the rest as it stood. -/
theorem frameFired_eq (i : Instr) (idx : Nat) (tag : Tag) (r : Firing) (fr : Frame) :
    ∃ os ds, frameFired i idx tag r fr = { fr with
      outs := os
      faults := fr.faults ++ ds
      fired := fr.fired ++ [(idx, tag)]
      waiting := fr.waiting.filter (· != (idx, tag))
      flight := fr.flight ++ (routed i idx tag r fr).1.filter (fun f => !isOut tag f)
      flags := if r.flags = 0 then fr.flags else fr.flags ++ [(tag, r.flags)]
      accs := (routed i idx tag r fr).2
      effects := fr.effects ++ r.effs.map (fun e => ⟨idx, lsidOf i, tag, e⟩) }
    ∧ ((routed i idx tag r fr).1.filter (isOut tag) = [] → ds = [] ∧ os = fr.outs) := by
  unfold frameFired
  cases tag with
  | iter t =>
    by_cases hn : (routed i idx (.iter t) r fr).1.filter (isOut (.iter t)) = []
    · exact ⟨fr.outs, [], by simp [hn], fun _ => ⟨rfl, rfl⟩⟩
    · obtain ⟨os, ds, h⟩ := foldl_addOut t ((routed i idx (.iter t) r fr).1.filter (isOut (.iter t))) fr
      exact ⟨os, ds, by simp only [h], fun h' => absurd h' hn⟩
  | final => exact ⟨fr.outs, [], by simp, fun _ => ⟨rfl, rfl⟩⟩
  | persist => exact ⟨fr.outs, [], by simp, fun _ => ⟨rfl, rfl⟩⟩

theorem mem_flightTo {t : Target × TagArith} {tag : Tag} {tok : Token} {f : Flight} (h : f ∈ flightTo t tag tok) :
    f.tag = sentTag t.2 tag := by
  unfold flightTo at h
  split at h
  · simp at h
  · rw [List.mem_singleton.mp h]

theorem mem_flightsOf {i : Instr} {tag : Tag} {r0 r1 : Option Token} {f : Flight} (h : f ∈ flightsOf i tag r0 r1) :
    ∃ t ∈ targetsOf i, f.tag = sentTag t.2 tag := by
  obtain ⟨e, he, hf⟩ := List.mem_flatMap.mp h
  cases h2 : e.2 with
  | none => simp [h2] at hf
  | some tok =>
    simp only [h2] at hf
    exact ⟨e.1, (List.of_mem_zip he).1, mem_flightTo hf⟩

theorem accRoute_fst (i : Instr) (fr : Frame) (idx t : Nat) (a res : Token) (b c : Bool) :
    ∃ x y, (accRoute i fr idx t a res b c).1 = flightsOf i (.iter t) x y := by
  obtain ⟨p, n, init, h⟩ : ∃ (p : Bool) (n : Nat) (init : Token), accRoute i fr idx t a res b c
      = if p then (flightsOf i (.iter t) (some res) (some init), ⟨idx, t + 1, 0, init⟩)
        else (flightsOf i (.iter t) none (some res), ⟨idx, t + 1, n, init⟩) := ⟨_, _, _, rfl⟩
  rw [h]
  cases p
  · exact ⟨_, _, rfl⟩
  · exact ⟨_, _, rfl⟩

/-- The tokens of a firing go to the targets that the instruction names. -/
theorem mem_routed {i : Instr} {idx : Nat} {tag : Tag} {r : Firing} {fr : Frame} {f : Flight} (h : f ∈ (routed i idx tag r fr).1) :
    ∃ t ∈ targetsOf i, f.tag = sentTag t.2 tag := by
  have hacc : ∀ {t : Nat} {a res : Token} {b c : Bool}, f ∈ (accRoute i fr idx t a res b c).1 →
      ∃ q ∈ targetsOf i, f.tag = sentTag q.2 (.iter t) := by
    intro t a res b c h
    obtain ⟨x, y, hxy⟩ := accRoute_fst i fr idx t a res b c
    exact mem_flightsOf (hxy ▸ h)
  unfold routed at h
  dsimp only at h
  split at h
  · exact hacc h
  · exact hacc h
  · exact mem_flightsOf h

/-- Without a target with `out` no final token joins those of an iteration. -/
theorem routed_noOut {i : Instr} {idx : Nat} {tag : Tag} {r : Firing} {fr : Frame} (h : ∀ t ∈ targetsOf i, t.2 ≠ .out) :
    (routed i idx tag r fr).1.filter (isOut tag) = [] := by
  refine List.filter_eq_nil_iff.mpr fun f hf => ?_
  obtain ⟨t, ht, htag⟩ := mem_routed hf
  have hne := h t ht
  cases tag <;> cases ha : t.2 <;> simp_all [isOut, sentTag]

/-- The tokens of a firing of a non-pinned block: no accumulator runs there (R156). -/
theorem routed_notPinned {i : Instr} {idx : Nat} {tag : Tag} {r : Firing} {fr : Frame} (h : isPinned fr = false) :
    (routed i idx tag r fr).1 = flightsOf i tag r.r0 r.r1 := by
  have ha : isAccum fr i idx = false := by simp [isAccum, h]
  simp [routed, ha]

end Sys2Proof.Laws
end

section
/-! CERTIFICATES. The frame of a firing (R11, R12, R40, R145). -/

namespace Sys2Proof.Laws

open Sys2Proof Sys2Proof.Machine

/-- Settles O14: a firing is an update of the frame of its site, and of tokens that followers wait for. -/
theorem firingChangesItsFrameOnly : Obligations.FiringChangesItsFrameOnly := by
  refine ⟨fun i r s => ⟨onlySiteFrame_fired i r s, fun fr hf => ?_⟩, fun i r s fr fr' hf hp ht hs hf' => ?_⟩
  · obtain ⟨os, ds, h, hds⟩ := frameFired_eq i s.focus.idx s.focus.tag r fr
    refine ⟨_, by rw [frameAt_fired_site, hf]; rfl, ?_⟩
    rw [h]
    exact ⟨rfl, rfl, rfl, rfl, rfl, ⟨ds, rfl, fun ho => (hds (routed_noOut ho)).1⟩, rfl, rfl, rfl⟩
  · have hno : ∀ t ∈ targetsOf i, t.2 ≠ .out := fun t h e => by simp [hs t h] at e
    have hnone := routed_noOut (idx := s.focus.idx) (tag := s.focus.tag) (r := r) (fr := fr) hno
    obtain ⟨os, ds, h, hds⟩ := frameFired_eq i s.focus.idx s.focus.tag r fr
    rw [frameAt_fired_site, hf, Option.map_some, h] at hf'
    obtain rfl := Option.some.inj hf'
    refine ⟨?_, (hds hnone).2⟩
    have hall : (routed i s.focus.idx s.focus.tag r fr).1.filter (fun f => !isOut s.focus.tag f)
        = (routed i s.focus.idx s.focus.tag r fr).1 := by
      rw [List.filter_eq_self]
      intro f hmem
      simpa using List.filter_eq_nil_iff.mp hnone f hmem
    dsimp only
    rw [hall, routed_notPinned hp, ht, flightsOf]
    congr 1
    refine List.flatMap_congr fun e he => ?_
    have hsame : e.1.2 = .same := hs e.1 (List.of_mem_zip he).1
    cases e.2 with
    | none => rfl
    | some tok => simp [flightTo, hsame, sentTag, iterOf]

end Sys2Proof.Laws
end

section
/-! SUPPORT. The meaning of a brick is a firing (R14). -/

namespace Sys2Proof.Laws

open Sys2Proof Sys2Proof.Machine

variable {i : Instr} {s : State} {fr : Frame}

/-- An instruction's meaning is a firing with a body of its own. -/
def FiresBy (i : Instr) : Prop := ∃ body : Token → Token → Token → State → State, ∀ s, exec i s = fire i s body

/-- Every brick but ISECT and RETT fires. -/
theorem firesBy_brick (hb : isBrick i = true) (hi : ∀ f, i ≠ .isect f) (hr : ∀ f, i ≠ .rett f) : FiresBy i := by
  cases i with
  | isect f => exact absurd rfl (hi f)
  | rett f => exact absurd rfl (hr f)
  | _ => first | exact absurd hb Bool.false_ne_true | exact ⟨_, fun _ => rfl⟩

/-- RETT fires but where its logged result requests the resumption again (R189). -/
theorem exec_rett_fire {f : GFields} (hl : ∀ e, readiness (.rett f) s ≠ .logged e) :
    ∃ body, exec (.rett f) s = fire (.rett f) s body := by
  unfold exec execRett
  dsimp only
  split
  · next e _ h _ => exact absurd h (hl e)
  · exact ⟨_, rfl⟩

theorem exec_fire (hb : isBrick i = true) (hi : ∀ f, i ≠ .isect f) (hl : ∀ e, readiness i s ≠ .logged e) :
    ∃ body, exec i s = fire i s body := by
  by_cases hr : ∃ f, i = .rett f
  · obtain ⟨f, rfl⟩ := hr
    exact exec_rett_fire hl
  · obtain ⟨body, h⟩ := firesBy_brick hb hi fun f e => hr ⟨f, e⟩
    exact ⟨body, h s⟩

/-- The only holder of an LSID that is decided against settles it (R22). -/
theorem lsidResolved_of_against {k : Nat} {tag : Tag} {idx : Nat} (hh : lsidHolders fr k = [idx]) (ha : isAgainst fr idx tag = true) :
    lsidResolved fr k tag = true := by
  simp [lsidResolved, hh, holderPast, ha]

end Sys2Proof.Laws
end

section
/-! CERTIFICATES. What readiness decides (R13, R15, R16, R22, R199). -/

namespace Sys2Proof.Laws

open Sys2Proof Sys2Proof.Machine

theorem readiness_supplied_null {i : Instr} {s : State} {fr : Frame} (hs : Supplied i s fr) (hd : DataSlotsHold i s fr)
    (hn : NotLogged s) (hk : lsidTaken fr i s.focus.tag = false) (hw : (s.focus.idx, s.focus.tag) ∉ fr.waiting)
    (hz : ∃ sl ∈ dataSlots i, ∃ t, slotToken fr s.focus.idx sl s.focus.tag = some t ∧ t.null = true) :
    readiness i s = .null := by
  have hw' : fr.waiting.contains (s.focus.idx, s.focus.tag) = false := by simpa using hw
  have hz' : (dataSlots i).any (fun sl => (slotToken fr s.focus.idx sl s.focus.tag).any (·.null)) = true := by
    obtain ⟨sl, hsl, t, ht, hnull⟩ := hz
    exact List.any_eq_true.mpr ⟨sl, hsl, by simp [ht, hnull]⟩
  rw [readiness_of_supplied hs hd]
  simp only [suppliedReady, noLog_of_notLogged hn, hk, hw', hz', Bool.false_and, Bool.false_eq_true, if_false, if_true]

theorem readiness_supplied_secondLsid {i : Instr} {s : State} {fr : Frame} (hs : Supplied i s fr) (hd : DataSlotsHold i s fr)
    (hn : NotLogged s) (hk : lsidTaken fr i s.focus.tag = true) : readiness i s = .dup := by
  rw [readiness_of_supplied hs hd]
  simp only [suppliedReady, noLog_of_notLogged hn, hk, if_true]

theorem readiness_supplied_secondExit {i : Instr} {s : State} {fr : Frame} (hs : Supplied i s fr) (hd : DataSlotsHold i s fr)
    (hn : NotLogged s) (hw : (s.focus.idx, s.focus.tag) ∉ fr.waiting)
    (hz : ∀ sl ∈ dataSlots i, ∀ t, slotToken fr s.focus.idx sl s.focus.tag = some t → t.null = false)
    (he : isExit i = true) (hk : lsidTaken fr i s.focus.tag = false) (hx : exitFired fr s.focus.tag = true) :
    readiness i s = .dup := by
  have hw' : fr.waiting.contains (s.focus.idx, s.focus.tag) = false := by simpa using hw
  rw [readiness_of_supplied hs hd]
  simp only [suppliedReady, noLog_of_notLogged hn, hk, hw', noNull_of hz, he, hx, Bool.false_and, Bool.and_self,
    Bool.false_eq_true, if_false, if_true]

theorem readiness_supplied_logged {i : Instr} {s : State} {fr : Frame} {e : LogEntry} (hs : Supplied i s fr)
    (hd : DataSlotsHold i s fr) (h0 : s.focus.frame = 0) (hl : logged (ctxAt s s.focus.c) s.focus.idx s.focus.tag = some e) :
    readiness i s = .logged e := by
  rw [readiness_of_supplied hs hd]
  simp only [suppliedReady, h0, hl, if_true]

/-- Settles O13: a mismatching predicate is decided before the other slots; the rest is `suppliedReady`, in its order. -/
theorem readinessDecides : Obligations.ReadinessDecides := by
  refine ⟨?_, ⟨fun i s fr => readiness_supplied_null, ?_⟩,
    ⟨fun i s fr => readiness_supplied_secondLsid, fun i s fr => readiness_supplied_secondExit, ?_⟩,
    fun i s fr e => readiness_supplied_logged, ?_⟩
  · intro i s fr p hf hr hm hnp ht hfi hag hfo hb hi hpm hp hst hno
    have hready := readiness_against hf hr hm hnp ht hfi hag hfo hpm hp hst hno
    obtain ⟨body, hx⟩ := exec_fire (s := s) hb hi (by simp [hready])
    let fr' := { fr with against := fr.against ++ [(s.focus.idx, s.focus.tag)] }
    have ha : isAgainst fr' s.focus.idx s.focus.tag = true := by simp [isAgainst, fr']
    refine ⟨hx.trans (fire_against hready), fr', ?_, rfl, rfl, ha, fun k _ hh => lsidResolved_of_against hh ha⟩
    rw [decideAgainst, frameAt_modFrame_self, hf]
    rfl
  · intro i s hb hi hready
    obtain ⟨body, hx⟩ := exec_fire (s := s) hb hi (by simp [hready])
    exact hx.trans (fire_null hready)
  · intro i s hb hi hready
    obtain ⟨body, hx⟩ := exec_fire (s := s) hb hi (by simp [hready])
    exact hx.trans (fire_dup hready)
  · intro i s e hb hi hr hready
    obtain ⟨body, hx⟩ := firesBy_brick hb hi hr
    exact (hx s).trans (fire_logged hready)

end Sys2Proof.Laws
end

section
/-! SUPPORT. The arithmetic classes: firings whose bodies fire the instruction, or wait for the seed of their round (R74, R77, R84). -/

namespace Sys2Proof.Laws

open Sys2Proof Sys2Proof.Machine

variable {i : Instr} {s t : State}

/-- The meaning is a firing that delivers, or that waits. -/
def Computes (i : Instr) : Prop :=
  ∃ body : Token → Token → Token → State → State, (∀ s, exec i s = fire i s body)
    ∧ ∀ a b c s, body a b c s = s ∨ ∃ r, body a b c s = fired i r s

theorem computes_of_fired {g : Token → Token → Token → State → Firing}
    (h : ∀ s, exec i s = fire i s (fun a b c s => fired i (g a b c s) s)) : Computes i :=
  ⟨_, h, fun _ _ _ _ => .inr ⟨_, rfl⟩⟩

theorem computes_of_rounding {o : RoundOvr} {f : Rounding → Wide → Wide → Wide → Wide × BitVec 6}
    (h : ∀ s, exec i s = computeR i s o f) : Computes i := by
  refine ⟨_, h, fun a b c s => ?_⟩
  cases hd : drawsWait s i o with
  | true => exact .inl (if_pos rfl)
  | false => exact .inr ⟨_, if_neg Bool.false_ne_true⟩

/-- Each brick of the classes 0x0 to 0x7 but ISECT computes. -/
theorem computes_arithmetic (hb : isBrick i = true) (ho : i.opcode < 0x200) (hi : ∀ f, i ≠ .isect f) : Computes i := by
  cases i with
  | isect f => exact absurd rfl (hi f)
  | fadd f | fsub f | fmul f | fdiv f | fma f | fms f | fnma f | fnms f | fsqrt f | frcp f | frsq f | fexp2 f | flog2 f | fsin f
  | fcos f | ftanh f | fsig f | frnd f | cvtf f | cvtfi f | cvtif f | pack8 f | ql6 f | dql6 f | l6mul f | scalex f | fredadd f =>
    apply computes_of_rounding
    intro s
    unfold exec
    exact rfl
  | _ =>
    first
    | exact absurd hb Bool.false_ne_true
    | exact absurd ho (of_decide_eq_false rfl)
    | (apply computes_of_fired; intro s; unfold exec; exact rfl)

/-- No instruction of these classes has an LSID: the load-store queue never holds one back. -/
theorem lsidOf_arithmetic (ho : i.opcode < 0x200) : lsidOf i = none := by
  cases i with
  | _ => first | rfl | exact absurd ho (of_decide_eq_false rfl)

/-- What a stop token makes of an instruction is a firing. -/
theorem fireStop_eq (i : Instr) (k : Nat) (s : State) : ∃ r, fireStop i k s = fired i r s := by
  unfold fireStop
  dsimp only
  split
  · exact ⟨_, rfl⟩
  · exact ⟨_, rfl⟩

/-- The queue's fullness is no matter of an instruction's own slots (R131). -/
theorem readyAt_ne_full (x : Ctx) (fr : Frame) (n idx : Nat) (tag : Tag) (i : Instr) : readyAt x fr n idx tag i ≠ .full := by
  unfold readyAt
  have hite : ∀ {p : Prop} [Decidable p] {a b : Ready}, a ≠ .full → b ≠ .full → (if p then a else b) ≠ .full := by
    intro p _ a b ha hb
    split <;> assumption
  refine hite nofun (hite nofun (hite nofun (hite nofun (hite nofun ?_))))
  cases (if n = 0 then logged x idx tag else none) with
  | some e => exact nofun
  | none => exact hite nofun (hite nofun (hite nofun (hite nofun (hite nofun (hite nofun nofun)))))

theorem readiness_ne_full (hl : lsidOf i = none) : readiness i s ≠ .full := by
  intro h
  cases hf : frameAt s s.focus.c s.focus.frame with
  | none => simp [readiness, hf] at h
  | some fr =>
    rw [readiness_eq_readyAt hf (by simp [hl])] at h
    exact readyAt_ne_full _ _ _ _ _ _ h

/-- A firing whose body fires or waits changes the frame of the site alone, where the queue does not hold it back. -/
theorem onlySiteFrame_of_computes (hi : Computes i) (hl : lsidOf i = none) (hx : exec i s = .next t) : OnlySiteFrame s t := by
  obtain ⟨body, he, hb⟩ := hi
  rw [he s] at hx
  have hn := readiness_ne_full (s := s) hl
  cases h : readiness i s with
  | wait =>
    rw [fire_wait h] at hx
    cases hx
    exact OnlySiteFrame.refl s
  | against =>
    rw [fire_against h] at hx
    cases hx
    exact onlySiteFrame_modFrame s _
  | dup =>
    rw [fire_dup h] at hx
    cases hx
    exact onlySiteFrame_modFrame s _
  | logged e =>
    rw [fire_logged h] at hx
    cases hx
    exact onlySiteFrame_fired i _ s
  | stop k =>
    rw [fire_stop h] at hx
    cases hx
    obtain ⟨r, hr⟩ := fireStop_eq i k s
    rw [hr]
    exact onlySiteFrame_fired i r s
  | null =>
    rw [fire_null h] at hx
    cases hx
    exact onlySiteFrame_fired i _ s
  | full => exact absurd h hn
  | go a b c =>
    rw [fire_go h] at hx
    cases hx
    rcases hb a b c s with h' | ⟨r, h'⟩
    · rw [h']
      exact OnlySiteFrame.refl s
    · rw [h']
      exact onlySiteFrame_fired i r s

end Sys2Proof.Laws
end

section
/-! CERTIFICATES. The frame of the arithmetic classes (R12, R74, R84). -/

namespace Sys2Proof.Laws

open Sys2Proof Sys2Proof.Machine

/-- Settles O15: each of these instructions computes, and none has an LSID. -/
theorem computeFrame : Obligations.ComputeFrame := by
  intro i s t hb ho hi hx
  have h := onlySiteFrame_of_computes (computes_arithmetic hb ho hi) (lsidOf_arithmetic ho) hx
  exact ⟨h, OnlySiteFrame.sameMemory h⟩

end Sys2Proof.Laws
end

section
/-! SUPPORT. A context whose oldest block nothing can move while an arena of its die searches for it: the squash of its blocks
logs the search (R30, R334). -/

namespace Sys2Proof.Laws

open Sys2Proof Sys2Proof.Machine

/-- The first context of the first core. -/
def searcher : CtxId := ⟨0, 0⟩

/-- A mapped block without a word. -/
def idleFrame : Frame := { blankFrame with mapped := true }

/-- An arena of one block. -/
def searchedArena : Arena := ⟨0, 1, 0, none, 0, [], 1, 0, 0, 0, false, false, 0, 0, [], []⟩

/-- The searcher runs an idle block, and its search has read nothing yet. -/
def searching : State :=
  modDie (modCtx State.reset searcher (fun x =>
    { x with st := .running, frames := [idleFrame], walk := some ⟨0, .iter 0, 0, .read 0 0⟩ })) 0
    (fun d => { d with arenas := [searchedArena] })

/-- The record of a block that nothing can move (R30). -/
def incompleteRec : FaultRec := ⟨clsBlockIncomplete, 0x01, 0, false, .persist, 0, 0⟩

theorem searching_frames : (ctxAt searching searcher).frames = [idleFrame] := by decide +kernel

theorem searching_runs : (ctxAt searching searcher).st = .running ∧ (ctxAt searching searcher).asyncs = []
    ∧ (ctxAt searching searcher).rank < 8 ∧ isMgmt searcher.core = false := by decide +kernel

theorem searching_stuck : idleFrame.mapped = true ∧ dueFaults idleFrame = [] ∧ idleFrame.waiting = []
    ∧ frameActive searching searcher idleFrame 0 = false ∧ blockComplete searching searcher idleFrame = false
    ∧ iterationDone searching searcher idleFrame = false ∧ phasing (ctxAt searching searcher) = false
    ∧ outstanding searching searcher idleFrame = false ∧ (ctxAt searching searcher).course = .solo := by decide +kernel

theorem searching_log : (ctxAt searching searcher).log.length = 0 := by decide +kernel

/-- The replay log of the searcher after an outcome. -/
def searcherLogged : Result → Nat
  | .next t => (ctxAt t searcher).log.length
  | _ => 0

theorem timeout_logs : searcherLogged (exec (.blockIncompleteTimeout searcher) searching) = 1 := by decide +kernel

end Sys2Proof.Laws
end

section
/-! CERTIFICATES. Taking a fault (R29, R30). -/

namespace Sys2Proof.Laws

open Sys2Proof Sys2Proof.Machine

/-- Refutes O50: BLOCK-INCOMPLETE of a context whose search of an arena is under way adds the search's result to the replay
log; the statement excludes a search for a recorded fault alone. -/
theorem not_faultsAreTakenAndReturned : ¬ Obligations.FaultsAreTakenAndReturned := by
  intro h
  obtain ⟨hst, has, hrank, hm⟩ := searching_runs
  obtain ⟨t, r, hx, -, -, -, -, hlog, -⟩ := h.1 searcher searching idleFrame [] incompleteRec searching_frames hst has hrank hm
    (by decide) (by decide) (by decide) (.blockIncompleteTimeout searcher) (by simp) (fun e => by cases e)
    (fun _ => ⟨rfl, searching_stuck⟩)
  have h1 := timeout_logs
  rw [hx] at h1
  have h0 := searching_log
  rw [← hlog] at h0
  exact absurd (h1.symm.trans h0) (by decide)

end Sys2Proof.Laws
end

section
/-! SUPPORT. Stores and effects that wait for the commit (R24, R27). -/

namespace Sys2Proof.Laws

open Sys2Proof Sys2Proof.Machine

variable {s : State}

theorem exec_st (f : LFields) (s : State) : exec (.st f) s = execSt f s := rfl
theorem exec_scat (f : LFields) (s : State) : exec (.scat f) s = execScat f s := rfl
theorem exec_stm (f : LFields) (s : State) : exec (.stm f) s = execStm f s := rfl
theorem exec_stCnt (f : LFields) (s : State) : exec (.stCnt f) s = execStCnt f s := rfl
theorem exec_stq (f : LFields) (s : State) : exec (.stq f) s = execStq f s := rfl
theorem exec_send (f : GFields) (s : State) : exec (.send f) s = execSend f s := rfl
theorem exec_launch (f : GFields) (s : State) : exec (.launch f) s = execLaunch f s := rfl

theorem cacheHost_ats (s : State) (va : Nat) : ∃ q, cacheHost s va = { s with ats := q } := by
  unfold cacheHost
  split
  · exact ⟨s.ats, rfl⟩
  · split
    · exact ⟨_, rfl⟩
    · exact ⟨s.ats, rfl⟩

theorem cacheHosts_single (s : State) (l : Loc) : ∃ q, cacheHosts s [l] = { s with ats := q } := by
  cases l with
  | host va => exact cacheHost_ats s va
  | _ => exact ⟨s.ats, rfl⟩

/-- R282: caching the host translations of places changes the cached translations alone. -/
theorem cacheHosts_ats (s : State) (ls : List Loc) : ∃ q, cacheHosts s ls = { s with ats := q } := by
  induction ls generalizing s with
  | nil => exact ⟨s.ats, rfl⟩
  | cons l ls ih =>
    obtain ⟨q, hq⟩ := cacheHosts_single s l
    obtain ⟨q', hq'⟩ := ih { s with ats := q }
    refine ⟨q', ?_⟩
    have hcons : cacheHosts s (l :: ls) = cacheHosts (cacheHosts s [l]) ls := rfl
    rw [hcons, hq, hq']

/-- A store that is done leaves its bytes to the commit. -/
theorem leavesStore_storeDone {i : Instr} {f : LFields} {bs : List (Loc × Byte)} {p : Word} {kind : Nat}
    (hx : exec i s = .next (storeDone i f s bs p kind)) :
    LeavesStore i f s (.store bs p kind f.cache.toNat) (bs.map (·.1)) := by
  obtain ⟨q, hq⟩ := cacheHosts_ats s (bs.map (·.1))
  refine ⟨cacheHosts s (bs.map (·.1)), ?_, by rw [hq]⟩
  rw [hx, storeDone]

theorem storeLanes_ok {i : Instr} {f : LFields} {lanes : List (Nat × Word)} {data : Wide} {r : List (Nat × List Loc)}
    (hr : checkLanes f.ty servesScatter .write s lanes = .ok r) :
    storeLanes i f s lanes data
      = storeDone i f s (r.flatMap (fun e => e.2.zip (toBytes (accessSize f.ty) (laneN f.ty.width data e.1))))
          ((lanes.head?.map (·.2)).getD 0) 1 := by
  simp only [storeLanes, hr]

/-- A cluster outside the partition is none of its clusters (R357). -/
theorem sendCore_outside {c : CtxId} {self d : Nat} (hs : d.testBit 13 = false) (hc : cfgSize (partOf s c).cfg ≤ field d 8 5) :
    sendCore s c self d = none := by
  have : clusterIn s c (field d 8 5) = false := by simpa [clusterIn] using hc
  simp [sendCore, hs, this]

end Sys2Proof.Laws
end

section
/-! CERTIFICATES. Stores and effects (R24, R27, R161, R166 to R168, R172, R176 to R178, R181, R188, R190, R191, R357). -/

namespace Sys2Proof.Laws

open Sys2Proof Sys2Proof.Machine

/-- Settles O33: each store that passes its checks ends in `storeDone`, or in its effect alone. -/
theorem storeResults : Obligations.StoreResults := by
  intro f s a b c
  refine ⟨fun ls hr hc => ?_, fun e he r hr hc => ?_, fun ls l hr hc hl ha h0 h255 hn => ?_, fun ls hr hc => ?_⟩
  · have hx : exec (.st f) s = .next (storeDone (.st f) f s (ls.zip (storeBytes f.ty b.value))
        (addrOf (word a.value 0) (offsetOf f)) 0) := by
      rw [exec_st, execSt, fire_go hr]
      simp only [hc]
    exact leavesStore_storeDone hx
  · have hx : exec e.1 s = .next (storeLanes e.1 f s e.2.1 e.2.2) := by
      simp only [List.mem_cons, List.not_mem_nil, or_false] at he
      rcases he with rfl | rfl
      · rw [exec_scat, execScat, fire_go hr]
      · rw [exec_stm, execStm, fire_go hr]
    rw [storeLanes_ok hc] at hx
    exact ⟨_, leavesStore_storeDone hx⟩
  · refine ⟨s, ?_, rfl⟩
    obtain ⟨rest, rfl⟩ := List.head?_eq_some_iff.mp hl
    have hfirst : firstLoc (l :: rest) = l := rfl
    have h0' : ¬ (word c.value 0).toNat = 0 := by omega
    have h255' : ¬ 255 ≤ (word c.value 0).toNat := by omega
    rw [exec_stCnt, execStCnt, fire_go hr]
    simp [hc, ha, h0', h255', hfirst, hn]
  · rw [LeavesEffects, exec_stq, execStq, fire_go hr]
    simp only [hc]

/-- Settles O36: each of these instructions fires with its effect alone. -/
theorem effectsWaitForTheCommit : Obligations.EffectsWaitForTheCommit := by
  intro f l x s a b c
  refine ⟨fun e he hr => ?_, fun hr => ⟨fun core hc => ?_, fun hs hc => ?_⟩, fun ls hr hb hp ha hl => ?_⟩
  · simp only [List.mem_cons, List.not_mem_nil, or_false] at he
    rcases he with rfl | rfl | rfl | rfl | rfl | rfl | rfl | rfl | rfl | rfl
    all_goals
      unfold LeavesEffects exec
      exact fire_go hr
  · rw [LeavesEffects, exec_send, execSend, fire_go hr]
    simp only [hc]
  · have ht : (word a.value 0).toNat.testBit 13 = false := by simpa [BitVec.getLsbD] using hs
    rw [exec_send, execSend, fire_go hr]
    simp only [sendCore_outside ht hc]
    rfl
  · have hp' : ¬ (ptrPath (word a.value 0) ≠ pathGEN ∧ ptrPath (word a.value 0) ≠ pathCONST) := by tauto
    rw [LeavesEffects, exec_launch, execLaunch, fire_go hr]
    simp only [hb, ha, hl]
    simp [hp']

end Sys2Proof.Laws
end

section
/-! SUPPORT. Changes that leave every byte and every register: contexts, partitions, clean lines, counts reserved. -/

namespace Sys2Proof.Laws

open Sys2Proof Sys2Proof.Machine

/-- What may change: the frames of a context, and (none) the lines and bytes of the L1s. -/
abbrev Scope := Option CtxId → Prop

/-- No byte and no register changes, the focus and the composition of the cores stay; frames and L1s change in the scope alone. -/
structure Quiet (C : Scope) (s t : State) : Prop where
  memory : SameMemory s t
  regs : SameRegs s t
  focus : t.focus = s.focus
  clusters : t.clusters = s.clusters
  bonds : ∀ k, (coreAt t k).kind = (coreAt s k).kind ∧ (coreAt t k).set = (coreAt s k).set
  frames : ∀ d, ¬ C (some d) → (ctxAt t d).frames = (ctxAt s d).frames
  l1 : ¬ C none → ∀ k, (coreAt t k).clean = (coreAt s k).clean ∧ (coreAt t k).dirty = (coreAt s k).dirty

variable {C : Scope} {s t u : State}

theorem Quiet.refl (s : State) : Quiet C s s :=
  ⟨fun _ => rfl, fun _ => ⟨rfl, rfl⟩, rfl, rfl, fun _ => ⟨rfl, rfl⟩, fun _ _ => rfl, fun _ _ => ⟨rfl, rfl⟩⟩

theorem Quiet.trans (h : Quiet C s t) (h' : Quiet C t u) : Quiet C s u where
  memory := SameMemory.trans h.memory h'.memory
  regs k := ⟨(h'.regs k).1.trans (h.regs k).1, (h'.regs k).2.trans (h.regs k).2⟩
  focus := h'.focus.trans h.focus
  clusters := h'.clusters.trans h.clusters
  bonds k := ⟨(h'.bonds k).1.trans (h.bonds k).1, (h'.bonds k).2.trans (h.bonds k).2⟩
  frames d hd := (h'.frames d hd).trans (h.frames d hd)
  l1 hc k := ⟨(h'.l1 hc k).1.trans (h.l1 hc k).1, (h'.l1 hc k).2.trans (h.l1 hc k).2⟩

theorem Quiet.mono {C' : Scope} (h : Quiet C s t) (hc : ∀ q, C q → C' q) : Quiet C' s t :=
  ⟨h.memory, h.regs, h.focus, h.clusters, h.bonds, fun d hd => h.frames d fun hq => hd (hc _ hq), fun hn => h.l1 fun hq => hn (hc _ hq)⟩

/-- Frames and L1s may change. -/
def anything : Scope := fun _ => True

theorem Quiet.wide (h : Quiet C s t) : Quiet anything s t := h.mono fun _ _ => trivial

/-- The L1s may change, no frame. -/
def anyL1 : Scope := fun q => q = none

/-- The frame at a place of a context outside C stays. -/
theorem Quiet.frameAt (h : Quiet C s t) {d : CtxId} (hd : ¬ C (some d)) (n : Nat) : frameAt t d n = frameAt s d n := by
  unfold Machine.frameAt
  rw [h.frames d hd]

theorem quiet_foldl {β : Type} {f : State → β → State} {l : List β} (hf : ∀ b ∈ l, ∀ s, Quiet C s (f s b)) (s : State) :
    Quiet C s (l.foldl f s) := by
  induction l generalizing s with
  | nil => exact Quiet.refl s
  | cons b l ih =>
    exact (hf b (List.mem_cons_self ..) s).trans (ih (fun b hb => hf b (List.mem_cons_of_mem _ hb)) _)

/-! ## The primitive changes -/

/-- A change of what is neither a core, a cluster, a line, HBM, nor host memory. -/
theorem quiet_outside (hc : t.cores = s.cores) (hk : t.clusters = s.clusters) (hl : t.l2 = s.l2) (hb : t.hbm = s.hbm)
    (hh : t.hostMem = s.hostMem) (hf : t.focus = s.focus) : Quiet C s t := by
  have he : ∀ k, coreAt t k = coreAt s k := fun k => by unfold coreAt; rw [hc]
  exact ⟨sameMemory_of hb hl hh fun k => by rw [he], fun k => by rw [he]; exact ⟨rfl, rfl⟩, hf, hk,
    fun k => by rw [he]; exact ⟨rfl, rfl⟩, fun d _ => by unfold ctxAt; rw [he], fun _ k => by rw [he]; exact ⟨rfl, rfl⟩⟩

theorem quiet_modDie (s : State) (n : Nat) (f : Die → Die) : Quiet C s (modDie s n f) := quiet_outside rfl rfl rfl rfl rfl rfl

theorem quiet_modPart (s : State) (d p : Nat) (f : Part → Part) : Quiet C s (modPart s d p f) := quiet_modDie s d _

theorem quiet_modPartOf (s : State) (c : CtxId) (f : Part → Part) : Quiet C s (modPartOf s c f) := quiet_modPart s _ _ f

/-- A change of a core that keeps its scratchpad, its registers, its contexts and its composition. -/
structure SparesCore (f : Core → Core) : Prop where
  spad : ∀ k, (f k).spad = k.spad
  regs : ∀ k, (f k).regs = k.regs
  shared : ∀ k, (f k).shared = k.shared
  ctxs : ∀ k, (f k).ctxs = k.ctxs
  kind : ∀ k, (f k).kind = k.kind
  set : ∀ k, (f k).set = k.set

theorem quiet_modCore (s : State) (n : Nat) {f : Core → Core} (hf : SparesCore f)
    (hl : C none ∨ ∀ k, (f k).clean = k.clean ∧ (f k).dirty = k.dirty) : Quiet C s (modCore s n f) := by
  have hk : ∀ q, coreAt (modCore s n f) q = coreAt s q ∨ coreAt (modCore s n f) q = f (coreAt s q) := fun q => by
    rw [coreAt_modCore]
    split
    · subst q
      exact .inr rfl
    · exact .inl rfl
  have hsame : ∀ {α : Type} (g : Core → α), (∀ k, g (f k) = g k) → ∀ q, g (coreAt (modCore s n f) q) = g (coreAt s q) := by
    intro α g hg q
    rcases hk q with h | h
    · rw [h]
    · rw [h, hg]
  refine ⟨sameMemory_of rfl rfl rfl (hsame Core.spad hf.spad), fun q => ⟨hsame Core.regs hf.regs q,
    hsame Core.shared hf.shared q⟩, rfl, rfl, fun q => ⟨hsame Core.kind hf.kind q, hsame Core.set hf.set q⟩, fun d _ => ?_, fun hc q => ?_⟩
  · unfold ctxAt ctxIn
    rw [hsame Core.ctxs hf.ctxs]
  · have hl' := hl.resolve_left hc
    exact ⟨hsame Core.clean (fun k => (hl' k).1) q, hsame Core.dirty (fun k => (hl' k).2) q⟩

/-- A change of a context that keeps its frames, or of one in the scope. -/
theorem quiet_modCtx (s : State) (c : CtxId) {f : Ctx → Ctx} (h : C (some c) ∨ ∀ x, (f x).frames = x.frames) :
    Quiet C s (modCtx s c f) := by
  refine ⟨sameMemory_modCtx c f, fun k => by rw [coreAt_modCtx]; exact ⟨rfl, rfl⟩, rfl, rfl,
    fun k => by rw [coreAt_modCtx]; exact ⟨rfl, rfl⟩, fun d hd => ?_, fun _ k => by rw [coreAt_modCtx]; exact ⟨rfl, rfl⟩⟩
  by_cases hdc : d = c
  · subst hdc
    rcases h with h | h
    · exact absurd h hd
    · rw [ctxAt_modCtx_self, h]
  · rw [ctxAt_modCtx_other _ _ hdc]

theorem quiet_modFrame (s : State) {c : CtxId} (n : Nat) (f : Frame → Frame) (h : C (some c)) : Quiet C s (modFrame s c n f) :=
  quiet_modCtx s c (.inl h)

/-- A change of a thread that keeps its frames. -/
theorem quiet_modThread (s : State) (t : Thread) {f : Ctx → Ctx} (h : ∀ x, (f x).frames = x.frames) : Quiet C s (modThread s t f) := by
  unfold modThread modThreadCore
  cases t.aside with
  | none => exact quiet_modCtx s t.c (.inr h)
  | some n => exact quiet_modPart s _ _ _

theorem quiet_modMate (s : State) (c : CtxId) (k : Nat) {f : Ctx → Ctx} (h : ∀ x, (f x).frames = x.frames) :
    Quiet C s (modMate s c k f) := quiet_modThread s _ h

/-- A change of the units reserved of a line, or of its rank of retention. -/
theorem quiet_modL2 (s : State) (n : Nat) {f : L2Line → L2Line} (hd : ∀ l, (f l).data = l.data) (hi : ∀ l, (f l).dirty = l.dirty)
    (hn : ∀ l, (f l).n = l.n) : Quiet C s (modL2 s n f) := by
  refine ⟨fun l => ?_, fun k => ⟨rfl, rfl⟩, rfl, rfl, fun k => ⟨rfl, rfl⟩, fun d _ => rfl, fun _ k => ⟨rfl, rfl⟩⟩
  have hb : ∀ a, homeByte (modL2 s n f) a = homeByte s a := fun a => by
    have hh : (modL2 s n f).hbm = s.hbm := rfl
    by_cases h : a / 64 = n
    · subst h
      simp only [homeByte, l2At_modL2_self, hd, hi, hn, hh]
    · simp only [homeByte, l2At_modL2_other _ _ h, hh]
  cases l with
  | pa a v => simp only [readByte, hb]
  | _ => rfl

/-! ## Firing (R12, R145) -/

theorem quiet_broadcast (i : Instr) (s : State) (fls : List Flight) : Quiet C s (broadcast i s fls) := by
  unfold broadcast
  split
  · exact Quiet.refl s
  · split
    · exact quiet_foldl (fun k _ s => quiet_modMate s _ k fun x => by split <;> rfl) s
    · exact Quiet.refl s

theorem quiet_fired (i : Instr) (r : Firing) (s : State) (h : C (some s.focus.c)) : Quiet C s (fired i r s) :=
  (quiet_modFrame s _ _ h).trans (quiet_broadcast _ _ _)

/-! ## Squashing (R24, R32, R144, R157) -/

theorem quiet_setReserved (s : State) (l : Loc) (f : Nat → Nat) : Quiet C s (setReserved s l f) := by
  unfold setReserved
  cases l with
  | pa a v =>
    apply quiet_modL2
    all_goals intro _; rfl
  | spad k o =>
    exact quiet_modCore s k ⟨fun _ => rfl, fun _ => rfl, fun _ => rfl, fun _ => rfl, fun _ => rfl, fun _ => rfl⟩ (.inr fun _ => ⟨rfl, rfl⟩)
  | _ => exact Quiet.refl s

/-- Returning a context that a SPAWN reserved. -/
theorem quiet_unspawn (s : State) (e : Effect) : Quiet C s (match e with
    | .spawn t _ _ _ => modCtx s t (fun x => { x with reserved := false })
    | _ => s) := by
  split
  · exact quiet_modCtx s _ (.inr fun _ => rfl)
  · exact Quiet.refl s

theorem quiet_ite {p : Prop} [Decidable p] (h : Quiet C s t) (h' : Quiet C s u) : Quiet C s (if p then t else u) := by
  split
  · exact h
  · exact h'

theorem quiet_releaseTags (s : State) (c : CtxId) (fr : Frame) (sel : Tag → Bool) : Quiet C s (releaseTags s c fr sel) := by
  unfold releaseTags
  dsimp only
  have hqueue := quiet_ite (C := C) (p := s.rcQueue.isEmpty = true) (Quiet.refl s)
    (quiet_outside (s := s) (t := { s with rcQueue := s.rcQueue.filter (fun q => !(q.c == c && q.pos = fr.pos && sel q.tag)) })
      rfl rfl rfl rfl rfl rfl)
  have hunits := hqueue.trans (quiet_foldl (l := fr.reserved.filter (fun r => sel r.1))
    (fun r _ s => quiet_setReserved s r.2 (· - 1)) _)
  have hspawns := hunits.trans (quiet_foldl (l := fr.effects.filter (fun p => sel p.tag)) (fun p _ s => quiet_unspawn s p.eff) _)
  refine .trans ?_ (quiet_modPartOf _ c _)
  refine .trans ?_ (quiet_modCtx _ c (.inr fun x => ?_))
  · exact quiet_ite (hspawns.trans (quiet_modPartOf _ c _)) hspawns
  · cases x.watch with
    | none => rfl
    | some w =>
      dsimp only
      split
      · rfl
      · rfl

theorem quiet_giveBack (s : State) (c : CtxId) (pos : Nat) (fls : List Flight) : Quiet C s (giveBack s c pos fls) := by
  unfold giveBack
  split
  · exact Quiet.refl s
  · exact quiet_modCtx s c (.inr fun _ => rfl)

theorem quiet_finishWalk (s : State) (c : CtxId) : Quiet C s (finishWalk s c) := by
  unfold finishWalk
  split
  · exact Quiet.refl s
  · have hw : Quiet C s (modCtx s c (fun x => { x with walk := none })) := quiet_modCtx s c (.inr fun _ => rfl)
    dsimp only
    split
    · exact hw
    · refine hw.trans (.trans ?_ (quiet_modCtx _ c (.inr fun _ => ?_)))
      · exact quiet_modDie _ _ _
      · rfl

theorem quiet_squashFrom (s : State) {c : CtxId} (n : Nat) (h : C (some c)) : Quiet C s (squashFrom s c n) := by
  unfold squashFrom
  dsimp only
  refine .trans (t := _) ?_ (quiet_modCtx _ c (.inl h))
  refine .trans (t := _) ?_ (quiet_foldl (fun fr _ s => quiet_releaseTags s c fr _) _)
  split
  · exact quiet_finishWalk s c
  · exact Quiet.refl s

theorem quiet_dropMember (c : CtxId) (pos : Nat) (old : Option Nat → Bool) (s : State) {k : Nat} (h : C (some ⟨k, 0⟩)) :
    Quiet C s (dropMember c pos old s k) := by
  unfold dropMember
  refine .trans (t := _) ?_ (quiet_modMate _ c k fun _ => rfl)
  split
  · exact quiet_squashFrom s _ h
  · exact Quiet.refl s

/-- A follower's core is another core of the course. -/
theorem mem_followersOf {core k : Nat} (h : k ∈ followersOf s core) : k ≠ core := by
  simp only [followersOf, mates, List.mem_filter] at h
  simpa using h.1.2

theorem quiet_squashCourse (s : State) {c : CtxId} (n : Nat) (h : C (some c)) (hf : ∀ k, k ≠ c.core → C (some ⟨k, 0⟩)) :
    Quiet C s (squashCourse s c n) := by
  unfold squashCourse
  dsimp only
  split
  · exact (quiet_squashFrom s n h).trans (quiet_foldl (fun k hk s => quiet_dropMember c _ _ s (hf k (mem_followersOf hk))) _)
  · exact quiet_squashFrom s n h

theorem quiet_forwardAgain (c : CtxId) (pos : Nat) (addr : Word) (image : List Word) (s : State) (k : Nat) :
    Quiet C s (forwardAgain c pos addr image s k) := by
  unfold forwardAgain
  split
  · exact Quiet.refl _
  · exact quiet_modMate _ c k fun _ => rfl

/-- Every context's frames may change, no L1. -/
def anyFrames : Scope := fun q => q ≠ none

/-- A block that fires again: its context and its followers lose what is younger (R24). -/
theorem quiet_restartAt (s : State) (c : CtxId) (n : Nat) (held : List Nat) : Quiet anyFrames s (restartAt s c n held) := by
  unfold restartAt
  have hfin : Quiet anyFrames s (if n = 0 then finishWalk s c else s) := quiet_ite (quiet_finishWalk s c) (Quiet.refl s)
  generalize (if n = 0 then finishWalk s c else s) = s₁ at hfin
  refine hfin.trans ?_
  dsimp only
  cases frameAt s₁ c n with
  | none => exact Quiet.refl _
  | some fr =>
    have hb := ((quiet_squashCourse (C := anyFrames) s₁ (n + 1) (c := c) nofun fun _ _ => nofun).trans
      (quiet_releaseTags _ c fr (fun _ => true))).trans ((quiet_modFrame (c := c) _ n
        (fun fr => restarted { fr with refire := fr.refire ++ held }) nofun).trans
        (quiet_giveBack _ c fr.pos (givenBack fr)))
    refine hb.trans (quiet_ite (Quiet.refl _) (quiet_foldl (fun k _ s => ?_) _))
    exact (quiet_dropMember c _ _ s nofun).trans (quiet_forwardAgain c _ _ _ _ k)

theorem quiet_keepOrder (s : State) (w : Who) (n : Nat) (tag : Tag) (lsid : Nat) (sync : Bool) (ls : List (Loc × Byte)) :
    Quiet anyFrames s (keepOrder s w n tag lsid sync ls) := by
  unfold keepOrder
  split
  · exact Quiet.refl s
  · exact quiet_restartAt s _ _ _

end Sys2Proof.Laws
end

section
/-! SUPPORT. Exits (R20, R32, R143, R160). -/

namespace Sys2Proof.Laws

open Sys2Proof Sys2Proof.Machine

variable {s : State}

theorem brTarget_eq_addrOf (fr : Frame) (f : BFields) : brTarget fr f = addrOf fr.addr (128 * f.off.toInt) := by
  unfold brTarget addrOf wrapTo ptrAddr
  dsimp only
  congr 1
  push_cast
  omega

/-- The contexts of the other cores. -/
def otherCores (c : CtxId) : Scope := fun q => ∃ d, q = some d ∧ d.core ≠ c.core

theorem otherCores_own {c : CtxId} : ¬ otherCores c (some c) := fun ⟨_, hd, hne⟩ => hne (by rw [← Option.some.inj hd])

/-- The frames of a solo context, or one alone, after a squash of its course: those before the place. -/
theorem frames_squashCourse (s : State) (c : CtxId) {n : Nat} (hn : n ≠ 0) :
    (ctxAt (squashCourse s c n) c).frames = (ctxAt s c).frames.take n := by
  have hfrom : (ctxAt (squashFrom s c n) c).frames = (ctxAt s c).frames.take n := by
    unfold squashFrom
    simp only [hn, if_false, ctxAt_modCtx_self]
    have hq := quiet_foldl (C := fun _ => False) (l := (ctxAt s c).frames.drop n) (fun fr _ s => quiet_releaseTags s c fr (fun _ => true)) s
    exact congrArg (List.take n) (hq.frames c id)
  unfold squashCourse
  dsimp only
  split
  · next fr _ _ =>
    have hq := quiet_foldl (C := otherCores c) (l := followersOf s c.core)
      (fun k hk s => quiet_dropMember c fr.pos (fun _ => false) s ⟨_, rfl, mem_followersOf hk⟩) (squashFrom s c n)
    rw [← hfrom]
    exact hq.frames c otherCores_own
  · exact hfrom

theorem quiet_tellExit (s : State) (c : CtxId) (pos : Nat) (e : ExitRec) {C : Scope} : Quiet C s (tellExit s c pos e) := by
  unfold tellExit
  refine quiet_ite (quiet_foldl (fun k _ s => quiet_modMate s c k fun x => ?_) s) (Quiet.refl s)
  split
  · rfl
  · rfl

theorem tellExit_notLeader {c : CtxId} {pos : Nat} {e : ExitRec} (h : (ctxAt s c).course ≠ .leader) : tellExit s c pos e = s := by
  simp [tellExit, h]

theorem followExit_same {c : CtxId} {n : Nat} {target : Word} (h : ∀ g, frameAt s c (n + 1) = some g → g.addr = target) :
    followExit s c n target = s := by
  unfold followExit
  split
  · rfl
  · split
    · rfl
    · next g hg => rw [if_pos (h g hg)]

theorem followExit_squash {c : CtxId} {n : Nat} {target : Word} {g : Frame} (hc : (ctxAt s c).course ≠ .follower)
    (hg : frameAt s c (n + 1) = some g) (ha : g.addr ≠ target) : followExit s c n target = squashCourse s c (n + 1) := by
  simp [followExit, hc, hg, ha]

/-- The exiting block's own frame stays where younger blocks are squashed. -/
theorem frameAt_followExit (s : State) (c : CtxId) (n : Nat) (target : Word) :
    frameAt (followExit s c n target) c n = frameAt s c n := by
  unfold followExit
  split
  · rfl
  · split
    · rfl
    · split
      · rfl
      · unfold frameAt
        rw [frames_squashCourse s c (Nat.succ_ne_zero n), List.getElem?_take_of_lt (Nat.lt_succ_self n)]

theorem onlySiteFrame_trans {t u : State} (h : OnlySiteFrame s t) (h' : OnlySiteFrame t u) : OnlySiteFrame s u := by
  obtain ⟨hs, hd, hk, hc, ho, hn⟩ := h
  obtain ⟨hs', hd', hk', hc', ho', hn'⟩ := h'
  have hf : t.focus = s.focus := by rw [hs]
  rw [hf] at ho' hn'
  refine ⟨by rw [hs', hs], sameDies_trans hd hd', fun k => by rw [hk' k, hk k], fun c => ?_,
    fun c h => (ho' c h).trans (ho c h), fun n h => (hn' n h).trans (hn n h)⟩
  have h1 := hc c
  have h2 := hc' c
  unfold sameButFrames at h1 h2 ⊢
  rw [h2, h1]

/-- The exit is recorded in the frame of its firing (R20). -/
def exited (i : Instr) (e : ExitRec) (s : State) : State :=
  modFrame (fired i {} s) s.focus.c s.focus.frame (fun fr => { fr with exits := fr.exits ++ [e] })

theorem focus_fired (i : Instr) (r : Firing) (s : State) : (fired i r s).focus = s.focus := by
  obtain ⟨h, -⟩ := onlySiteFrame_fired i r s
  rw [h]

theorem onlySiteFrame_exited (i : Instr) (e : ExitRec) (s : State) : OnlySiteFrame s (exited i e s) := by
  have h := onlySiteFrame_modFrame (fired i {} s) (fun fr => { fr with exits := fr.exits ++ [e] })
  rw [focus_fired] at h
  exact onlySiteFrame_trans (onlySiteFrame_fired i {} s) h

theorem frameAt_exited {i : Instr} {e : ExitRec} {fr : Frame} (hf : frameAt s s.focus.c s.focus.frame = some fr) :
    ∃ fr', frameAt (exited i e s) s.focus.c s.focus.frame = some fr' ∧ fr'.exits = fr.exits ++ [e] := by
  obtain ⟨os, ds, h, -⟩ := frameFired_eq i s.focus.idx s.focus.tag {} fr
  refine ⟨{ frameFired i s.focus.idx s.focus.tag {} fr with exits := (frameFired i s.focus.idx s.focus.tag {} fr).exits ++ [e] }, ?_, ?_⟩
  · rw [exited, frameAt_modFrame_self, frameAt_fired_site, hf]
    rfl
  · dsimp only
    rw [h]

theorem course_exited (i : Instr) (e : ExitRec) (s : State) : (ctxAt (exited i e s) s.focus.c).course = (ctxAt s s.focus.c).course := by
  obtain ⟨-, -, -, hc, -⟩ := onlySiteFrame_exited i e s
  have h := hc s.focus.c
  unfold sameButFrames at h
  rw [h]

theorem takeExit_pinned {i : Instr} {e : ExitRec} {fr : Frame} (hf : frameAt s s.focus.c s.focus.frame = some fr)
    (hp : isPinned fr = true) : takeExit i e s = exited i e s := by
  simp only [takeExit, hf, hp, if_true, exited]

theorem takeExit_plain {i : Instr} {e : ExitRec} {fr : Frame} (hf : frameAt s s.focus.c s.focus.frame = some fr)
    (hp : isPinned fr = false) : takeExit i e s
      = tellExit (followExit (exited i e s) s.focus.c s.focus.frame e.target) s.focus.c fr.pos e := by
  simp only [takeExit, hf, hp, Bool.false_eq_true, if_false, exited, modFrame_focus, focus_fired]

/-- What an exit leaves: its record in the own frame; of a solo context the younger blocks at its target alone. -/
theorem takeExit_spec {i : Instr} {e : ExitRec} {fr : Frame} (hf : frameAt s s.focus.c s.focus.frame = some fr) :
    ∃ fr', frameAt (takeExit i e s) s.focus.c s.focus.frame = some fr' ∧ fr'.exits = fr.exits ++ [e]
      ∧ ((ctxAt s s.focus.c).course = .solo →
          (isPinned fr = true ∨ ∀ g, frameAt s s.focus.c (s.focus.frame + 1) = some g → g.addr = e.target) →
          OnlySiteFrame s (takeExit i e s))
      ∧ ((ctxAt s s.focus.c).course = .solo → isPinned fr = false →
          (∃ g, frameAt s s.focus.c (s.focus.frame + 1) = some g ∧ g.addr ≠ e.target) →
          (ctxAt (takeExit i e s) s.focus.c).frames.length = s.focus.frame + 1) := by
  obtain ⟨fr', hfr', hex⟩ := frameAt_exited (i := i) (e := e) hf
  have hcourse := course_exited i e s
  have honly := onlySiteFrame_exited i e s
  have hnext : frameAt (exited i e s) s.focus.c (s.focus.frame + 1) = frameAt s s.focus.c (s.focus.frame + 1) := by
    obtain ⟨-, -, -, -, -, hn⟩ := honly
    exact hn _ (Nat.succ_ne_self _)
  cases hp : isPinned fr with
  | true =>
    rw [takeExit_pinned hf hp]
    exact ⟨fr', hfr', hex, fun _ _ => honly, fun _ h => nomatch h⟩
  | false =>
    rw [takeExit_plain hf hp]
    have htell := quiet_tellExit (C := fun _ => False) (followExit (exited i e s) s.focus.c s.focus.frame e.target) s.focus.c fr.pos e
    refine ⟨fr', ?_, hex, fun hsolo h => ?_, fun hsolo _ ⟨g, hg, hne⟩ => ?_⟩
    · rw [htell.frameAt id, frameAt_followExit, hfr']
    · have hsame : ∀ g, frameAt (exited i e s) s.focus.c (s.focus.frame + 1) = some g → g.addr = e.target := by
        rw [hnext]
        exact h.resolve_left Bool.false_ne_true
      rw [followExit_same hsame, tellExit_notLeader (by rw [hcourse, hsolo]; decide)]
      exact honly
    · rw [← hnext] at hg
      rw [htell.frames _ id, followExit_squash (by rw [hcourse, hsolo]; decide) hg hne, frames_squashCourse _ _ (Nat.succ_ne_zero _)]
      have hlt : s.focus.frame + 1 < (ctxAt (exited i e s) s.focus.c).frames.length := (List.getElem?_eq_some_iff.mp hg).1
      rw [List.length_take]
      omega

theorem exec_br (f : BFields) (s : State) : exec (.br f) s = execBr f s := rfl
theorem exec_brLeave (f : BFields) (s : State) : exec (.brLeave f) s = execBrLeave f s := rfl
theorem exec_brMchk (f : BFields) (s : State) : exec (.brMchk f) s = execBrMchk f s := rfl
theorem exec_bri (f : BFields) (s : State) : exec (.bri f) s = execBri f s := rfl

theorem takeBr_eq {i : Instr} {f : BFields} {fr : Frame} (hf : frameAt s s.focus.c s.focus.frame = some fr) :
    takeBr i f s = takeExit i ⟨brTarget fr f, s.focus.tag, f.leave, f.mchk⟩ s := by
  simp only [takeBr, hf]

end Sys2Proof.Laws
end

section
/-! CERTIFICATES. Exits (R20, R32, R160). -/

namespace Sys2Proof.Laws

open Sys2Proof Sys2Proof.Machine

/-- Settles O30: each form of exit that is ready is `takeExit` with its target. -/
theorem exitResults : Obligations.ExitResults := by
  intro f s fr a b c hf
  refine ⟨fun e he hr => ?_, ?_, ?_⟩
  · have hx : exec e.1 s = .next (takeExit e.1 ⟨e.2, s.focus.tag, f.leave, f.mchk⟩ s) := by
      simp only [List.mem_cons, List.not_mem_nil, or_false] at he
      rcases he with rfl | rfl | rfl | rfl
      · rw [exec_br, execBr, fire_go hr, takeBr_eq hf]
      · rw [exec_brLeave, execBrLeave, fire_go hr, takeBr_eq hf]
      · rw [exec_brMchk, execBrMchk, fire_go hr, takeBr_eq hf]
      · rw [exec_bri, execBri, fire_go hr]
    obtain ⟨fr', hfr', hex, hsame, hsquash⟩ := takeExit_spec (i := e.1) (e := ⟨e.2, s.focus.tag, f.leave, f.mchk⟩) hf
    exact ⟨_, fr', hx, hfr', hex, hsame, hsquash⟩
  · rw [brTarget_eq_addrOf]
    exact addrOf_keeps_high _ _
  · rw [brTarget_eq_addrOf]
    exact addrOf_wraps_address _ _

end Sys2Proof.Laws
end

section
/-! SUPPORT. What a load leaves of the caches, the cached translations and the leases: no byte, no register and no frame
changes (R46, R140, R259, R263, R265, R282, R293). -/

namespace Sys2Proof.Laws

open Sys2Proof Sys2Proof.Machine

variable {C : Scope} {s : State}

/-- A change of the clean lines of a core. -/
theorem quiet_clean (s : State) (k : Nat) (f : Core → Tab Wide) : Quiet anyL1 s (modCore s k (fun q => { q with clean := f q })) :=
  quiet_modCore s k ⟨fun _ => rfl, fun _ => rfl, fun _ => rfl, fun _ => rfl, fun _ => rfl, fun _ => rfl⟩ (.inl rfl)

theorem quiet_cacheHosts (s : State) (ls : List Loc) : Quiet C s (cacheHosts s ls) := by
  obtain ⟨q, h⟩ := cacheHosts_ats s ls
  rw [h]
  exact quiet_outside rfl rfl rfl rfl rfl rfl

theorem quiet_dropOwnClean (s : State) (c : CtxId) (key : Nat) : Quiet anyL1 s (dropOwnClean s c key) :=
  quiet_foldl (fun k _ s => quiet_ite (quiet_clean s k (fun q => tabDel (key / 64) q.clean)) (Quiet.refl s)) s

theorem quiet_dropMissed (s : State) (w : Who) (ls : List Loc) : Quiet anyL1 s (dropMissed s w ls) := by
  refine quiet_foldl (fun l _ s => ?_) s
  split
  · exact quiet_ite (Quiet.refl s) (quiet_dropOwnClean s _ _)
  · exact Quiet.refl s

theorem l1Room_clean (k : Core) (lines : List Nat) : ∃ q, l1Room k lines = { k with clean := q } := by
  unfold l1Room
  dsimp only
  split
  · exact ⟨k.clean, rfl⟩
  · exact ⟨_, rfl⟩

/-- R140: a line that enters an L1 changes its clean lines alone. -/
theorem cacheClean_clean (line : Nat) (v : Wide) (k : Core) : ∃ q, cacheClean line v k = { k with clean := q } := by
  unfold cacheClean
  split
  · exact ⟨k.clean, rfl⟩
  · obtain ⟨q, h⟩ := l1Room_clean k [line]
    rw [h]
    exact ⟨_, rfl⟩

theorem quiet_cacheClean (s : State) (n line : Nat) (v : Wide) : Quiet anyL1 s (modCore s n (cacheClean line v)) := by
  have h := cacheClean_clean line v
  refine quiet_modCore s n ⟨?_, ?_, ?_, ?_, ?_, ?_⟩ (.inl rfl)
  all_goals
    intro k
    obtain ⟨q, hq⟩ := h k
    rw [hq]

theorem quiet_fillLines (s : State) (w : Who) (ls : List Loc) : Quiet anyL1 s (fillLines s w ls) := by
  refine quiet_foldl (fun l _ s => ?_) s
  cases l with
  | pa a va => exact quiet_ite (Quiet.refl s) (quiet_cacheClean s _ _ _)
  | host va => exact quiet_ite (Quiet.refl s) (quiet_cacheClean s _ _ _)
  | _ => exact Quiet.refl s

theorem quiet_keep (s : State) (line r : Nat) : Quiet C s (modL2 s line (fun l => { l with keep := r })) :=
  quiet_modL2 s line (fun _ => rfl) (fun _ => rfl) (fun _ => rfl)

theorem quiet_retain (r : Nat) (s : State) (line : Nat) : Quiet C s (retain r s line) :=
  quiet_ite (quiet_ite (quiet_keep s line 3) (Quiet.refl s)) (quiet_ite (Quiet.refl s) (quiet_keep s line r))

theorem quiet_dropOlder (s : State) (w : Who) (ls : List Loc) : Quiet anyL1 s (dropOlder s w ls) := by
  refine quiet_foldl (fun l _ s => ?_) s
  cases l with
  | pa a va => exact quiet_dropOwnClean s _ _
  | host va => exact quiet_dropOwnClean s _ _
  | _ => exact Quiet.refl s

theorem quiet_leaveLines (f : LFields) (s : State) (w : Who) (ls : List Loc) : Quiet anyL1 s (leaveLines f s w ls) := by
  have hfill : Quiet anyL1 s (if allocates f then fillLines (dropMissed s w ls) w ls else dropMissed s w ls) :=
    quiet_ite ((quiet_dropMissed s w ls).trans (quiet_fillLines _ w ls)) (quiet_dropMissed s w ls)
  exact quiet_ite (quiet_dropOlder s w ls)
    (quiet_ite (hfill.trans (quiet_foldl (fun line _ s => quiet_retain 3 s line) _)) hfill)

/-! ## Leases (R293) -/

theorem quiet_dropSpan (s : State) (die part core lo hi : Nat) : Quiet anyL1 s (dropSpan s die part core lo hi) := by
  refine quiet_foldl (fun k _ s => ?_) s
  split
  · next pa _ => exact quiet_foldl (fun m _ s => quiet_clean s _ (fun q => tabDel (pa / 64) q.clean)) s
  · exact Quiet.refl s

theorem quiet_rebasePart (slice home excess die part : Nat) (s : State) : Quiet anyL1 s (rebasePart slice home excess die part s) :=
  (quiet_modPart s _ _ _).trans (quiet_foldl (fun h _ s =>
    quiet_foldl (fun _ _ s => quiet_ite (quiet_dropSpan s die part _ h.lo h.hi) (Quiet.refl s)) s) _)

theorem quiet_rebaseLeases (s : State) (die slice excess : Nat) : Quiet anyL1 s (rebaseLeases s die slice excess) :=
  quiet_foldl (fun _ _ s => quiet_foldl (fun _ _ s => quiet_rebasePart _ _ _ _ _ s) s) s

theorem quiet_newLease (s : State) (die slice len : Nat) : Quiet anyL1 s (newLease s die slice len).1 := by
  unfold newLease
  dsimp only
  generalize tabGet 0 (dieAt s die).leaseNow slice + len - (tabGet 0 (dieAt s die).leaseBase slice + 65535) = excess
  exact quiet_ite (Quiet.refl s) ((quiet_modDie s die _).trans (quiet_rebaseLeases _ die slice _))

theorem quiet_renewLeases (s : State) (w : Who) (ls : List Loc) : Quiet anyL1 s (renewLeases s w ls) := by
  unfold renewLeases
  dsimp only
  refine quiet_ite (Quiet.refl s) (quiet_foldl (fun h _ s => ?_) s)
  exact (quiet_newLease s h.die h.slice _).trans (quiet_modPart _ _ _ _)

end Sys2Proof.Laws
end

section
/-! SUPPORT. The loads: the places of an access, poison, and what a load that is done leaves (R23, R161, R163, R167). -/

namespace Sys2Proof.Laws

open Sys2Proof Sys2Proof.Machine

variable {s : State}

theorem length_locateFrom {w : Who} {want : Want} {p : Word} {n k : Nat} {ls : List Loc}
    (h : locateFrom s w want p n k = .ok ls) : ls.length = n := by
  induction n generalizing k ls with
  | zero =>
    cases h
    rfl
  | succ n ih =>
    unfold locateFrom at h
    split at h
    · cases h
    · split at h
      · cases h
      · next l _ ls' hl =>
        cases h
        rw [List.length_cons, ih hl]

/-- An access that is checked names each of its bytes. -/
theorem length_checkAccess {ty : ElemType} {serves : Nat → Option Nat} {want : Want} {n : Nat} {p : Word} {ls : List Loc}
    (h : checkAccess ty serves want n s p = .ok ls) : ls.length = n := by
  unfold checkAccess at h
  split at h
  · cases h
  · split at h
    · cases h
    · split at h
      · cases h
      · exact length_locateFrom h

theorem length_checkLanes {ty : ElemType} {serves : Nat → Option Nat} {want : Want} {lanes : List (Nat × Word)}
    {r : List (Nat × List Loc)} (h : checkLanes ty serves want s lanes = .ok r) : ∀ e ∈ r, e.2.length = accessSize ty := by
  induction lanes generalizing r with
  | nil =>
    cases h
    exact fun e he => nomatch he
  | cons l lanes ih =>
    unfold checkLanes at h
    split at h
    · cases h
    · next ls hl =>
      split at h
      · cases h
      · next r' hr =>
        cases h
        intro e he
        rcases List.mem_cons.mp he with rfl | he
        · exact length_checkAccess hl
        · exact ih hr e he

theorem map_fst_zip_bytePtrs {ls : List Loc} {p : Word} {n : Nat} (h : ls.length = n) : (ls.zip (bytePtrs p n)).map (·.1) = ls := by
  rw [List.map_fst_zip]
  simp [bytePtrs, h]

theorem map_fst_lanePtrs {r : List (Nat × List Loc)} {n : Nat} (f : Nat × List Loc → Word) (h : ∀ e ∈ r, e.2.length = n) :
    (r.flatMap (fun e => e.2.zip (bytePtrs (f e) n))).map (·.1) = r.flatMap (·.2) := by
  rw [List.map_flatMap]
  exact List.flatMap_congr fun e he => map_fst_zip_bytePtrs (h e he)

/-! ## Poison (R369) -/

/-- The poisoned line that an access names is the line of a byte that meets poison. -/
theorem poisonedLine_eq_none_iff {w : Who} {reaches : Bool} {at_ : List (Loc × Word)} :
    poisonedLine s w reaches at_ = none ↔ poisonAt s w reaches (at_.map (·.1)) = none := by
  obtain ⟨meets, hm⟩ : ∃ meets : Loc → Bool, ∀ ls, poisonAt s w reaches ls = if s.poison.isEmpty then none else ls.find? meets :=
    ⟨_, fun _ => rfl⟩
  unfold poisonedLine firstPoisoned
  simp only [hm]
  cases s.poison.isEmpty with
  | true => simp
  | false => simp [List.find?_singleton, Option.isSome_ite]

/-! ## A load that is done -/

/-- The machine behind a load but for its firing: its places and bytes are recorded, the caches and leases are as it left them. -/
def loadLeft (f : LFields) (s : State) (ls : List Loc) (bytes : List Byte) : State :=
  modFrame (renewLeases (leaveLines f (cacheHosts s ls) (whoAt s) ls) (whoAt s) ls) s.focus.c s.focus.frame (fun fr =>
    { fr with loads := fr.loads ++ [⟨s.focus.idx, f.lsid.toNat, s.focus.tag, ls, bytes⟩] })

theorem quiet_beforeRecord (f : LFields) (s : State) (ls : List Loc) :
    Quiet anyL1 s (renewLeases (leaveLines f (cacheHosts s ls) (whoAt s) ls) (whoAt s) ls) :=
  ((quiet_cacheHosts s ls).trans (quiet_leaveLines f _ _ ls)).trans (quiet_renewLeases _ _ ls)

theorem quiet_loadLeft (f : LFields) (s : State) (ls : List Loc) (bytes : List Byte) :
    Quiet anything s (loadLeft f s ls bytes) :=
  (quiet_beforeRecord f s ls).wide.trans (quiet_modFrame _ _ _ trivial)

theorem frameAt_loadLeft {f : LFields} {ls : List Loc} {bytes : List Byte} {fr : Frame}
    (hf : frameAt s s.focus.c s.focus.frame = some fr) : frameAt (loadLeft f s ls bytes) s.focus.c s.focus.frame
      = some { fr with loads := fr.loads ++ [⟨s.focus.idx, f.lsid.toNat, s.focus.tag, ls, bytes⟩] } := by
  rw [loadLeft, frameAt_modFrame_self, (quiet_beforeRecord f s ls).frameAt nofun, hf]
  rfl

theorem loadDone_clean {i : Instr} {f : LFields} {at_ : List (Loc × Word)} {tok : List Byte → Token}
    (hp : poisonAt s (whoAt s) (f.cache = 3) (at_.map (·.1)) = none) :
    loadDone i f s at_ tok = keepOrder (fired i { r0 := some (tok (siteBytes s f (f.cache = 3) (at_.map (·.1)))) }
        (loadLeft f s (at_.map (·.1)) (siteBytes s f (f.cache = 3) (at_.map (·.1))))) (whoAt s) s.focus.frame s.focus.tag
      f.lsid.toNat (bypasses f (at_.map (·.1))) ((at_.map (·.1)).zip (siteBytes s f (f.cache = 3) (at_.map (·.1)))) := by
  have hq := (quiet_beforeRecord f s (at_.map (·.1))).focus
  have hl := ((quiet_cacheHosts s (at_.map (·.1))).trans (quiet_leaveLines f _ (whoAt s) (at_.map (·.1)))).focus
  unfold loadDone
  simp only [poisonedLine_eq_none_iff.mpr hp, hl, hq, modFrame_focus]
  rfl

theorem loadDone_poisoned {i : Instr} {f : LFields} {at_ : List (Loc × Word)} {tok : List Byte → Token}
    (hp : poisonAt s (whoAt s) (f.cache = 3) (at_.map (·.1)) ≠ none) :
    ∃ line, loadDone i f s at_ tok = faulted clsTokenParity 0x04 line 0 s := by
  unfold loadDone
  cases h : poisonedLine s (whoAt s) (f.cache = 3) at_ with
  | none => exact absurd (poisonedLine_eq_none_iff.mp h) hp
  | some line => exact ⟨line, by simp only [h]⟩

/-- A load that ends in `loadDone` without poison delivers. -/
theorem deliversLoad_of_done {i : Instr} {f : LFields} {at_ : List (Loc × Word)} {tok : List Byte → Token}
    (hx : exec i s = .next (loadDone i f s at_ tok)) (hp : poisonAt s (whoAt s) (f.cache = 3) (at_.map (·.1)) = none) :
    DeliversLoad i f s (at_.map (·.1)) tok [] := by
  rw [loadDone_clean hp] at hx
  have hc : (decide (f.cache = 3) || !([] : List Effect).isEmpty) = decide (f.cache = 3) := by simp
  have hs : (bypasses f (at_.map (·.1)) || !([] : List Effect).isEmpty) = bypasses f (at_.map (·.1)) := by simp
  have hleft := quiet_loadLeft f s (at_.map (·.1)) (siteBytes s f (f.cache = 3) (at_.map (·.1)))
  have hall := hleft.trans ((quiet_fired i { r0 := some (tok (siteBytes s f (f.cache = 3) (at_.map (·.1)))) } _ trivial).trans
    (quiet_keepOrder _ (whoAt s) s.focus.frame s.focus.tag f.lsid.toNat (bypasses f (at_.map (·.1)))
      ((at_.map (·.1)).zip (siteBytes s f (f.cache = 3) (at_.map (·.1))))).wide)
  refine ⟨loadLeft f s (at_.map (·.1)) (siteBytes s f (f.cache = 3) (at_.map (·.1))), ?_⟩
  unfold TakesLoad
  rw [hc, hs]
  refine ⟨hx, hall.memory, hall.regs, hleft.focus, fun fr hf => ⟨_, frameAt_loadLeft hf, rfl, rfl, rfl, rfl⟩⟩

/-! ## The instructions -/

theorem exec_ld (f : LFields) (s : State) : exec (.ld f) s = execLd f s := rfl
theorem exec_gath (f : LFields) (s : State) : exec (.gath f) s = execGath f s := rfl

variable {f : LFields} {fr : Frame} {p : Word} {ls : List Loc}

theorem whoAt_c (s : State) : (whoAt s).c = s.focus.c := rfl

/-- A load of GEN, CONST, SPAD or HOST that passes its checks and does not wait is done at once. -/
theorem loadAt_near {i : Instr} (hf : frameAt s s.focus.c s.focus.frame = some fr)
    (hc : checkAccess f.ty servesAll .read (accessSize f.ty) s p = .ok ls) (hn : ¬ (ptrPath p = pathDEV ∨ ptrPath p = pathFAB))
    (hh : holdLoad s fr f.lsid.toNat = false) (hs : bypasses f ls = true → syncHeld s fr i = false) :
    loadAt i f s p = loadDone i f s (ls.zip (bytePtrs p ls.length)) (loadToken f.ty) := by
  have hn' : (decide (ptrPath p = pathDEV) || decide (ptrPath p = pathFAB)) = false := by simpa using hn
  have hb : (bypasses f ls && syncHeld s fr i) = false := by
    cases h : bypasses f ls
    · rfl
    · exact hs h
  simp only [loadAt, hf, hc, hn', hh, hb, Bool.or_false, Bool.false_eq_true, if_false]

/-- One of DEV or FAB goes to its target. -/
theorem loadAt_far {i : Instr} (hf : frameAt s s.focus.c s.focus.frame = some fr)
    (hc : checkAccess f.ty servesAll .read (accessSize f.ty) s p = .ok ls) (hn : ptrPath p = pathDEV ∨ ptrPath p = pathFAB) :
    loadAt i f s p = loadFar i f s p ls := by
  have hn' : (decide (ptrPath p = pathDEV) || decide (ptrPath p = pathFAB)) = true := by simpa using hn
  simp only [loadAt, hf, hc, hn', if_true]

/-- The refusal that a load of a window meets at its target (R387). -/
def farRefusalOf (s : State) (p : Word) (n : Nat) : Option Nat :=
  if ptrPath p = pathFAB then
    fabRefusal s (windowOf s s.focus.c (ptrAddr p / 2 ^ 48)).1 false
      ((List.range n).map (fun k => fabVa (windowOf s s.focus.c (ptrAddr p / 2 ^ 48)) (ptrAddr p % 2 ^ 48 + k)))
  else none

theorem loadFar_answers {i : Instr} (hf : frameAt s s.focus.c s.focus.frame = some fr)
    (hi : irrevocableMay fr s.focus.frame s.focus.idx i s.focus.tag = true) (hh : farHeld s fr i = false)
    (hr : farRefusalOf s p ls.length = none) :
    ∃ n, loadFar i f s p ls = answered i (some (loadToken f.ty (siteBytes s f true ls)).value) 0 { s with freeCounter := n } := by
  unfold farRefusalOf at hr
  unfold loadFar
  simp only [hf, hi, hh, Bool.not_true, Bool.or_false, Bool.false_eq_true, if_false, whoAt_c, hr]
  split
  · exact ⟨_, rfl⟩
  · exact ⟨s.freeCounter, rfl⟩

theorem loadFar_refused {i : Instr} {cause : Nat} (hf : frameAt s s.focus.c s.focus.frame = some fr)
    (hi : irrevocableMay fr s.focus.frame s.focus.idx i s.focus.tag = true) (hh : farHeld s fr i = false)
    (hr : farRefusalOf s p ls.length = some cause) : loadFar i f s p ls = faulted clsRemoteRefused cause p 0 s := by
  unfold farRefusalOf at hr
  unfold loadFar
  simp only [hf, hi, hh, Bool.not_true, Bool.or_false, Bool.false_eq_true, if_false, whoAt_c, hr]

/-- The pointer of a lane's first byte. -/
def laneFirst (lanes : List (Nat × Word)) (e : Nat × List Loc) : Word := ((lanes.find? (·.1 = e.1)).map (·.2)).getD 0

/-- A gathered token: each lane that was read, 0 where the index is the least value (R167). -/
def gathToken (f : LFields) (r : List (Nat × List Loc)) (bytes : List Byte) : Token :=
  wideTok (fromLanes f.ty.width (laneCount f.ty.width) (fun k =>
    match r.findIdx? (·.1 == k) with
    | some m => ofBytes ((bytes.drop (accessSize f.ty * m)).take (accessSize f.ty))
    | none => 0))

theorem exec_gath_done {a b c : Token} {r : List (Nat × List Loc)} (hf : frameAt s s.focus.c s.focus.frame = some fr)
    (hr : readiness (.gath f) s = .go a b c) (hh : holdLoad s fr f.lsid.toNat = false)
    (hc : checkLanes f.ty servesLanes .read s (indexedLanes f a.value b.value) = .ok r)
    (hs : bypasses f (r.flatMap (·.2)) = true → syncHeld s fr (.gath f) = false) :
    exec (.gath f) s = .next (loadDone (.gath f) f s
      (r.flatMap (fun e => e.2.zip (bytePtrs (laneFirst (indexedLanes f a.value b.value) e) (accessSize f.ty)))) (gathToken f r)) := by
  have hb : (bypasses f (r.flatMap (·.2)) && syncHeld s fr (.gath f)) = false := by
    cases h : bypasses f (r.flatMap (·.2))
    · rfl
    · exact hs h
  rw [exec_gath, execGath, fire_go hr]
  simp only [hf, hc, hh, hb, Bool.or_false, Bool.false_eq_true, if_false]
  rfl

theorem laneN_gathToken (r : List (Nat × List Loc)) (bs : List Byte) {k : Nat} (hk : k < laneCount f.ty.width) :
    laneN f.ty.width (gathToken f r bs).value k = match r.findIdx? (·.1 == k) with
      | some m => ofBytes ((bs.drop (accessSize f.ty * m)).take (accessSize f.ty)) % 2 ^ f.ty.width
      | none => 0 := by
  have hn : f.ty.width * laneCount f.ty.width ≤ 512 := Nat.mul_div_le 512 f.ty.width
  refine (laneN_fromLanes _ _ _ hn hk).trans ?_
  cases r.findIdx? (·.1 == k) with
  | some m => rfl
  | none => exact Nat.zero_mod _

/-- Behind a load nothing fires again where every later load would find what it found (R263). -/
theorem keepOrder_same {w : Who} {n : Nat} {tag : Tag} {lsid : Nat} {sync : Bool} {bs : List (Loc × Byte)}
    (h : ∀ m g r, frameAt s w.c m = some g → r ∈ g.loads → wouldDiffer s w m r = false ∧ mayBeOlder s w bs m r = false) :
    keepOrder s w n tag lsid sync bs = s := by
  have hnone : laterLoads (ctxAt s w.c) n tag lsid (fun m r => if sync then wouldDiffer s w m r else mayBeOlder s w bs m r) = none := by
    refine List.findSome?_eq_none_iff.mpr fun m _ => ?_
    cases hg : (ctxAt s w.c).frames[m]? with
    | none => rfl
    | some g =>
      have hno : ∀ r ∈ g.loads, (if sync = true then wouldDiffer s w m r else mayBeOlder s w bs m r) = false := fun r hr => by
        obtain ⟨h1, h2⟩ := h m g r hg hr
        split
        · exact h1
        · exact h2
      have h1 : g.loads.filter (fun r => if sync = true then wouldDiffer s w m r else mayBeOlder s w bs m r) = [] :=
        List.filter_eq_nil_iff.mpr fun r hr => by simp [hno r hr]
      have h2 : g.loads.filter (fun r => placeBefore tag lsid r
          && (if sync = true then wouldDiffer s w m r else mayBeOlder s w bs m r)) = [] :=
        List.filter_eq_nil_iff.mpr fun r hr => by simp [hno r hr]
      simp only [h1, h2, ite_self, List.isEmpty_nil, if_true]
  unfold keepOrder
  rw [hnone]

theorem wouldDiffer_false {w : Who} {m : Nat} {r : LoadRec} (h : loadBytes s w m r.tag r.lsid false r.locs = r.bytes) :
    wouldDiffer s w m r = false := by
  simp [wouldDiffer, h]

theorem mayBeOlder_false {w : Who} {bs : List (Loc × Byte)} {m : Nat} {r : LoadRec}
    (h : ∀ q ∈ r.locs.zip r.bytes, memByte s w true q.1 = q.2) : mayBeOlder s w bs m r = false := by
  simp only [mayBeOlder, List.any_eq_false]
  intro q hq
  simp [h q hq]

end Sys2Proof.Laws
end

section
/-! CERTIFICATES. Loads (R23, R161, R163, R164, R167, R263, R265, R387). -/

namespace Sys2Proof.Laws

open Sys2Proof Sys2Proof.Machine

/-- Settles O31: LD and GATH that do not wait end in `loadDone`, a load of DEV or FAB in its target's answer. -/
theorem loadResults : Obligations.LoadResults := by
  intro f s fr a b c hf
  refine ⟨fun ls hr hc => ⟨fun hn hh hs => ?_, fun hn hi hh => ⟨fun hnone => ?_, fun cause hcause => ?_⟩⟩,
    fun r hr hh hc hs hp => ?_, fun w bs sync h => ?_⟩
  · have hx : exec (.ld f) s = .next (loadDone (.ld f) f s
        (ls.zip (bytePtrs (addrOf (word a.value 0) (offsetOf f)) ls.length)) (loadToken f.ty)) := by
      rw [exec_ld, execLd, fire_go hr, loadAt_near hf hc hn hh hs]
    have hfst := map_fst_zip_bytePtrs (ls := ls) (p := addrOf (word a.value 0) (offsetOf f)) rfl
    refine ⟨fun hp => ?_, fun hp => ?_⟩
    · have hd := deliversLoad_of_done hx (by rw [hfst]; exact hp)
      rwa [hfst] at hd
    · obtain ⟨line, hl⟩ := loadDone_poisoned (i := .ld f) (f := f) (tok := loadToken f.ty)
        (at_ := ls.zip (bytePtrs (addrOf (word a.value 0) (offsetOf f)) ls.length)) (by rw [hfst]; exact hp)
      exact ⟨line, by rw [hx, hl]⟩
  · obtain ⟨n, hans⟩ := loadFar_answers (f := f) hf hi hh (by rw [length_checkAccess hc]; exact hnone)
    refine ⟨{ s with freeCounter := n }, ?_, rfl⟩
    rw [exec_ld, execLd, fire_go hr, loadAt_far hf hc hn, hans]
  · rw [exec_ld, execLd, fire_go hr, loadAt_far hf hc hn,
      loadFar_refused hf hi hh (by rw [length_checkAccess hc]; exact hcause)]
  · have hfst := map_fst_lanePtrs (laneFirst (indexedLanes f a.value b.value)) (length_checkLanes hc)
    have hd := deliversLoad_of_done (exec_gath_done hf hr hh hc hs) (by rw [hfst]; exact hp)
    rw [hfst] at hd
    exact ⟨_, hd, fun bs k hk => laneN_gathToken r bs hk⟩
  · refine keepOrder_same fun m g r hg hr => ?_
    obtain ⟨h1, h2⟩ := h m g r hg hr
    exact ⟨wouldDiffer_false h1, mayBeOlder_false h2⟩

end Sys2Proof.Laws
end

section
/-! SUPPORT. Tokens in flight, read entries, uniform tokens and streams (R11, R18, R135, R145, R171). -/

namespace Sys2Proof.Laws

open Sys2Proof Sys2Proof.Machine

variable {s : State} {c : CtxId} {n k : Nat} {fr g : Frame} {f : Flight}

theorem exec_tokenArrival (c : CtxId) (n k : Nat) (u : Upset) (s : State) :
    exec (.tokenArrival c n k u) s = execTokenArrival c n k u s := rfl
theorem exec_tokenResend (c : CtxId) (n k : Nat) (p : Bool) (s : State) :
    exec (.tokenResend c n k p) s = execTokenResend c n k p s := rfl
theorem exec_ldsEmit (c : CtxId) (index : Nat) (s : State) : exec (.ldsEmit c index) s = execLdsEmit c index s := rfl

/-- Counting refusals at a core changes no frame. -/
theorem quiet_countRefusals {C : Scope} (s : State) (core m : Nat) :
    Quiet C s (modCore s core (fun q => { q with refusals := min (2 ^ 32 - 1) (q.refusals + m) })) :=
  quiet_modCore s core ⟨fun _ => rfl, fun _ => rfl, fun _ => rfl, fun _ => rfl, fun _ => rfl, fun _ => rfl⟩ (.inr fun _ => ⟨rfl, rfl⟩)

/-- A change of a core that keeps its contexts. -/
theorem ctxAt_modCore_keeps (s : State) (n : Nat) (c : CtxId) {h : Core → Core} (hk : ∀ k, (h k).ctxs = k.ctxs) :
    ctxAt (modCore s n h) c = ctxAt s c := by
  unfold ctxAt ctxIn
  rw [coreAt_modCore]
  split
  · rename_i e
    rw [hk, e]
  · rfl

theorem refusals_countRefusals (s : State) (core m : Nat) :
    (coreAt (modCore s core (fun q => { q with refusals := min (2 ^ 32 - 1) (q.refusals + m) })) core).refusals
      = min (2 ^ 32 - 1) ((coreAt s core).refusals + m) := by
  rw [coreAt_modCore_self]

theorem refusals_modFrame (s : State) (c : CtxId) (n : Nat) (h : Frame → Frame) (core : Nat) :
    (coreAt (modFrame s c n h) core).refusals = (coreAt s core).refusals := by
  unfold modFrame
  rw [coreAt_modCtx]

/-- An arrival at a mapped frame. -/
theorem tokenArrival_at (u : Upset) (hf : frameAt s c n = some fr) (hm : fr.mapped = true) (hq : ∀ idx, u ≠ .queue idx)
    (hu : u ≠ .corrected) : exec (.tokenArrival c n k u) s = .next (arriveAt s c n k fr u) := by
  rw [exec_tokenArrival]
  unfold execTokenArrival
  cases u with
  | queue idx => exact absurd rfl (hq idx)
  | corrected => exact absurd rfl hu
  | _ => simp only [hf, hm, Bool.not_true, Bool.false_eq_true, if_false]

theorem tokenArrival_corrected (hf : frameAt s c n = some fr) (hm : fr.mapped = true) :
    exec (.tokenArrival c n k .corrected) s = .next (countCorrected (arriveAt s c n k fr .none) (execCore c fr s)) := by
  rw [exec_tokenArrival]
  simp only [execTokenArrival, hf, hm, Bool.not_true, Bool.false_eq_true, if_false]

theorem tokenArrival_queue (hf : frameAt s c n = some fr) (hm : fr.mapped = true) (idx : Nat) :
    exec (.tokenArrival c n k (.queue idx)) s = .next (queueError s c n idx fr) := by
  rw [exec_tokenArrival]
  simp only [execTokenArrival, hf, hm, Bool.not_true, Bool.false_eq_true, if_false]

theorem frameAt_queueError (hf : frameAt s c n = some fr) (idx : Nat) : frameAt (queueError s c n idx fr) c n
    = some { fr with
        faults := fr.faults ++ (fr.fired.filter (fun e => e.1 = idx && e.1 % 8 = 0)).map
          (fun e => ⟨clsTokenParity, 0x03, idx, false, e.2, 0, 0⟩) } := by
  rw [queueError, frameAt_modFrame_self, hf]
  rfl

/-! ## Tokens in flight -/

theorem arrive_placed (hp : place { fr with flight := fr.flight.eraseIdx k } f = some g) (p : Bool) :
    arrive s c n k fr f p = if p then refuseToken s c n k fr f else modFrame s c n (fun _ => g) := by
  simp only [arrive, hp]

theorem arriveAt_flight (hk : fr.flight[k]? = some f) (hr : f.refused = false)
    (hp : place { fr with flight := fr.flight.eraseIdx k } f = some g) :
    arriveAt s c n k fr .none = modFrame s c n (fun _ => g) := by
  simp only [arriveAt, hk, hr, arrive_placed hp, Bool.false_eq_true, if_false]
  rfl

theorem arriveAt_flight_parity (hk : fr.flight[k]? = some f) (hr : f.refused = false)
    (hp : place { fr with flight := fr.flight.eraseIdx k } f = some g) :
    arriveAt s c n k fr .parity = refuseToken s c n k fr f := by
  simp only [arriveAt, hk, hr, arrive_placed hp, Bool.false_eq_true, if_false]
  rfl

/-- A refused token is counted, and stands to be sent again; the third refusal in a row is a fault of its receiver (R135). -/
theorem refuseToken_spec (hf : frameAt s c n = some fr) (hk : fr.flight[k]? = some f) :
    ∃ fr', frameAt (refuseToken s c n k fr f) c n = some fr' ∧ fr'.ops = fr.ops ∧ fr'.wslots = fr.wslots
      ∧ (coreAt (refuseToken s c n k fr f) (execCore c fr s)).refusals
          = min (2 ^ 32 - 1) ((coreAt s (execCore c fr s)).refusals + 1)
      ∧ (f.refusals < 2 → fr'.flight[k]? = some { f with refusals := f.refusals + 1, refused := true } ∧ fr'.faults = fr.faults)
      ∧ (2 ≤ f.refusals → fr'.flight = fr.flight.eraseIdx k ∧ fr'.faults = fr.faults ++ [receiverFault 0x01 f.dst f.tag]) := by
  have hcount := (quiet_countRefusals (C := fun _ => False) s (execCore c fr s) 1).frameAt (d := c) id n
  unfold refuseToken
  dsimp only
  by_cases h2 : 2 ≤ f.refusals
  · rw [if_pos h2]
    refine ⟨{ fr with flight := fr.flight.eraseIdx k, faults := fr.faults ++ [receiverFault 0x01 f.dst f.tag] }, ?_, rfl, rfl, ?_,
      fun h => absurd h2 (Nat.not_le.mpr h), fun _ => ⟨rfl, rfl⟩⟩
    · rw [frameAt_modFrame_self, hcount, hf]
      rfl
    · rw [refusals_modFrame, refusals_countRefusals]
  · rw [if_neg h2]
    refine ⟨{ fr with flight := listSet fr.flight k (fun f => { f with refusals := f.refusals + 1, refused := true }) }, ?_, rfl, rfl, ?_,
      fun _ => ⟨?_, rfl⟩, fun h => absurd h h2⟩
    · rw [frameAt_modFrame_self, hcount, hf]
      rfl
    · rw [refusals_modFrame, refusals_countRefusals]
    · simp only [listSet, List.getElem?_modify_eq, hk]
      rfl

theorem tokenResend_flight (hf : frameAt s c n = some fr) (hm : fr.mapped = true) (hk : fr.flight[k]? = some f)
    (hr : f.refused = true) (hp : place { fr with flight := fr.flight.eraseIdx k } { f with refused := false } = some g) :
    exec (.tokenResend c n k false) s = .next (modFrame s c n (fun _ => g)) := by
  rw [exec_tokenResend]
  simp only [execTokenResend, hf, hk, hr, hm, Bool.and_self, if_true, arrive_placed hp, Bool.false_eq_true, if_false]

/-- An operand arrives in a slot that holds none (R11, R14). -/
theorem place_operand {sl : Slot} {idx : BitVec 7} (hd : f.dst = .operand sl idx) (hh : isHead fr idx.toNat = false)
    (hfo : followsIdx fr idx.toNat = false) (ho : tagOpen fr f.tag = true)
    (hfree : ∀ o ∈ fr.ops, ¬(o.idx = idx.toNat ∧ o.slot = sl)) :
    place fr f = some { fr with ops := fr.ops ++ [⟨idx.toNat, sl, f.tag, f.tok, f.src⟩] } := by
  have hnone : fr.ops.any (fun o => o.idx = idx.toNat && o.slot == sl && (o.tag == f.tag || o.tag == .persist || f.tag == .persist))
      = false := by
    simp only [List.any_eq_false]
    intro o hmem
    have := hfree o hmem
    by_cases hi : o.idx = idx.toNat
    · have hs : (o.slot == sl) = false := by simpa using fun h => this ⟨hi, h⟩
      simp [hs]
    · simp [hi]
  simp only [place, hd, hfo, placeOperand, hh, ho, hnone, Bool.false_and, Bool.not_true, Bool.false_eq_true, if_false]

/-! ## Read entries (R18) -/

theorem arriveAt_read {j : Nat} {u : Upset} (hk : fr.flight.length ≤ k) (hj : fr.reads[k - fr.flight.length]? = some j) :
    arriveAt s c n k fr u = deliverRead s c n j fr u := by
  have hno : fr.flight[k]? = none := List.getElem?_eq_none hk
  simp only [arriveAt, hno, hj]

/-- Of the two targets of a read entry the m-th alone refuses its token. -/
theorem readTargets_nth (fr : Frame) (j m : Nat) :
    ((readTargets fr j).zipIdx.filter (fun e => e.2 = m % 2)).map (·.1) = [(readTargets fr j).getD (m % 2) .none] := by
  rcases Nat.mod_two_eq_zero_or_one m with h | h <;> simp [readTargets, h, List.zipIdx]

theorem contains_single (t u : Target) : [t].contains u = decide (u = t) := by
  by_cases h : u = t
  · simp [h]
  · simp [h]

/-- What a read entry leaves: its tokens arrive in their slots, or stand refused (R18, R135). -/
theorem deliverRead_value {j : Nat} {v : Wide} {u : Upset} (hu : u = .none)
    (hv : forwarded s c fr (readSource fr j) ((ctxAt s c).frames.take n).reverse = some v) :
    deliverRead s c n j fr u = modFrame s c n (fun _ =>
      (readFlights fr j v).foldl (fun g f => (place g f).getD g) { fr with reads := fr.reads.filter (· ≠ j) }) := by
  subst hu
  simp only [deliverRead, hv]

theorem deliverRead_parity {j : Nat} {v : Wide} (hf : frameAt s c n = some fr)
    (hv : forwarded s c fr (readSource fr j) ((ctxAt s c).frames.take n).reverse = some v) :
    frameAt (deliverRead s c n j fr .parity) c n = some { fr with
      reads := fr.reads.filter (· ≠ j)
      flight := fr.flight ++ (readFlights fr j v).map (fun f => { f with refusals := 1, refused := true }) } := by
  simp only [deliverRead, hv]
  rw [(quiet_countRefusals (C := fun _ => False) _ _ _).frameAt id, frameAt_modFrame_self, hf]
  rfl

theorem deliverRead_parityAt {j m : Nat} {v : Wide} (hf : frameAt s c n = some fr)
    (hv : forwarded s c fr (readSource fr j) ((ctxAt s c).frames.take n).reverse = some v) :
    let hit := (readTargets fr j).getD (m % 2) .none
    let g := ((readFlights fr j v).filter (·.dst ≠ hit)).foldl (fun g f => (place g f).getD g) { fr with reads := fr.reads.filter (· ≠ j) }
    frameAt (deliverRead s c n j fr (.parityAt m)) c n = some { g with
      flight := g.flight ++ ((readFlights fr j v).filter (·.dst = hit)).map (fun f => { f with refusals := 1, refused := true }) } := by
  simp only [deliverRead, hv, readTargets_nth, contains_single]
  rw [(quiet_countRefusals (C := fun _ => False) _ _ _).frameAt id, frameAt_modFrame_self, hf]
  simp only [Option.map_some, ne_eq, decide_not]

theorem deliverRead_double {j : Nat} (hf : frameAt s c n = some fr) :
    frameAt (deliverRead s c n j fr .double) c n = some { fr with
      reads := fr.reads.filter (· ≠ j)
      faults := fr.faults ++ [receiverFault 0x02 ((readTargets fr j).headD .none) .persist] } := by
  unfold deliverRead
  dsimp only
  rw [frameAt_modFrame_self, hf]
  rfl

/-! ## Uniform tokens (R145) -/

theorem arriveAt_uniform {u : Nat × Flight} {p : Upset} (hk : fr.flight.length + fr.reads.length ≤ k)
    (hu : ((ctxAt s c).utoks.filter (·.1 = fr.pos))[k - fr.flight.length - fr.reads.length]? = some u) (hr : u.2.refused = false) :
    arriveAt s c n k fr p = deliverUniform s c n fr u.2 (p == .parity) := by
  have hno : fr.flight[k]? = none := List.getElem?_eq_none (by omega)
  have hno' : fr.reads[k - fr.flight.length]? = none := List.getElem?_eq_none (by omega)
  simp only [arriveAt, hno, hno', uniformAt, hu, Option.map_some, hr, Bool.false_eq_true, if_false]

/-- A uniform token that waits for a block stands in the tokens of its context at the place that a search finds. -/
theorem findIdx_uniform {u : Nat × Flight} {m : Nat} (hu : ((ctxAt s c).utoks.filter (·.1 = fr.pos))[m]? = some u) :
    u.1 = fr.pos ∧ (ctxAt s c).utoks[(ctxAt s c).utoks.findIdx (fun v => v == (fr.pos, u.2))]? = some u := by
  have hmem := List.mem_of_getElem? hu
  obtain ⟨hin, hpos⟩ := List.mem_filter.mp hmem
  have hpos' : u.1 = fr.pos := by simpa using hpos
  have heq : u = (fr.pos, u.2) := by rw [← hpos']
  have hlt : (ctxAt s c).utoks.findIdx (fun v => v == (fr.pos, u.2)) < (ctxAt s c).utoks.length :=
    List.findIdx_lt_length_of_exists ⟨u, hin, by simpa using heq⟩
  have hfound := List.findIdx_getElem (w := hlt)
  refine ⟨hpos', ?_⟩
  rw [List.getElem?_eq_getElem hlt]
  exact congrArg some ((by simpa using hfound : _ = (fr.pos, u.2)).trans heq.symm)

theorem deliverUniform_takes {u : Nat × Flight} {m : Nat} (hf : frameAt s c n = some fr)
    (hu : ((ctxAt s c).utoks.filter (·.1 = fr.pos))[m]? = some u) (hr : u.2.refused = false) (hg : takeUniform fr u.2 = some g) :
    frameAt (deliverUniform s c n fr u.2 false) c n
        = some { g with utaken := g.utaken ++ [{ u.2 with refused := false, refusals := 0 }] }
      ∧ (ctxAt (deliverUniform s c n fr u.2 false) c).utoks.length + 1 = (ctxAt s c).utoks.length := by
  have hsame : ({ u.2 with refused := false } : Flight) = u.2 := by rw [← hr]
  obtain ⟨-, hat⟩ := findIdx_uniform hu
  have hlt := (List.getElem?_eq_some_iff.mp hat).1
  have hlen : (ctxAt s c).frames[n]? = some fr := hf
  unfold deliverUniform
  simp only [hsame, hg, Bool.not_false, if_true]
  refine ⟨?_, ?_⟩
  · unfold frameAt
    rw [ctxAt_modCtx_self]
    simp only [listSet, List.getElem?_modify_eq, hlen]
    rfl
  · rw [ctxAt_modCtx_self]
    simp only [List.length_eraseIdx_of_lt hlt]
    omega

theorem deliverUniform_refused {u : Nat × Flight} {m : Nat} (hf : frameAt s c n = some fr)
    (hu : ((ctxAt s c).utoks.filter (·.1 = fr.pos))[m]? = some u) (hr : u.2.refused = false) (hg : takeUniform fr u.2 = some g)
    (h2 : u.2.refusals < 2) :
    frameAt (deliverUniform s c n fr u.2 true) c n = some fr
      ∧ (u.1, { u.2 with refusals := u.2.refusals + 1, refused := true }) ∈ (ctxAt (deliverUniform s c n fr u.2 true) c).utoks
      ∧ (ctxAt (deliverUniform s c n fr u.2 true) c).utoks.length = (ctxAt s c).utoks.length := by
  have hsame : ({ u.2 with refused := false } : Flight) = u.2 := by rw [← hr]
  obtain ⟨-, hat⟩ := findIdx_uniform hu
  have hno : ¬ 2 ≤ u.2.refusals := Nat.not_le.mpr h2
  unfold deliverUniform
  simp only [hsame, hg, Bool.not_true, Bool.false_eq_true, if_false, hno]
  refine ⟨?_, ?_, ?_⟩
  · have hc := (quiet_countRefusals (C := fun _ => False) s (execCore c fr s) 1).frames c id
    unfold frameAt at hf ⊢
    rw [ctxAt_modCtx_self, ← hf, ← hc]
  · rw [ctxAt_modCtx_self]
    refine List.mem_of_getElem? (i := (ctxAt s c).utoks.findIdx (fun v => v == (fr.pos, u.2))) ?_
    have hx : ctxAt (modCore s (execCore c fr s) (fun q => { q with refusals := min (2 ^ 32 - 1) (q.refusals + 1) })) c = ctxAt s c :=
      ctxAt_modCore_keeps s _ c fun _ => rfl
    simp only [hx, listSet, List.getElem?_modify_eq, hat]
    rfl
  · have hx : ctxAt (modCore s (execCore c fr s) (fun q => { q with refusals := min (2 ^ 32 - 1) (q.refusals + 1) })) c = ctxAt s c :=
      ctxAt_modCore_keeps s _ c fun _ => rfl
    rw [ctxAt_modCtx_self]
    simp only [hx, listSet, List.length_modify]

/-! ## Streams (R171) -/

theorem find?_range_zero {p : Nat → Bool} {m : Nat} (h : p 0 = true) : (List.range (m + 1)).find? p = some 0 := by
  rw [List.range_succ_eq_map, List.find?_cons_of_pos h]

/-- A stream of the oldest block that may emit does so first. -/
theorem ldsEmit_oldest {rest : List Frame} {index : Nat} {lf : LFields} {q : Stream} (hx : (ctxAt s c).frames = fr :: rest)
    (hm : fr.mapped = true) (hi : instrAt fr index = some (.lds lf)) (hs : streamNow fr index = some q)
    (he : mayEmit fr (.lds lf) q = true) (hl : loadHeld (ctxAt s c) fr 0 index lf.lsid.toNat (.iter q.k) = false) :
    exec (.ldsEmit c index) s = .next (emit s c 0 (.lds lf) lf q) := by
  have hf : frameAt s c 0 = some fr := by
    unfold frameAt
    rw [hx]
    rfl
  rw [exec_ldsEmit]
  unfold execLdsEmit
  dsimp only
  rw [hx, List.length_cons, find?_range_zero]
  · simp only [hf, hi, hs, hl, Bool.false_eq_true, if_false]
  · simp [hm, hi, hs, he]

/-- An emission is the next one of its stream. -/
theorem emission_next {lf : LFields} {q q' : Stream} {t : Token} {ls : List Loc} (h : emission s c n lf q = .ok (t, ls, q')) :
    q'.k = q.k + 1 := by
  unfold emission at h
  split at h
  · cases h
  · split at h
    · split at h
      · cases h
      · cases h
        rfl
    · cases h
      rfl

/-- The machine behind an emission but for the loads that follow it: its token leaves, its load is recorded. -/
def emitted (s : State) (c : CtxId) (n : Nat) (i : Instr) (f : LFields) (fr : Frame) (q q' : Stream) (t : Token) (ls : List Loc) : State :=
  let w := fetchWho s c fr
  let bytes := loadBytes s w n (.iter q.k) f.lsid.toNat (f.cache = 3) ls
  modFrame (renewLeases (leaveLines f s w ls) w ls) c n (fun fr =>
    { fr with streams := fr.streams ++ [q']
              flight := fr.flight ++ flightsOf i (.iter q.k) (some t) none
              loads := fr.loads ++ (if ls.isEmpty then [] else [⟨q.idx, f.lsid.toNat, .iter q.k, ls, bytes⟩]) })

theorem emit_ok {i : Instr} {lf : LFields} {q q' : Stream} {t : Token} {ls : List Loc} (hf : frameAt s c n = some fr)
    (h : emission s c n lf q = .ok (t, ls, q')) :
    emit s c n i lf q = keepOrder (emitted s c n i lf fr q q' t ls) (fetchWho s c fr) n (.iter q.k) lf.lsid.toNat false
      (ls.zip (loadBytes s (fetchWho s c fr) n (.iter q.k) lf.lsid.toNat (lf.cache = 3) ls)) := by
  simp only [emit, h, hf, Option.getD_some]
  rfl

theorem emit_error {i : Instr} {lf : LFields} {q : Stream} {e : AccFault} (h : emission s c n lf q = .error e) :
    emit s c n i lf q = modFrame s c n (fun fr =>
      { fr with faults := fr.faults ++ [⟨e.cls, e.cause, q.idx, false, .iter q.k, e.addr, e.arg⟩] }) := by
  simp only [emit, h]

theorem quiet_emitted (i : Instr) (lf : LFields) (q q' : Stream) (t : Token) (ls : List Loc) :
    Quiet anything s (emitted s c n i lf fr q q' t ls) :=
  ((quiet_leaveLines lf s _ ls).trans (quiet_renewLeases _ _ ls)).wide.trans (quiet_modFrame _ _ _ trivial)

theorem frameAt_emitted {i : Instr} {lf : LFields} {q q' : Stream} {t : Token} {ls : List Loc} (hf : frameAt s c n = some fr) :
    frameAt (emitted s c n i lf fr q q' t ls) c n = some { fr with
      streams := fr.streams ++ [q']
      flight := fr.flight ++ flightsOf i (.iter q.k) (some t) none
      loads := fr.loads ++ (if ls.isEmpty then []
        else [⟨q.idx, lf.lsid.toNat, .iter q.k, ls,
          loadBytes s (fetchWho s c fr) n (.iter q.k) lf.lsid.toNat (lf.cache = 3) ls⟩]) } := by
  have hq := (quiet_leaveLines lf s (fetchWho s c fr) ls).trans (quiet_renewLeases _ (fetchWho s c fr) ls)
  rw [emitted, frameAt_modFrame_self, hq.frameAt nofun, hf]
  rfl

end Sys2Proof.Laws
end

section
/-! CERTIFICATES. The arrival of tokens, and the streams (R11, R18, R135, R145, R171). -/

namespace Sys2Proof.Laws

open Sys2Proof Sys2Proof.Machine

/-- Settles O54: an arrival is one of a token in flight, of a read entry, of a uniform token; an emission of the oldest block's
stream comes first. -/
theorem tokenEvents : Obligations.TokenEvents := by
  refine ⟨fun s c n k fr hf hm => ⟨fun f g hk => ⟨fun hr hp => ?_, fun hr hp => ?_, fun sl idx t hd _ hh hfo ho hfree => ?_⟩,
    ?_, fun idx => ?_, fun j hk hj => ⟨fun v hv => ⟨?_, ?_, fun m => ?_⟩, ?_⟩, fun u g hk hu hr hg => ⟨?_, fun h2 => ?_⟩⟩,
    fun s c fr rest index lf q hx hm hi hs he hl => ⟨fun q' t ls h => ?_, fun e h => ?_⟩⟩
  · refine ⟨?_, ?_⟩
    · rw [tokenArrival_at .none hf hm nofun nofun, arriveAt_flight hk hr hp]
    · obtain ⟨fr', h⟩ := refuseToken_spec hf hk
      refine ⟨_, fr', ?_, h⟩
      rw [tokenArrival_at .parity hf hm nofun nofun, arriveAt_flight_parity hk hr hp]
  · exact tokenResend_flight hf hm hk hr hp
  · exact place_operand (fr := { fr with flight := fr.flight.eraseIdx k }) hd hh hfo ho hfree
  · exact ⟨_, tokenArrival_at .none hf hm nofun nofun, tokenArrival_corrected hf hm⟩
  · exact ⟨_, _, tokenArrival_queue hf hm idx, frameAt_queueError hf idx, rfl⟩
  · rw [tokenArrival_at .none hf hm nofun nofun, arriveAt_read hk hj, deliverRead_value rfl hv]
  · have h := deliverRead_parity hf hv
    rw [← arriveAt_read hk hj] at h
    exact ⟨_, _, tokenArrival_at .parity hf hm nofun nofun, h, rfl, rfl⟩
  · refine ⟨_, tokenArrival_at (.parityAt m) hf hm nofun nofun, ?_⟩
    rw [arriveAt_read hk hj]
    exact deliverRead_parityAt hf hv
  · have h := deliverRead_double (j := j) hf
    rw [← arriveAt_read hk hj] at h
    exact ⟨_, _, tokenArrival_at .double hf hm nofun nofun, h, rfl⟩
  · refine ⟨_, tokenArrival_at .none hf hm nofun nofun, ?_⟩
    rw [arriveAt_uniform hk hu hr]
    exact deliverUniform_takes hf hu hr hg
  · refine ⟨_, tokenArrival_at .parity hf hm nofun nofun, ?_⟩
    rw [arriveAt_uniform hk hu hr]
    exact deliverUniform_refused hf hu hr hg h2
  · have hf : frameAt s c 0 = some fr := by
      unfold frameAt
      rw [hx]
      rfl
    have hq := quiet_emitted (s := s) (c := c) (n := 0) (fr := fr) (.lds lf) lf q q' t ls
    refine ⟨emitted s c 0 (.lds lf) lf fr q q' t ls, _, ?_, frameAt_emitted hf, emission_next h, rfl, rfl, rfl, hq.memory, hq.regs⟩
    rw [ldsEmit_oldest hx hm hi hs he hl, emit_ok hf h]
  · rw [ldsEmit_oldest hx hm hi hs he hl, emit_error h]

end Sys2Proof.Laws
end

section
/-! SUPPORT. The register files: what a read returns behind writes (R18, R121, R140). -/

namespace Sys2Proof.Laws

open Sys2Proof Sys2Proof.Machine

variable {s t u : State} {c : CtxId}

/-- The registers of cores alone differ. -/
structure RegsOnly (s t : State) : Prop where
  rest : t = { s with cores := t.cores }
  cores : ∀ k, coreAt t k = { coreAt s k with regs := (coreAt t k).regs, shared := (coreAt t k).shared }

theorem RegsOnly.refl (s : State) : RegsOnly s s := ⟨rfl, fun _ => rfl⟩

theorem RegsOnly.trans (h : RegsOnly s t) (h' : RegsOnly t u) : RegsOnly s u :=
  ⟨by rw [h'.rest, h.rest], fun k => by rw [h'.cores k, h.cores k]⟩

theorem RegsOnly.memory (h : RegsOnly s t) : SameMemory s t := by
  refine sameMemory_of ?_ ?_ ?_ fun k => by rw [h.cores k]
  all_goals rw [h.rest]

theorem RegsOnly.ctxAt (h : RegsOnly s t) (d : CtxId) : ctxAt t d = ctxAt s d := by
  unfold Machine.ctxAt ctxIn
  rw [h.cores]

theorem RegsOnly.bondMembers (h : RegsOnly s t) (k : Nat) : bondMembers t k = bondMembers s k := by
  unfold Machine.bondMembers
  rw [h.cores]

theorem RegsOnly.privEntry (h : RegsOnly s t) (c : CtxId) (r : Nat) : privEntry t c r = privEntry s c r := by
  unfold Machine.privEntry
  rw [h.bondMembers, h.cores]

theorem regsOnly_writeReg (s : State) (c : CtxId) (r : Nat) (v : Wide) : RegsOnly s (writeReg s c r v) := by
  unfold writeReg
  split
  · refine ⟨rfl, fun k => ?_⟩
    dsimp only
    rw [coreAt_modCore]
    split
    · subst k
      rfl
    · rfl
  · refine ⟨rfl, fun k => ?_⟩
    rw [coreAt_modCore]
    split
    · subst k
      rfl
    · rfl

/-- Different registers of a context's private file stand at different places (R121, R140). -/
theorem privEntry_injective (s : State) (c : CtxId) : Function.Injective (privEntry s c) := by
  intro i j h
  unfold privEntry at h
  dsimp only at h
  split at h
  · simpa using h
  · next hlen =>
    obtain ⟨hm, hd⟩ := Prod.mk.injEq .. ▸ h
    have hpos : 0 < (bondMembers s c.core).length := by omega
    have hnodup : (bondMembers s c.core).Nodup := by
      unfold bondMembers
      dsimp only
      split
      · exact (List.nodup_range.filter _).map fun a b hab => by simpa using hab
      · exact List.nodup_singleton _
    have hi := Nat.mod_lt i hpos
    have hj := Nat.mod_lt j hpos
    rw [List.getD_eq_getElem _ _ hi, List.getD_eq_getElem _ _ hj] at hm
    have hmod := (hnodup.getElem_inj_iff).mp hm
    calc i = (bondMembers s c.core).length * (i / (bondMembers s c.core).length) + i % (bondMembers s c.core).length := (Nat.div_add_mod _ _).symm
      _ = (bondMembers s c.core).length * (j / (bondMembers s c.core).length) + j % (bondMembers s c.core).length := by rw [hd, hmod]
      _ = j := Nat.div_add_mod _ _

/-- What a register read returns behind a write: the value written, or what stood there. -/
theorem readReg_writeReg (s : State) (c : CtxId) (r q : Nat) (v : Wide) :
    readReg (writeReg s c r v) c q = if q = r then v else readReg s c q := by
  have hp := (regsOnly_writeReg s c r v).privEntry c q
  unfold readReg
  rw [hp]
  unfold writeReg
  by_cases hr : r < 128
  · by_cases hq : q < 128
    · simp only [hr, hq, if_true, coreAt_modCore]
      by_cases hqr : q = r
      · subst hqr
        simp
      · have hne : privEntry s c q ≠ privEntry s c r := fun h => hqr (privEntry_injective s c h)
        simp only [hqr, if_false]
        split
        · next hcore =>
          have hidx : (privEntry s c q).2 ≠ (privEntry s c r).2 := fun h => hne (Prod.ext hcore h)
          rw [tabGet_tabSet, if_neg hidx, hcore]
        · rfl
    · have hqr : q ≠ r := by omega
      simp only [hr, hq, if_true, if_false, hqr, coreAt_modCore]
      split
      · next hcore => rw [hcore]
      · rfl
  · by_cases hq : q < 128
    · have hqr : q ≠ r := by omega
      simp only [hr, hq, if_true, if_false, hqr, coreAt_modCore]
      split
      · next hcore => rw [hcore]
      · rfl
    · simp only [hr, hq, if_false, coreAt_modCore_self, tabGet_tabSet]
      by_cases hqr : q = r
      · simp [hqr]
      · have hidx : q - 128 ≠ r - 128 := by omega
        simp [hqr, hidx]

/-- Writes of registers in order. -/
def writeRegs (s : State) (c : CtxId) (ws : List (Nat × Wide)) : State := ws.foldl (fun s q => writeReg s c q.1 q.2) s

theorem regsOnly_writeRegs (s : State) (c : CtxId) (ws : List (Nat × Wide)) : RegsOnly s (writeRegs s c ws) := by
  unfold writeRegs
  induction ws generalizing s with
  | nil => exact .refl s
  | cons q ws ih => exact (regsOnly_writeReg s c q.1 q.2).trans (ih _)

/-- A register that none of the writes names stays. -/
theorem readReg_writeRegs_other {ws : List (Nat × Wide)} {r : Nat} (h : ∀ q ∈ ws, q.1 ≠ r) :
    readReg (writeRegs s c ws) c r = readReg s c r := by
  unfold writeRegs
  induction ws generalizing s with
  | nil => rfl
  | cons q ws ih =>
    have hq : r ≠ q.1 := (h q (List.mem_cons_self ..)).symm
    rw [List.foldl_cons, ih fun p hp => h p (List.mem_cons_of_mem _ hp), readReg_writeReg, if_neg hq]

/-- A register that one of the writes names, and every such write with one value, holds it. -/
theorem readReg_writeRegs_same {ws : List (Nat × Wide)} {r : Nat} {v : Wide} (hv : ∀ q ∈ ws, q.1 = r → q.2 = v)
    (hm : readReg s c r = v ∨ ∃ q ∈ ws, q.1 = r) : readReg (writeRegs s c ws) c r = v := by
  unfold writeRegs
  induction ws generalizing s with
  | nil => exact hm.resolve_right fun ⟨q, hq, _⟩ => nomatch hq
  | cons q ws ih =>
    rw [List.foldl_cons]
    refine ih (fun p hp => hv p (List.mem_cons_of_mem _ hp)) ?_
    by_cases hq : q.1 = r
    · left
      rw [readReg_writeReg, if_pos hq.symm]
      exact hv q (List.mem_cons_self ..) hq
    · rcases hm with hm | ⟨p, hp, hpr⟩
      · left
        rw [readReg_writeReg, if_neg (Ne.symm hq)]
        exact hm
      · right
        rcases List.mem_cons.mp hp with rfl | hp
        · exact absurd hpr hq
        · exact ⟨p, hp, hpr⟩

/-! ## The writes of a block (R18) -/

variable {fr : Frame}

theorem mem_committedWrites {q : Nat × Wide} (h : q ∈ committedWrites fr) :
    ∃ w tok, w < writeCount fr ∧ fr.wslots.find? (·.1 = w) = some (w, tok) ∧ tok.null = false ∧ q = (writeDest fr w, tok.value) := by
  obtain ⟨w, hw, hq⟩ := List.mem_filterMap.mp h
  have hlt : w < writeCount fr := List.mem_range.mp hw
  cases hf : fr.wslots.find? (·.1 = w) with
  | none => simp [hf] at hq
  | some e =>
    obtain ⟨w', tok⟩ := e
    have hw' : w' = w := by simpa using List.find?_some hf
    subst hw'
    cases hn : tok.null with
    | true => simp [hf, hn] at hq
    | false =>
      simp [hf, hn] at hq
      exact ⟨w', tok, hlt, hf, hn, hq.symm⟩

theorem committedWrites_mem {w : Nat} {tok : Token} (hw : w < writeCount fr) (hf : fr.wslots.find? (·.1 = w) = some (w, tok))
    (hn : tok.null = false) : (writeDest fr w, tok.value) ∈ committedWrites fr :=
  List.mem_filterMap.mpr ⟨w, List.mem_range.mpr hw, by simp [hf, hn]⟩

/-- No write slot names a register: it stays. -/
theorem readReg_committed_other {r : Nat} (h : ∀ w, w < writeCount fr → writeDest fr w ≠ r) :
    readReg (writeRegs s c (committedWrites fr)) c r = readReg s c r := by
  refine readReg_writeRegs_other fun q hq => ?_
  obtain ⟨w, tok, hw, -, -, rfl⟩ := mem_committedWrites hq
  exact h w hw

/-- One write slot names a register: it holds the slot's token, or where that is null what it held. -/
theorem readReg_committed_slot {w : Nat} {tok : Token} (hw : w < writeCount fr)
    (hu : ∀ v, v < writeCount fr → v ≠ w → writeDest fr v ≠ writeDest fr w) (hf : fr.wslots.find? (·.1 = w) = some (w, tok)) :
    readReg (writeRegs s c (committedWrites fr)) c (writeDest fr w)
      = if tok.null then readReg s c (writeDest fr w) else tok.value := by
  have hone : ∀ q ∈ committedWrites fr, q.1 = writeDest fr w → tok.null = false ∧ q.2 = tok.value := by
    intro q hq hqr
    obtain ⟨v, tok', hv, hf', hn, rfl⟩ := mem_committedWrites hq
    have hvw : v = w := by
      by_contra hne
      exact hu v hv hne hqr
    subst hvw
    rw [hf] at hf'
    obtain rfl : tok = tok' := by simpa using hf'
    exact ⟨hn, rfl⟩
  cases hn : tok.null with
  | true =>
    refine readReg_writeRegs_other fun q hq hqr => ?_
    exact absurd ((hone q hq hqr).1) (by simp [hn])
  | false =>
    exact readReg_writeRegs_same (fun q hq hqr => (hone q hq hqr).2) (.inr ⟨_, committedWrites_mem hw hf hn, rfl⟩)

end Sys2Proof.Laws
end

section
/-! SUPPORT. The commit step of a block without commit-time effects (R18, R27, R74). -/

namespace Sys2Proof.Laws

open Sys2Proof Sys2Proof.Machine

variable {s t u : State} {c : CtxId}

/-- Contexts and partitions alone differ: no byte, no register. -/
structure CtxsOnly (s t : State) : Prop where
  memory : SameMemory s t
  cores : ∀ k, coreAt t k = { coreAt s k with ctxs := (coreAt t k).ctxs }

theorem CtxsOnly.refl (s : State) : CtxsOnly s s := ⟨fun _ => rfl, fun _ => rfl⟩

theorem CtxsOnly.trans (h : CtxsOnly s t) (h' : CtxsOnly t u) : CtxsOnly s u :=
  ⟨SameMemory.trans h.memory h'.memory, fun k => by rw [h'.cores k, h.cores k]⟩

theorem CtxsOnly.readReg (h : CtxsOnly s t) (c : CtxId) (r : Nat) : readReg t c r = readReg s c r := by
  have hb : ∀ k, bondMembers t k = bondMembers s k := fun k => by
    unfold bondMembers
    rw [h.cores]
  have hp : privEntry t c r = privEntry s c r := by
    unfold privEntry
    rw [hb, h.cores]
  unfold Machine.readReg
  rw [hp]
  dsimp only
  rw [h.cores, h.cores c.core]

theorem ctxsOnly_modCtx (s : State) (c : CtxId) (f : Ctx → Ctx) : CtxsOnly s (modCtx s c f) :=
  ⟨sameMemory_modCtx c f, coreAt_modCtx s c f⟩

theorem ctxsOnly_modPartOf (s : State) (c : CtxId) (f : Part → Part) : CtxsOnly s (modPartOf s c f) :=
  ⟨sameMemory_of rfl rfl rfl fun _ => rfl, fun _ => rfl⟩

/-! ## The holds of RETT (R189) -/

theorem tabGet_map_value {α : Type} {d : α} {f : α → α} (hd : f d = d) (t : Tab α) (n : Nat) :
    tabGet d (t.map (fun e => (e.1, f e.2))) n = f (tabGet d t n) := by
  induction t with
  | nil => exact hd.symm
  | cons e t ih =>
    rw [List.map_cons]
    simp only [tabGet]
    split
    · rfl
    · exact ih

/-- A committed block of c no longer holds a stopped context. -/
def unheld (c : CtxId) (x : Ctx) : Ctx := if x.rettHold == some c then { x with rettHold := none } else x

theorem unheld_eq (c : CtxId) (x : Ctx) : unheld c x = { x with rettHold := (unheld c x).rettHold } := by
  unfold unheld
  split
  · rfl
  · rfl

/-- Each context differs in its hold alone. -/
def HoldsOnly (s t : State) : Prop := CtxsOnly s t ∧ ∀ d, ctxAt t d = { ctxAt s d with rettHold := (ctxAt t d).rettHold }

theorem holdsOnly_unholdCore (s : State) (c : CtxId) (k : Nat) :
    HoldsOnly s (modCore s k (fun q => { q with ctxs := q.ctxs.map (fun e => (e.1, unheld c e.2)) })) := by
  refine ⟨⟨sameMemory_of rfl rfl rfl fun n => ?_, fun n => ?_⟩, fun d => ?_⟩
  · rw [coreAt_modCore]
    split
    · subst n
      rfl
    · rfl
  · rw [coreAt_modCore]
    split
    · subst n
      rfl
    · rfl
  · unfold ctxAt
    rw [coreAt_modCore]
    split
    · next h =>
      subst h
      have hx : ctxIn { coreAt s d.core with ctxs := (coreAt s d.core).ctxs.map (fun e => (e.1, unheld c e.2)) } d.ctx
          = unheld c (ctxIn (coreAt s d.core) d.ctx) := tabGet_map_value rfl _ _
      rw [hx]
      exact unheld_eq _ _
    · rfl

theorem HoldsOnly.trans (h : HoldsOnly s t) (h' : HoldsOnly t u) : HoldsOnly s u :=
  ⟨h.1.trans h'.1, fun d => by rw [h'.2 d, h.2 d]⟩

theorem holdsOnly_endHolds (s : State) (c : CtxId) : HoldsOnly s (endHolds s c) := by
  unfold endHolds
  generalize coreNums s = ks
  induction ks generalizing s with
  | nil => exact ⟨.refl s, fun _ => rfl⟩
  | cons k ks ih =>
    rw [List.foldl_cons]
    refine HoldsOnly.trans ?_ (ih _)
    split
    · exact holdsOnly_unholdCore s c k
    · exact ⟨.refl s, fun _ => rfl⟩

/-! ## Contexts that wake or drain behind a commit -/

/-- No context drains, nor will drain when it is restored. -/
def Calm (s : State) : Prop := ∀ d, (ctxAt s d).st ≠ .draining ∧ ((ctxAt s d).st = .saved → (ctxAt s d).prior ≠ .draining)

theorem calm_of_same (h : Calm s) (hs : ∀ d, (ctxAt t d).st = (ctxAt s d).st ∧ (ctxAt t d).prior = (ctxAt s d).prior) : Calm t := by
  intro d
  obtain ⟨h1, h2⟩ := hs d
  rw [h1, h2]
  exact h d

/-- What waking restored contexts keeps: a running context, and that none drains. -/
structure Wakes (c : CtxId) (s t : State) : Prop where
  ctxs : CtxsOnly s t
  own : ctxAt t c = ctxAt s c
  calm : Calm t

theorem wakeSaved_calm {x : Ctx} (h : x.prior ≠ .draining) :
    (wakeSaved x).st ≠ .draining ∧ ((wakeSaved x).st = .saved → (wakeSaved x).prior ≠ .draining) := by
  refine ⟨?_, fun _ => nofun⟩
  unfold wakeSaved
  dsimp only
  split
  · exact nofun
  · exact h

theorem Wakes.wakeSaved (h : Wakes c s t) (hr : (ctxAt s c).st = .running) {d : CtxId} (hd : (ctxAt t d).st = .saved) :
    Wakes c s (modCtx t d wakeSaved) := by
  have hdc : c ≠ d := by
    rintro rfl
    rw [h.own, hr] at hd
    cases hd
  refine ⟨h.ctxs.trans (ctxsOnly_modCtx t d _), by rw [ctxAt_modCtx_other _ _ hdc, h.own], fun q => ?_⟩
  by_cases hq : q = d
  · subst hq
    rw [ctxAt_modCtx_self]
    exact wakeSaved_calm ((h.calm q).2 hd)
  · rw [ctxAt_modCtx_other _ _ hq]
    exact h.calm q

theorem wakes_foldl {β : Type} {f : State → β → State} (hf : ∀ b t, Wakes c s t → Wakes c s (f t b)) (l : List β)
    (h : Wakes c s t) : Wakes c s (l.foldl f t) := by
  induction l generalizing t with
  | nil => exact h
  | cons b l ih => exact ih (hf b t h)

theorem wakes_wakeRestored (hc : Calm s) (hr : (ctxAt s c).st = .running) : Wakes c s (wakeRestored s) := by
  refine wakes_foldl (fun k t h => ?_) _ ⟨.refl s, rfl, hc⟩
  split
  · exact h
  · refine wakes_foldl (fun e t h => ?_) _ h
    split
    · next hs =>
      refine h.wakeSaved hr ?_
      simp only [Bool.and_eq_true, beq_iff_eq] at hs
      exact hs.1
    · exact h

/-- Where none drains, the settling behind a commit only wakes. -/
theorem settle_calm (hc : Calm s) (hr : (ctxAt s c).st = .running) : settle s = wakeRestored s := by
  have hw := (wakes_wakeRestored hc hr).calm
  unfold settle
  dsimp only
  refine List.foldl_fixed' (fun k => ?_) _
  refine List.foldl_fixed' (fun e => ?_) _
  have hno : ((ctxAt (wakeRestored s) ⟨k, e.1⟩).st == .draining) = false := by simpa using (hw ⟨k, e.1⟩).1
  simp only [hno, Bool.false_and, Bool.false_eq_true, if_false]

theorem wakes_settle (hc : Calm s) (hr : (ctxAt s c).st = .running) : Wakes c s (settle s) := by
  rw [settle_calm hc hr]
  exact wakes_wakeRestored hc hr

/-! ## The parts of the commit step -/

variable {fr : Frame} {tag : Tag}

theorem ctxAt_commitFlags_other {d : CtxId} {draws : Nat} (h : d ≠ c) : ctxAt (commitFlags s c fr tag draws) d = ctxAt s d :=
  ctxAt_modCtx_other s _ h

/-- The flags that a block's firings for a tag have set. -/
def tagFlags (fr : Frame) (tag : Tag) : BitVec 6 := (fr.flags.filter (·.1 == tag)).foldl (fun (a : BitVec 6) e => a ||| e.2) 0

theorem getLsbD_foldl_or (l : List (Tag × BitVec 6)) (a : BitVec 6) (j : Nat) :
    (l.foldl (fun (a : BitVec 6) e => a ||| e.2) a).getLsbD j = (a.getLsbD j || l.any (fun e => e.2.getLsbD j)) := by
  induction l generalizing a with
  | nil => simp
  | cons e l ih => rw [List.foldl_cons, ih, BitVec.getLsbD_or, List.any_cons, Bool.or_assoc]

theorem getLsbD_tagFlags (fr : Frame) (tag : Tag) (j : Nat) :
    (tagFlags fr tag).getLsbD j = fr.flags.any (fun q => q.1 == tag && q.2.getLsbD j) := by
  rw [tagFlags, getLsbD_foldl_or, List.any_filter]
  simp

/-- R74: FPSTAT gains the flags of the block. -/
theorem getLsbD_fpstat_flags (x : Word) (fr : Frame) (tag : Tag) {j : Nat} (hj : j < 64) :
    (x ||| (tagFlags fr tag).setWidth 64).getLsbD j
      = (x.getLsbD j || fr.flags.any (fun q => q.1 == tag && decide (j < 6) && q.2.getLsbD j)) := by
  have hany : fr.flags.any (fun q => q.1 == tag && q.2.getLsbD j)
      = fr.flags.any (fun q => q.1 == tag && decide (j < 6) && q.2.getLsbD j) := by
    by_cases h6 : j < 6
    · simp [h6]
    · simp [h6, BitVec.getLsbD_of_ge _ _ (Nat.le_of_not_lt h6)]
  rw [BitVec.getLsbD_or, BitVec.getLsbD_setWidth, getLsbD_tagFlags, ← hany]
  simp [hj]

/-- The launch of a context takes note of the commit. -/
def unreport (c : CtxId) (s : State) : State :=
  match (ctxAt s c).launch with
  | some (_, lid) => modPartOf s c (fun p => { p with launches := p.launches.map (fun l : Launch =>
      if l.lid = lid then { l with reported := false } else l) })
  | none => s

theorem unreport_spec (c : CtxId) (s : State) : CtxsOnly s (unreport c s) ∧ ∀ d, ctxAt (unreport c s) d = ctxAt s d := by
  unfold unreport
  split
  · exact ⟨ctxsOnly_modPartOf s c _, fun _ => rfl⟩
  · exact ⟨.refl s, fun _ => rfl⟩

theorem dropOldest_eq (s : State) (c : CtxId) (fr : Frame) (target : Word) :
    ∃ f : Ctx → Ctx, dropOldest s c fr target = endHolds (unreport c (modCtx s c f)) c
      ∧ ∀ x, (f x).st = x.st ∧ (f x).prior = x.prior ∧ (f x).next = target ∧ (f x).frames.length = x.frames.length - 1
        ∧ (f x).fpstat = x.fpstat ∧ (f x).asyncs = x.asyncs ∧ (f x).course = x.course :=
  ⟨_, rfl, fun x => ⟨rfl, rfl, rfl, by simp [listSet], rfl, rfl, rfl⟩⟩

/-- The oldest block departs (R18): its context goes on at the target, in the state in which it was. -/
theorem dropOldest_spec (s : State) (c : CtxId) (fr : Frame) (target : Word) :
    CtxsOnly s (dropOldest s c fr target)
      ∧ (∀ d, (ctxAt (dropOldest s c fr target) d).st = (ctxAt s d).st ∧ (ctxAt (dropOldest s c fr target) d).prior = (ctxAt s d).prior)
      ∧ (ctxAt (dropOldest s c fr target) c).next = target
      ∧ (ctxAt (dropOldest s c fr target) c).frames.length = (ctxAt s c).frames.length - 1
      ∧ (ctxAt (dropOldest s c fr target) c).fpstat = (ctxAt s c).fpstat
      ∧ (ctxAt (dropOldest s c fr target) c).asyncs = (ctxAt s c).asyncs
      ∧ (ctxAt (dropOldest s c fr target) c).course = (ctxAt s c).course := by
  obtain ⟨f, heq, hf⟩ := dropOldest_eq s c fr target
  obtain ⟨hmc, hme⟩ := unreport_spec c (modCtx s c f)
  obtain ⟨hec, hee⟩ := holdsOnly_endHolds (unreport c (modCtx s c f)) c
  obtain ⟨hst, hprior, hself⟩ := hf (ctxAt s c)
  rw [heq]
  refine ⟨((ctxsOnly_modCtx s c f).trans hmc).trans hec, fun d => ?_, ?_⟩
  · rw [hee d, hme d]
    by_cases hd : d = c
    · subst hd
      rw [ctxAt_modCtx_self]
      exact ⟨hst, hprior⟩
    · rw [ctxAt_modCtx_other _ _ hd]
      exact ⟨rfl, rfl⟩
  · rw [hee c, hme c, ctxAt_modCtx_self]
    exact hself

/-! ## The commit of a block without effects -/

theorem orderedEffects_nil {fr : Frame} (h : fr.effects = []) (tag : Tag) : orderedEffects fr tag = [] := by
  simp [orderedEffects, h]

theorem reserveFaults_nil (s : State) (c : CtxId) (core : Nat) : reserveFaults s c core [] = [] := by
  simp [reserveFaults, effectFaults, sendsOver, sendsOf, countedEffects, countFaults]

theorem reserveWaits_nil (s : State) (c : CtxId) (core : Nat) : reserveWaits s c core [] = false := by
  simp [reserveWaits, countOf, sendsOver, sendsOf, matrixWaits, countedEffects]

theorem staleLoads_nil (s : State) (c : CtxId) (core : Nat) (fr : Frame) (tag : Tag) : staleLoads s c core fr tag [] = [] := rfl

theorem afterCommit_nil (h : (ctxAt s c).asyncs = []) : afterCommit s c [] = s := by
  simp [afterCommit, h]

theorem partBehind_solo {e : ExitRec} (h : (ctxAt s c).course = .solo) : partBehind s c fr e = s := by
  simp only [partBehind, h]

theorem followCourse_solo {lead : Option ExitRec} {target : Word} (h : (ctxAt s c).course = .solo) :
    followCourse s c lead target = s := by
  simp [followCourse, h]

theorem tryCommit_free {ps : List Pending} {commit : State} (hf : reserveFaults s c (execCore c fr s) ps = [])
    (hw : reserveWaits s c (execCore c fr s) ps = false) (hs : staleLoads s c (execCore c fr s) fr tag ps = []) :
    tryCommit s c fr tag ps commit = commit := by
  simp [tryCommit, hf, hw, hs]

theorem tryCommit_faults {ps : List Pending} {commit : State} {f : FaultRec} {fs : List FaultRec}
    (hf : reserveFaults s c (execCore c fr s) ps = f :: fs) :
    tryCommit s c fr tag ps commit = modFrame s c 0 (fun g => { g with faults := g.faults ++ f :: fs }) := by
  simp only [tryCommit, hf]

theorem exec_blockCommit (c : CtxId) (s : State) : exec (.blockCommit c) s = execBlockCommit c s := rfl
theorem exec_iterationCommit (c : CtxId) (s : State) : exec (.iterationCommit c) s = execIterationCommit c s := rfl

theorem blockCommit_tries {rest : List Frame} {e : ExitRec} {es : List ExitRec} (hx : (ctxAt s c).frames = fr :: rest)
    (hr : (ctxAt s c).st = .running) (hb : blockComplete s c fr = true) (hl : leaderDone s c fr = true) (he : fr.exits = e :: es)
    (hp : isPinned fr = false) :
    exec (.blockCommit c) s
      = .next (tryCommit s c fr (.iter 0) (orderedEffects fr (.iter 0)) (commitBlock s c fr (.iter 0) e)) := by
  rw [exec_blockCommit]
  simp [execBlockCommit, hx, hr, hb, hl, he, hp]

theorem iterationCommit_tries {rest : List Frame} (hx : (ctxAt s c).frames = fr :: rest) (hr : (ctxAt s c).st = .running)
    (hb : iterationDone s c fr = true) :
    exec (.iterationCommit c) s = .next (tryCommit s c fr (.iter fr.iter) (orderedEffects fr (.iter fr.iter))
      (settle (afterCommit (commitIteration s c fr (orderedEffects fr (.iter fr.iter))) c (orderedEffects fr (.iter fr.iter))))) := by
  rw [exec_iterationCommit]
  simp [execIterationCommit, hx, hr, hb]

/-- The machine behind the writes and the flags of a block. -/
def flagged (s : State) (c : CtxId) (fr : Frame) (draws : Nat) : State :=
  commitFlags (writeRegs s c (committedWrites fr)) c fr (.iter 0) draws

theorem ctxsOnly_flagged (s : State) (c : CtxId) (fr : Frame) (draws : Nat) :
    CtxsOnly (writeRegs s c (committedWrites fr)) (flagged s c fr draws) := by
  unfold flagged commitFlags
  exact ctxsOnly_modCtx _ c _

theorem ctxAt_flagged (s : State) (c : CtxId) (fr : Frame) (draws : Nat) :
    ∃ w, ctxAt (flagged s c fr draws) c
      = { ctxAt s c with fpstat := (ctxAt s c).fpstat ||| (tagFlags fr (.iter 0)).setWidth 64, seed := w } := by
  unfold flagged commitFlags
  rw [ctxAt_modCtx_self, (regsOnly_writeRegs s c (committedWrites fr)).ctxAt]
  exact ⟨_, rfl⟩

theorem ctxAt_flagged_other {d : CtxId} {draws : Nat} (h : d ≠ c) : ctxAt (flagged s c fr draws) d = ctxAt s d := by
  unfold flagged
  rw [ctxAt_commitFlags_other h, (regsOnly_writeRegs s c (committedWrites fr)).ctxAt]

/-- Without effects the commit step of a solo context's block writes registers and flags, and the block departs. -/
theorem commitBlock_plain {e : ExitRec} (he : fr.effects = []) (hc : (ctxAt s c).course = .solo) (hm : e.mchk = false)
    (ha : (ctxAt s c).asyncs = []) :
    ∃ draws, commitBlock s c fr (.iter 0) e = settle (dropOldest (flagged s c fr draws) c fr e.target) := by
  generalize hd : (if isPinned fr then finalDraws fr (blockRound (ctxAt s c) fr) else drawsOf fr (blockRound (ctxAt s c) fr)) = draws
  refine ⟨draws, ?_⟩
  obtain ⟨w, hflag⟩ := ctxAt_flagged s c fr draws
  obtain ⟨-, -, -, -, -, hasy, hcourse⟩ := dropOldest_spec (flagged s c fr draws) c fr e.target
  rw [hflag] at hasy hcourse
  have happly : ∀ u core, applyEffects u c core fr.addr [] = u := fun _ _ => rfl
  have hpart : partBehind (flagged s c fr draws) c fr e = flagged s c fr draws := partBehind_solo (by rw [hflag]; exact hc)
  unfold commitBlock
  simp only [hd, orderedEffects_nil he, happly, hm, Bool.false_eq_true, if_false]
  change settle (afterCommit (followCourse (dropOldest (partBehind (flagged s c fr draws) c fr e) c fr e.target) c _ e.target) c []) = _
  rw [hpart, followCourse_solo (hcourse.trans hc), afterCommit_nil (hasy.trans ha)]

end Sys2Proof.Laws
end

section
/-! CERTIFICATES. The commit step (R18, R19, R27, R74, R153). -/

namespace Sys2Proof.Laws

open Sys2Proof Sys2Proof.Machine

/-- Settles O51: the commit of a block without effects is its register writes, its flags and its departure; the contexts that
wake behind it are others. -/
theorem commitWritesTheRegisters : Obligations.CommitWritesTheRegisters := by
  refine ⟨fun c s fr rest e es hx hr hb hl he hp => ⟨fun f fs hf => ?_, fun hf hw hs => ?_, fun heff hc hm ha hcalm => ?_⟩,
    fun c s fr rest hx hr hb hf hw hs => ?_⟩
  · rw [blockCommit_tries hx hr hb hl he hp, tryCommit_faults hf]
  · rw [blockCommit_tries hx hr hb hl he hp, tryCommit_free hf hw hs]
  · obtain ⟨draws, ht⟩ := commitBlock_plain heff hc hm ha
    obtain ⟨w, hflag⟩ := ctxAt_flagged s c fr draws
    obtain ⟨hctxs, hsame, hnext, hlen, hfp, -, -⟩ := dropOldest_spec (flagged s c fr draws) c fr e.target
    rw [hflag] at hlen hfp
    have hst : ∀ d, (ctxAt (flagged s c fr draws) d).st = (ctxAt s d).st ∧ (ctxAt (flagged s c fr draws) d).prior = (ctxAt s d).prior := by
      intro d
      by_cases hd : d = c
      · subst hd
        rw [hflag]
        exact ⟨rfl, rfl⟩
      · rw [ctxAt_flagged_other hd]
        exact ⟨rfl, rfl⟩
    have hcalm' : Calm (dropOldest (flagged s c fr draws) c fr e.target) := calm_of_same (calm_of_same hcalm hst) hsame
    have hrun : (ctxAt (dropOldest (flagged s c fr draws) c fr e.target) c).st = .running :=
      ((hsame c).1.trans (hst c).1).trans hr
    have hwakes := wakes_settle hcalm' hrun
    have hregs := regsOnly_writeRegs s c (committedWrites fr)
    have hall : CtxsOnly (writeRegs s c (committedWrites fr)) (settle (dropOldest (flagged s c fr draws) c fr e.target)) :=
      (ctxsOnly_flagged s c fr draws).trans (hctxs.trans hwakes.ctxs)
    dsimp only
    rw [blockCommit_tries hx hr hb hl he hp, orderedEffects_nil heff,
      tryCommit_free (reserveFaults_nil ..) (reserveWaits_nil ..) (staleLoads_nil ..), ht, hwakes.own]
    refine ⟨rfl, hnext, ?_, hrun, fun j hj => ?_, fun r h => ?_, fun w tok hw hu hf => ?_, SameMemory.trans hregs.memory hall.memory⟩
    · rw [hlen, hx]
      rfl
    · rw [hfp]
      exact getLsbD_fpstat_flags _ fr _ hj
    · rw [hall.readReg]
      exact readReg_committed_other h
    · rw [hall.readReg]
      exact readReg_committed_slot hw hu hf
  · rw [iterationCommit_tries hx hr hb, tryCommit_free hf hw hs]

end Sys2Proof.Laws
end

section
/-! SUPPORT. Waking the contexts that watch bytes, and their records: no byte, no register, no L1 changes (R185, R202, R264). -/

namespace Sys2Proof.Laws

open Sys2Proof Sys2Proof.Machine

variable {C : Scope} {s : State}

theorem quiet_discardOwn (s : State) {c : CtxId} (n t : Nat) (h : C (some c)) : Quiet C s (discardOwn s c n t) := by
  unfold discardOwn
  split
  · exact Quiet.refl s
  · next fr _ =>
    exact ((quiet_releaseTags s c fr _).trans (quiet_modFrame _ n _ h)).trans (quiet_giveBack _ c _ _)

theorem quiet_discardMate (c : CtxId) (pos t : Nat) (s : State) (k : Nat) : Quiet anyFrames s (discardMate c pos t s k) := by
  unfold discardMate
  dsimp only
  refine .trans ?_ (quiet_modMate _ c k fun _ => rfl)
  split
  · exact quiet_discardOwn s _ _ nofun
  · exact Quiet.refl s

theorem quiet_discardIters (s : State) (c : CtxId) (n t : Nat) : Quiet anyFrames s (discardIters s c n t) := by
  unfold discardIters
  split
  · exact Quiet.refl s
  · next fr _ =>
    have h := quiet_discardOwn (C := anyFrames) s (c := c) n t nofun
    exact quiet_ite (h.trans (quiet_foldl (fun k _ s => quiet_discardMate c fr.pos t s k) _)) h

theorem quiet_squashLater (s : State) (c : CtxId) : Quiet anyFrames s (squashLater s c) := by
  have h := quiet_squashCourse (C := anyFrames) s (c := c) 1 nofun fun _ _ => nofun
  unfold squashLater squashYounger
  dsimp only
  split
  · exact quiet_ite (h.trans (quiet_discardIters _ c 0 _)) h
  · exact h

/-- A watch on bytes that were touched answers (R185). -/
theorem quiet_wakeWatches (s : State) (touched : List Loc) : Quiet anyFrames s (wakeWatches s touched) := by
  refine quiet_foldl (fun k _ s => quiet_ite (quiet_foldl (fun e _ s => ?_) s) (Quiet.refl s)) s
  cases (ctxAt s ⟨k, e.1⟩).watch with
  | none => exact Quiet.refl s
  | some wt =>
    refine quiet_ite ?_ (Quiet.refl s)
    refine .trans (.trans ?_ (quiet_squashLater _ _)) (quiet_modCtx _ _ (.inr fun _ => ?_))
    · exact quiet_modCtx s _ (.inr fun _ => rfl)
    · rfl

/-- Where nothing was touched nothing wakes. -/
theorem wakeWatches_nil (s : State) : wakeWatches s [] = s := by
  refine List.foldl_fixed' (fun k => ?_) _
  dsimp only
  split
  · refine List.foldl_fixed' (fun e => ?_) _
    cases (ctxAt s ⟨k, e.1⟩).watch with
    | none => rfl
    | some wt => simp
  · rfl

theorem quiet_slotRecords (s : State) (c : CtxId) (rs : List Record) : Quiet C s (slotRecords s c rs) := by
  refine quiet_ite (quiet_foldl (fun r _ s => quiet_modDie s _ _) s) ?_
  refine .trans ?_ (quiet_modPartOf _ c _)
  exact quiet_modCtx s c (.inr fun _ => rfl)

theorem quiet_asyncRecord (s : State) (c : CtxId) (r : RecordArgs) : Quiet C s (asyncRecord s c r) := by
  unfold asyncRecord sendRecord
  dsimp only
  refine quiet_ite (quiet_slotRecords s c _) (quiet_ite ?_ ?_)
  · exact .trans (quiet_slotRecords s c _) (quiet_modCtx _ c (.inr fun _ => rfl))
  · exact quiet_modCtx s c (.inr fun _ => rfl)

theorem quiet_asyncRecords (s : State) (rs : List (CtxId × RecordArgs)) : Quiet C s (asyncRecords s rs) :=
  quiet_foldl (fun e _ s => quiet_asyncRecord s e.1 e.2) s

end Sys2Proof.Laws
end

section
/-! SUPPORT. Writes of an L1's bytes at their homes, under each policy (R46, R234, R272 to R274). -/

namespace Sys2Proof.Laws

open Sys2Proof Sys2Proof.Machine

variable {s : State}

theorem tabGet_foldl_writes (t : Tab Byte) (bs : List (Nat × Byte)) (a : Nat) :
    tabGet 0 (bs.foldl (fun t e => tabSet 0 t e.1 e.2) t) a = (lastWrite bs a).getD (tabGet 0 t a) := by
  induction bs using List.reverseRecOn with
  | nil => rfl
  | append_singleton bs e ih =>
    rw [List.foldl_append, List.foldl_cons, List.foldl_nil, lastWrite_append_singleton, tabGet_tabSet, ih]
    by_cases h : e.1 = a
    · simp [h]
    · simp [h, Ne.symm h]

theorem homeByte_keep (s : State) (line r a : Nat) : homeByte (modL2 s line (fun l => { l with keep := r })) a = homeByte s a := by
  have h := (quiet_keep (C := anyL1) s line r).memory (.pa a 0)
  simpa [readByte] using h

/-- One line's bytes at their home, under a policy (R46, R234). -/
def homeLineBy (policy : Nat) (bs : List (Nat × Byte)) (s : State) (line : Nat) : State :=
  let mine := bs.filter (fun e => e.1 / 64 = line)
  let held := l2Holds s line
  if policy ≠ 3 then
    let s := homeWriteLine s line mine
    if (held && policy ≠ 2) || !(l2At s line).dirty || policy = 0 then s
    else modL2 s line (fun l => { l with keep := retention policy })
  else if held then homeWriteLine s line mine
  else
    let s := { s with hbm := mine.foldl (fun t e => tabSet 0 t e.1 e.2) s.hbm }
    if wholeLine mine then heal s [line] else s

theorem homeWriteBy_eq (s : State) (policy : Nat) (bs : List (Nat × Byte)) :
    homeWriteBy s policy bs = (linesOf bs).foldl (homeLineBy policy bs) s := rfl

theorem onlyHomes_homeLineBy (policy : Nat) (bs : List (Nat × Byte)) (s : State) (line : Nat) :
    OnlyHomes s (homeLineBy policy bs s line) := by
  unfold homeLineBy
  refine onlyHomes_ite ?_ (onlyHomes_ite (onlyHomes_homeWriteLine ..) ?_)
  · exact onlyHomes_ite (onlyHomes_homeWriteLine ..) ((onlyHomes_homeWriteLine ..).trans (onlyHomes_modL2 ..))
  · exact onlyHomes_ite ((onlyHomes_hbm ..).trans (onlyHomes_heal ..)) (onlyHomes_hbm ..)

theorem homeByte_homeLineBy (policy : Nat) (bs : List (Nat × Byte)) (s : State) (line a : Nat) :
    homeByte (homeLineBy policy bs s line) a
      = if a / 64 = line then (lastWrite bs a).getD (homeByte s a) else homeByte s a := by
  unfold homeLineBy
  dsimp only
  split
  · split
    · exact homeByte_homeWriteLine_filter ..
    · rw [homeByte_keep, homeByte_homeWriteLine_filter]
  · split
    · exact homeByte_homeWriteLine_filter ..
    · next hheld =>
      have hblank : l2At s line = blankLine := by simpa [l2Holds] using hheld
      generalize hu : ({ s with hbm := (bs.filter (fun e => e.1 / 64 = line)).foldl (fun t e => tabSet 0 t e.1 e.2) s.hbm } : State) = u
      have hl2 : ∀ n, l2At u n = l2At s n := fun n => by rw [← hu]; rfl
      have hget : tabGet 0 u.hbm a = (lastWrite (bs.filter (fun e => e.1 / 64 = line)) a).getD (tabGet 0 s.hbm a) := by
        rw [← hu]
        exact tabGet_foldl_writes ..
      have hbyte : homeByte u a = if a / 64 = line then (lastWrite bs a).getD (homeByte s a) else homeByte s a := by
        split
        · next ha =>
          subst ha
          have hd : (l2At s (a / 64)).dirty = false ∧ (l2At s (a / 64)).n = 0 := by rw [hblank]; exact ⟨rfl, rfl⟩
          rw [homeByte_of_notHeld (by rw [hl2]; exact hd.1) (by rw [hl2]; exact hd.2), hget, lastWrite_filter_line,
            homeByte_of_notHeld hd.1 hd.2]
        · next ha =>
          refine homeByte_congr ?_ (hl2 _)
          rw [hget, lastWrite_eq_none, Option.getD_none]
          intro e he h
          exact ha (by rw [← h]; simpa using (List.mem_filter.mp he).2)
      rw [← hbyte]
      split
      · exact homeByte_heal ..
      · rfl

theorem homeByte_foldl_homeLineBy (policy : Nat) (bs : List (Nat × Byte)) (s : State) (ls : List Nat) (a : Nat) :
    homeByte (ls.foldl (homeLineBy policy bs) s) a
      = if a / 64 ∈ ls then (lastWrite bs a).getD (homeByte s a) else homeByte s a := by
  induction ls generalizing s with
  | nil => simp
  | cons l ls ih =>
    rw [List.foldl_cons, ih, homeByte_homeLineBy]
    by_cases hl : a / 64 = l
    · cases lastWrite bs a <;> simp [hl]
    · simp [hl]

theorem homeByte_homeWriteBy (s : State) (policy : Nat) (bs : List (Nat × Byte)) (a : Nat) :
    homeByte (homeWriteBy s policy bs) a = (lastWrite bs a).getD (homeByte s a) := by
  rw [homeWriteBy_eq, homeByte_foldl_homeLineBy]
  split
  · rfl
  · next hl => rw [lastWrite_eq_none fun e he h => hl (by rw [← h]; exact mem_linesOf he), Option.getD_none]

theorem onlyHomes_foldl {β : Type} {f : State → β → State} (hf : ∀ s b, OnlyHomes s (f s b)) (l : List β) (s : State) :
    OnlyHomes s (l.foldl f s) := by
  induction l generalizing s with
  | nil => exact .refl s
  | cons b l ih => exact (hf s b).trans (ih _)

theorem onlyHomes_homeMerge (s : State) (policy : Nat) (bs : List (Nat × Byte)) : OnlyHomes s (homeMerge s policy bs) :=
  (onlyHomes_foldl (onlyHomes_homeLineBy policy bs) (linesOf bs) s).trans (onlyHomes_hbm ..)

/-- Bytes that an L1 writes back: each home holds what was written to it last; what HBM is told of counted lines changes no
home (R273). -/
theorem homeByte_homeMerge (s : State) (policy : Nat) (bs : List (Nat × Byte)) (a : Nat) :
    homeByte (homeMerge s policy bs) a = (lastWrite bs a).getD (homeByte s a) := by
  rw [← homeByte_homeWriteBy]
  unfold homeMerge
  dsimp only
  generalize homeWriteBy s policy bs = t
  generalize hu : ({ t with hbm := (bs.filter (fun e => (l2At t (e.1 / 64)).n ≠ 0)).foldl (fun t e => tabSet 0 t e.1 e.2) t.hbm } : State) = u
  have hl2 : ∀ n, l2At u n = l2At t n := fun n => by rw [← hu]; rfl
  by_cases hn : (l2At t (a / 64)).n = 0
  · refine homeByte_congr ?_ (hl2 _)
    have hget : tabGet 0 u.hbm a = (lastWrite (bs.filter (fun e => (l2At t (e.1 / 64)).n ≠ 0)) a).getD (tabGet 0 t.hbm a) := by
      rw [← hu]
      exact tabGet_foldl_writes ..
    rw [hget, lastWrite_eq_none, Option.getD_none]
    intro e he h
    have := (List.mem_filter.mp he).2
    rw [h] at this
    simp [hn] at this
  · rw [homeByte_of_held (.inr (by rw [hl2]; exact hn)), homeByte_of_held (.inr hn), hl2]

end Sys2Proof.Laws
end

section
/-! SUPPORT. How full an L1 is: bytes that go home and copies that are brought up to date take no line more (R140, R217, R259, R262). -/

namespace Sys2Proof.Laws

open Sys2Proof Sys2Proof.Machine

/-! ## Tables that a write makes longer -/

/-- A write at a key makes a table longer. -/
def grows (n : Nat) : Tab Wide → Bool
  | [] => true
  | e :: t => if n < e.1 then true else if e.1 = n then false else grows n t

theorem length_tabPut (n : Nat) (v : Wide) (t : Tab Wide) : (tabPut n v t).length = t.length + if grows n t then 1 else 0 := by
  induction t with
  | nil => rfl
  | cons e t ih =>
    simp only [tabPut, grows]
    by_cases hlt : n < e.1
    · simp [hlt]
    · by_cases heq : e.1 = n
      · simp [heq]
      · simp only [hlt, heq, if_false, List.length_cons, ih]
        omega

theorem grows_tabPut (n m : Nat) (v : Wide) (t : Tab Wide) : grows m (tabPut n v t) = (decide (m ≠ n) && grows m t) := by
  induction t with
  | nil =>
    simp only [tabPut, grows]
    by_cases h : m = n
    · simp [h]
    · simp [h, Ne.symm h]
  | cons e t ih =>
    simp only [tabPut]
    by_cases hlt : n < e.1
    · simp only [hlt, if_true, grows]
      by_cases h : m = n
      · simp [h]
      · by_cases hm : m < n
        · simp [h, hm, hm.trans hlt]
        · simp [h, hm, Ne.symm h]
    · by_cases heq : e.1 = n
      · simp only [heq, if_true, lt_irrefl, if_false, grows]
        by_cases h : m = n
        · simp [h]
        · simp [h, Ne.symm h]
      · simp only [hlt, heq, if_false, grows, ih]
        by_cases hm : m < e.1
        · have : m ≠ n := by omega
          simp [hm, this]
        · by_cases hme : e.1 = m
          · simp [hme]
          · simp [hm, hme]

/-- A key that a removal of another leaves out of place was out of place before. -/
theorem grows_tabDel {n m : Nat} {t : Tab Wide} (h : grows m (tabDel n t) = true) (hne : m ≠ n) : grows m t = true := by
  induction t with
  | nil => rfl
  | cons e t ih =>
    simp only [grows]
    by_cases hn : e.1 = n
    · have hdel : tabDel n (e :: t) = tabDel n t := by simp [tabDel, hn]
      rw [hdel] at h
      have hem : e.1 ≠ m := fun hm => hne (hm.symm.trans hn)
      simp [hem, ih h]
    · have hdel : tabDel n (e :: t) = e :: tabDel n t := by simp [tabDel, hn]
      rw [hdel] at h
      simp only [grows] at h
      by_cases hlt : m < e.1
      · simp [hlt]
      · by_cases hem : e.1 = m
        · simp [hem] at h
        · simp only [hlt, hem, if_false] at h ⊢
          exact ih h

theorem grows_of_notMem {n : Nat} {t : Tab Wide} (h : n ∉ t.map (·.1)) : grows n t = true := by
  induction t with
  | nil => rfl
  | cons e t ih =>
    rw [List.map_cons, List.mem_cons, not_or] at h
    simp [grows, Ne.symm h.1, ih h.2]

theorem map_fst_tabPut (n : Nat) (v : Wide) (t : Tab Wide) : ((tabPut n v t).map (·.1)).toFinset = insert n (t.map (·.1)).toFinset := by
  induction t with
  | nil => simp [tabPut]
  | cons e t ih =>
    simp only [tabPut]
    by_cases hlt : n < e.1
    · simp [hlt]
    · by_cases heq : e.1 = n
      · simp [heq]
      · simp only [hlt, heq, if_false, List.map_cons, List.toFinset_cons, ih]
        exact Finset.insert_comm ..

/-! ## The lines of an L1 -/

def cleanLines (k : Core) : Finset Nat := (k.clean.map (·.1)).toFinset

/-- The lines of the dirty GEN bytes. -/
def dirtyLines (k : Core) : Finset Nat := ((k.dirty.filter (fun e => decide (e.1 < spadBase))).map (·.1 / 64)).toFinset

theorem mem_dirtyLines {k : Core} {l : Nat} : l ∈ dirtyLines k ↔ ∃ e ∈ k.dirty, e.1 < spadBase ∧ e.1 / 64 = l := by
  simp [dirtyLines, and_assoc]

/-- The lines of an L1 are its clean ones, and those of dirty bytes without a clean copy, each once. -/
theorem l1Lines_eq (k : Core) : ∃ ex : List Nat, l1Lines k = k.clean.map (·.1) ++ ex ∧ ex.Nodup ∧ ex.toFinset = dirtyLines k \ cleanLines k := by
  have hgen : ∀ (d : Tab DirtyByte) (ls : List Nat), ∃ ex : List Nat,
      d.foldl (fun ls e => if spadBase ≤ e.1 || ls.contains (e.1 / 64) then ls else ls ++ [e.1 / 64]) ls = ls ++ ex
        ∧ ex.Nodup ∧ ∀ l, l ∈ ex ↔ l ∉ ls ∧ ∃ e ∈ d, e.1 < spadBase ∧ e.1 / 64 = l := by
    intro d
    induction d with
    | nil => exact fun ls => ⟨[], by simp⟩
    | cons e d ih =>
      intro ls
      rw [List.foldl_cons]
      by_cases hskip : (decide (spadBase ≤ e.1) || ls.contains (e.1 / 64)) = true
      · rw [if_pos hskip]
        obtain ⟨ex, h1, h2, h3⟩ := ih ls
        refine ⟨ex, h1, h2, fun l => (h3 l).trans (and_congr_right fun hl => ?_)⟩
        rw [List.exists_mem_cons_iff]
        refine (or_iff_right ?_).symm
        rintro ⟨hlt, rfl⟩
        have hge : ¬ spadBase ≤ e.1 := Nat.not_le.mpr hlt
        simp [hge, hl] at hskip
      · rw [if_neg hskip]
        obtain ⟨ex, h1, h2, h3⟩ := ih (ls ++ [e.1 / 64])
        simp only [Bool.or_eq_true, decide_eq_true_eq, List.contains_iff_mem, not_or, Nat.not_le] at hskip
        have hnot : e.1 / 64 ∉ ex := fun hm => ((h3 _).mp hm).1 (by simp)
        refine ⟨e.1 / 64 :: ex, by rw [h1, List.append_assoc]; rfl, List.nodup_cons.mpr ⟨hnot, h2⟩, fun l => ?_⟩
        rw [List.mem_cons, h3, List.exists_mem_cons_iff]
        by_cases hl : l = e.1 / 64
        · subst hl
          simp [hskip]
        · simp [hl, Ne.symm hl]
  obtain ⟨ex, h1, h2, h3⟩ := hgen k.dirty (k.clean.map (·.1))
  refine ⟨ex, h1, h2, ?_⟩
  ext l
  rw [List.mem_toFinset, h3, Finset.mem_sdiff, mem_dirtyLines, cleanLines, List.mem_toFinset, and_comm]

theorem length_l1Lines (k : Core) : (l1Lines k).length = k.clean.length + (dirtyLines k \ cleanLines k).card := by
  obtain ⟨ex, h1, h2, h3⟩ := l1Lines_eq k
  rw [h1, List.length_append, List.length_map, ← h3, List.toFinset_card_of_nodup h2]

theorem mem_l1Lines {k : Core} {l : Nat} : l ∈ l1Lines k ↔ l ∈ cleanLines k ∪ dirtyLines k := by
  obtain ⟨ex, h1, h2, h3⟩ := l1Lines_eq k
  rw [h1, List.mem_append, Finset.mem_union]
  have hex : l ∈ ex ↔ l ∈ dirtyLines k ∧ l ∉ cleanLines k := by rw [← List.mem_toFinset, h3, Finset.mem_sdiff]
  rw [hex, cleanLines, List.mem_toFinset]
  tauto

/-- How many lines an L1 may come to hold with some more: its clean copies, those of the lines that a write would make one longer,
and the lines of the other dirty bytes. -/
def fill (ls : Finset Nat) (k : Core) : Nat :=
  k.clean.length + (ls.filter (fun l => grows l k.clean = true)).card + ((dirtyLines k \ ls) \ cleanLines k).card

theorem fill_le (ls : Finset Nat) (k : Core) : fill ls k ≤ (l1Lines k).length + ls.card := by
  rw [length_l1Lines, fill]
  have h1 := Finset.card_filter_le ls (fun l => grows l k.clean = true)
  have h2 : ((dirtyLines k \ ls) \ cleanLines k).card ≤ (dirtyLines k \ cleanLines k).card :=
    Finset.card_le_card (Finset.sdiff_subset_sdiff Finset.sdiff_subset (Finset.Subset.refl _))
  omega

/-- What an L1 would hold with some lines more is at most its fill. -/
theorem l1Over_of_fill {lines sub : List Nat} {k : Core} (hn : sub.Nodup) (hs : ∀ l ∈ sub, l ∈ lines)
    (hf : fill lines.toFinset k ≤ l1Ways) : l1Over k sub = 0 := by
  have hcount : (sub.filter (fun l => !(l1Lines k).contains l)).length
      = (sub.toFinset \ (cleanLines k ∪ dirtyLines k)).card := by
    rw [← List.toFinset_card_of_nodup (hn.filter _)]
    congr 1
    ext l
    simp [mem_l1Lines]
  have hsplit : (dirtyLines k \ cleanLines k).card + (sub.toFinset \ (cleanLines k ∪ dirtyLines k)).card
      ≤ ((dirtyLines k \ lines.toFinset) \ cleanLines k).card + (lines.toFinset.filter (fun l => grows l k.clean = true)).card := by
    rw [← Finset.card_union_of_disjoint]
    · refine le_trans (Finset.card_le_card ?_) (Finset.card_union_le _ _)
      intro l hl
      have hnot : l ∉ cleanLines k := by
        rcases Finset.mem_union.mp hl with h | h
        · exact (Finset.mem_sdiff.mp h).2
        · exact fun hc => (Finset.mem_sdiff.mp h).2 (Finset.mem_union_left _ hc)
      have hgrow : grows l k.clean = true := grows_of_notMem fun hm => hnot (List.mem_toFinset.mpr hm)
      rw [Finset.mem_union, Finset.mem_sdiff, Finset.mem_sdiff, Finset.mem_filter]
      by_cases hmem : l ∈ lines.toFinset
      · exact .inr ⟨hmem, hgrow⟩
      · rcases Finset.mem_union.mp hl with h | h
        · exact .inl ⟨⟨(Finset.mem_sdiff.mp h).1, hmem⟩, hnot⟩
        · have := hs l (List.mem_toFinset.mp (Finset.mem_sdiff.mp h).1)
          exact absurd (List.mem_toFinset.mpr this) hmem
    · refine Finset.disjoint_left.mpr fun l h1 h2 => ?_
      exact (Finset.mem_sdiff.mp h2).2 (Finset.mem_union_right _ (Finset.mem_sdiff.mp h1).1)
  unfold l1Over
  rw [hcount, length_l1Lines]
  unfold fill at hf
  omega

/-! ## What leaves the fill of an L1 -/

theorem fill_dirty {ls : Finset Nat} {k k' : Core} (hc : k'.clean = k.clean) (hd : k'.dirty ⊆ k.dirty) : fill ls k' ≤ fill ls k := by
  have hC : cleanLines k' = cleanLines k := by rw [cleanLines, hc, cleanLines]
  have hD : dirtyLines k' ⊆ dirtyLines k := fun l hl => by
    obtain ⟨e, he, h⟩ := mem_dirtyLines.mp hl
    exact mem_dirtyLines.mpr ⟨e, hd he, h⟩
  unfold fill
  rw [hc, hC]
  have := Finset.card_le_card (Finset.sdiff_subset_sdiff (Finset.sdiff_subset_sdiff hD (Finset.Subset.refl ls)) (Finset.Subset.refl (cleanLines k)))
  omega

/-- A clean copy that is brought up to date. -/
theorem fill_merge {ls : Finset Nat} {k : Core} {l : Nat} {v : Wide} (hl : l ∈ ls) (hc : l ∈ cleanLines k) :
    fill ls { k with clean := tabPut l v k.clean } ≤ fill ls k := by
  have hC : cleanLines { k with clean := tabPut l v k.clean } = cleanLines k := by
    rw [cleanLines, map_fst_tabPut]
    exact Finset.insert_eq_of_mem hc
  have hF : ls.filter (fun m => grows m (tabPut l v k.clean) = true) = (ls.filter (fun m => grows m k.clean = true)).erase l := by
    ext m
    simp only [Finset.mem_filter, Finset.mem_erase, grows_tabPut, Bool.and_eq_true, decide_eq_true_eq]
    tauto
  unfold fill
  rw [hC, hF, length_tabPut]
  have hD : dirtyLines { k with clean := tabPut l v k.clean } = dirtyLines k := rfl
  rw [hD]
  cases hg : grows l k.clean with
  | true =>
    have hmem : l ∈ ls.filter (fun m => grows m k.clean = true) := Finset.mem_filter.mpr ⟨hl, hg⟩
    have := Finset.card_erase_add_one hmem
    simp only [if_true]
    omega
  | false =>
    have hnot : l ∉ ls.filter (fun m => grows m k.clean = true) := fun h => by
      rw [(Finset.mem_filter.mp h).2] at hg
      cases hg
    rw [Finset.erase_eq_of_notMem hnot]
    simp

/-- A clean copy that is dropped. -/
theorem fill_drop {ls : Finset Nat} {k : Core} {l : Nat} (hl : l ∈ ls) (hc : k.clean.any (fun e => decide (e.1 = l)) = true) :
    fill ls { k with clean := tabDel l k.clean } ≤ fill ls k := by
  have hlen : (tabDel l k.clean).length + 1 ≤ k.clean.length := by
    obtain ⟨e, he, hel⟩ := List.any_eq_true.mp hc
    exact List.length_filter_lt_length_iff_exists.mpr ⟨e, he, by simpa using hel⟩
  have hF : ls.filter (fun m => grows m (tabDel l k.clean) = true) ⊆ insert l (ls.filter (fun m => grows m k.clean = true)) := by
    intro m hm
    obtain ⟨hm1, hm2⟩ := Finset.mem_filter.mp hm
    by_cases hml : m = l
    · exact hml ▸ Finset.mem_insert_self ..
    · exact Finset.mem_insert_of_mem (Finset.mem_filter.mpr ⟨hm1, grows_tabDel hm2 hml⟩)
  have hD : (dirtyLines k \ ls) \ cleanLines { k with clean := tabDel l k.clean } ⊆ (dirtyLines k \ ls) \ cleanLines k := by
    intro m hm
    obtain ⟨hm1, hm2⟩ := Finset.mem_sdiff.mp hm
    refine Finset.mem_sdiff.mpr ⟨hm1, fun hmc => hm2 ?_⟩
    have hml : m ≠ l := fun h => (Finset.mem_sdiff.mp hm1).2 (h ▸ hl)
    obtain ⟨e, he, rfl⟩ := List.mem_map.mp (List.mem_toFinset.mp hmc)
    exact List.mem_toFinset.mpr (List.mem_map.mpr ⟨e, List.mem_filter.mpr ⟨he, by simpa using hml⟩, rfl⟩)
  have h1 := (Finset.card_le_card hF).trans (Finset.card_insert_le ..)
  have h2 := Finset.card_le_card hD
  have hsame : dirtyLines { k with clean := tabDel l k.clean } = dirtyLines k := rfl
  unfold fill
  rw [hsame]
  dsimp only
  omega

end Sys2Proof.Laws
end

section
/-! SUPPORT. Bytes of the L1s that go home (R46, R262, R264, R298). -/

namespace Sys2Proof.Laws

open Sys2Proof Sys2Proof.Machine

variable {s t u : State} {K : Nat → Prop} {ls : Finset Nat}

/-- Bytes of GEN at the keys in K may change, no other byte and no register; L1s lose dirty bytes alone, and come to hold no more lines. -/
structure Carried (K : Nat → Prop) (ls : Finset Nat) (s t : State) : Prop where
  memory : ∀ l, (∀ a v, l = .pa a v → ¬ K a) → readByte t l = readByte s l
  regs : SameRegs s t
  clusters : t.clusters = s.clusters
  bonds : ∀ k, (coreAt t k).kind = (coreAt s k).kind ∧ (coreAt t k).set = (coreAt s k).set
  dirty : ∀ k, (coreAt t k).dirty ⊆ (coreAt s k).dirty
  fill : ∀ k, fill ls (coreAt t k) ≤ fill ls (coreAt s k)

theorem Carried.refl (s : State) : Carried K ls s s :=
  ⟨fun _ _ => rfl, fun _ => ⟨rfl, rfl⟩, rfl, fun _ => ⟨rfl, rfl⟩, fun _ => List.Subset.refl _, fun _ => le_rfl⟩

theorem Carried.trans (h : Carried K ls s t) (h' : Carried K ls t u) : Carried K ls s u where
  memory l hl := (h'.memory l hl).trans (h.memory l hl)
  regs k := ⟨(h'.regs k).1.trans (h.regs k).1, (h'.regs k).2.trans (h.regs k).2⟩
  clusters := h'.clusters.trans h.clusters
  bonds k := ⟨(h'.bonds k).1.trans (h.bonds k).1, (h'.bonds k).2.trans (h.bonds k).2⟩
  dirty k := List.Subset.trans (h'.dirty k) (h.dirty k)
  fill k := (h'.fill k).trans (h.fill k)

theorem carried_foldl {β : Type} {f : State → β → State} {l : List β} (hf : ∀ b ∈ l, ∀ t, Carried K ls s t → Carried K ls t (f t b))
    (h : Carried K ls s t) : Carried K ls s (l.foldl f t) := by
  induction l generalizing t with
  | nil => exact h
  | cons b l ih =>
    exact ih (fun b hb => hf b (List.mem_cons_of_mem _ hb)) (h.trans (hf b (List.mem_cons_self ..) t h))

theorem Quiet.carried {C : Scope} (h : Quiet C s t) (hc : ¬ C none) : Carried K ls s t where
  memory l _ := h.memory l
  regs := h.regs
  clusters := h.clusters
  bonds := h.bonds
  dirty k := by rw [(h.l1 hc k).2]; exact List.Subset.refl _
  fill k := fill_dirty (h.l1 hc k).1 (by rw [(h.l1 hc k).2]; exact List.Subset.refl _)

/-- A change of a core's L1 that adds no dirty byte and no line. -/
theorem carried_modCore (n : Nat) {f : Core → Core} (hf : SparesCore f) (hd : (f (coreAt s n)).dirty ⊆ (coreAt s n).dirty)
    (hl : fill ls (f (coreAt s n)) ≤ fill ls (coreAt s n)) : Carried K ls s (modCore s n f) := by
  have hq : Quiet anything s (modCore s n f) := quiet_modCore s n hf (.inl trivial)
  refine ⟨fun l _ => hq.memory l, hq.regs, hq.clusters, hq.bonds, fun k => ?_, fun k => ?_⟩
  · rw [coreAt_modCore]
    split
    · subst k
      exact hd
    · exact List.Subset.refl _
  · rw [coreAt_modCore]
    split
    · subst k
      exact hl
    · exact le_rfl

theorem sparesCore_clean (g : Core → Tab Wide) : SparesCore (fun q => { q with clean := g q }) :=
  ⟨fun _ => rfl, fun _ => rfl, fun _ => rfl, fun _ => rfl, fun _ => rfl, fun _ => rfl⟩

theorem sparesCore_dirty (g : Core → Tab DirtyByte) : SparesCore (fun q => { q with dirty := g q }) :=
  ⟨fun _ => rfl, fun _ => rfl, fun _ => rfl, fun _ => rfl, fun _ => rfl, fun _ => rfl⟩

theorem carried_dropDirty (s : State) (n : Nat) (p : Nat × DirtyByte → Bool) :
    Carried K ls s (modCore s n (fun k => { k with dirty := k.dirty.filter p })) :=
  carried_modCore n (sparesCore_dirty _) List.filter_sublist.subset (fill_dirty rfl List.filter_sublist.subset)

theorem carried_homeMerge (s : State) (policy : Nat) {bs : List (Nat × Byte)} (hb : ∀ e ∈ bs, K e.1) :
    Carried K ls s (homeMerge s policy bs) := by
  have h := onlyHomes_homeMerge s policy bs
  refine ⟨fun l hl => ?_, fun k => by rw [h.coreAt]; exact ⟨rfl, rfl⟩, by rw [h], fun k => by rw [h.coreAt]; exact ⟨rfl, rfl⟩,
    fun k => by rw [h.coreAt]; exact List.Subset.refl _, fun k => by rw [h.coreAt]⟩
  cases l with
  | pa a v =>
    have hno : lastWrite bs a = none := lastWrite_eq_none fun e he hea => hl a v rfl (hea ▸ hb e he)
    simp only [readByte, homeByte_homeMerge, hno, Option.getD_none]
  | spad k o => simp only [readByte, h.coreAt]
  | host a => simp only [readByte, h.hostMem]
  | _ => rfl

theorem mem_cleanLines_of_lookup {k : Core} {n : Nat} {line : Wide}
    (h : tabGet none (k.clean.map (fun e => (e.1, some e.2))) n = some line) : n ∈ cleanLines k := by
  rcases tabGet_mem none (k.clean.map (fun e => (e.1, some e.2))) n with h' | h'
  · rw [h'] at h
    cases h
  · obtain ⟨e, he, heq⟩ := List.mem_map.mp h'
    exact List.mem_toFinset.mpr (List.mem_map.mpr ⟨e, he, congrArg Prod.fst heq⟩)

theorem carried_mergeClean (s : State) (c : CtxId) {key : Nat} (b : Byte) (hk : key / 64 ∈ ls) :
    Carried K ls s (mergeClean s c key b) := by
  refine carried_foldl (fun k _ t _ => ?_) (.refl s)
  split
  · next line h => exact carried_modCore k (sparesCore_clean _) (List.Subset.refl _) (fill_merge hk (mem_cleanLines_of_lookup h))
  · exact .refl t

theorem carried_dropOwnClean (s : State) (c : CtxId) {key : Nat} (hk : key / 64 ∈ ls) : Carried K ls s (dropOwnClean s c key) := by
  refine carried_foldl (fun k _ t _ => ?_) (.refl s)
  split
  · next h => exact carried_modCore k (sparesCore_clean _) (List.Subset.refl _) (fill_drop hk h)
  · exact .refl t

/-- The bytes that are carried home change at their keys alone, and those that are refused nowhere. -/
theorem carried_carryHomeBy (policy : Nat) (s : State) (core : Nat) {sel : Nat → CtxId → Bool} (pub : Option (CtxId × Word))
    (hK : ∀ e ∈ (coreAt s core).dirty, sel e.1 e.2.by_ = true → K e.1) (hls : ∀ a, K a → a / 64 ∈ ls) :
    Carried K ls s (carryHomeBy policy s core sel pub).1 := by
  unfold carryHomeBy
  dsimp only
  generalize hall : (coreAt s core).dirty.filter (fun e => decide (e.1 < spadBase) && sel e.1 e.2.by_) = all
  have hmem : ∀ e ∈ all, K e.1 := fun e he => by
    rw [← hall] at he
    obtain ⟨he1, he2⟩ := List.mem_filter.mp he
    exact hK e he1 (Bool.and_eq_true_iff.mp he2).2
  generalize hgood : ((all.map (fun e => (pubCause s (ownerOf s e.2) e.1 e.2.va, e))).filter (fun e => e.1.isNone)).map (·.2) = good
  have hgmem : ∀ e ∈ good, K e.1 := fun e he => by
    rw [← hgood] at he
    obtain ⟨q, hq, rfl⟩ := List.mem_map.mp he
    obtain ⟨e', he', rfl⟩ := List.mem_map.mp (List.mem_filter.mp hq).1
    exact hmem e' he'
  generalize hbad : (all.map (fun e => (pubCause s (ownerOf s e.2) e.1 e.2.va, e))).filterMap (fun e => e.1.map (fun c => (c, e.2))) = bad
  have hbmem : ∀ e ∈ bad, K e.2.1 := fun e he => by
    rw [← hbad] at he
    obtain ⟨q, hq, hqe⟩ := List.mem_filterMap.mp he
    obtain ⟨e', he', rfl⟩ := List.mem_map.mp hq
    obtain ⟨n, -, rfl⟩ := Option.map_eq_some_iff.mp hqe
    exact hmem e' he'
  refine .trans ?_ ((quiet_wakeWatches _ _).carried nofun)
  refine carried_foldl (fun e he t _ => carried_dropOwnClean t _ (hls _ (hbmem e he))) ?_
  refine carried_foldl (fun e he t _ => carried_mergeClean t _ _ (hls _ (hgmem e he))) ?_
  refine (carried_dropDirty s core _).trans (carried_homeMerge _ policy fun e he => ?_)
  obtain ⟨q, hq, rfl⟩ := List.mem_map.mp he
  exact hgmem q hq

theorem carried_asyncRecords (s : State) (rs : List (CtxId × RecordArgs)) : Carried K ls s (asyncRecords s rs) :=
  (quiet_asyncRecords (C := fun _ => False) s rs).carried id

/-- The carries of several L1s, each of the bytes that it selects among those of the beginning. -/
theorem carried_homes {homes : List Nat} {sel : Nat → CtxId → Bool} (policy : Nat) (pub : Option (CtxId × Word))
    (post : List (CtxId × RecordArgs) → List (CtxId × RecordArgs)) (s : State)
    (hK : ∀ k, ∀ e ∈ (coreAt s k).dirty, sel e.1 e.2.by_ = true → K e.1) (hls : ∀ a, K a → a / 64 ∈ ls) :
    Carried K ls s (homes.foldl (fun s home => asyncRecords (carryHomeBy policy s home sel pub).1 (post (carryHomeBy policy s home sel pub).2)) s) :=
  carried_foldl (fun home _ t h => (carried_carryHomeBy policy t home pub (fun e he => hK home e (h.dirty home he)) hls).trans
    (carried_asyncRecords _ _)) (.refl s)

theorem carried_othersHome (s : State) (w : Who) (keys : List Nat)
    (hK : ∀ k, ∀ e ∈ (coreAt s k).dirty, e.1 ∈ keys → e.2.by_ ≠ w.c → K e.1) (hls : ∀ a, K a → a / 64 ∈ ls) :
    Carried K ls s (othersHome s w keys) :=
  carried_homes (sel := fun k d => keys.contains k && d != w.c) 0 none onceEach s (fun k e he hs => by
    simp only [Bool.and_eq_true, List.contains_iff_mem, bne_iff_ne] at hs
    exact hK k e he hs.1 hs.2) hls

theorem carried_passThrough (s : State) (w : Who) (policy : Nat) (keys : List Nat)
    (hK : ∀ k, ∀ e ∈ (coreAt s k).dirty, e.1 ∈ keys → e.2.by_ = w.c → K e.1) (hls : ∀ a, K a → a / 64 ∈ ls) :
    Carried K ls s (passThrough s w policy keys) :=
  carried_homes (sel := fun k d => keys.contains k && d == w.c) policy none id s (fun k e he hs => by
    simp only [Bool.and_eq_true, List.contains_iff_mem, beq_iff_eq] at hs
    exact hK k e he hs.1 hs.2) hls

end Sys2Proof.Laws
end

section
/-! SUPPORT. Changes of the lines and bytes of the L1s alone, and a byte that a context has put into one (R23, R140, R262). -/

namespace Sys2Proof.Laws

open Sys2Proof Sys2Proof.Machine

variable {s t u : State}

/-- The clean lines and the dirty bytes of L1s may change, nothing else. -/
structure L1Only (s t : State) : Prop where
  rest : t = { s with cores := t.cores }
  cores : ∀ k, ∃ cl di, coreAt t k = { coreAt s k with clean := cl, dirty := di }

theorem L1Only.refl (s : State) : L1Only s s := ⟨rfl, fun _ => ⟨_, _, rfl⟩⟩

theorem L1Only.trans (h : L1Only s t) (h' : L1Only t u) : L1Only s u := by
  refine ⟨?_, fun k => ?_⟩
  · rw [h'.rest, h.rest]
  · obtain ⟨_, _, e⟩ := h.cores k
    obtain ⟨_, _, e'⟩ := h'.cores k
    exact ⟨_, _, by rw [e', e]⟩

theorem l1Only_foldl {β : Type} {f : State → β → State} (hf : ∀ s b, L1Only s (f s b)) (l : List β) (s : State) :
    L1Only s (l.foldl f s) := by
  induction l generalizing s with
  | nil => exact .refl s
  | cons b l ih => exact (hf s b).trans (ih _)

theorem l1Only_modCore (s : State) (n : Nat) {f : Core → Core} (hf : ∀ k, ∃ cl di, f k = { k with clean := cl, dirty := di }) :
    L1Only s (modCore s n f) := by
  refine ⟨rfl, fun k => ?_⟩
  rw [coreAt_modCore]
  split
  · subst k
    exact hf _
  · exact ⟨_, _, rfl⟩

theorem L1Only.ctxAt (h : L1Only s t) (c : CtxId) : ctxAt t c = ctxAt s c := by
  obtain ⟨_, _, e⟩ := h.cores c.core
  unfold Machine.ctxAt
  rw [e]
  rfl

theorem L1Only.bonds (h : L1Only s t) (k : Nat) : (coreAt t k).kind = (coreAt s k).kind ∧ (coreAt t k).set = (coreAt s k).set := by
  obtain ⟨_, _, e⟩ := h.cores k
  rw [e]
  exact ⟨rfl, rfl⟩

theorem L1Only.clusters (h : L1Only s t) : t.clusters = s.clusters := by rw [h.rest]

theorem L1Only.whoOf (h : L1Only s t) (c : CtxId) : whoOf t c = whoOf s c := by
  have hx : ∀ fr, execCore c fr t = execCore c fr s := fun fr => by unfold execCore; rw [(h.bonds _).1]
  unfold Machine.whoOf
  rw [h.ctxAt]
  simp only [hx]

theorem L1Only.partAt (h : L1Only s t) (d p : Nat) : partAt t d p = partAt s d p := by
  rw [h.rest]
  rfl

theorem L1Only.holderOf (h : L1Only s t) (w : Who) : holderOf t w = holderOf s w := by
  rw [h.rest]
  rfl

theorem L1Only.pubCause (h : L1Only s t) (w : Who) (pa va : Nat) : pubCause t w pa va = pubCause s w pa va := by
  rw [h.rest]
  rfl

theorem L1Only.quiet (h : L1Only s t) : Quiet anyL1 s t := by
  have hk : ∀ k, (coreAt t k).spad = (coreAt s k).spad ∧ (coreAt t k).regs = (coreAt s k).regs
      ∧ (coreAt t k).shared = (coreAt s k).shared := fun k => by
    obtain ⟨_, _, e⟩ := h.cores k
    rw [e]
    exact ⟨rfl, rfl, rfl⟩
  exact ⟨sameMemory_of (by rw [h.rest]) (by rw [h.rest]) (by rw [h.rest]) fun k => (hk k).1, fun k => (hk k).2, by rw [h.rest],
    h.clusters, h.bonds, fun d _ => by rw [h.ctxAt], fun hn => absurd rfl hn⟩

/-! ## The L1s of a thread -/

theorem bondMembers_congr (hb : ∀ k, (coreAt t k).kind = (coreAt s k).kind ∧ (coreAt t k).set = (coreAt s k).set) (k : Nat) :
    bondMembers t k = bondMembers s k := by
  unfold bondMembers
  dsimp only
  rw [(hb k).1, (hb k).2]

theorem l1Core_congr (h : t.clusters = s.clusters) (core key : Nat) : l1Core t core key = l1Core s core key := by
  unfold l1Core clusterAt
  rw [h]

theorem threadL1s_congr (hb : ∀ k, (coreAt t k).kind = (coreAt s k).kind ∧ (coreAt t k).set = (coreAt s k).set)
    (h : t.clusters = s.clusters) (c : CtxId) (key : Nat) : threadL1s t c key = threadL1s s c key := by
  unfold threadL1s
  rw [bondMembers_congr hb]
  simp only [l1Core_congr h]

theorem l1Core_spad (s : State) (core : Nat) {key : Nat} (h : spadBase ≤ key) : l1Core s core key = core := by
  unfold l1Core
  rw [decide_eq_false (Nat.not_lt.mpr h), Bool.and_false]
  rfl

theorem mem_threadL1s {w : Who} (key : Nat) (h : w.core ∈ bondMembers s w.c.core) : l1Core s w.core key ∈ threadL1s s w.c key :=
  List.mem_eraseDups.mpr (List.mem_map.mpr ⟨_, h, rfl⟩)

/-! ## A byte put into an L1 -/

/-- A dirty byte is a context's own at a key. -/
def ownsKey (c : CtxId) (key : Nat) (e : Nat × DirtyByte) : Bool := e.1 = key && e.2.by_ == c

/-- What a context has stored at a key leaves one of its thread's L1s. -/
def strip (c : CtxId) (key : Nat) (s : State) (k : Nat) : State :=
  if (coreAt s k).dirty.any (ownsKey c key) then
    modCore s k (fun q => { q with dirty := q.dirty.filter (fun e => !ownsKey c key e) })
  else s

theorem putDirty_eq (s : State) (w : Who) (key va : Nat) (b : Byte) : putDirty s w key va b
    = modCore ((threadL1s s w.c key).foldl (strip w.c key) s) (l1Core ((threadL1s s w.c key).foldl (strip w.c key) s) w.core key)
        (fun k => { k with dirty := tabPut key ⟨b, w.c, va⟩ k.dirty }) := rfl

theorem l1Only_strip (c : CtxId) (key : Nat) (s : State) (k : Nat) : L1Only s (strip c key s k) := by
  unfold strip
  split
  · exact l1Only_modCore s k fun q => ⟨q.clean, _, rfl⟩
  · exact .refl s

theorem l1Only_putDirty (s : State) (w : Who) (key va : Nat) (b : Byte) : L1Only s (putDirty s w key va b) :=
  (l1Only_foldl (l1Only_strip w.c key) _ s).trans (l1Only_modCore _ _ fun q => ⟨q.clean, _, rfl⟩)

theorem dirty_strip (c : CtxId) (key : Nat) (s : State) (k n : Nat) : (coreAt (strip c key s k) n).dirty
    = if n = k then (coreAt s n).dirty.filter (fun e => !ownsKey c key e) else (coreAt s n).dirty := by
  unfold strip
  by_cases hany : (coreAt s k).dirty.any (ownsKey c key) = true
  · rw [if_pos hany, coreAt_modCore]
    by_cases hn : n = k
    · subst hn
      simp
    · simp [hn]
  · rw [if_neg hany]
    by_cases hn : n = k
    · subst hn
      rw [if_pos rfl, List.filter_eq_self.mpr]
      intro e he
      have := fun h => hany (List.any_eq_true.mpr ⟨e, he, h⟩)
      simpa using this
    · rw [if_neg hn]

theorem dirty_foldl_strip (c : CtxId) (key : Nat) (ks : List Nat) (s : State) (n : Nat) : (coreAt (ks.foldl (strip c key) s) n).dirty
    = if n ∈ ks then (coreAt s n).dirty.filter (fun e => !ownsKey c key e) else (coreAt s n).dirty := by
  induction ks generalizing s with
  | nil => simp
  | cons k ks ih =>
    rw [List.foldl_cons, ih, dirty_strip]
    by_cases hk : n = k
    · simp [hk]
    · simp [hk]

/-- What an L1 holds once a context has stored a byte at a key. -/
theorem dirty_putDirty (s : State) (w : Who) (key va : Nat) (b : Byte) (n : Nat) : (coreAt (putDirty s w key va b) n).dirty
    = (let old := if n ∈ threadL1s s w.c key then (coreAt s n).dirty.filter (fun e => !ownsKey w.c key e) else (coreAt s n).dirty
      if n = l1Core s w.core key then tabPut key ⟨b, w.c, va⟩ old else old) := by
  have hl := l1Only_foldl (l1Only_strip w.c key) (threadL1s s w.c key) s
  rw [putDirty_eq, coreAt_modCore, l1Core_congr hl.clusters]
  dsimp only
  rw [← dirty_foldl_strip]
  by_cases hn : n = l1Core s w.core key
  · simp [hn]
  · simp [hn]

theorem mem_dirty_putDirty {w : Who} {key va : Nat} {b : Byte} {n : Nat} {e : Nat × DirtyByte}
    (h : e ∈ (coreAt (putDirty s w key va b) n).dirty) : e = (key, ⟨b, w.c, va⟩) ∨ e ∈ (coreAt s n).dirty := by
  rw [dirty_putDirty] at h
  have hold : e ∈ (if n ∈ threadL1s s w.c key then (coreAt s n).dirty.filter (fun e => !ownsKey w.c key e) else (coreAt s n).dirty) →
      e ∈ (coreAt s n).dirty := fun h => by
    split at h
    · exact (List.mem_filter.mp h).1
    · exact h
  dsimp only at h
  split at h
  · exact (mem_tabPut h).imp id hold
  · exact .inr (hold h)

theorem find_tabPut {p : Nat × DirtyByte → Bool} {key : Nat} {d : DirtyByte} {t : Tab DirtyByte} (hd : p (key, d) = true)
    (ht : ∀ e ∈ t, p e = false) : (tabPut key d t).find? p = some (key, d) := by
  induction t with
  | nil => simp [tabPut, hd]
  | cons e t ih =>
    rw [tabPut]
    split
    · simp [hd]
    · split
      · simp [hd]
      · rw [List.find?_cons, ht e (List.mem_cons_self ..)]
        exact ih fun e he => ht e (List.mem_cons_of_mem _ he)

/-- A context finds a byte that it has put into an L1 of its thread (R23, R140). -/
theorem ownDirty_putDirty {w : Who} (key va : Nat) (b : Byte) (h : w.core ∈ bondMembers s w.c.core) :
    ownDirty (putDirty s w key va b) w.c key = some ⟨b, w.c, va⟩ := by
  have hl := l1Only_putDirty s w key va b
  have hmem := mem_threadL1s key h
  have hself : ownsKey w.c key (key, ⟨b, w.c, va⟩) = true := by simp [ownsKey]
  have hnone : ∀ n ∈ threadL1s s w.c key, n ≠ l1Core s w.core key →
      (coreAt (putDirty s w key va b) n).dirty.find? (ownsKey w.c key) = none := fun n hn hne => by
    rw [dirty_putDirty, List.find?_eq_none]
    simp [hn, hne]
  have hsome : (coreAt (putDirty s w key va b) (l1Core s w.core key)).dirty.find? (ownsKey w.c key) = some (key, ⟨b, w.c, va⟩) := by
    rw [dirty_putDirty]
    simp only [hmem, if_true]
    exact find_tabPut hself fun e he => by simpa using (List.mem_filter.mp he).2
  unfold ownDirty
  rw [threadL1s_congr hl.bonds hl.clusters]
  change (threadL1s s w.c key).findSome? (fun k => ((coreAt (putDirty s w key va b) k).dirty.find? (ownsKey w.c key)).map (·.2)) = _
  generalize threadL1s s w.c key = ns at hmem hnone
  induction ns with
  | nil => cases hmem
  | cons n ns ih =>
    rw [List.findSome?_cons]
    by_cases hn : n = l1Core s w.core key
    · rw [hn, hsome]
      rfl
    · rw [hnone n (List.mem_cons_self ..) hn]
      exact ih ((List.mem_cons.mp hmem).resolve_left (Ne.symm hn)) fun n hn => hnone n (List.mem_cons_of_mem _ hn)

/-! ## What a store shows its own context -/

/-- A GEN byte is read back while it is dirty (R23, R262). -/
theorem memByte_commitByte_gen (w : Who) (a va : Nat) (v : Byte) (coh : Bool) (h : w.core ∈ bondMembers s w.c.core)
    (hr : reduceAt (partAt s w.die w.part) (holderOf s w) va = none) :
    memByte (commitByte w s (.pa a va, v)) w coh (.pa a va) = v := by
  have hput : commitByte w s (.pa a va, v) = putDirty s w a va v := by
    simp only [commitByte, hr]
  have hl := l1Only_putDirty s w a va v
  simp only [hput, memByte, hl.partAt, hl.holderOf, hr, ownDirty_putDirty a va v h]

theorem bonds_foldl {β : Type} {f : State → β → State}
    (hf : ∀ s b k, (coreAt (f s b) k).kind = (coreAt s k).kind ∧ (coreAt (f s b) k).set = (coreAt s k).set) (l : List β) (s : State) (k : Nat) :
    (coreAt (l.foldl f s) k).kind = (coreAt s k).kind ∧ (coreAt (l.foldl f s) k).set = (coreAt s k).set := by
  induction l generalizing s with
  | nil => exact ⟨rfl, rfl⟩
  | cons b l ih => exact ⟨(ih _).1.trans (hf s b k).1, (ih _).2.trans (hf s b k).2⟩

theorem bonds_drainByte (s : State) (e : Nat × DirtyByte) (k : Nat) :
    (coreAt (drainByte s e) k).kind = (coreAt s k).kind ∧ (coreAt (drainByte s e) k).set = (coreAt s k).set := by
  unfold drainByte
  dsimp only
  split
  · rw [coreAt_modCore]
    split
    · next h =>
      subst h
      exact ⟨rfl, rfl⟩
    · exact ⟨rfl, rfl⟩
  · exact ⟨rfl, rfl⟩

/-- Stores that reach their banks compose no core. -/
theorem bonds_drainSpad (s : State) (core : Nat) (sel : DirtyByte → Bool) (k : Nat) :
    (coreAt (drainSpad s core sel) k).kind = (coreAt s k).kind ∧ (coreAt (drainSpad s core sel) k).set = (coreAt s k).set := by
  unfold drainSpad
  dsimp only
  split
  · exact ⟨rfl, rfl⟩
  · have h1 := (l1Only_modCore s core (f := fun k => { k with dirty := k.dirty.filter (fun e => !(spadBase ≤ e.1 && sel e.2)) })
      fun q => ⟨q.clean, _, rfl⟩).bonds k
    have h2 := bonds_foldl bonds_drainByte ((coreAt s core).dirty.filter (fun e => spadBase ≤ e.1 && sel e.2))
      (modCore s core (fun k => { k with dirty := k.dirty.filter (fun e => !(spadBase ≤ e.1 && sel e.2)) })) k
    have h3 := (quiet_wakeWatches (((coreAt s core).dirty.filter (fun e => spadBase ≤ e.1 && sel e.2)).foldl drainByte
      (modCore s core (fun k => { k with dirty := k.dirty.filter (fun e => !(spadBase ≤ e.1 && sel e.2)) })))
      (((coreAt s core).dirty.filter (fun e => spadBase ≤ e.1 && sel e.2)).map
        (fun e => Loc.spad ((e.1 - spadBase) / 2 ^ 19) (e.1 % 2 ^ 19)))).bonds k
    exact ⟨h3.1.trans (h2.1.trans h1.1), h3.2.trans (h2.2.trans h1.2)⟩

theorem spadBase_le_spadKey (k o : Nat) : spadBase ≤ spadKey k o := by
  unfold spadKey
  omega

/-- A scratchpad store is put at its context's first member, after what another context has stored there (R267). -/
theorem commitByte_spad (w : Who) (k o : Nat) (v : Byte) (h : windowOpen s w k = true) :
    ∃ u, (u = s ∨ ∃ d, d ≠ w.c ∧ (∃ e ∈ (coreAt s w.c.core).dirty, e.1 = spadKey k o ∧ e.2.by_ = d) ∧ u = drainSpad s w.c.core (·.by_ == d))
      ∧ commitByte w s (.spad k o, v) = putDirty u { w with core := w.c.core } (spadKey k o) 0 v := by
  simp only [commitByte, h, Bool.not_true, Bool.false_eq_true, if_false]
  cases hd : dirtyAt s w.c.core (spadKey k o) with
  | none => exact ⟨s, .inl rfl, rfl⟩
  | some d =>
    by_cases hby : d.by_ = w.c
    · exact ⟨s, .inl rfl, by simp [hby]⟩
    · refine ⟨_, .inr ⟨d.by_, hby, ?_, rfl⟩, by simp [hby]⟩
      unfold dirtyAt at hd
      rw [l1Core_spad s _ (spadBase_le_spadKey k o)] at hd
      obtain ⟨e, he, rfl⟩ := Option.map_eq_some_iff.mp hd
      exact ⟨e, List.mem_of_find?_eq_some he, by simpa using List.find?_some he, rfl⟩

/-- A scratchpad byte is read back on its way to its bank (R23, R264). -/
theorem memByte_commitByte_spad (w : Who) (k o : Nat) (v : Byte) (coh : Bool) (h : w.c.core ∈ bondMembers s w.c.core)
    (hopen : windowOpen s w k = true) (hopen' : windowOpen (commitByte w s (.spad k o, v)) w k = true) :
    memByte (commitByte w s (.spad k o, v)) w coh (.spad k o) = v := by
  obtain ⟨u, hu, hput⟩ := commitByte_spad w k o v hopen
  have hmem : w.c.core ∈ bondMembers u w.c.core := by
    rcases hu with rfl | ⟨d, -, -, rfl⟩
    · exact h
    · rw [bondMembers_congr (bonds_drainSpad s _ _)]
      exact h
  have hown := ownDirty_putDirty (w := { w with core := w.c.core }) (spadKey k o) 0 v hmem
  simp only [memByte, hopen', if_true]
  rw [hput, hown]
  rfl

/-! ## Posted stores -/

/-- A posted byte is read back from the journal (R23, R200). -/
theorem postedByte_postEntry (s : State) (c : CtxId) (kind : Nat) (p : Word) (l : Loc) (v : Byte) :
    postedByte (postEntry s c kind p [(l, v)] none) c l = some v := by
  have hl : sameByte l l = true := by
    cases l <;> simp [sameByte]
  unfold postedByte postEntry
  dsimp only
  rw [coreAt_modCore, if_pos rfl]
  simp [hl]

end Sys2Proof.Laws
end

section
/-! SUPPORT. A committed store, stage by stage: room in the L1s, the bytes themselves, what is posted (R46, R200, R262, R263). -/

namespace Sys2Proof.Laws

open Sys2Proof Sys2Proof.Machine

variable {s t u : State}

/-! ## Room -/

theorem nodup_eraseDups (l : List Nat) : l.eraseDups.Nodup := by
  match l with
  | [] => exact List.nodup_nil
  | a :: l =>
    have hlen := List.length_filter_le (fun b => !b == a) l
    rw [List.eraseDups_cons, List.nodup_cons]
    exact ⟨by simp [List.mem_eraseDups], nodup_eraseDups _⟩
termination_by l.length
decreasing_by simp only [List.length_cons]; omega

theorem l1Room_of_fits {k : Core} {lines : List Nat} (h : l1Over k lines = 0) : l1Room k lines = k := by
  simp only [l1Room, h, List.take_zero, List.isEmpty_nil, if_true]

theorem modCore_rest (s : State) (n : Nat) (f : Core → Core) : modCore s n f = { s with cores := (modCore s n f).cores } := rfl

/-- An L1 with room drops nothing. -/
theorem roomAt_of_fits {home : Nat} {lines : List Nat} (h : l1Over (coreAt s home) lines = 0) :
    L1Only s (roomAt s home lines) ∧ ∀ k, coreAt (roomAt s home lines) k = coreAt s k := by
  have heq : roomAt s home lines = modCore s home (fun k => l1Room k lines) := by
    unfold roomAt
    simp only [h, Nat.zero_sub, List.take_zero, List.isEmpty_nil, if_true]
  have hk : ∀ k, coreAt (roomAt s home lines) k = coreAt s k := fun k => by
    rw [heq, coreAt_modCore]
    split
    · next hn =>
      subst hn
      exact l1Room_of_fits h
    · rfl
  exact ⟨⟨by rw [heq]; exact modCore_rest s home _, fun k => ⟨(coreAt s k).clean, (coreAt s k).dirty, hk k⟩⟩, hk⟩

theorem roomsAt_of_fits (homes : List Nat) {sub : State → Nat → List Nat} (h : ∀ t home, l1Over (coreAt s home) (sub t home) = 0) :
    L1Only s (homes.foldl (fun t home => roomAt t home (sub t home)) s)
      ∧ ∀ k, coreAt (homes.foldl (fun t home => roomAt t home (sub t home)) s) k = coreAt s k := by
  have hrefl : L1Only s s ∧ ∀ k, coreAt s k = coreAt s k := ⟨.refl s, fun _ => rfl⟩
  refine List.foldlRecOn (motive := fun t => L1Only s t ∧ ∀ k, coreAt t k = coreAt s k) homes _ hrefl fun t ht home _ => ?_
  obtain ⟨hl, hk⟩ := roomAt_of_fits (s := t) (home := home) (lines := sub t home) (by rw [ht.2]; exact h t home)
  exact ⟨ht.1.trans hl, fun k => (hk k).trans (ht.2 k)⟩

/-- Where every L1 has room for the lines of a store, they find their places without a change. -/
theorem storeRoom_of_fits (w : Who) {ls : List Nat} (h : ∀ k, fill ls.toFinset (coreAt s k) ≤ l1Ways) :
    L1Only s (storeRoom s w ls.eraseDups) ∧ ∀ k, coreAt (storeRoom s w ls.eraseDups) k = coreAt s k :=
  roomsAt_of_fits _ fun _ home =>
    l1Over_of_fill ((nodup_eraseDups ls).filter _) (fun _ hl => List.mem_eraseDups.mp (List.mem_filter.mp hl).1) (h home)

/-! ## The bytes -/

/-- A byte that a store posts (R200). -/
def isPosted (b : Loc × Byte) : Bool := match b.1 with
  | .host _ | .fab _ _ _ => true
  | _ => false

/-- Scratchpad stores that wait at a core are all a context's own. -/
def OwnPending (s : State) (c : CtxId) : Prop := ∀ e ∈ (coreAt s c.core).dirty, spadBase ≤ e.1 → e.2.by_ = c

theorem ownPending_putDirty {w : Who} {key va : Nat} {b : Byte} (h : OwnPending s w.c) : OwnPending (putDirty s w key va b) w.c := by
  intro e he hle
  rcases mem_dirty_putDirty he with rfl | he
  · rfl
  · exact h e he hle

/-- Where no other context's scratchpad stores wait, a byte that is not posted reaches no bank and no home. -/
theorem quiet_commitByte {w : Who} {b : Loc × Byte} (hn : isPosted b = false) (hd : isMgmt w.c.core = true → ∀ a, b.1 ≠ .dev a)
    (h : OwnPending s w.c) : Quiet anything s (commitByte w s b) ∧ OwnPending (commitByte w s b) w.c := by
  obtain ⟨l, v⟩ := b
  cases l with
  | pa a va =>
    simp only [commitByte]
    split
    · exact ⟨quiet_modPart s _ _ _, h⟩
    · exact ⟨(l1Only_putDirty s w a va v).quiet.wide, ownPending_putDirty h⟩
  | spad k o =>
    by_cases hopen : windowOpen s w k = true
    · obtain ⟨u, hu, hput⟩ := commitByte_spad w k o v hopen
      have hus : u = s := hu.resolve_right fun ⟨d, hne, ⟨e, he, hek, hed⟩, _⟩ =>
        hne (hed ▸ h e he (by rw [hek]; exact spadBase_le_spadKey k o))
      rw [hput, hus]
      exact ⟨(l1Only_putDirty s { w with core := w.c.core } _ _ _).quiet.wide, ownPending_putDirty (w := { w with core := w.c.core }) h⟩
    · simp only [commitByte, Bool.not_eq_true _ |>.mp hopen]
      exact ⟨Quiet.refl s, h⟩
  | dev a =>
    have hm : isMgmt w.c.core = false := by
      cases hm : isMgmt w.c.core with
      | false => rfl
      | true => exact absurd rfl (hd hm a)
    have hq : Quiet (fun _ => False) s (commitByte w s (.dev a, v)) := by
      simp only [commitByte, controlWrite, hm, Bool.not_false, if_true]
      refine .trans (t := { s with devWrites := s.devWrites ++ [(a, v)] }) (quiet_outside rfl rfl rfl rfl rfl rfl) ?_
      exact quiet_modCtx _ w.c (.inr fun _ => rfl)
    refine ⟨hq.wide, fun e he => h e ?_⟩
    rw [← (hq.l1 id w.c.core).2]
    exact he
  | host va => cases hn
  | fab w0 w1 o => cases hn

theorem quiet_commitBytes {w : Who} {bs : List (Loc × Byte)} (hn : ∀ b ∈ bs, isPosted b = false)
    (hd : isMgmt w.c.core = true → ∀ b ∈ bs, ∀ a, b.1 ≠ .dev a) (h : OwnPending s w.c) : Quiet anything s (commitBytes w s bs) := by
  unfold commitBytes
  induction bs generalizing s with
  | nil => exact Quiet.refl s
  | cons b bs ih =>
    obtain ⟨hq, hown⟩ := quiet_commitByte (hn b (List.mem_cons_self ..)) (fun hm => hd hm b (List.mem_cons_self ..)) h
    exact hq.trans (ih (fun b hb => hn b (List.mem_cons_of_mem _ hb)) (fun hm b hb => hd hm b (List.mem_cons_of_mem _ hb)) hown)

theorem quiet_controlStores {C : Scope} (s : State) (c : CtxId) {bs : List (Loc × Byte)}
    (hd : isMgmt c.core = true → ∀ b ∈ bs, ∀ a, b.1 ≠ .dev a) : Quiet C s (controlStores s c bs) := by
  unfold controlStores
  split
  · exact Quiet.refl s
  · next hm =>
    refine quiet_foldl (fun b hb t => ?_) s
    have hne := hd (by simpa using hm) b hb
    obtain ⟨l, v⟩ := b
    cases l with
    | dev a => exact absurd rfl (hne a)
    | _ => exact Quiet.refl t

/-! ## The stages -/

/-- What a committed store does to the bytes that are not posted. -/
def storeNear (s : State) (w : Who) (bs : List (Loc × Byte)) (policy : Nat) : State :=
  let s := othersHome s w (genKeys bs)
  let s := commitBytes w (if policy % 2 = 0 then storeRoom s w (((genKeys bs).map (· / 64)).eraseDups) else s) bs
  let s := controlStores (if policy % 2 = 0 then s else passThrough s w policy (genKeys bs)) w.c bs
  if policy = 2 then (genLines (bs.map (·.1))).foldl (retain 3) s else s

/-- A store to host memory leaves no clean copy of its line in the thread's L1s (R263). -/
def dropHost (c : CtxId) (s : State) (b : Loc × Byte) : State := match b.1 with
  | .host a => dropOwnClean s c (hostBase + a)
  | _ => s

/-- What a committed store does with the bytes that it posts. -/
def storeFar (s : State) (c : CtxId) (bs : List (Loc × Byte)) (p : Word) (kind : Nat) : State :=
  if bs.any isPosted then postEntry (bs.foldl (dropHost c) s) c kind p (bs.filter isPosted) none else s

theorem commitStore_eq (s : State) (c : CtxId) (core : Nat) (bs : List (Loc × Byte)) (p : Word) (kind policy : Nat) :
    commitStore s c core bs p kind policy
      = storeFar (storeNear s (execCoreWho s c core) (bs.filter (fun b => !isPosted b)) policy) c bs p kind := rfl

theorem quiet_storeFar (s : State) (c : CtxId) (bs : List (Loc × Byte)) (p : Word) (kind : Nat) :
    Quiet anything s (storeFar s c bs p kind) := by
  refine quiet_ite (.trans (t := bs.foldl (dropHost c) s) ?_ ?_) (Quiet.refl s)
  · refine quiet_foldl (fun b _ t => ?_) s
    unfold dropHost
    split
    · exact (quiet_dropOwnClean t c _).wide
    · exact Quiet.refl t
  · unfold postEntry
    refine quiet_modCore _ _ ⟨?_, ?_, ?_, ?_, ?_, ?_⟩ (.inl trivial)
    all_goals exact fun _ => rfl

theorem genKeys_near (bs : List (Loc × Byte)) : genKeys (bs.filter (fun b => !isPosted b)) = genKeys bs := by
  unfold genKeys
  rw [List.filterMap_filter]
  congr 1
  funext ⟨l, v⟩
  cases l <;> rfl

/-! ## What a store leaves alone -/

/-- Bytes of GEN at the keys in K may change, no other byte and no register. -/
structure KeptBut (K : Nat → Prop) (s t : State) : Prop where
  memory : ∀ l, (∀ a v, l = .pa a v → ¬ K a) → readByte t l = readByte s l
  regs : SameRegs s t

theorem KeptBut.trans {K : Nat → Prop} (h : KeptBut K s t) (h' : KeptBut K t u) : KeptBut K s u :=
  ⟨fun l hl => (h'.memory l hl).trans (h.memory l hl), fun k => ⟨(h'.regs k).1.trans (h.regs k).1, (h'.regs k).2.trans (h.regs k).2⟩⟩

theorem Carried.keptBut {K : Nat → Prop} {ls : Finset Nat} (h : Carried K ls s t) : KeptBut K s t := ⟨h.memory, h.regs⟩

theorem Quiet.keptBut {C : Scope} {K : Nat → Prop} (h : Quiet C s t) : KeptBut K s t := ⟨fun l _ => h.memory l, h.regs⟩

/-- The bytes that are not posted change the homes of K alone: what others have stored at their keys, and under a policy that keeps
out of the L1 the bytes themselves. -/
theorem keptBut_storeNear {w : Who} {bs : List (Loc × Byte)} {policy : Nat} {K : Nat → Prop}
    (hn : ∀ b ∈ bs, isPosted b = false) (hd : isMgmt w.c.core = true → ∀ b ∈ bs, ∀ a, b.1 ≠ .dev a) (hown : OwnPending s w.c)
    (hroom : policy % 2 = 0 → ∀ k, (l1Lines (coreAt s k)).length + bs.length ≤ l1Ways) (hK : ∀ a, K a → a ∈ genKeys bs)
    (hothers : ∀ k, ∀ e ∈ (coreAt s k).dirty, e.1 ∈ genKeys bs → e.2.by_ ≠ w.c → K e.1)
    (hpass : policy % 2 = 0 ∨ ∀ a ∈ genKeys bs, K a) : KeptBut K s (storeNear s w bs policy) := by
  generalize hlines : (genKeys bs).map (· / 64) = lines
  have hls : ∀ a, K a → a / 64 ∈ lines.toFinset := fun a ha => by
    rw [List.mem_toFinset, ← hlines]
    exact List.mem_map.mpr ⟨a, hK a ha, rfl⟩
  have hcard : lines.toFinset.card ≤ bs.length := by
    refine (List.toFinset_card_le _).trans ?_
    rw [← hlines, List.length_map]
    exact List.length_filterMap_le _ _
  have hhome : Carried K lines.toFinset s (othersHome s w (genKeys bs)) := carried_othersHome s w (genKeys bs) hothers hls
  have hown' : OwnPending (othersHome s w (genKeys bs)) w.c := fun e he => hown e (hhome.dirty _ he)
  unfold storeNear
  rw [hlines]
  dsimp only
  generalize othersHome s w (genKeys bs) = s₁ at hhome hown'
  refine hhome.keptBut.trans ?_
  have hput : ∀ s₂, L1Only s₁ s₂ → (∀ k, coreAt s₂ k = coreAt s₁ k) → KeptBut K s₁ (commitBytes w s₂ bs) := fun s₂ hl hk =>
    hl.quiet.keptBut.trans (quiet_commitBytes hn hd fun e he => hown' e (by rw [← hk]; exact he)).keptBut
  have hretain : ∀ s₂, KeptBut K s₂ (if policy = 2 then (genLines (bs.map (·.1))).foldl (retain 3) s₂ else s₂) := fun s₂ =>
    (quiet_ite (C := anything) (quiet_foldl (fun l _ t => quiet_retain 3 t l) s₂) (Quiet.refl s₂)).keptBut
  refine .trans (.trans ?_ (quiet_controlStores (C := anything) _ w.c hd).keptBut) (hretain _)
  by_cases heven : policy % 2 = 0
  · simp only [heven, if_true]
    obtain ⟨hl, hk⟩ := storeRoom_of_fits (s := s₁) w (ls := lines) fun k =>
      (hhome.fill k).trans ((fill_le _ _).trans (by have := hroom heven k; omega))
    exact hput _ hl hk
  · simp only [heven, if_false]
    have hall := hpass.resolve_left heven
    exact (hput s₁ (.refl s₁) fun _ => rfl).trans
      (carried_passThrough _ w policy _ (fun k e _ hkey _ => hall e.1 hkey) hls).keptBut

theorem keptBut_commitStore {c : CtxId} {bs : List (Loc × Byte)} {policy : Nat} {K : Nat → Prop} (core : Nat) (p : Word) (kind : Nat)
    (hd : isMgmt c.core = true → ∀ a, Loc.dev a ∉ bs.map (·.1)) (hown : OwnPending s c)
    (hroom : policy % 2 = 0 → ∀ k, (l1Lines (coreAt s k)).length + bs.length ≤ l1Ways) (hK : ∀ a, K a → a ∈ genKeys bs)
    (hothers : ∀ k, ∀ e ∈ (coreAt s k).dirty, e.1 ∈ genKeys bs → e.2.by_ ≠ c → K e.1)
    (hpass : policy % 2 = 0 ∨ ∀ a ∈ genKeys bs, K a) : KeptBut K s (commitStore s c core bs p kind policy) := by
  rw [commitStore_eq]
  refine .trans ?_ (quiet_storeFar _ c bs p kind).keptBut
  have hlen := List.length_filter_le (fun b => !isPosted b) bs
  refine keptBut_storeNear (w := execCoreWho s c core) (fun b hb => by simpa using (List.mem_filter.mp hb).2)
    (fun hm b hb a hba => hd hm a (List.mem_map.mpr ⟨b, (List.mem_filter.mp hb).1, hba⟩)) hown
    (fun he k => le_trans (by omega) (hroom he k)) ?_ ?_ ?_
  all_goals rw [genKeys_near]
  · exact hK
  · exact hothers
  · exact hpass

end Sys2Proof.Laws
end

section
/-! CERTIFICATES. Committed stores (R23, R27, R46, R200, R262). -/

namespace Sys2Proof.Laws

open Sys2Proof Sys2Proof.Machine

variable {s t : State}

/-! ## A store that passes its L1 (R46) -/

theorem homeByte_of_sameMemory (h : SameMemory s t) (a : Nat) : homeByte t a = homeByte s a := by
  simpa [readByte] using h (.pa a 0)

theorem homeByte_mergeClean (s : State) (c : CtxId) (key : Nat) (b : Byte) (a : Nat) : homeByte (mergeClean s c key b) a = homeByte s a :=
  homeByte_of_sameMemory (fun l => (carried_mergeClean (K := fun _ => False) (ls := {key / 64}) s c b
    (Finset.mem_singleton_self _)).memory l fun _ _ _ => id) a

/-- Where none of its bytes is selected, an L1 carries nothing home. -/
theorem carryHomeBy_of_none (policy core : Nat) {sel : Nat → CtxId → Bool} (pub : Option (CtxId × Word))
    (h : (coreAt s core).dirty.filter (fun e => decide (e.1 < spadBase) && sel e.1 e.2.by_) = []) :
    carryHomeBy policy s core sel pub
      = (modCore s core (fun k => { k with dirty := k.dirty.filter (fun e => !(decide (e.1 < spadBase) && sel e.1 e.2.by_)) }), []) := by
  unfold carryHomeBy
  dsimp only
  rw [h]
  exact Prod.ext (wakeWatches_nil _) rfl

/-- One byte that nothing refuses is carried to its home. -/
theorem homeByte_carryHomeBy_one (policy core : Nat) {sel : Nat → CtxId → Bool} (pub : Option (CtxId × Word)) {a : Nat} {d : DirtyByte}
    (h : (coreAt s core).dirty.filter (fun e => decide (e.1 < spadBase) && sel e.1 e.2.by_) = [(a, d)])
    (hp : pubCause s (ownerOf s d) a d.va = none) : homeByte (carryHomeBy policy s core sel pub).1 a = d.val := by
  have hlast : lastWrite [(a, d.val)] a = some d.val := lastWrite_of_last [] a d.val nofun
  unfold carryHomeBy
  dsimp only
  rw [h]
  simp only [List.map_cons, List.map_nil, hp, Option.isNone_none, List.filter_cons, if_true, List.filter_nil, List.filterMap_cons,
    Option.map_none, List.filterMap_nil, List.foldl_cons, List.foldl_nil]
  rw [homeByte_of_sameMemory (quiet_wakeWatches _ _).memory, homeByte_mergeClean, homeByte_homeMerge, hlast]
  rfl

/-- A byte at a key that a table did not list is the only one there. -/
theorem filter_tabPut {p : Nat × DirtyByte → Bool} {key : Nat} {d : DirtyByte} {t : Tab DirtyByte} (hd : p (key, d) = true)
    (ht : ∀ e ∈ t, p e = false) : (tabPut key d t).filter p = [(key, d)] := by
  induction t with
  | nil => simp [tabPut, hd]
  | cons e t ih =>
    have htail : t.filter p = [] := by simpa using fun q v hq => ht (q, v) (List.mem_cons_of_mem _ hq)
    have he := ht e (List.mem_cons_self ..)
    rw [tabPut]
    split
    · simp [hd, he, htail]
    · split
      · simp [hd, htail]
      · rw [List.filter_cons, he]
        exact ih fun e he => ht e (List.mem_cons_of_mem _ he)

/-- What others have stored at keys of an L1 that holds none of them. -/
theorem othersHome_of_none {w : Who} {a : Nat} (h : ∀ e ∈ (coreAt s (l1Core s w.core a)).dirty, e.1 ≠ a) :
    L1Only s (othersHome s w [a]) ∧ ∀ k, (coreAt (othersHome s w [a]) k).dirty ⊆ (coreAt s k).dirty := by
  have hnone : (coreAt s (l1Core s w.core a)).dirty.filter
      (fun e => decide (e.1 < spadBase) && ([a].contains e.1 && e.2.by_ != w.c)) = [] := by
    rw [List.filter_eq_nil_iff]
    intro e he
    simp [h e he]
  have heq : othersHome s w [a] = modCore s (l1Core s w.core a) (fun k =>
      { k with dirty := k.dirty.filter (fun e => !(decide (e.1 < spadBase) && ([a].contains e.1 && e.2.by_ != w.c))) }) := by
    change asyncRecords (carryHomeBy 0 s _ _ none).1 (onceEach (carryHomeBy 0 s _ _ none).2) = _
    rw [carryHomeBy_of_none 0 _ none hnone]
    rfl
  rw [heq]
  refine ⟨l1Only_modCore s _ fun q => ⟨q.clean, _, rfl⟩, fun k => ?_⟩
  rw [coreAt_modCore]
  split
  · next hk =>
    subst hk
    exact List.filter_sublist.subset
  · exact List.Subset.refl _

/-- A byte stored past its L1 that nothing refuses stands at its home (R46). -/
theorem readByte_storeNear_through {w : Who} {a va policy : Nat} {v : Byte} (hpol : policy % 2 = 1) (ha : a < spadBase)
    (hnone : ∀ e ∈ (coreAt s (l1Core s w.core a)).dirty, e.1 ≠ a)
    (hr : reduceAt (partAt s w.die w.part) (holderOf s w) va = none) (hp : pubCause s (whoOf s w.c) a va = none) :
    readByte (storeNear s w [(.pa a va, v)] policy) (.pa a va) = some v := by
  obtain ⟨hl, hdirty⟩ := othersHome_of_none hnone
  have hodd : ¬ policy % 2 = 0 := by omega
  have hkeys : genKeys [(Loc.pa a va, v)] = [a] := rfl
  unfold storeNear
  simp only [hkeys, hodd, if_false]
  generalize othersHome s w [a] = s₁ at hl hdirty
  have hput : commitBytes w s₁ [(.pa a va, v)] = putDirty s₁ w a va v := by
    simp only [commitBytes, List.foldl_cons, List.foldl_nil, commitByte, hl.partAt, hl.holderOf, hr]
  have hl' := hl.trans (l1Only_putDirty s₁ w a va v)
  have hold : ∀ e ∈ (coreAt s₁ (l1Core s₁ w.core a)).dirty, e.1 ≠ a := fun e he => by
    rw [l1Core_congr hl.clusters] at he
    exact hnone e (hdirty _ he)
  have hone : (coreAt (putDirty s₁ w a va v) (l1Core s₁ w.core a)).dirty.filter
      (fun e => decide (e.1 < spadBase) && ([a].contains e.1 && e.2.by_ == w.c)) = [(a, ⟨v, w.c, va⟩)] := by
    rw [dirty_putDirty]
    simp only [if_true]
    refine filter_tabPut (by simp [ha]) fun e he => ?_
    have hne : e.1 ≠ a := hold e (by
      split at he
      · exact (List.mem_filter.mp he).1
      · exact he)
    simp [hne]
  have hpass : homeByte (passThrough (putDirty s₁ w a va v) w policy [a]) a = v := by
    change homeByte (asyncRecords (carryHomeBy policy _ (l1Core (putDirty s₁ w a va v) w.core a) _ none).1 _) a = v
    rw [homeByte_of_sameMemory (quiet_asyncRecords (C := anything) _ _).memory, l1Core_congr (l1Only_putDirty s₁ w a va v).clusters]
    refine homeByte_carryHomeBy_one (sel := fun k d => [a].contains k && d == w.c) policy _ none hone ?_
    unfold ownerOf
    rw [hl'.whoOf, hl'.pubCause]
    exact hp
  have hafter : ∀ u, SameMemory u (if policy = 2 then (genLines ([(Loc.pa a va, v)].map (·.1))).foldl (retain 3) u else u) := fun u =>
    (quiet_ite (C := anything) (quiet_foldl (fun l _ t => quiet_retain 3 t l) u) (Quiet.refl u)).memory
  rw [hafter, (quiet_controlStores (C := anything) _ w.c (by simp)).memory, hput]
  simp only [readByte, hpass]

theorem readByte_commitStore_through {c : CtxId} {core a va policy : Nat} {v : Byte} (p : Word) (kind : Nat) (hpol : policy % 2 = 1)
    (ha : a < spadBase) (hnone : ∀ e ∈ (coreAt s (l1Core s core a)).dirty, e.1 ≠ a)
    (hr : reduceAt (partOf s c) (holderOf s (whoOf s c)) va = none) (hp : pubCause s (whoOf s c) a va = none) :
    readByte (commitStore s c core [(.pa a va, v)] p kind policy) (.pa a va) = some v := by
  rw [commitStore_eq, (quiet_storeFar _ _ _ _ _).memory]
  exact readByte_storeNear_through (w := execCoreWho s c core) hpol ha hnone hr hp

/-! ## Posted stores (R23, R200) -/

theorem postedByte_commitStore (s : State) (c : CtxId) (core : Nat) {l : Loc} (v : Byte) (p : Word) (kind policy : Nat)
    (h : isPosted (l, v) = true) : postedByte (commitStore s c core [(l, v)] p kind policy) c l = some v := by
  rw [commitStore_eq]
  unfold storeFar
  simp only [List.any_cons, h, Bool.true_or, if_true, List.filter_cons, List.filter_nil]
  exact postedByte_postEntry ..

/-! ## The obligation -/

theorem any_sameByte_genKeys {bs : List (Loc × Byte)} {a v : Nat} (h : (bs.map (·.1)).any (sameByte (.pa a v)) = false) :
    a ∉ genKeys bs := by
  intro ha
  obtain ⟨⟨l, b⟩, hb, hl⟩ := List.mem_filterMap.mp ha
  cases l with
  | pa a' v' =>
    have hloc : Loc.pa a' v' ∈ bs.map (·.1) := List.mem_map.mpr ⟨_, hb, rfl⟩
    have hsame := List.any_eq_false.mp h _ hloc
    simp only [Option.some.injEq] at hl
    simp [sameByte, hl] at hsame
  | _ => cases hl

/-- Settles O52: a store keeps what the stages of its commit keep, and its own bytes stand first where its context looks for them. -/
theorem committedStores : Obligations.CommittedStores := by
  unfold Obligations.CommittedStores
  intro s c core p kind policy
  refine ⟨fun bs hd hown hroom => ⟨fun heven hothers => ?_, ?_⟩, ?_, ?_, ?_, ?_⟩
  · have h := keptBut_commitStore (K := fun _ => False) core p kind hd hown hroom nofun
      (fun k e he hkey hne => hne (hothers k e he hkey)) (.inl heven)
    exact fun l => h.memory l fun _ _ _ => id
  · have h := keptBut_commitStore (K := (· ∈ genKeys bs)) core p kind hd hown hroom (fun _ => id)
      (fun k e _ hkey _ => hkey) (.inr fun _ => id)
    exact ⟨fun l hl => h.memory l fun a v hav => any_sameByte_genKeys (hav ▸ hl), h.regs⟩
  · exact fun a va v hpol ha hnone hr hp => readByte_commitStore_through p kind hpol ha hnone hr hp
  · rintro w l v coh rfl (⟨a, rfl⟩ | ⟨w0, w1, o, rfl⟩)
    · simp only [memByte, postedByte_commitStore s w.c core (l := .host a) v p kind policy rfl]
    · simp only [memByte, postedByte_commitStore s w.c core (l := .fab w0 w1 o) v p kind policy rfl]
  · exact fun w a va v coh hw hr => memByte_commitByte_gen w a va v coh hw hr
  · exact fun w k o v coh hw hopen hopen' => memByte_commitByte_spad w k o v coh hw hopen hopen'

end Sys2Proof.Laws
end

section
/-! SUPPORT. The fields of an instruction word: what `bitsAt` reads of words put together from fields, and each field code against
its decoder (R40 to R44). -/

namespace Sys2Proof.Laws.Encoding

open Sys2Proof Sys2Proof.Machine

/-! ## Bits of a word -/

theorem bitsAt_eq_extractLsb' (w : Word) (lo n : Nat) : bitsAt w lo n = w.extractLsb' lo n :=
  BitVec.setWidth_ushiftRight_eq_extractLsb

theorem bitsAt_toNat (w : Word) (lo n : Nat) : (bitsAt w lo n).toNat = w.toNat / 2 ^ lo % 2 ^ n := by
  rw [bitsAt_eq_extractLsb', BitVec.extractLsb'_toNat, Nat.shiftRight_eq_div_pow]

/-- The opcode field, bits [63:54] of every format (R43, R46, R48, R49). -/
def opcodeOf (w : Word) : Nat := (bitsAt w 54 10).toNat

theorem opcodeOf_lt (w : Word) : opcodeOf w < 1024 := (bitsAt w 54 10).isLt

theorem ofNat_opcodeOf (w : Word) : BitVec.ofNat 10 (opcodeOf w) = bitsAt w 54 10 := by
  rw [opcodeOf, BitVec.ofNat_toNat, BitVec.setWidth_eq]

theorem opcodeOf_eq_of_bits {w : Word} {op : Nat} (hop : op < 1024) (h : bitsAt w 54 10 = BitVec.ofNat 10 op) :
    opcodeOf w = op := by
  rw [opcodeOf, h, BitVec.toNat_ofNat, Nat.mod_eq_of_lt hop]

theorem opcodeOf_eq_div (w : Word) : opcodeOf w = w.toNat / 2 ^ 54 := by
  have hw : w.toNat < 2 ^ 64 := w.isLt
  rw [opcodeOf, bitsAt_toNat]
  omega

/-- Opcode bits [9:6] are the class (R51). -/
theorem class_eq (w : Word) : (bitsAt w 60 4).toNat = opcodeOf w / 64 := by
  have hw : w.toNat < 2 ^ 64 := w.isLt
  rw [opcodeOf_eq_div, bitsAt_toNat]
  omega

/-- Opcode bits [5:0] are the low bits of the map (R52). -/
theorem low_eq (w : Word) : (bitsAt w 54 6).toNat = opcodeOf w % 64 := by
  rw [opcodeOf_eq_div, bitsAt_toNat]
  omega

theorem ne_zero_of_opcodeOf_pos {w : Word} (h : 0 < opcodeOf w) : w ≠ 0 := by
  rintro rfl
  exact absurd h (by decide)

theorem bitAt_eq_extractLsb' (w : Word) (k : Nat) : bitAt w k = (w.extractLsb' k 1).getLsbD 0 := by
  simp [bitAt]

@[simp] theorem boolBit_getLsbD_zero (b : Bool) : (boolBit b).getLsbD 0 = b := by cases b <;> rfl

theorem boolBit_bitAt (w : Word) (k : Nat) : boolBit (bitAt w k) = bitsAt w k 1 := by
  ext j hj
  obtain rfl : j = 0 := by omega
  cases h : w.getLsbD k <;> simp [boolBit, bitAt, bitsAt, h]

theorem bitsAt_one_eq_zero {w : Word} {k : Nat} (h : bitAt w k = false) : bitsAt w k 1 = 0#1 := by
  rw [← boolBit_bitAt, h]; rfl

/-- Neighbouring fields of a word are one field. -/
theorem bitsAt_append (w : Word) {lo lo' m n : Nat} (h : lo' = lo + n) : bitsAt w lo' m ++ bitsAt w lo n = bitsAt w lo (m + n) := by
  simp only [bitsAt_eq_extractLsb', BitVec.extractLsb'_append_extractLsb'_eq_extractLsb' h]

theorem bitsAt_zero_64 (w : Word) : bitsAt w 0 64 = w := by
  rw [bitsAt_eq_extractLsb', BitVec.extractLsb'_eq_self]

/-! ## Field codes -/

@[simp] theorem elemOfCode_code (t : ElemType) : elemOfCode (BitVec.ofNat 4 t.code).toNat = t := by cases t <;> rfl

theorem code_elemOfCode (c : BitVec 4) : BitVec.ofNat 4 (elemOfCode c.toNat).code = c := by
  revert c; decide

@[simp] theorem predOfCode_code (p : PredMode) : predOfCode p.code = p := by cases p <;> rfl

@[simp] theorem predErrors_code (p : PredMode) : predErrors p.code = [] := by cases p <;> rfl

theorem code_predOfCode {c : BitVec 2} (h : predErrors c = []) : (predOfCode c).code = c := by
  revert c; decide

@[simp] theorem slotOfCode_code (s : Slot) : slotOfCode s.code = s := by cases s <;> rfl

theorem code_slotOfCode (c : BitVec 2) : (slotOfCode c).code = c := by revert c; decide

@[simp] theorem tagOfCode_code (t : TagArith) : tagOfCode t.code = t := by cases t <;> rfl

@[simp] theorem tagErrors_code (t : TagArith) : tagErrors t.code = [] := by cases t <;> rfl

theorem code_tagOfCode {c : BitVec 2} (h : tagErrors c = []) : (tagOfCode c).code = c := by
  revert c; decide

@[simp] theorem roundOfCode_code (r : RoundOvr) : roundOfCode r.code = r := by cases r <;> rfl

theorem code_roundOfCode (c : BitVec 2) : (roundOfCode c).code = c := by revert c; decide

/-! ## Target fields (R40) -/

/-- A target field is its kind, its slot bits and its index. -/
theorem target_split (c : BitVec 11) : c.extractLsb' 9 2 ++ c.extractLsb' 7 2 ++ c.extractLsb' 0 7 = c := by
  rw [BitVec.extractLsb'_append_extractLsb'_eq_extractLsb' (by rfl),
    BitVec.extractLsb'_append_extractLsb'_eq_extractLsb' (by rfl), BitVec.extractLsb'_eq_self]

/-- A target field is its kind, its reserved bits of kind 10 and its W number. -/
theorem target_split_write (c : BitVec 11) : c.extractLsb' 9 2 ++ c.extractLsb' 5 4 ++ c.extractLsb' 0 5 = c := by
  rw [BitVec.extractLsb'_append_extractLsb'_eq_extractLsb' (by rfl),
    BitVec.extractLsb'_append_extractLsb'_eq_extractLsb' (by rfl), BitVec.extractLsb'_eq_self]

theorem target_operand_fields (s : BitVec 2) (n : BitVec 7) : ((1#2) ++ s ++ n).extractLsb' 9 2 = 1#2
    ∧ ((1#2) ++ s ++ n).extractLsb' 7 2 = s ∧ ((1#2) ++ s ++ n).extractLsb' 0 7 = n := by
  simp (disch := decide) only [BitVec.extractLsb'_append_eq_of_le, BitVec.extractLsb'_append_eq_of_add_le,
    BitVec.extractLsb'_eq_self, Nat.reduceSub, and_self]

theorem target_write_fields (w : BitVec 5) : ((2#2) ++ (0#4) ++ w).extractLsb' 9 2 = 2#2
    ∧ ((2#2) ++ (0#4) ++ w).extractLsb' 5 4 = 0#4 ∧ ((2#2) ++ (0#4) ++ w).extractLsb' 0 5 = w := by
  simp (disch := decide) only [BitVec.extractLsb'_append_eq_of_le, BitVec.extractLsb'_append_eq_of_add_le,
    BitVec.extractLsb'_eq_self, Nat.reduceSub, and_self]

@[simp] theorem targetOfCode_code (t : Target) : targetOfCode t.code = t := by
  cases t with
  | none => rfl
  | operand s n =>
    obtain ⟨hkind, hslot, hindex⟩ := target_operand_fields s.code n
    simp [Target.code, targetOfCode, hkind, hslot, hindex]
  | write w =>
    obtain ⟨hkind, -, hnum⟩ := target_write_fields w
    rw [Target.code, targetOfCode, hkind, hnum]; rfl

@[simp] theorem targetErrors_code (t : Target) : targetErrors t.code = [] := by
  cases t with
  | none => rfl
  | operand s n =>
    obtain ⟨hkind, -, -⟩ := target_operand_fields s.code n
    simp [Target.code, targetErrors, hkind]
  | write w =>
    obtain ⟨hkind, hreserved, -⟩ := target_write_fields w
    rw [Target.code, targetErrors, hkind, hreserved]; rfl

theorem code_targetOfCode {c : BitVec 11} (h : targetErrors c = []) : (targetOfCode c).code = c := by
  have hkinds : ∀ k : BitVec 2, k = 0 ∨ k = 1 ∨ k = 2 ∨ k = 3 := by decide
  rcases hkinds (c.extractLsb' 9 2) with hk | hk | hk | hk <;> simp [targetErrors, hk] at h
  · simp [targetOfCode, Target.code, h]
  · calc (targetOfCode c).code = c.extractLsb' 9 2 ++ c.extractLsb' 7 2 ++ c.extractLsb' 0 7 := by
          simp [targetOfCode, hk, Target.code, code_slotOfCode]
      _ = c := target_split c
  · calc (targetOfCode c).code = c.extractLsb' 9 2 ++ c.extractLsb' 5 4 ++ c.extractLsb' 0 5 := by
          simp [targetOfCode, hk, Target.code, h]
      _ = c := target_split_write c

/-! ## The four formats: fields of the encoding, encoding of the fields -/

/-- Format G (R43): the opcode and the fields of an encoding are what it was made of, and none is in error. -/
theorem fields_encodeG (op : Nat) (f : GFields) : bitsAt (encodeG op f) 54 10 = BitVec.ofNat 10 op
    ∧ gOfWord (encodeG op f) = f ∧ gErrors (encodeG op f) = [] := by
  simp (disch := decide) only [gOfWord, gErrors, encodeG, bitsAt_eq_extractLsb', bitAt_eq_extractLsb',
    BitVec.extractLsb'_append_eq_of_le, BitVec.extractLsb'_append_eq_of_add_le, BitVec.extractLsb'_eq_self, Nat.reduceSub,
    elemOfCode_code, predOfCode_code, predErrors_code, targetOfCode_code, targetErrors_code, tagOfCode_code, tagErrors_code,
    roundOfCode_code, boolBit_getLsbD_zero, List.append_nil, and_self]

/-- Format L (R46). -/
theorem fields_encodeL (op : Nat) (f : LFields) : bitsAt (encodeL op f) 54 10 = BitVec.ofNat 10 op
    ∧ lOfWord (encodeL op f) = f ∧ lErrors (encodeL op f) = [] := by
  simp (disch := decide) only [lOfWord, lErrors, encodeL, bitsAt_eq_extractLsb',
    BitVec.extractLsb'_append_eq_of_le, BitVec.extractLsb'_append_eq_of_add_le, BitVec.extractLsb'_eq_self, Nat.reduceSub,
    elemOfCode_code, predOfCode_code, predErrors_code, targetOfCode_code, targetErrors_code, List.append_nil, and_self]

/-- Format B (R48). -/
theorem fields_encodeB (op : Nat) (f : BFields) : bitsAt (encodeB op f) 54 10 = BitVec.ofNat 10 op
    ∧ bOfWord (encodeB op f) = f ∧ bErrors (encodeB op f) = [] := by
  simp (disch := decide) only [bOfWord, bErrors, encodeB, bitsAt_eq_extractLsb', bitAt_eq_extractLsb',
    BitVec.extractLsb'_append_eq_of_le, BitVec.extractLsb'_append_eq_of_add_le, BitVec.extractLsb'_eq_self, Nat.reduceSub,
    predOfCode_code, predErrors_code, boolBit_getLsbD_zero, List.nil_append, true_and]
  rfl

/-- Format X (R49). -/
theorem fields_encodeX (op : Nat) (f : XFields) : bitsAt (encodeX op f) 54 10 = BitVec.ofNat 10 op
    ∧ xOfWord (encodeX op f) = f ∧ xErrors (encodeX op f) = [] := by
  simp (disch := decide) only [xOfWord, xErrors, encodeX, bitsAt_eq_extractLsb', bitAt_eq_extractLsb',
    BitVec.extractLsb'_append_eq_of_le, BitVec.extractLsb'_append_eq_of_add_le, BitVec.extractLsb'_eq_self, Nat.reduceSub,
    elemOfCode_code, predOfCode_code, predErrors_code, targetOfCode_code, targetErrors_code, boolBit_getLsbD_zero,
    List.append_nil, List.nil_append, true_and]
  rfl

theorem encodeG_gOfWord {w : Word} (h : gErrors w = []) : encodeG (opcodeOf w) (gOfWord w) = w := by
  simp only [gErrors, List.append_eq_nil_iff] at h
  obtain ⟨⟨⟨⟨hpred, ht0⟩, ht1⟩, htag0⟩, htag1⟩ := h
  simp only [encodeG, gOfWord, ofNat_opcodeOf, code_elemOfCode, code_predOfCode hpred, code_targetOfCode ht0,
    code_targetOfCode ht1, code_tagOfCode htag0, code_tagOfCode htag1, code_roundOfCode, boolBit_bitAt]
  simp (disch := rfl) only [bitsAt_append]
  exact bitsAt_zero_64 w

theorem encodeL_lOfWord {w : Word} (h : lErrors w = []) : encodeL (opcodeOf w) (lOfWord w) = w := by
  simp only [lErrors, List.append_eq_nil_iff] at h
  obtain ⟨hpred, ht0⟩ := h
  simp only [encodeL, lOfWord, ofNat_opcodeOf, code_elemOfCode, code_predOfCode hpred, code_targetOfCode ht0]
  simp (disch := rfl) only [bitsAt_append]
  exact bitsAt_zero_64 w

theorem encodeB_bOfWord {w : Word} (h : bErrors w = []) : encodeB (opcodeOf w) (bOfWord w) = w := by
  simp only [bErrors, List.append_eq_nil_iff, ite_eq_right_iff, reduceCtorEq, imp_false, Bool.not_eq_true, Bool.or_eq_false_iff,
    bne_eq_false_iff_eq, BitVec.ofNat_eq_ofNat] at h
  obtain ⟨hpred, ⟨hty, hbit⟩, hlow⟩ := h
  rw [encodeB, ← hty, ← hlow, ← bitsAt_one_eq_zero hbit]
  simp only [bOfWord, ofNat_opcodeOf, code_predOfCode hpred, boolBit_bitAt]
  simp (disch := rfl) only [bitsAt_append]
  exact bitsAt_zero_64 w

theorem encodeX_xOfWord {w : Word} (h : xErrors w = []) : encodeX (opcodeOf w) (xOfWord w) = w := by
  simp only [xErrors, List.append_eq_nil_iff, ite_eq_right_iff, reduceCtorEq, imp_false, Bool.not_eq_true,
    bne_eq_false_iff_eq, BitVec.ofNat_eq_ofNat] at h
  obtain ⟨⟨hpred, ht0⟩, hlow⟩ := h
  rw [encodeX, ← hlow]
  simp only [xOfWord, ofNat_opcodeOf, code_elemOfCode, code_predOfCode hpred, code_targetOfCode ht0, boolBit_bitAt]
  simp (disch := rfl) only [bitsAt_append]
  exact bitsAt_zero_64 w

end Sys2Proof.Laws.Encoding
end

section
/-! SUPPORT. The opcode map (R51, R52): what its rows are, and which instruction and errors the lenient decoder reads from a
word. -/

namespace Sys2Proof.Laws.Encoding

open Sys2Proof Sys2Proof.Machine

/-! ## Rows that share an opcode -/

theorem decodeBr_row (f : BFields) : (decodeBr f).opcode = 0x200 ∧ (decodeBr f).fields = .b f := by
  unfold decodeBr; split_ifs <;> exact ⟨rfl, rfl⟩

theorem decodeLd_row (f : LFields) : (decodeLd f).opcode = 0x240 ∧ (decodeLd f).fields = .l f := by
  unfold decodeLd; split_ifs <;> exact ⟨rfl, rfl⟩

theorem decodeSt_row (f : LFields) : (decodeSt f).opcode = 0x241 ∧ (decodeSt f).fields = .l f := by
  unfold decodeSt; split_ifs <;> exact ⟨rfl, rfl⟩

theorem decodePref_row (f : LFields) : (decodePref f).opcode = 0x245 ∧ (decodePref f).fields = .l f := by
  unfold decodePref; split_ifs <;> exact ⟨rfl, rfl⟩

theorem decodeBind_row (f : GFields) : (decodeBind f).opcode = 0x284 ∧ (decodeBind f).fields = .g f := by
  unfold decodeBind; split_ifs <;> exact ⟨rfl, rfl⟩

theorem decodeTarena_row (f : LFields) : (decodeTarena f).opcode = 0x390 ∧ (decodeTarena f).fields = .l f := by
  unfold decodeTarena; split_ifs <;> exact ⟨rfl, rfl⟩

theorem decodeSetc_row (f : GFields) : (decodeSetc f).opcode = 0x28A ∧ (decodeSetc f).fields = .g f := by
  unfold decodeSetc; dsimp only; split_ifs <;> exact ⟨rfl, rfl⟩

/-! ## The classes -/

/-- Every row of a class table makes instructions of one format, with the opcode of the class and the row's low bits. -/
def RowsOf {α : Type} (wrap : α → Fields) (cls : Nat) (t : List (Nat × (α → Instr))) : Prop :=
  ∀ e ∈ t, ∀ f, (e.2 f).opcode = 64 * cls + e.1 ∧ (e.2 f).fields = wrap f

theorem lookupLow_mem {α : Type} {t : List (Nat × α)} {low : Nat} {a : α} (h : lookupLow t low = some a) : (low, a) ∈ t := by
  obtain ⟨⟨low', a'⟩, hfind, rfl⟩ := Option.map_eq_some_iff.mp h
  obtain rfl : low' = low := by simpa using List.find?_some hfind
  exact List.mem_of_find?_eq_some hfind

theorem lookupLow_eq_none_iff {α : Type} {t : List (Nat × α)} {low : Nat} : lookupLow t low = none ↔ low ∉ t.map (·.1) := by
  rw [lookupLow, Option.map_eq_none_iff, List.find?_eq_none]
  simp only [List.mem_map, beq_iff_eq, not_exists, not_and]

theorem RowsOf.lookupLow {α : Type} {wrap : α → Fields} {cls low : Nat} {t : List (Nat × (α → Instr))} {mk : α → Instr}
    (ht : RowsOf wrap cls t) (h : lookupLow t low = some mk) (f : α) :
    (mk f).opcode = 64 * cls + low ∧ (mk f).fields = wrap f :=
  ht _ (lookupLow_mem h) f

theorem class8_rows : RowsOf .b 8 class8 := by
  intro e he f
  fin_cases he
  · exact decodeBr_row f
  · exact ⟨rfl, rfl⟩

theorem class9_rows : RowsOf .l 9 class9 := by
  intro e he f
  fin_cases he
  on_goal 6 => exact decodePref_row f
  on_goal 2 => exact decodeSt_row f
  on_goal 1 => exact decodeLd_row f
  all_goals exact ⟨rfl, rfl⟩

theorem classA_rows : RowsOf .g 10 classA := by
  intro e he f
  fin_cases he
  on_goal 11 => exact decodeSetc_row f
  on_goal 5 => exact decodeBind_row f
  all_goals exact ⟨rfl, rfl⟩

theorem classC_rows : RowsOf .x 12 classC := by
  intro e he f
  fin_cases he <;> exact ⟨rfl, rfl⟩

theorem classE_rows : RowsOf .l 14 classE := by
  intro e he f
  fin_cases he
  on_goal 7 => exact decodeTarena_row f
  all_goals exact ⟨rfl, rfl⟩

theorem gClass_row {cls low : Nat} {mk : GFields → Instr} (h : gClass cls low = some mk) (f : GFields) :
    (mk f).opcode = 64 * cls + low ∧ (mk f).fields = .g f := by
  unfold gClass at h
  split at h
  case h_9 => exact classA_rows.lookupLow h f
  case h_10 => cases h
  all_goals
    refine RowsOf.lookupLow (wrap := .g) (fun e he f => ?_) h f
    fin_cases he <;> exact ⟨rfl, rfl⟩

theorem lClass_row {cls low : Nat} {mk : LFields → Instr} (h : lClass cls low = some mk) (f : LFields) :
    (mk f).opcode = 64 * cls + low ∧ (mk f).fields = .l f := by
  unfold lClass at h
  split at h
  case h_1 => exact class9_rows.lookupLow h f
  case h_4 => exact classE_rows.lookupLow h f
  case h_6 => cases h
  all_goals
    refine RowsOf.lookupLow (wrap := .l) (fun e he f => ?_) h f
    fin_cases he <;> exact ⟨rfl, rfl⟩

/-! ## The lenient decoder -/

theorem decodeLenient_g {w : Word} {i : Instr}
    (h : (gClass (opcodeOf w / 64) (opcodeOf w % 64)).map (fun mk => mk (gOfWord w)) = some i) :
    decodeLenient w = some (i, gErrors w) := by
  obtain ⟨mk, hmk, rfl⟩ := Option.map_eq_some_iff.mp h
  simp only [decodeLenient, class_eq, low_eq, hmk]

theorem decodeLenient_l {w : Word} {i : Instr} (hg : gClass (opcodeOf w / 64) (opcodeOf w % 64) = none)
    (h : (lClass (opcodeOf w / 64) (opcodeOf w % 64)).map (fun mk => mk (lOfWord w)) = some i) :
    decodeLenient w = some (i, lErrors w) := by
  obtain ⟨mk, hmk, rfl⟩ := Option.map_eq_some_iff.mp h
  simp only [decodeLenient, class_eq, low_eq, hg, hmk]

theorem decodeLenient_b {w : Word} {i : Instr} (hcls : opcodeOf w / 64 = 8) (hg : gClass 8 (opcodeOf w % 64) = none)
    (hl : lClass 8 (opcodeOf w % 64) = none)
    (h : (lookupLow class8 (opcodeOf w % 64)).map (fun mk => mk (bOfWord w)) = some i) :
    decodeLenient w = some (i, bErrors w) := by
  obtain ⟨mk, hmk, rfl⟩ := Option.map_eq_some_iff.mp h
  simp [decodeLenient, class_eq, low_eq, hcls, hg, hl, hmk]

theorem decodeLenient_x {w : Word} {i : Instr} (hcls : opcodeOf w / 64 = 12) (hg : gClass 12 (opcodeOf w % 64) = none)
    (hl : lClass 12 (opcodeOf w % 64) = none)
    (h : (lookupLow classC (opcodeOf w % 64)).map (fun mk => mk (xOfWord w)) = some i) :
    decodeLenient w = some (i, xErrors w) := by
  obtain ⟨mk, hmk, rfl⟩ := Option.map_eq_some_iff.mp h
  simp [decodeLenient, class_eq, low_eq, hcls, hg, hl, hmk]

/-- The lenient decoder reads an instruction with the word's opcode and, in its format, the word's fields and their errors. -/
theorem decodeLenient_cases {w : Word} {i : Instr} {errs : List DecodeError} (h : decodeLenient w = some (i, errs)) :
    i.opcode = opcodeOf w ∧ ((i.fields = .g (gOfWord w) ∧ errs = gErrors w) ∨ (i.fields = .l (lOfWord w) ∧ errs = lErrors w)
      ∨ (i.fields = .b (bOfWord w) ∧ errs = bErrors w) ∨ (i.fields = .x (xOfWord w) ∧ errs = xErrors w)) := by
  simp only [decodeLenient, class_eq, low_eq] at h
  have hop : 64 * (opcodeOf w / 64) + opcodeOf w % 64 = opcodeOf w := Nat.div_add_mod ..
  split at h
  case h_1 mk hg =>
    obtain ⟨rfl, rfl⟩ := Prod.mk.inj (Option.some.inj h)
    obtain ⟨hopcode, hfields⟩ := gClass_row hg (gOfWord w)
    exact ⟨hopcode.trans hop, .inl ⟨hfields, rfl⟩⟩
  case h_2 hg =>
    split at h
    case h_1 mk hl =>
      obtain ⟨rfl, rfl⟩ := Prod.mk.inj (Option.some.inj h)
      obtain ⟨hopcode, hfields⟩ := lClass_row hl (lOfWord w)
      exact ⟨hopcode.trans hop, .inr (.inl ⟨hfields, rfl⟩)⟩
    case h_2 hl =>
      split_ifs at h with h8 h12
      · obtain ⟨mk, hmk, hi⟩ := Option.map_eq_some_iff.mp h
        obtain ⟨rfl, rfl⟩ := Prod.mk.inj hi
        rw [beq_iff_eq.mp h8] at hop
        obtain ⟨hopcode, hfields⟩ := class8_rows.lookupLow hmk (bOfWord w)
        exact ⟨hopcode.trans hop, .inr (.inr (.inl ⟨hfields, rfl⟩))⟩
      · obtain ⟨mk, hmk, hi⟩ := Option.map_eq_some_iff.mp h
        obtain ⟨rfl, rfl⟩ := Prod.mk.inj hi
        rw [beq_iff_eq.mp h12] at hop
        obtain ⟨hopcode, hfields⟩ := classC_rows.lookupLow hmk (xOfWord w)
        exact ⟨hopcode.trans hop, .inr (.inr (.inr ⟨hfields, rfl⟩))⟩

/-! ## The decoder -/

theorem decode_eq_ok_iff {w : Word} {i : Instr} : decode w = .ok i ↔ w ≠ 0 ∧ decodeLenient w = some (i, []) := by
  by_cases hw : w = 0
  · subst hw
    exact ⟨nofun, fun h => absurd rfl h.1⟩
  · rw [decode, if_neg (by simpa using hw)]
    rcases decodeLenient w with _ | ⟨j, _ | ⟨e, es⟩⟩ <;>
      simp only [reduceCtorEq, Option.some.injEq, Prod.mk.injEq, Except.ok.injEq, ne_eq, hw, not_false_eq_true, and_true,
        and_false, true_and]

theorem decode_of_decodeLenient {w : Word} {i : Instr} {errs : List DecodeError} (hpos : 0 < opcodeOf w) (herrors : errs = [])
    (h : decodeLenient w = some (i, errs)) : decode w = .ok i :=
  decode_eq_ok_iff.mpr ⟨ne_zero_of_opcodeOf_pos hpos, herrors ▸ h⟩

theorem refused_of_decodeLenient_none {w : Word} (hw : w ≠ 0) (h : decodeLenient w = none) :
    decode w = .error .unassigned ∧ wordCauses w = [0x04] := by
  rw [decode, wordCauses, if_neg (by simpa using hw), if_neg (by simpa using hw), h]
  exact ⟨rfl, rfl⟩

/-! ## Unassigned opcodes (R52, R53) -/

/-- The low bits that the map lists for a class. -/
def listedLows : Nat → List Nat
  | 0x0 => class0.map (·.1)
  | 0x1 => class1.map (·.1)
  | 0x2 => class2.map (·.1)
  | 0x3 => class3.map (·.1)
  | 0x4 => class4.map (·.1)
  | 0x5 => class5.map (·.1)
  | 0x6 => class6.map (·.1)
  | 0x7 => class7.map (·.1)
  | 0x8 => class8.map (·.1)
  | 0x9 => class9.map (·.1)
  | 0xA => classA.map (·.1)
  | 0xB => classB.map (·.1)
  | 0xC => classC.map (·.1)
  | 0xD => classD.map (·.1)
  | 0xE => classE.map (·.1)
  | 0xF => classF.map (·.1)
  | _ => []

theorem gClass_eq_none {cls low : Nat} (h : low ∉ listedLows cls) : gClass cls low = none := by
  unfold gClass
  split
  case h_10 => rfl
  all_goals exact lookupLow_eq_none_iff.mpr h

theorem lClass_eq_none {cls low : Nat} (h : low ∉ listedLows cls) : lClass cls low = none := by
  unfold lClass
  split
  case h_6 => rfl
  all_goals exact lookupLow_eq_none_iff.mpr h

theorem decodeLenient_eq_none {w : Word} (h : opcodeOf w % 64 ∉ listedLows (opcodeOf w / 64)) : decodeLenient w = none := by
  simp only [decodeLenient, class_eq, low_eq, gClass_eq_none h, lClass_eq_none h]
  split_ifs with h8 h12
  · rw [beq_iff_eq.mp h8] at h
    exact Option.map_eq_none_iff.mpr (lookupLow_eq_none_iff.mpr h)
  · rw [beq_iff_eq.mp h12] at h
    exact Option.map_eq_none_iff.mpr (lookupLow_eq_none_iff.mpr h)
  · rfl

/-- The last low bits that R52 lists, by class. -/
def lastLows : List Nat :=
  [0x16, 0x11, 0x0F, 0x0E, 0x0C, 0x08, 0x0B, 0x0D, 0x01, 0x07, 0x0E, 0x07, 0x04, 0x11, 0x16, 0x04]

theorem listedLows_in_runs : ∀ cls < 16, ∀ low ∈ listedLows cls,
    low ≤ lastLows.getD cls 0 ∧ ¬(cls = 0 ∧ low = 0) ∧ ¬(cls = 0xE ∧ 0x05 < low ∧ low < 0x10) := by decide

theorem not_mem_listedLows {cls low : Nat} (hcls : cls < 16)
    (h : lastLows.getD cls 0 < low ∨ (cls = 0 ∧ low = 0) ∨ (cls = 0xE ∧ 0x05 < low ∧ low < 0x10)) : low ∉ listedLows cls := by
  intro hmem
  obtain ⟨hlast, hempty, hgap⟩ := listedLows_in_runs cls hcls low hmem
  rcases h with h | h | h
  · exact absurd hlast (Nat.not_le.mpr h)
  · exact hempty h
  · exact hgap h

/-! ## The rows of the opcode table -/

/-- Every row of the opcode table agrees with the map. -/
theorem agreesWithMap : ∀ i : Instr, Statement i
  | .add f => add f | .sub f => sub f | .neg f => neg f | .abs f => abs f | .mul f => mul f | .mulh f => mulh f
  | .mad f => mad f | .div f => div f | .rem f => rem f | .minI f => minI f | .maxI f => maxI f | .clamp f => clamp f
  | .absd f => absd f | .avg f => avg f | .addc f => addc f | .subb f => subb f | .dot4 f => dot4 f | .sad f => sad f
  | .addp f => addp f | .subp f => subp f | .ptrf f => ptrf f | .ptrx f => ptrx f | .andB f => andB f | .orB f => orB f
  | .xorB f => xorB f | .andn f => andn f | .orn f => orn f | .notB f => notB f | .shl f => shl f | .shr f => shr f
  | .sar f => sar f | .rol f => rol f | .ror f => ror f | .popc f => popc f | .clz f => clz f | .ctz f => ctz f
  | .brev f => brev f | .bswap f => bswap f | .bext f => bext f | .bins f => bins f | .ceq f => ceq f | .cne f => cne f
  | .clt f => clt f | .cle f => cle f | .cgt f => cgt f | .cge f => cge f | .cuo f => cuo f | .testz f => testz f
  | .testnz f => testnz f | .pand f => pand f | .por f => por f | .pxor f => pxor f | .pnot f => pnot f | .anyl f => anyl f
  | .alll f => alll f | .cmask f => cmask f | .fadd f => fadd f | .fsub f => fsub f | .fmul f => fmul f | .fdiv f => fdiv f
  | .fma f => fma f | .fms f => fms f | .fnma f => fnma f | .fnms f => fnms f | .fmin f => fmin f | .fmax f => fmax f
  | .fabs f => fabs f | .fneg f => fneg f | .fsqrt f => fsqrt f | .fclass f => fclass f | .fcpys f => fcpys f
  | .frcp f => frcp f | .frsq f => frsq f | .fexp2 f => fexp2 f | .flog2 f => flog2 f | .fsin f => fsin f
  | .fcos f => fcos f | .ftanh f => ftanh f | .fsig f => fsig f | .frnd f => frnd f | .cvtf f => cvtf f
  | .cvtfi f => cvtfi f | .cvtif f => cvtif f | .cvti f => cvti f | .pack8 f => pack8 f | .unpk8 f => unpk8 f
  | .packh f => packh f | .unpkh f => unpkh f | .ql6 f => ql6 f | .dql6 f => dql6 f | .l6mul f => l6mul f
  | .scalex f => scalex f | .scalea f => scalea f | .hash32 f => hash32 f | .hash64 f => hash64 f | .hcomb f => hcomb f
  | .bucket f => bucket f | .bkhist f => bkhist f | .bkscat f => bkscat f | .slen f => slen f | .scmp f => scmp f
  | .spfx f => spfx f | .sfind f => sfind f | .shash f => shash f | .isect f => isect f | .mov f => mov f | .sel f => sel f
  | .constI f => constI f | .consth f => consth f | .nul f => nul f | .lane f => lane f | .insl f => insl f
  | .bcast f => bcast f | .perm f => perm f | .lrot f => lrot f | .redadd f => redadd f | .redmin f => redmin f
  | .redmax f => redmax f | .fredadd f => fredadd f | .br f => br f | .brLeave f => brLeave f | .brMchk f => brMchk f
  | .bri f => bri f | .ld f => ld f | .ldRc f => ldRc f | .st f => st f | .stCnt f => stCnt f | .gath f => gath f
  | .scat f => scat f | .stm f => stm f | .pref f => pref f | .prefCode f => prefCode f | .lds f => lds f | .stq f => stq f
  | .spawn f => spawn f | .quit f => quit f | .yield f => yield f | .repart f => repart f | .bind f => bind f
  | .unbind f => unbind f | .send f => send f | .recv f => recv f | .mcast f => mcast f | .waita f => waita f
  | .getc f => getc f | .setc f => setc f | .trap f => trap f | .rett f => rett f | .syncb f => syncb f
  | .launch f => launch f | .mcopy f => mcopy f | .mput f => mput f | .mget f => mget f | .mquery f => mquery f
  | .task f => task f | .tdone f => tdone f | .gbar f => gbar f | .gmcast f => gmcast f | .mma f => mma f
  | .accinit f => accinit f | .accout f => accout f | .accclr f => accclr f | .accq f => accq f | .aadd f => aadd f
  | .amin f => amin f | .amax f => amax f | .aand f => aand f | .aor f => aor f | .axor f => axor f | .axchg f => axchg f
  | .acas f => acas f | .afadd f => afadd f | .afmin f => afmin f | .afmax f => afmax f | .phase f => phase f
  | .rcdecl f => rcdecl f | .rcend f => rcend f | .rcq f => rcq f | .rwb f => rwb f | .rinv f => rinv f
  | .rdisc f => rdisc f | .thnew f => thnew f | .thfree f => thfree f | .tacq f => tacq f | .trel f => trel f
  | .tsplit f => tsplit f | .tquery f => tquery f | .tarena f => tarena f | .tarenaDestroy f => tarenaDestroy f
  | .tselect f => tselect f | .tbatch f => tbatch f | .texpand f => texpand f | .tbackup f => tbackup f
  | .treroot f => treroot f | .tstat f => tstat f | .wset f => wset f | .wget f => wget f | .coll f => coll f
  | .cwait f => cwait f | .flink f => flink f | .round f => round f | .seed f => seed f | .feCtl f => feCtl f
  | .coreErr f => coreErr f | .tlbInv f => tlbInv f | .ptRoot f => ptRoot f | .rcLogctl f => rcLogctl f
  | .spillCtl f => spillCtl f | .partCfg f => partCfg f | .distKill f => distKill f
  | .launchWindowWrite x y z => launchWindowWrite x y z | .winDrop x => winDrop x | .partWake x y => partWake x y
  | .kilnRecoveryRequest => kilnRecoveryRequest | .kilnFlashRewrite => kilnFlashRewrite
  | .moduleNumberSet x => moduleNumberSet x | .powerLimitSet x => powerLimitSet x
  | .attestationReport x => attestationReport x | .frameGrant x y => frameGrant x y | .blockMap x => blockMap x
  | .blockFetchFill x y => blockFetchFill x y | .tokenArrival x y z u => tokenArrival x y z u
  | .tokenResend x y z u => tokenResend x y z u | .blockCommit x => blockCommit x | .faultTaken x => faultTaken x
  | .blockIncompleteTimeout x => blockIncompleteTimeout x | .contextPark x => contextPark x
  | .contextUnpark x => contextUnpark x | .yieldExpiry x => yieldExpiry x | .brickGate x y => brickGate x y
  | .repartApply x => repartApply x | .iterationCommit x => iterationCommit x | .ldsEmit x y => ldsEmit x y
  | .musterComplete x y => musterComplete x y | .messageArrival x y => messageArrival x y
  | .trapRecordDelivery x => trapRecordDelivery x | .postedAck x y => postedAck x y
  | .postedRefusal x y z => postedRefusal x y z | .preemption x => preemption x | .contextRestore x y => contextRestore x y
  | .quantumEnd x y => quantumEnd x y | .jobStart x y => jobStart x y | .jobLand x y => jobLand x y
  | .jobComplete x y => jobComplete x y | .jobFault x y => jobFault x y | .cardDispatch x => cardDispatch x
  | .taskStart x => taskStart x | .matrixCommandStart x y => matrixCommandStart x y
  | .matrixCommandFinish x y => matrixCommandFinish x y | .phaseComplete x => phaseComplete x
  | .l1Eviction x y => l1Eviction x y | .tenureGrant x y => tenureGrant x y | .leaseExpiry x y z u => leaseExpiry x y z u
  | .regionEnd x y z => regionEnd x y z | .pageWalk x y z => pageWalk x y z
  | .hostAtsInvalidate x y => hostAtsInvalidate x y | .hostBackInvalidate x => hostBackInvalidate x
  | .hostMemRequest x y => hostMemRequest x y | .remoteAccess x y z u => remoteAccess x y z u
  | .collectiveComplete x y => collectiveComplete x y | .flitRetry x => flitRetry x | .portRetrain x y => portRetrain x y
  | .loaderTake x => loaderTake x | .gangReserve x y => gangReserve x y | .gangCommit x y => gangCommit x y
  | .launchComplete x y => launchComplete x y | .quiescenceSample x y => quiescenceSample x y
  | .clusterPowerDown x => clusterPowerDown x | .powerThrottle x => powerThrottle x
  | .linkRetrain x y z => linkRetrain x y z | .boot => boot | .effectivePriorityAging x y => effectivePriorityAging x y
  | .nodeCacheEviction x y z => nodeCacheEviction x y z | .l2Eviction x => l2Eviction x
  | .hostPortRetrain x y => hostPortRetrain x y

/-! ## The encoding, by format -/

theorem encode_of_g {i : Instr} {f : GFields} (hf : i.fields = .g f) : encode i = encodeG i.opcode f := by simp only [encode, hf]

theorem encode_of_l {i : Instr} {f : LFields} (hf : i.fields = .l f) : encode i = encodeL i.opcode f := by simp only [encode, hf]

theorem encode_of_b {i : Instr} {f : BFields} (hf : i.fields = .b f) : encode i = encodeB i.opcode f := by simp only [encode, hf]

theorem encode_of_x {i : Instr} {f : XFields} (hf : i.fields = .x f) : encode i = encodeX i.opcode f := by simp only [encode, hf]

end Sys2Proof.Laws.Encoding
end

section
/-! CERTIFICATES. Instruction words (R40 to R53). -/

namespace Sys2Proof.Laws.Encoding

open Sys2Proof Sys2Proof.Machine

/-! ## Decode of encode, by format -/

theorem decode_encode_g {i : Instr} {f : GFields} (hf : i.fields = .g f) (hcanonical : i.canonical = true) :
    decode (encode i) = .ok i := by
  have hrow := agreesWithMap i
  rw [Statement, hf] at hrow
  obtain ⟨hpos, hlt, hmk⟩ := hrow
  rw [encode_of_g hf]
  obtain ⟨hbits, hfields, herrors⟩ := fields_encodeG i.opcode f
  have hop := opcodeOf_eq_of_bits hlt hbits
  exact decode_of_decodeLenient (by omega) herrors
    (decodeLenient_g (by rw [hop, hfields]; exact hmk hcanonical))

theorem decode_encode_l {i : Instr} {f : LFields} (hf : i.fields = .l f) (hcanonical : i.canonical = true) :
    decode (encode i) = .ok i := by
  have hrow := agreesWithMap i
  rw [Statement, hf] at hrow
  obtain ⟨hpos, hlt, hg, hmk⟩ := hrow
  rw [encode_of_l hf]
  obtain ⟨hbits, hfields, herrors⟩ := fields_encodeL i.opcode f
  have hop := opcodeOf_eq_of_bits hlt hbits
  exact decode_of_decodeLenient (by omega) herrors
    (decodeLenient_l (by rw [hop, hg]) (by rw [hop, hfields]; exact hmk hcanonical))

theorem decode_encode_b {i : Instr} {f : BFields} (hf : i.fields = .b f) (hcanonical : i.canonical = true) :
    decode (encode i) = .ok i := by
  have hrow := agreesWithMap i
  rw [Statement, hf] at hrow
  obtain ⟨hcls, hg, hl, hmk⟩ := hrow
  rw [encode_of_b hf]
  obtain ⟨hbits, hfields, herrors⟩ := fields_encodeB i.opcode f
  have hop := opcodeOf_eq_of_bits (by omega) hbits
  exact decode_of_decodeLenient (by omega) herrors
    (decodeLenient_b (by rw [hop, hcls]) (by rw [hop, hg]) (by rw [hop, hl]) (by rw [hop, hfields]; exact hmk hcanonical))

theorem decode_encode_x {i : Instr} {f : XFields} (hf : i.fields = .x f) : decode (encode i) = .ok i := by
  have hrow := agreesWithMap i
  rw [Statement, hf] at hrow
  obtain ⟨hcls, hg, hl, hmk⟩ := hrow
  rw [encode_of_x hf]
  obtain ⟨hbits, hfields, herrors⟩ := fields_encodeX i.opcode f
  have hop := opcodeOf_eq_of_bits (by omega) hbits
  exact decode_of_decodeLenient (by omega) herrors
    (decodeLenient_x (by rw [hop, hcls]) (by rw [hop, hg]) (by rw [hop, hl]) (by rw [hop, hfields]; exact hmk))

/-- Settles O2: by format, the fields of the encoding are the instruction's, and the map's row for its opcode makes it of them. -/
theorem decodeOfEncode : Obligations.DecodeOfEncode := by
  unfold Obligations.DecodeOfEncode
  intro i hwf
  simp only [Instr.wf, Bool.and_eq_true] at hwf
  obtain ⟨⟨hcanonical, hevent⟩, -⟩ := hwf
  cases hf : i.fields with
  | g f => exact decode_encode_g hf hcanonical
  | l f => exact decode_encode_l hf hcanonical
  | b f => exact decode_encode_b hf hcanonical
  | x f => exact decode_encode_x hf
  | event => simp [hf] at hevent

/-- Settles O3: the instruction of a word has its opcode and its fields, and fields without an error are encoded as they stood. -/
theorem encodeOfDecode : Obligations.EncodeOfDecode := by
  unfold Obligations.EncodeOfDecode
  intro w i h
  obtain ⟨-, hlenient⟩ := decode_eq_ok_iff.mp h
  obtain ⟨hop, ⟨hf, herrors⟩ | ⟨hf, herrors⟩ | ⟨hf, herrors⟩ | ⟨hf, herrors⟩⟩ := decodeLenient_cases hlenient
  · rw [encode_of_g hf, hop, encodeG_gOfWord herrors.symm]
  · rw [encode_of_l hf, hop, encodeL_lOfWord herrors.symm]
  · rw [encode_of_b hf, hop, encodeB_bOfWord herrors.symm]
  · rw [encode_of_x hf, hop, encodeX_xOfWord herrors.symm]

/-- Settles O5: the map lists no low bits outside the runs of a class, and the decoder finds no row for them. -/
theorem unassignedOpcodesRefused : Obligations.UnassignedOpcodesRefused := by
  unfold Obligations.UnassignedOpcodesRefused
  intro w hw hlow
  have hlt := opcodeOf_lt w
  have hdiv := opcodeOf_eq_div w
  have hcls : opcodeOf w / 64 = w.toNat / 2 ^ 60 := by omega
  refine refused_of_decodeLenient_none hw (decodeLenient_eq_none (not_mem_listedLows (by omega) ?_))
  rw [hcls, hdiv]
  exact hlow

/-- Settles O4: opcode 0x000 is not in the map, and the word without a bit is told apart before the map is read. -/
theorem emptyEncoding : Obligations.EmptyEncoding := by
  unfold Obligations.EmptyEncoding
  refine ⟨rfl, rfl, fun w hw hop => ?_⟩
  have hcls : w.toNat / 2 ^ 60 = 0 := by omega
  exact unassignedOpcodesRefused w hw (.inr (.inl ⟨hcls, by rw [hop]⟩))

end Sys2Proof.Laws.Encoding
end

section
/-! SUPPORT. What a computing and a rounding instruction deliver when they are ready (R72, R77), and NaN operands (R65). -/

namespace Sys2Proof.Laws

open Sys2Proof Sys2Proof.Machine

variable {i : Instr} {s : State} {f : GFields} {a b c : Token}

/-- A rounding instruction that may round now does not wait for its draws. -/
theorem drawsWait_of_mayRound (h : MayRound i s f) : drawsWait s i f.rnd = false := by
  unfold drawsWait
  rcases h with hmode | ⟨fr, hfr, hold⟩
  · simp [hmode]
  · simp [hfr, hold]

theorem deliversFlagged_compute {g : State → Wide → Wide → Wide → Wide × BitVec 6} (hx : exec i s = compute i s g)
    (h : readiness i s = .go a b c) : DeliversFlagged i s (g s a.value b.value c.value) :=
  hx.trans (compute_go h)

theorem deliversFlagged_computeR {g : Rounding → Wide → Wide → Wide → Wide × BitVec 6}
    (hx : exec i s = computeR i s f.rnd g) (h : readiness i s = .go a b c) (hm : MayRound i s f) :
    DeliversFlagged i s (g (roundingAt s i f.rnd) a.value b.value c.value) := by
  have hd := drawsWait_of_mayRound hm
  exact hx.trans ((fire_go h).trans (by simp only [hd, Bool.false_eq_true, if_false]))

theorem deliversLanes_perLane {ty : ElemType} {wide : Bool} {r : Nat → LaneRes} (h : DeliversFlagged i s (perLane ty wide r)) :
    DeliversLanes i s ty wide r := by
  refine ⟨_, _, h, ?_, ?_⟩
  · rintro rfl
    exact ⟨fun k hk => laneN_perLane ty r hk, by simp [perLane, Function.comp_def]⟩
  · rintro rfl
    simp [perLane]

/-! ## NaN operands (R65) -/

/-- The exact result is NaN. -/
def GivesNan (e : Exact) : Prop := ∃ invalid, e = .nan invalid

theorem deliverF_givesNan {e : Exact} (h : GivesNan e) (ty : ElemType) (mode : Mode) (sat : Bool) (draw : Nat) :
    (deliverF ty mode sat draw e).1 = nanOf ty := by
  obtain ⟨invalid, rfl⟩ := h
  rfl

theorem exactAdd_nan_left (d : Bool) (y : FVal) : GivesNan (exactAdd d .nan y) := ⟨_, rfl⟩

theorem exactAdd_nan_right (d : Bool) (x : FVal) : GivesNan (exactAdd d x .nan) := by
  cases x with
  | _ => exact ⟨_, rfl⟩

theorem exactProd_nan {x y : FVal} (h : x = .nan ∨ y = .nan) : exactProd x y = some .nan := by
  rcases h with rfl | rfl
  · rfl
  · cases x with
    | _ => rfl

theorem exactMul_nan {x y : FVal} (h : x = .nan ∨ y = .nan) : GivesNan (exactMul x y) :=
  ⟨false, by rw [exactMul, exactProd_nan h]; rfl⟩

theorem exactDiv_nan {x y : FVal} (h : x = .nan ∨ y = .nan) : GivesNan (exactDiv x y) := by
  rcases h with rfl | rfl
  · exact ⟨_, rfl⟩
  · cases x with
    | _ => exact ⟨_, rfl⟩

/-- The product of NaN is NaN; an addend that is NaN makes the sum NaN, or the product was invalid before it (R99). -/
theorem exactFma_nan {d : Bool} {x y z : FVal} (h : x = .nan ∨ y = .nan ∨ z = .nan) : GivesNan (exactFma d x y z) := by
  by_cases hp : x = .nan ∨ y = .nan
  · rw [exactFma, exactProd_nan hp]
    exact exactAdd_nan_left d z
  · obtain rfl : z = .nan := by tauto
    rw [exactFma]
    cases exactProd x y with
    | none => exact ⟨_, rfl⟩
    | some p => exact exactAdd_nan_right d p

end Sys2Proof.Laws
end

section
/-! CERTIFICATES. Floating-point results (R65, R72, R77, R99, R101). -/

namespace Sys2Proof.Laws

open Sys2Proof Sys2Proof.Machine

/-- Settles O23: each is a rounding instruction whose lanes deliver that exact result. -/
theorem floatResults : Obligations.FloatResults := by
  intro e he f s a b c h hm
  have hx : exec (e.1 f) s = computeR (e.1 f) s f.rnd (fun r a b c => fpLanes f r a b c (e.2 (isDown r))) := by
    fin_cases he <;> rfl
  have hv := deliversFlagged_computeR hx h hm
  exact deliversLanes_perLane hv

/-- Settles O24: the exact result of a NaN operand is NaN, which every mode delivers alike. -/
theorem nanGivesCanonicalNan : Obligations.NanGivesCanonicalNan := by
  intro ty mode sat draw d x y z
  refine ⟨fun h e he => deliverF_givesNan ?_ .., fun h => deliverF_givesNan (exactFma_nan h) .., fun e he => deliverF_givesNan ?_ ..⟩
  · have hadd : ∀ w, (y = .nan → w = .nan) → GivesNan (exactAdd d x w) := by
      intro w hw
      rcases h with rfl | hy
      · exact exactAdd_nan_left d w
      · rw [hw hy]
        exact exactAdd_nan_right d x
    fin_cases he
    · exact hadd y id
    · exact hadd (flipSign y) (by rintro rfl; rfl)
    · exact exactMul_nan h
    · exact exactDiv_nan h
  · fin_cases he <;> exact ⟨_, rfl⟩

end Sys2Proof.Laws
end

section
/-! SUPPORT. What a squash leaves of the special registers and of the cached translations (R32, R73, R283). -/

namespace Sys2Proof.Laws

open Sys2Proof Sys2Proof.Machine

/-- ROUND, SEED and FE.CTL of a context, and its partition. -/
def specials (x : Ctx) : Word × Word × Word × Nat := (x.round, x.seed, x.feCtl, x.part)

/-- Every context keeps its special registers, every partition its cached translations. -/
structure KeepsSpecials (s t : State) : Prop where
  ctxs : ∀ d, specials (ctxAt t d) = specials (ctxAt s d)
  tlbs : ∀ d p, (partAt t d p).tlb = (partAt s d p).tlb

variable {s t u : State}

theorem KeepsSpecials.refl (s : State) : KeepsSpecials s s := ⟨fun _ => rfl, fun _ _ => rfl⟩

theorem KeepsSpecials.trans (h : KeepsSpecials s t) (h' : KeepsSpecials t u) : KeepsSpecials s u :=
  ⟨fun d => (h'.ctxs d).trans (h.ctxs d), fun d p => (h'.tlbs d p).trans (h.tlbs d p)⟩

theorem keepsSpecials_foldl {β : Type} {f : State → β → State} (hf : ∀ s b, KeepsSpecials s (f s b)) (l : List β) (s : State) :
    KeepsSpecials s (l.foldl f s) := by
  induction l generalizing s with
  | nil => exact .refl s
  | cons b l ih => exact (hf s b).trans (ih _)

theorem keepsSpecials_modCtx (s : State) (c : CtxId) {f : Ctx → Ctx} (hf : ∀ x, specials (f x) = specials x) :
    KeepsSpecials s (modCtx s c f) := by
  refine ⟨fun d => ?_, fun _ _ => rfl⟩
  by_cases hd : d = c
  · subst hd
    rw [ctxAt_modCtx_self, hf]
  · rw [ctxAt_modCtx_other _ _ hd]

theorem keepsSpecials_modCore (s : State) (n : Nat) {f : Core → Core} (hf : ∀ k m, specials (ctxIn (f k) m) = specials (ctxIn k m)) :
    KeepsSpecials s (modCore s n f) := by
  refine ⟨fun d => ?_, fun _ _ => rfl⟩
  unfold ctxAt
  rw [coreAt_modCore]
  split
  · next hd => rw [hf, hd]
  · rfl

theorem keepsSpecials_modPart (s : State) (d p : Nat) {f : Part → Part} (hf : ∀ q, (f q).tlb = q.tlb) :
    KeepsSpecials s (modPart s d p f) := by
  refine ⟨fun _ => rfl, fun d' p' => ?_⟩
  rw [partAt_modPart]
  split
  · next h => rw [hf, h.1, h.2]
  · rfl

theorem keepsSpecials_modArena (s : State) (d n : Nat) (f : Arena → Arena) : KeepsSpecials s (modArena s d n f) := by
  refine ⟨fun _ => rfl, fun d' p => ?_⟩
  unfold modArena partAt
  by_cases hd : d' = d
  · subst hd
    rw [dieAt_modDie_self]
    rfl
  · rw [dieAt_modDie_other _ _ hd]

theorem keepsSpecials_modThread (s : State) (t : Thread) {f : Ctx → Ctx} (hf : ∀ x, specials (f x) = specials x) :
    KeepsSpecials s (modThread s t f) := by
  unfold modThread modThreadCore
  cases t.aside with
  | none =>
    refine keepsSpecials_modCore s _ fun k m => ?_
    rw [ctxIn_setCtxs]
    split
    · next h => rw [hf, h]
    · rfl
  | some n => exact keepsSpecials_modPart s _ _ fun _ => rfl

theorem keepsSpecials_setReserved (s : State) (l : Loc) (f : Nat → Nat) : KeepsSpecials s (setReserved s l f) := by
  unfold setReserved
  cases l with
  | pa a v => exact ⟨fun _ => rfl, fun _ _ => rfl⟩
  | spad k o => exact keepsSpecials_modCore s k fun _ _ => rfl
  | _ => exact .refl s

/-- Returning a context that a SPAWN reserved. -/
theorem keepsSpecials_unspawn (s : State) (e : Effect) : KeepsSpecials s (match e with
    | .spawn t _ _ _ => modCtx s t (fun x => { x with reserved := false })
    | _ => s) := by
  split
  · exact keepsSpecials_modCtx s _ fun _ => rfl
  · exact .refl s

theorem keepsSpecials_ite {p : Prop} [Decidable p] (h : KeepsSpecials s t) (h' : KeepsSpecials s u) :
    KeepsSpecials s (if p then t else u) := by
  split
  · exact h
  · exact h'

theorem keepsSpecials_releaseTags (s : State) (c : CtxId) (fr : Frame) (sel : Tag → Bool) :
    KeepsSpecials s (releaseTags s c fr sel) := by
  unfold releaseTags
  dsimp only
  have hqueue := keepsSpecials_ite (p := s.rcQueue.isEmpty = true) (KeepsSpecials.refl s)
    (u := { s with rcQueue := s.rcQueue.filter (fun q => !(q.c == c && q.pos = fr.pos && sel q.tag)) })
    ⟨fun _ => rfl, fun _ _ => rfl⟩
  have hunits := hqueue.trans (keepsSpecials_foldl (fun s (r : Tag × Loc) => keepsSpecials_setReserved s r.2 (· - 1))
    (fr.reserved.filter (fun r => sel r.1)) _)
  have hspawns := hunits.trans (keepsSpecials_foldl (fun s (p : Pending) => keepsSpecials_unspawn s p.eff)
    (fr.effects.filter (fun p => sel p.tag)) _)
  refine .trans (.trans ?_ (keepsSpecials_modCtx _ c fun x => ?_)) (keepsSpecials_modPart _ _ _ fun _ => rfl)
  · exact keepsSpecials_ite (hspawns.trans (keepsSpecials_modPart _ _ _ fun _ => rfl)) hspawns
  · split
    · split
      · rfl
      · rfl
    · rfl

theorem keepsSpecials_finishWalk (s : State) (c : CtxId) : KeepsSpecials s (finishWalk s c) := by
  unfold finishWalk
  split
  · exact .refl s
  · have hw : KeepsSpecials s (modCtx s c (fun x => { x with walk := none })) := keepsSpecials_modCtx s c fun _ => rfl
    dsimp only
    split
    · exact hw
    · exact (hw.trans (keepsSpecials_modArena _ _ _ _)).trans (keepsSpecials_modCtx _ c fun _ => rfl)

theorem keepsSpecials_squashFrom (s : State) (c : CtxId) (n : Nat) : KeepsSpecials s (squashFrom s c n) := by
  unfold squashFrom
  dsimp only
  refine .trans (.trans ?_ (keepsSpecials_foldl (fun s fr => keepsSpecials_releaseTags s c fr _) _ _))
    (keepsSpecials_modCtx _ c fun _ => rfl)
  split
  · exact keepsSpecials_finishWalk s c
  · exact .refl s

theorem keepsSpecials_dropMember (c : CtxId) (pos : Nat) (old : Option Nat → Bool) (s : State) (k : Nat) :
    KeepsSpecials s (dropMember c pos old s k) := by
  unfold dropMember
  refine .trans ?_ (keepsSpecials_modThread _ _ fun _ => rfl)
  split
  · exact keepsSpecials_squashFrom s _ _
  · exact .refl s

theorem keepsSpecials_squashYounger (s : State) (c : CtxId) : KeepsSpecials s (squashYounger s c) := by
  unfold squashYounger squashCourse
  dsimp only
  split
  · exact (keepsSpecials_squashFrom s c 1).trans (keepsSpecials_foldl (fun s k => keepsSpecials_dropMember c _ _ s k) _ _)
  · exact keepsSpecials_squashFrom s c 1

end Sys2Proof.Laws
end

section
/-! SUPPORT. What the committed write of a control register leaves, register by register (R187), and that it touches no byte
and no general register. -/

namespace Sys2Proof.Laws

open Sys2Proof Sys2Proof.Machine

/-! ## Fields of a written value (R3, R73) -/

theorem ite_zero_eq_max (n : Nat) : (if n = 0 then 1 else n) = max 1 n := by
  split <;> omega

theorem getLsbD_keepBits (v : Word) (lo hi j : Nat) :
    (keepBits v lo hi).getLsbD j = (decide (lo ≤ j) && decide (j < hi) && v.getLsbD j) := by
  unfold keepBits
  rw [BitVec.getLsbD_ofNat, Nat.testBit_mul_two_pow, Nat.testBit_div_two_pow, Nat.testBit_mod_two_pow, BitVec.testBit_toNat]
  by_cases hlo : lo ≤ j
  · by_cases hj : j < 64
    · simp [hlo, hj]
    · simp [hj, BitVec.getLsbD_of_ge v j (by omega)]
  · simp [hlo]

theorem getLsbD_lowMask (n j : Nat) : (BitVec.ofNat 64 (2 ^ n - 1)).getLsbD j = (decide (j < 64) && decide (j < n)) := by
  rw [BitVec.getLsbD_ofNat, Nat.testBit_two_pow_sub_one]

theorem keepBits_low (v : Word) (hi : Nat) : keepBits v 0 hi = v &&& BitVec.ofNat 64 (2 ^ hi - 1) := by
  apply BitVec.eq_of_getLsbD_eq
  intro j hj
  rw [getLsbD_keepBits, BitVec.getLsbD_and, getLsbD_lowMask]
  simp [hj, Bool.and_comm]

theorem keepBits_high (v : Word) (lo : Nat) : keepBits v lo 64 = v &&& ~~~BitVec.ofNat 64 (2 ^ lo - 1) := by
  apply BitVec.eq_of_getLsbD_eq
  intro j hj
  rw [getLsbD_keepBits, BitVec.getLsbD_and, BitVec.getLsbD_not, getLsbD_lowMask]
  by_cases hlo : lo ≤ j
  · simp [hj, hlo, Nat.not_lt.mpr hlo]
  · simp [hlo, Nat.not_le.mp hlo]

/-! ## Views of the written state -/

@[simp] theorem round_squashYounger (s : State) (c : CtxId) : (ctxAt (squashYounger s c) c).round = (ctxAt s c).round :=
  congrArg (·.1) ((keepsSpecials_squashYounger s c).ctxs c)

@[simp] theorem seed_squashYounger (s : State) (c : CtxId) : (ctxAt (squashYounger s c) c).seed = (ctxAt s c).seed :=
  congrArg (·.2.1) ((keepsSpecials_squashYounger s c).ctxs c)

@[simp] theorem feCtl_squashYounger (s : State) (c : CtxId) : (ctxAt (squashYounger s c) c).feCtl = (ctxAt s c).feCtl :=
  congrArg (·.2.2.1) ((keepsSpecials_squashYounger s c).ctxs c)

@[simp] theorem part_squashYounger (s : State) (c : CtxId) : (ctxAt (squashYounger s c) c).part = (ctxAt s c).part :=
  congrArg (·.2.2.2) ((keepsSpecials_squashYounger s c).ctxs c)

@[simp] theorem partOf_modPartOf (s : State) (c : CtxId) (f : Part → Part) : partOf (modPartOf s c f) c = f (partOf s c) :=
  partAt_modPart_self s _ _ f

@[simp] theorem tlb_squashYounger (s : State) (c : CtxId) : (partOf (squashYounger s c) c).tlb = (partOf s c).tlb := by
  unfold partOf
  rw [part_squashYounger, (keepsSpecials_squashYounger s c).tlbs]

/-! ## The registers, one by one -/

variable (s : State) (c : CtxId) (core : Nat) (v : Word)

theorem writeControl_feCtl :
    writeControl s c core 0x004 v = squashYounger (modCtx s c (fun x => { x with feCtl := keepBits v 0 2 })) c := rfl
theorem writeControl_round :
    writeControl s c core 0x008 v = squashYounger (modCtx s c (fun x => { x with round := roundStored v })) c := rfl
theorem writeControl_seed :
    writeControl s c core 0x009 v = squashYounger (modCtx s c (fun x => { x with seed := seedStored v })) c := rfl
theorem writeControl_fpstat :
    writeControl s c core 0x00A v = modCtx s c (fun x => { x with fpstat := fpstatStored v }) := rfl
theorem writeControl_spillBase :
    writeControl s c core 0x012 v = modCtx s c (fun x => { x with spillBase := keepBits v 7 64, spillStop := false }) := rfl
theorem writeControl_spillCtl :
    writeControl s c core 0x013 v = modCtx s c (fun x => { x with spillCap := v.toNat / 2 ^ 32, spillStop := false }) := rfl
theorem writeControl_lease :
    writeControl s c core 0x021 v
      = modPartOf s c (fun p => { p with lease := if v.toNat % 2 ^ 16 = 0 then 1 else v.toNat % 2 ^ 16 }) := rfl
theorem writeControl_rcLog :
    writeControl s c core 0x022 v = modCtx s c (fun x => { x with rcLog := keepBits v 4 64 }) := rfl
theorem writeControl_rcLogctl :
    writeControl s c core 0x023 v = modCtx s c (fun x => { x with rcLogctl := keepBits v 40 64 }) := rfl
theorem writeControl_ptRoot :
    writeControl s c core 0x025 v
      = squashYounger (modPartOf s c (fun p => { p with ptRoot := keepBits v 18 52, tlb := [] })) c := rfl
theorem writeControl_quantum :
    writeControl s c core 0x030 v
      = modPartOf s c (fun p => { p with quantum := if v.toNat % 2 ^ 32 = 0 then 1 else v.toNat % 2 ^ 32 }) := rfl
theorem writeControl_age :
    writeControl s c core 0x031 v
      = modDie s (dieOf c.core) (fun d => { d with age := if v.toNat % 2 ^ 32 = 0 then 1 else v.toNat % 2 ^ 32 }) := rfl

/-! ## Memory and registers -/

theorem quiet_squashYounger (s : State) (c : CtxId) : Quiet anything s (squashYounger s c) :=
  quiet_squashCourse s 1 trivial fun _ _ => trivial

theorem quiet_killLaunch (s : State) (die lid : Nat) : Quiet anything s (killLaunch s die lid) :=
  quiet_foldl (fun _ _ s => quiet_modPart s _ _ _) s

theorem quiet_modCtxAny (s : State) (c : CtxId) (f : Ctx → Ctx) : Quiet anything s (modCtx s c f) := quiet_modCtx s c (.inl trivial)

theorem quiet_modCtx_squash (s : State) (c : CtxId) (f : Ctx → Ctx) : Quiet anything s (squashYounger (modCtx s c f) c) :=
  (quiet_modCtxAny s c f).trans (quiet_squashYounger _ c)

theorem quiet_modPartOf_squash (s : State) (c : CtxId) (f : Part → Part) : Quiet anything s (squashYounger (modPartOf s c f) c) :=
  (quiet_modPartOf s c f).trans (quiet_squashYounger _ c)

/-- No write of a control register changes a byte or a general register. -/
theorem quiet_writeControl (s : State) (c : CtxId) (core n : Nat) (v : Word) : Quiet anything s (writeControl s c core n v) := by
  unfold writeControl
  dsimp only
  split
  case h_2 | h_3 =>
    exact quiet_modCore s core ⟨fun _ => rfl, fun _ => rfl, fun _ => rfl, fun _ => rfl, fun _ => rfl, fun _ => rfl⟩ (.inl trivial)
  case h_1 | h_4 | h_5 => exact quiet_modCtx_squash s c _
  case h_6 | h_7 | h_8 | h_10 | h_11 => exact quiet_modCtxAny s c _
  case h_9 | h_14 | h_18 => exact quiet_modPartOf s c _
  case h_12 | h_13 => exact quiet_modPartOf_squash s c _
  case h_15 | h_17 => exact quiet_modDie s _ _
  case h_16 => exact quiet_killLaunch s _ _
  case h_19 => exact quiet_ite (quiet_modPart s _ _ _) (.refl s)

end Sys2Proof.Laws
end

section
/-! CERTIFICATES. Reset values (R73, R122, R123, R327, R365, R385) and committed writes of control registers (R73, R126, R207,
R285, R358, R365). -/

namespace Sys2Proof.Laws

open Sys2Proof Sys2Proof.Machine

/-- Settles O6: the tables of the reset state are empty, so that every place reads as its blank. -/
theorem resetValues : Obligations.ResetValues :=
  ⟨fun _ => ⟨rfl, rfl, rfl, rfl, rfl, rfl, fun _ => rfl⟩, fun _ => rfl, fun _ _ => ⟨rfl, rfl⟩, fun _ => ⟨rfl, rfl, fun _ => rfl⟩⟩

/-- Settles O40: each write is one update; the squash that follows some leaves the special registers and the TLB alone. -/
theorem controlRegisterWrites : Obligations.ControlRegisterWrites := by
  intro s c core v
  refine ⟨?_, ?_, ?_, ?_, ?_, ?_, ?_, ?_, ?_, ?_, ?_, ?_, fun n => ?_⟩
  · rw [writeControl_round, round_squashYounger, ctxAt_modCtx_self]
  · rw [writeControl_seed, seed_squashYounger, ctxAt_modCtx_self]
  · rw [writeControl_fpstat, ctxAt_modCtx_self]
  · rw [writeControl_feCtl, feCtl_squashYounger, ctxAt_modCtx_self]
    exact keepBits_low v 2
  · rw [writeControl_rcLog, ctxAt_modCtx_self]
    exact keepBits_high v 4
  · rw [writeControl_rcLogctl, ctxAt_modCtx_self]
    exact keepBits_high v 40
  · rw [writeControl_spillBase, ctxAt_modCtx_self]
    exact ⟨keepBits_high v 7, rfl⟩
  · rw [writeControl_spillCtl, ctxAt_modCtx_self]
    exact ⟨rfl, rfl⟩
  · rw [writeControl_lease, partOf_modPartOf]
    exact ite_zero_eq_max _
  · rw [writeControl_quantum, partOf_modPartOf]
    exact ite_zero_eq_max _
  · rw [writeControl_age, dieAt_modDie_self]
    exact ite_zero_eq_max _
  · rw [writeControl_ptRoot, tlb_squashYounger, partOf_modPartOf]
  · exact ⟨(quiet_writeControl s c core n v).memory, (quiet_writeControl s c core n v).regs⟩

end Sys2Proof.Laws
end

section
/-! SUPPORT. Integers in an element type: what wrapping and clamping leave, and what a lane reads as (R62, R88). -/

namespace Sys2Proof.Laws

open Sys2Proof Sys2Proof.Machine

theorem width_pos (ty : ElemType) : 0 < ty.width := by
  cases ty <;> decide

/-- A lane of a type has two halves: the values below and above its sign bit. -/
theorem two_pow_width (ty : ElemType) : 2 ^ ty.width = 2 * 2 ^ (ty.width - 1) := by
  rw [← pow_succ', Nat.sub_add_cancel (width_pos ty)]

theorem wrapTo_of_nonneg {w : Nat} {x : Int} (h : 0 ≤ x) (hx : x < (2 ^ w : Nat)) : (wrapTo w x : Int) = x := by
  rw [wrapTo, Int.emod_eq_of_lt h hx, Int.toNat_of_nonneg h]

theorem wrapTo_of_neg {w : Nat} {x : Int} (h : x < 0) (hx : -(2 ^ w : Nat) ≤ x) : (wrapTo w x : Int) = x + (2 ^ w : Nat) := by
  rw [wrapTo, ← Int.add_emod_right, Int.emod_eq_of_lt (by omega) (by omega), Int.toNat_of_nonneg (by omega)]

/-- A value that the type holds is read back from its pattern. -/
theorem readInt_wrapTo {ty : ElemType} {x : Int} (hmin : minOf ty ≤ x) (hmax : x ≤ maxOf ty) :
    readInt ty (wrapTo ty.width x) = x := by
  have h2 := two_pow_width ty
  have hmod := Nat.mod_eq_of_lt (wrapTo_lt ty.width x)
  cases hs : ty.signed with
  | false =>
    simp only [minOf, maxOf, hs, Bool.false_eq_true, if_false] at hmin hmax
    simp only [readInt, hs, Bool.false_eq_true, if_false, hmod]
    exact wrapTo_of_nonneg hmin (by omega)
  | true =>
    simp only [minOf, maxOf, hs, if_true] at hmin hmax
    simp only [readInt, hs, if_true, toSigned, hmod]
    rcases Int.lt_or_le x 0 with hneg | hpos
    · have hw := wrapTo_of_neg (w := ty.width) hneg (by omega)
      rw [if_neg (by omega)]
      omega
    · have hw := wrapTo_of_nonneg (w := ty.width) hpos (by omega)
      rw [if_pos (by omega), hw]

theorem minOf_le_maxOf (ty : ElemType) : minOf ty ≤ maxOf ty := by
  cases ty <;> decide

theorem readInt_zero (ty : ElemType) : readInt ty 0 = 0 := by
  cases ty <;> decide

/-- What a lane reads as lies within its type. -/
theorem readInt_range (ty : ElemType) (n : Nat) : minOf ty ≤ readInt ty n ∧ readInt ty n ≤ maxOf ty := by
  have h2 := two_pow_width ty
  have hlt := Nat.mod_lt n (Nat.two_pow_pos ty.width)
  cases hs : ty.signed with
  | false =>
    simp only [minOf, maxOf, readInt, hs, Bool.false_eq_true, if_false]
    omega
  | true =>
    simp only [minOf, maxOf, readInt, hs, if_true, toSigned]
    split <;> omega

/-- R88: wrapping, or clamping under saturate, gives an exact integer's result. -/
theorem fitInt_result (ty : ElemType) (sat : Bool) (x : Int) : IntResult ty sat x (fitInt ty sat x) := by
  have hb := minOf_le_maxOf ty
  unfold fitInt
  by_cases hfit : minOf ty ≤ x ∧ x ≤ maxOf ty
  · have hf : (decide (minOf ty ≤ x) && decide (x ≤ maxOf ty)) = true := by simp [hfit]
    rw [if_pos hf]
    exact ⟨wrapTo_lt .., fun _ _ => ⟨readInt_wrapTo hfit.1 hfit.2, rfl⟩, fun _ h => by omega, fun _ h => by omega,
      fun _ => ⟨rfl, rfl⟩⟩
  · have hf : ¬ (decide (minOf ty ≤ x) && decide (x ≤ maxOf ty)) = true := by simpa using hfit
    rw [if_neg hf]
    cases sat with
    | false => exact ⟨wrapTo_lt .., fun h h' => absurd ⟨h, h'⟩ hfit, nofun, nofun, fun _ => ⟨rfl, rfl⟩⟩
    | true =>
      refine ⟨wrapTo_lt .., fun h h' => absurd ⟨h, h'⟩ hfit, fun _ h => ?_, fun _ h => ?_, nofun⟩
      · simp only [if_true, h]
        exact ⟨readInt_wrapTo le_rfl hb, trivial⟩
      · simp only [if_true, if_neg (show ¬ x < minOf ty by omega)]
        exact ⟨readInt_wrapTo hb le_rfl, trivial⟩

/-- The immediate of SCALEX as a signed number (R45). -/
theorem toSigned_toNat (v : BitVec 16) : toSigned 16 v.toNat = v.toInt := by
  have hv := v.isLt
  rw [toSigned, BitVec.toInt_eq_toNat_cond]
  split <;> split <;> omega

end Sys2Proof.Laws
end

section
/-! SUPPORT. Tokens made of lanes, and conversions (R78, R103, R104, R107, R108). -/

namespace Sys2Proof.Laws

open Sys2Proof Sys2Proof.Machine

variable {i : Instr} {s : State} {f : GFields} {a : Token}

/-! ## Tokens made of lanes -/

theorem width_mul_laneCount (w : Nat) : w * laneCount w ≤ 512 := Nat.mul_div_le 512 w

theorem getD_map_range {α : Type} (g : Nat → α) (d : α) {n k : Nat} (hk : k < n) : ((List.range n).map g).getD k d = g k := by
  simp [List.getD, hk]

/-- A token with one result in each of its n lanes, and the flags of them all. -/
theorem deliversToken_range {w n : Nat} {lane : Nat → LaneRes} (hn : w * n ≤ 512)
    (h : DeliversFlagged i s (fromLanes w n (fun k => (((List.range n).map lane).getD k (0, 0)).1),
      orFlags (((List.range n).map lane).map (·.2)))) :
    DeliversToken i s w n (List.range n) lane := by
  rw [List.map_map] at h
  exact ⟨_, h, fun k hk => by rw [laneN_fromLanes _ _ _ hn hk, getD_map_range lane _ hk]⟩

/-- n results stand in the lanes from lo on. -/
theorem selected_lane (g : Nat → LaneRes) (lo n k x : Nat) :
    (if (decide (lo ≤ k) && decide (k < lo + n)) = true then (((List.range n).map g).getD (k - lo) (0, 0)).1 else x)
      = if lo ≤ k ∧ k < lo + n then (g (k - lo)).1 else x := by
  by_cases h : lo ≤ k ∧ k < lo + n
  · rw [if_pos h, if_pos (by simpa using h), getD_map_range g _ (by omega)]
  · rw [if_neg h, if_neg (by simpa using h)]

/-- A token with a result in each of n lanes from lo on, and other values in its other lanes, which set no flag. -/
theorem deliversToken_window {w m lo n : Nat} {lane : Nat → LaneRes} {rest : Nat → Nat} (hm : w * m ≤ 512)
    (h : DeliversFlagged i s (fromLanes w m (fun k => if (decide (lo ≤ k) && decide (k < lo + n)) = true then
        (((List.range n).map lane).getD (k - lo) (0, 0)).1 else rest k), orFlags (((List.range n).map lane).map (·.2)))) :
    DeliversToken i s w m ((List.range n).map (lo + ·)) (fun k => if lo ≤ k ∧ k < lo + n then lane (k - lo) else (rest k, 0)) := by
  have hflags : ((List.range n).map (lo + ·)).map (fun k => (if lo ≤ k ∧ k < lo + n then lane (k - lo) else (rest k, 0)).2)
      = ((List.range n).map lane).map (·.2) := by
    rw [List.map_map, List.map_map]
    refine List.map_congr_left fun k hk => ?_
    simp [List.mem_range.mp hk]
  refine ⟨_, hflags ▸ h, fun k hk => ?_⟩
  rw [laneN_fromLanes _ _ _ hm hk, selected_lane, apply_ite Prod.fst]

/-- The selection of R103: which elements a conversion reads, and where it puts them. -/
theorem converts_convertLanes {one : Nat → Nat → LaneRes} (h : DeliversFlagged i s (convertLanes f a.value one)) :
    Converts i s f a one := by
  refine ⟨(convertLanes f a.value one).1, (convertLanes f a.value one).2, h, fun hw => ?_, fun hw => ?_⟩
  · simp only [convertLanes, hw, Bool.not_false, if_true, and_self]
  · simp only [convertLanes, hw, Bool.not_true, Bool.false_eq_true, if_false, List.map_map]
    refine ⟨rfl, fun j hj => ?_⟩
    rw [laneN_fromLanes _ _ _ (width_mul_laneCount _) hj, selected_lane, apply_ite (· % 2 ^ f.ty.width), Nat.zero_mod]
    rfl

/-! ## Conversion to an integer (R78, R104) -/

/-- The flags of a value out of range under saturate: Saturated where the bound differs from the pattern without it. -/
theorem clampFlags (c bad : Nat) :
    (fInvalid ||| flagIf (decide (c ≠ bad)) fSaturated) = (fInvalid ||| if c = bad then 0 else fSaturated) := by
  by_cases h : c = bad
  · simp [flagIf, h]
  · simp [flagIf, h]

/-- The bound of its type that a value out of range is clamped to. -/
theorem clamped_result {ty : ElemType} {x : Int} (hmin : minOf ty ≤ x) (hmax : x ≤ maxOf ty) (bad : Nat) :
    wrapTo ty.width x < 2 ^ ty.width ∧ readInt ty (wrapTo ty.width x) = x
      ∧ (fInvalid ||| flagIf (decide (wrapTo ty.width x ≠ bad)) fSaturated)
        = (fInvalid ||| if wrapTo ty.width x = bad then 0 else fSaturated) :=
  ⟨wrapTo_lt .., readInt_wrapTo hmin hmax, clampFlags _ _⟩

theorem toInteger_toIntLane (ty : ElemType) (mode : Mode) (sat : Bool) (draw : Nat) (x : FVal) :
    ToInteger ty mode sat draw x (toIntLane ty mode sat draw x) := by
  have hb := minOf_le_maxOf ty
  cases x with
  | nan =>
    cases sat with
    | true =>
      refine ⟨Nat.two_pow_pos _, readInt_zero ty, ?_⟩
      exact (congrArg (fun q => fInvalid ||| flagIf q fSaturated) (decide_eq_decide.mpr ne_comm)).trans (clampFlags 0 _)
    | false => exact rfl
  | inf n =>
    cases sat with
    | true =>
      cases n with
      | true => exact clamped_result le_rfl hb _
      | false => exact clamped_result hb le_rfl _
    | false => exact rfl
  | fin n m e =>
    generalize hr : roundInt mode draw n m e = r
    simp only [ToInteger, toIntLane, hr]
    by_cases hlow : r.1 < minOf ty
    · have hout : ¬ (decide (minOf ty ≤ r.1) && decide (r.1 ≤ maxOf ty)) = true := by simp [hlow]
      simp only [hlow, if_true, if_neg hout]
      cases sat with
      | true => exact clamped_result le_rfl hb _
      | false => rfl
    · by_cases hhigh : maxOf ty < r.1
      · have hout : ¬ (decide (minOf ty ≤ r.1) && decide (r.1 ≤ maxOf ty)) = true := by simp [hhigh]
        simp only [hlow, hhigh, if_true, if_false, if_neg hout]
        cases sat with
        | true => exact clamped_result hb le_rfl _
        | false => rfl
      · have hin : (decide (minOf ty ≤ r.1) && decide (r.1 ≤ maxOf ty)) = true := by
          simp [Int.not_lt.mp hlow, Int.not_lt.mp hhigh]
        simp only [hlow, hhigh, if_false, if_pos hin]
        exact ⟨wrapTo_lt .., readInt_wrapTo (Int.not_lt.mp hlow) (Int.not_lt.mp hhigh), rfl⟩

/-! ## Narrow formats and scales (R102, R106 to R108) -/

/-- FRND's lane, read off its operand (R102). -/
theorem frndLane_eq (ty : ElemType) (mode : Mode) (draw x : Nat) :
    frndLane ty mode draw x = match readF ty x with
      | .nan => nanOf ty
      | .inf _ => x
      | .fin n m e => if 0 ≤ e then x
        else (roundNum ty .zero false 0 n (roundAt mode n draw m e false 0).1 0 false).1 := by
  unfold frndLane
  cases readF ty x with
  | _ => rfl

theorem scaleExact_eq (v : FVal) (n : Int) :
    scaleExact v n = match v with
      | .fin neg m e => .num neg m (e + n) false
      | .inf neg => .opInf neg false
      | .nan => .nan false := by
  cases v with
  | _ => rfl

/-- The types that UNPKH takes hold every value of theirs in twice the width (R106). -/
theorem doubleType_holds {ty : ElemType} (h : ty ∈ [ElemType.i8, .i16, .i32, .n8, .n16, .n32]) :
    (doubleType ty).width = 2 * ty.width ∧ minOf (doubleType ty) ≤ minOf ty ∧ maxOf ty ≤ maxOf (doubleType ty) := by
  revert ty
  decide

theorem readInt_doubleType {ty : ElemType} (h : ty ∈ [ElemType.i8, .i16, .i32, .n8, .n16, .n32]) (n : Nat) :
    readInt (doubleType ty) (wrapTo (2 * ty.width) (readInt ty n) % 2 ^ (2 * ty.width)) = readInt ty n := by
  obtain ⟨hw, hmin, hmax⟩ := doubleType_holds h
  obtain ⟨hlo, hhi⟩ := readInt_range ty n
  rw [Nat.mod_eq_of_lt (wrapTo_lt _ _), ← hw]
  exact readInt_wrapTo (hmin.trans hlo) (hhi.trans hmax)

/-- The codes and the scale of a block made of them (R69). -/
theorem codes_rescaled (blk t : Nat) : (blk % 2 ^ 24 + t * 2 ^ 24) % 2 ^ 24 = blk % 2 ^ 24 := by omega

theorem scale_rescaled (blk t : Nat) : (blk % 2 ^ 24 + t * 2 ^ 24) / 2 ^ 24 = t := by omega

/-- R108: a block's codes stay; its scale moves by n where it is below 0xFF, within 0 to 254. -/
theorem scaleaBlock_spec (sat : Bool) (n : Int) (blk : Nat) :
    (scaleaBlock sat n blk).1 % 2 ^ 24 = blk % 2 ^ 24
      ∧ (blk / 2 ^ 24 = 255 → (scaleaBlock sat n blk).1 / 2 ^ 24 = 255 ∧ (scaleaBlock sat n blk).2 = 0)
      ∧ (blk / 2 ^ 24 ≠ 255 →
          (254 < ((blk / 2 ^ 24 : Nat) : Int) + n → (scaleaBlock sat n blk).1 / 2 ^ 24 = (if sat then 254 else 255)
            ∧ (scaleaBlock sat n blk).2 = if sat then fSaturated else fOverflow)
          ∧ (((blk / 2 ^ 24 : Nat) : Int) + n < 0 →
              (scaleaBlock sat n blk).1 / 2 ^ 24 = 0 ∧ (scaleaBlock sat n blk).2 = fUnderflow ||| fInexact)
          ∧ (0 ≤ ((blk / 2 ^ 24 : Nat) : Int) + n → ((blk / 2 ^ 24 : Nat) : Int) + n ≤ 254 →
              (((scaleaBlock sat n blk).1 / 2 ^ 24 : Nat) : Int) = ((blk / 2 ^ 24 : Nat) : Int) + n
                ∧ (scaleaBlock sat n blk).2 = 0)) := by
  unfold scaleaBlock
  dsimp only
  by_cases hff : blk / 2 ^ 24 = 255
  · rw [if_pos hff]
    exact ⟨rfl, fun _ => ⟨hff, rfl⟩, fun h => absurd hff h⟩
  · rw [if_neg hff]
    by_cases hhigh : 254 < ((blk / 2 ^ 24 : Nat) : Int) + n
    · rw [if_pos hhigh]
      exact ⟨codes_rescaled .., fun h => absurd h hff, fun _ => ⟨fun _ => ⟨scale_rescaled .., rfl⟩, fun h => by omega, fun _ h => by omega⟩⟩
    · rw [if_neg hhigh]
      by_cases hlow : ((blk / 2 ^ 24 : Nat) : Int) + n < 0
      · rw [if_pos hlow]
        exact ⟨Nat.mod_mod .., fun h => absurd h hff, fun _ => ⟨fun h => absurd h hhigh,
          fun _ => ⟨Nat.div_eq_of_lt (Nat.mod_lt _ (by decide)), rfl⟩, fun h => by omega⟩⟩
      · rw [if_neg hlow]
        refine ⟨codes_rescaled .., fun h => absurd h hff, fun _ => ⟨fun h => absurd h hhigh, fun h => absurd h hlow, fun h _ => ⟨?_, rfl⟩⟩⟩
        rw [scale_rescaled, Int.toNat_of_nonneg h]

end Sys2Proof.Laws
end

section
/-! CERTIFICATES. Conversions, packings, quantisers and scaling (R102 to R108). -/

namespace Sys2Proof.Laws

open Sys2Proof Sys2Proof.Machine

/-- Settles O26: each computes or rounds, and its token holds its entry's value in every lane. -/
theorem conversionResults : Obligations.ConversionResults := by
  refine ⟨fun f s a b c => ⟨?_, ?_, ?_, ?_, ?_, ?_, ?_, ?_, ?_⟩, fun f s a b c => ⟨?_, ?_, ?_, ?_, ?_⟩⟩
  -- FRND
  · intro h hm
    have hv := deliversFlagged_computeR (g := fun r a _ _ => valFrnd f r a) rfl h hm
    have hl := deliversLanes_perLane hv
    simp only [frndLane_eq] at hl
    exact hl
  -- CVTF
  · intro h hm
    have hv := deliversFlagged_computeR (g := fun r a _ _ => valCvtf f r a) rfl h hm
    exact converts_convertLanes hv
  -- CVTFI
  · intro h hm _
    have hv := deliversFlagged_computeR (g := fun r a _ _ => valCvtfi f r a) rfl h hm
    exact ⟨_, converts_convertLanes hv, fun _ _ => toInteger_toIntLane ..⟩
  -- CVTIF
  · intro h hm
    have hv := deliversFlagged_computeR (g := fun r a _ _ => valCvtif f r a) rfl h hm
    exact converts_convertLanes hv
  -- PACK8
  · intro h hm
    have hv := deliversFlagged_computeR (g := fun r a b _ => valPack8 f r a b) rfl h hm
    exact deliversToken_range (by decide) hv
  -- QL6
  · intro h hm
    have hv := deliversFlagged_computeR (g := fun r a b _ => valQl6 f r a b) rfl h hm
    simp only [valQl6] at hv
    have hl := deliversToken_window (by decide) hv
    exact hl
  -- DQL6
  · intro h hm
    have hv := deliversFlagged_computeR (g := fun r a _ _ => valDql6 f r a) rfl h hm
    exact deliversToken_range (by decide) hv
  -- L6MUL
  · intro h hm
    have hv := deliversFlagged_computeR (g := valL6mul f) rfl h hm
    exact deliversLanes_perLane hv
  -- SCALEX
  · intro h hm
    have hv := deliversFlagged_computeR (g := fun r a b _ => valScalex f r a b) rfl h hm
    have hl := deliversLanes_perLane hv
    simp only [scaleExact_eq, immN, toSigned_toNat] at hl
    exact hl
  -- CVTI
  · intro h
    have hv := deliversFlagged_compute (g := fun _ a _ _ => valCvti f a) rfl h
    exact ⟨_, converts_convertLanes hv, fun _ _ => fitInt_result ..⟩
  -- PACKH
  · intro h _
    have hv := deliversFlagged_compute (g := fun _ a b _ => valPackh f a b) rfl h
    refine ⟨_, deliversToken_range ?_ hv, fun _ => fitInt_result ..⟩
    calc f.ty.width / 2 * (2 * laneCount f.ty.width) = f.ty.width / 2 * 2 * laneCount f.ty.width := (Nat.mul_assoc ..).symm
      _ ≤ f.ty.width * laneCount f.ty.width := Nat.mul_le_mul_right _ (Nat.div_mul_le_self ..)
      _ ≤ 512 := width_mul_laneCount _
  -- UNPKH
  · intro h hty
    have hv := deliversFlagged_compute (g := fun _ a _ _ => valUnpkh f a) rfl h
    refine ⟨_, hv, fun k hk => ?_⟩
    exact (congrArg _ (laneN_fromLanes _ _ _ (width_mul_laneCount _) hk)).trans (readInt_doubleType hty _)
  -- UNPK8
  · intro h
    have hv := deliversFlagged_compute (g := fun _ a _ _ => valUnpk8 f a) rfl h
    exact ⟨_, hv, fun k hk => laneN_fromLanes _ _ _ (by decide) hk⟩
  -- SCALEA
  · intro h
    have hv := deliversFlagged_compute (g := fun _ a b _ => valScalea f a b) rfl h
    exact ⟨_, deliversToken_range (by decide) hv, fun k => scaleaBlock_spec ..⟩

end Sys2Proof.Laws
end

section
/-! SUPPORT. Moves and lanes (R63, R109). -/

namespace Sys2Proof.Laws

open Sys2Proof Sys2Proof.Machine

/-- R63: a `.l6` lane is read without its bits [7:6]. -/
theorem dataLane_eq (ty : ElemType) (v : Wide) (k : Nat) :
    dataLane ty v k = if ty = .l6 then laneN ty.width v k % 64 else laneN ty.width v k := by
  unfold dataLane
  split
  · rfl
  · exact Nat.mod_eq_of_lt (laneN_lt ..)

theorem dataLane_lt (ty : ElemType) (v : Wide) (k : Nat) : dataLane ty v k < 2 ^ ty.width :=
  (Nat.mod_le _ _).trans_lt (laneN_lt ..)

/-- A token made of lanes that fit it holds them. -/
theorem laneN_fitting {w : Nat} {g : Nat → Nat} (hg : ∀ k, g k < 2 ^ w) {k : Nat} (hk : k < laneCount w) :
    laneN w (fromLanes w (laneCount w) g) k = g k := by
  rw [laneN_fromLanes _ _ _ (width_mul_laneCount _) hk, Nat.mod_eq_of_lt (hg k)]

theorem getLsbD_valSel (f : GFields) (a b c : Wide) {j : Nat} (hj : j < 512) :
    (valSel f a b c).1.getLsbD j = if c.getLsbD (if f.wide then j else 0) then a.getLsbD j else b.getLsbD j := by
  unfold valSel plain
  cases f.wide with
  | false =>
    simp only [Bool.false_eq_true, if_false]
    split <;> rfl
  | true =>
    simp only [if_true, BitVec.getLsbD_or, BitVec.getLsbD_and, BitVec.getLsbD_not, hj, decide_true, Bool.true_and]
    cases c.getLsbD j <;> simp

/-- CONSTH shifts the low word and puts the immediate behind it (R109). -/
theorem valConsth_eq (f : GFields) (a : Wide) :
    valConsth f a = (((word a 0 <<< 16) ||| f.imm16.setWidth 64).setWidth 512, 0) := by
  have himm := f.imm16.isLt
  unfold valConsth plain scalar64 immN
  refine congrArg (·, 0) (BitVec.eq_of_toNat_eq ?_)
  have hor : (word a 0).toNat <<< 16 % 2 ^ 64 ||| f.imm16.toNat = a.toNat % 2 ^ 48 * 2 ^ 16 + f.imm16.toNat := by
    have hshift : (word a 0).toNat <<< 16 % 2 ^ 64 = a.toNat % 2 ^ 48 * 2 ^ 16 := by
      simp only [word, BitVec.extractLsb'_toNat, Nat.shiftLeft_eq, Nat.mul_zero, Nat.shiftRight_zero]
      omega
    rw [hshift, ← Nat.shiftLeft_eq, Nat.shiftLeft_add_eq_or_of_lt himm]
  simp only [BitVec.toNat_ofNat, BitVec.toNat_setWidth, BitVec.toNat_or, BitVec.toNat_shiftLeft, laneN, Nat.mul_zero, pow_zero, Nat.div_one]
  rw [Nat.mod_eq_of_lt (show f.imm16.toNat < 2 ^ 64 by omega), hor]
  omega

end Sys2Proof.Laws
end

section
/-! SUPPORT. The reductions of all lanes (R81, R110): the tree of the model is the pairwise combination in lane order. -/

namespace Sys2Proof.Laws

open Sys2Proof Sys2Proof.Machine

/-! ## Flags of many applications -/

theorem orFlags_cons (x : BitVec 6) (l : List (BitVec 6)) : orFlags (x :: l) = x ||| orFlags l := by
  unfold orFlags
  rw [List.foldl_cons, BitVec.or_comm, List.foldl_assoc]

theorem orFlags_range_succ (g : Nat → BitVec 6) (n : Nat) :
    orFlags ((List.range (n + 1)).map g) = orFlags ((List.range n).map g) ||| g n := by
  rw [List.range_succ, List.map_append]
  exact List.foldl_append

theorem orFlags_zero (n : Nat) : orFlags ((List.range n).map (fun _ => 0)) = 0 := by
  induction n with
  | zero => rfl
  | succ n ih => rw [orFlags_range_succ, ih]; rfl

/-- The flags of pairs, each with one of its own. -/
theorem orFlags_pairs (g r : Nat → BitVec 6) (h : Nat) :
    orFlags ((List.range h).map (fun j => g (2 * j) ||| g (2 * j + 1) ||| r j))
      = orFlags ((List.range (2 * h)).map g) ||| orFlags ((List.range h).map r) := by
  induction h with
  | zero => simp [orFlags]
  | succ h ih =>
    rw [orFlags_range_succ, ih, Nat.mul_succ, orFlags_range_succ, orFlags_range_succ, orFlags_range_succ]
    ac_rfl

/-! ## The levels of the tree -/

variable (op : Nat → Nat → Nat → LaneRes)

/-- One level: neighbours are combined, and the combinations numbered on from k. -/
theorem pairUp_range (u : Nat → Nat) (k h : Nat) :
    pairUp op k ((List.range (2 * h)).map u)
      = ((List.range h).map (fun j => (op (k + j) (u (2 * j)) (u (2 * j + 1))).1),
          orFlags ((List.range h).map (fun j => (op (k + j) (u (2 * j)) (u (2 * j + 1))).2))) := by
  induction h generalizing u k with
  | zero => rfl
  | succ h ih =>
    have hrec := ih (fun j => u (j + 2)) (k + 1)
    rw [Nat.mul_succ, List.range_succ_eq_map, List.range_succ_eq_map, List.range_succ_eq_map]
    simp only [List.map_cons, List.map_map, orFlags_cons, pairUp]
    simp only [Nat.add_assoc k 1, Nat.add_comm 1] at hrec
    rw [show u ∘ Nat.succ ∘ Nat.succ = fun j => u (j + 2) from rfl, hrec]
    rfl

theorem reduceTree_singleton (fuel k x : Nat) : reduceTree op fuel k [x] = (x, 0) := by
  cases fuel with
  | _ => rfl

/-- From the values of level d on, m levels below the root, the tree gives the root's value, and the flags that the lower levels
have not given. -/
theorem reduceTree_level (v : Nat → Nat) {n D : Nat} (hn : n = 2 ^ D) (m d fuel : Nat) (hD : d + m = D) (hf : m ≤ fuel) :
    (reduceTree op fuel (n - 2 ^ m) ((List.range (2 ^ m)).map (fun j => (pairwise op n v d j).1))).1 = (pairwise op n v D 0).1
      ∧ orFlags ((List.range (2 ^ m)).map (fun j => (pairwise op n v d j).2))
          ||| (reduceTree op fuel (n - 2 ^ m) ((List.range (2 ^ m)).map (fun j => (pairwise op n v d j).1))).2
        = (pairwise op n v D 0).2 := by
  induction m generalizing d fuel with
  | zero =>
    obtain rfl : d = D := hD
    have hl : (List.range (2 ^ 0)).map (fun j => (pairwise op n v d j).1) = [(pairwise op n v d 0).1] := rfl
    rw [hl, reduceTree_singleton]
    simp [orFlags]
  | succ m ih =>
    obtain ⟨fuel, rfl⟩ : ∃ k, fuel = k + 1 := ⟨fuel - 1, by omega⟩
    have hle : 2 ^ (m + 1) ≤ n := hn ▸ Nat.pow_le_pow_right (by decide) (by omega)
    have hdiv : n / 2 ^ d = 2 ^ (m + 1) := by
      rw [hn, ← hD, pow_add, Nat.mul_div_cancel_left _ (Nat.two_pow_pos d)]
    have h2 : 2 ^ (m + 1) = 2 * 2 ^ m := pow_succ' 2 m
    have hpos := Nat.two_pow_pos m
    obtain ⟨hval, hfl⟩ := ih (d + 1) fuel (by omega) (by omega)
    have hlen : ¬ ((List.range (2 ^ (m + 1))).map (fun j => (pairwise op n v d j).1)).length ≤ 1 := by simp
    have hk : n - 2 ^ (m + 1) + 2 ^ (m + 1) / 2 = n - 2 ^ m := by omega
    have hlevel : pairUp op (n - 2 ^ (m + 1)) ((List.range (2 ^ (m + 1))).map (fun j => (pairwise op n v d j).1))
        = ((List.range (2 ^ m)).map (fun j => (pairwise op n v (d + 1) j).1),
            orFlags ((List.range (2 ^ m)).map (fun j => (op (n - n / 2 ^ d + j) (pairwise op n v d (2 * j)).1
              (pairwise op n v d (2 * j + 1)).1).2))) := by
      rw [h2, pairUp_range, ← h2, hdiv]
      simp only [pairwise, hdiv]
    have hflags := orFlags_pairs (fun j => (pairwise op n v d j).2)
      (fun j => (op (n - n / 2 ^ d + j) (pairwise op n v d (2 * j)).1 (pairwise op n v d (2 * j + 1)).1).2) (2 ^ m)
    rw [reduceTree, if_neg hlen, hlevel, List.length_map, List.length_range, hk]
    refine ⟨hval, ?_⟩
    rw [← hfl, ← BitVec.or_assoc, h2, ← hflags]
    rfl

/-! ## Reductions of a token -/

/-- A token has 2^m lanes of a type, m at most 6 (R63). -/
theorem laneCount_pow (ty : ElemType) : ∃ m, m ≤ 6 ∧ laneCount ty.width = 2 ^ m := by
  cases ty with
  | i8 | n8 | e4m3 | e5m2 | l6 => exact ⟨6, by decide, rfl⟩
  | i16 | n16 | bf16 | f16 => exact ⟨5, by decide, rfl⟩
  | i32 | n32 | f32 | l6s => exact ⟨4, by decide, rfl⟩
  | i64 | n64 | f64 => exact ⟨3, by decide, rfl⟩

theorem laneCount_log2 (ty : ElemType) : 2 ^ Nat.log2 (laneCount ty.width) = laneCount ty.width := by
  obtain ⟨m, -, hm⟩ := laneCount_pow ty
  rw [hm, Nat.log2_two_pow]

/-- R81: the reduction of the model is the pairwise combination of all lanes. -/
theorem valReduce_eq (ty : ElemType) (a : Wide) :
    valReduce ty a op
      = (scalarOf ty (pairwise op (laneCount ty.width) (laneN ty.width a) (Nat.log2 (laneCount ty.width)) 0).1,
          (pairwise op (laneCount ty.width) (laneN ty.width a) (Nat.log2 (laneCount ty.width)) 0).2) := by
  obtain ⟨m, hm, hcount⟩ := laneCount_pow ty
  obtain ⟨hval, hflags⟩ := reduceTree_level op (laneN ty.width a) rfl m 0 6 (Nat.zero_add m) hm
  simp only [pairwise, orFlags_zero, Nat.sub_self] at hval hflags
  rw [hcount, Nat.log2_two_pow, ← hval, ← hflags, valReduce, hcount]
  exact congrArg (Prod.mk _) BitVec.zero_or.symm

theorem reduces_valReduce {i : Instr} {s : State} {ty : ElemType} {a : Token} (h : DeliversFlagged i s (valReduce ty a.value op)) :
    Reduces i s ty a op := by
  rw [valReduce_eq] at h
  exact h

variable {op}

/-- Where each application wraps to a sum and sets no flag, the value is the sum of the lanes of the group, modulo M. -/
theorem pairwise_sum {M : Nat} (hop : ∀ k x y, (op k x y).1 % M = (x + y) % M ∧ (op k x y).2 = 0) (n : Nat) (v : Nat → Nat) (d j : Nat) :
    (pairwise op n v d j).1 % M = ((List.range (2 ^ d)).map (fun i => v (2 ^ d * j + i))).sum % M ∧ (pairwise op n v d j).2 = 0 := by
  induction d generalizing j with
  | zero => simp [pairwise]
  | succ d ih =>
    obtain ⟨hx, hxf⟩ := ih (2 * j)
    obtain ⟨hy, hyf⟩ := ih (2 * j + 1)
    simp only [pairwise, hxf, hyf, (hop _ _ _).1, (hop _ _ _).2]
    refine ⟨?_, by decide⟩
    have hsplit : (List.range (2 ^ (d + 1))).map (fun i => v (2 ^ (d + 1) * j + i))
        = (List.range (2 ^ d)).map (fun i => v (2 ^ d * (2 * j) + i))
          ++ (List.range (2 ^ d)).map (fun i => v (2 ^ d * (2 * j + 1) + i)) := by
      rw [pow_succ, Nat.mul_two, List.range_add, List.map_append, List.map_map]
      congr 1
      · exact List.map_congr_left fun i _ => congrArg v (by ring)
      · exact List.map_congr_left fun i _ => congrArg v (by dsimp only; ring)
    rw [hsplit, List.sum_append, Nat.add_mod, hx, hy, ← Nat.add_mod]

/-- Where each application picks the operand that comes first in an order, the value is a lane that comes before every lane of the
group. -/
theorem pairwise_pick {R : Nat → Nat → Prop} (hrefl : ∀ x, R x x) (htrans : ∀ x y z, R x y → R y z → R x z)
    (hop : ∀ k x y, (op k x y = (x, 0) ∧ R x y) ∨ (op k x y = (y, 0) ∧ R y x)) (n : Nat) (v : Nat → Nat) (d j : Nat) :
    ∃ k, k < 2 ^ d ∧ pairwise op n v d j = (v (2 ^ d * j + k), 0) ∧ ∀ q, q < 2 ^ d → R (v (2 ^ d * j + k)) (v (2 ^ d * j + q)) := by
  induction d generalizing j with
  | zero =>
    refine ⟨0, Nat.one_pos, by simp [pairwise], fun q hq => ?_⟩
    obtain rfl : q = 0 := by omega
    exact hrefl _
  | succ d ih =>
    obtain ⟨kx, hkx, hx, hxr⟩ := ih (2 * j)
    obtain ⟨ky, hky, hy, hyr⟩ := ih (2 * j + 1)
    have hpow : 2 ^ (d + 1) = 2 ^ d + 2 ^ d := by rw [pow_succ, Nat.mul_two]
    have hleft : ∀ k, 2 ^ d * (2 * j) + k = 2 ^ (d + 1) * j + k := fun k => by rw [hpow]; ring
    have hright : ∀ k, 2 ^ d * (2 * j + 1) + k = 2 ^ (d + 1) * j + (2 ^ d + k) := fun k => by rw [hpow]; ring
    simp only [hleft] at hx hxr
    simp only [hright] at hy hyr
    have hfrom : ∀ x, R x (v (2 ^ (d + 1) * j + kx)) → R x (v (2 ^ (d + 1) * j + (2 ^ d + ky))) →
        ∀ q, q < 2 ^ (d + 1) → R x (v (2 ^ (d + 1) * j + q)) := by
      intro x hrx hry q hq
      rcases Nat.lt_or_ge q (2 ^ d) with hlt | hge
      · exact htrans _ _ _ hrx (hxr q hlt)
      · obtain ⟨k, rfl⟩ := Nat.exists_eq_add_of_le hge
        exact htrans _ _ _ hry (hyr k (by omega))
    rcases hop (n - n / 2 ^ d + j) (v (2 ^ (d + 1) * j + kx)) (v (2 ^ (d + 1) * j + (2 ^ d + ky))) with ⟨hr, hR⟩ | ⟨hr, hR⟩
    · exact ⟨kx, by omega, by simp [pairwise, hx, hy, hr], hfrom _ (hrefl _) hR⟩
    · exact ⟨2 ^ d + ky, by omega, by simp [pairwise, hx, hy, hr], hfrom _ hR (hrefl _)⟩

/-! ## Integer reductions (R110) -/

theorem readInt_emod (ty : ElemType) (x : Nat) : readInt ty x % (2 ^ ty.width : Nat) = ((x % 2 ^ ty.width : Nat) : Int) := by
  unfold readInt toSigned
  split
  · split
    · rw [Int.natCast_mod, Int.emod_emod]
    · rw [Int.sub_emod_right, Int.natCast_mod, Int.emod_emod]
  · rw [Int.natCast_mod, Int.emod_emod]

/-- The sum of two lanes read in any integer type wraps to the sum of their patterns (R88). -/
theorem wrapTo_readInt_add (ty : ElemType) (x y : Nat) : wrapTo ty.width (readInt ty x + readInt ty y) = (x + y) % 2 ^ ty.width := by
  rw [wrapTo, Int.add_emod, readInt_emod, readInt_emod, ← Int.natCast_add, ← Int.natCast_mod, Int.toNat_natCast, ← Nat.add_mod]

/-- A scalar result reads its lane modulo 2^w. -/
theorem scalarOf_congr {ty : ElemType} {m n : Nat} (h : m % 2 ^ ty.width = n % 2 ^ ty.width) : scalarOf ty m = scalarOf ty n := by
  unfold scalarOf toSigned
  rw [h]

/-- In the order of REDMIN (less) or of REDMAX, x stands before y or beside it. -/
def NotBeyond (ty : ElemType) (less : Bool) (x y : Nat) : Prop :=
  if less then readInt ty x ≤ readInt ty y else readInt ty y ≤ readInt ty x

theorem notBeyond_refl (ty : ElemType) (less : Bool) (x : Nat) : NotBeyond ty less x x := by
  unfold NotBeyond
  split <;> exact le_rfl

theorem notBeyond_trans {ty : ElemType} {less : Bool} {x y z : Nat} (h : NotBeyond ty less x y) (h' : NotBeyond ty less y z) :
    NotBeyond ty less x z := by
  unfold NotBeyond at *
  cases less with
  | false => exact le_trans h' h
  | true => exact le_trans h h'

theorem notBeyond_total {ty : ElemType} {less : Bool} {x y : Nat} (h : ¬ NotBeyond ty less x y) : NotBeyond ty less y x := by
  unfold NotBeyond at *
  cases less with
  | false => exact le_of_not_ge h
  | true => exact le_of_not_ge h

/-- REDMIN and REDMAX keep the operand that stands before the other (R110). -/
theorem picked_notBeyond (ty : ElemType) (less : Bool) (x y : Nat) :
    let r : LaneRes := (if (if less then readInt ty x ≤ readInt ty y else readInt ty y ≤ readInt ty x) then x else y, 0)
    (r = (x, 0) ∧ NotBeyond ty less x y) ∨ (r = (y, 0) ∧ NotBeyond ty less y x) := by
  by_cases hxy : NotBeyond ty less x y
  · exact .inl ⟨congrArg (·, 0) (if_pos hxy), hxy⟩
  · exact .inr ⟨congrArg (·, 0) (if_neg hxy), notBeyond_total hxy⟩

end Sys2Proof.Laws
end

section
/-! CERTIFICATES. Moves, lanes and reductions (R63, R81, R109 to R111). -/

namespace Sys2Proof.Laws

open Sys2Proof Sys2Proof.Machine

variable {f : GFields} {s : State} {a b c : Token}

/-- REDADD wraps or clamps each sum; where it wraps, what is left is the sum of all lanes (R110). -/
theorem redadd_reduces (h : readiness (.redadd f) s = .go a b c) :
    (∃ op, Reduces (.redadd f) s f.ty a op ∧ ∀ k x y, IntResult f.ty f.sat (readInt f.ty x + readInt f.ty y) (op k x y))
      ∧ (f.sat = false → DeliversFlagged (.redadd f) s
          (scalarOf f.ty (((List.range (laneCount f.ty.width)).map (laneN f.ty.width a.value)).sum % 2 ^ f.ty.width), 0)) := by
  have hv := deliversFlagged_compute (g := fun _ a _ _ => valRedadd f a) rfl h
  have hr := reduces_valReduce _ hv
  refine ⟨⟨_, hr, fun _ _ _ => fitInt_result ..⟩, fun hsat => ?_⟩
  have hop : ∀ x y, fitInt f.ty f.sat (readInt f.ty x + readInt f.ty y) = ((x + y) % 2 ^ f.ty.width, 0) := fun x y => by
    obtain ⟨-, -, -, -, hwrap⟩ := fitInt_result f.ty f.sat (readInt f.ty x + readInt f.ty y)
    obtain ⟨hval, hflags⟩ := hwrap hsat
    exact Prod.ext (hval.trans (wrapTo_readInt_add ..)) hflags
  simp only [hop] at hr
  obtain ⟨hsum, hflags⟩ := pairwise_sum (M := 2 ^ f.ty.width) (op := fun _ x y => ((x + y) % 2 ^ f.ty.width, 0))
    (fun _ _ _ => ⟨Nat.mod_mod .., rfl⟩) (laneCount f.ty.width) (laneN f.ty.width a.value) (Nat.log2 (laneCount f.ty.width)) 0
  simp only [Nat.mul_zero, Nat.zero_add, laneCount_log2] at hsum
  rw [Reduces, hflags, scalarOf_congr (hsum.trans (Nat.mod_mod ..).symm)] at hr
  exact hr

/-- REDMIN and REDMAX deliver a lane that stands before all others in their order (R110). -/
theorem redminmax_picks {i : Instr} {less : Bool} (hty : expBits f.ty = 0) (h : DeliversFlagged i s (valRedminmax f less a.value)) :
    ∃ k, k < laneCount f.ty.width ∧ DeliversFlagged i s (scalarOf f.ty (laneN f.ty.width a.value k), 0)
      ∧ ∀ j, j < laneCount f.ty.width → NotBeyond f.ty less (laneN f.ty.width a.value k) (laneN f.ty.width a.value j) := by
  have hr := reduces_valReduce _ h
  simp only [hty, if_true] at hr
  obtain ⟨k, hk, hval, hall⟩ := pairwise_pick (notBeyond_refl f.ty less) (fun _ _ _ => notBeyond_trans) (fun _ => picked_notBeyond f.ty less)
    (laneCount f.ty.width) (laneN f.ty.width a.value) (Nat.log2 (laneCount f.ty.width)) 0
  simp only [Nat.mul_zero, Nat.zero_add, laneCount_log2] at hk hval hall
  rw [Reduces, hval] at hr
  exact ⟨k, hk, hr, hall⟩

/-- Settles O28: the tokens lane by lane, and the reductions by the pairwise combination that they are. -/
theorem moveAndReductionResults : Obligations.MoveAndReductionResults := by
  refine ⟨fun f s a b c => ?_, fun f s a b c => ?_⟩
  · dsimp only
    simp only [← dataLane_eq]
    refine ⟨?_, ?_, ?_, ?_, ?_, ?_, ?_, ?_, ?_, ?_⟩
    -- MOV
    · intro h
      have hv := deliversFlagged_compute (g := fun _ a _ _ => plain a) rfl h
      exact hv
    -- SEL
    · intro h
      have hv := deliversFlagged_compute (g := fun _ => valSel f) rfl h
      exact ⟨_, hv, fun j hj => getLsbD_valSel f _ _ _ hj⟩
    -- CONST
    · intro h
      have hv := deliversFlagged_compute (g := fun _ _ _ _ => valConst f) rfl h
      exact deliversLanes_perLane hv
    -- CONSTH
    · intro h
      have hv := deliversFlagged_compute (g := fun _ a _ _ => valConsth f a) rfl h
      rw [valConsth_eq] at hv
      exact ⟨_, hv, rfl⟩
    -- NUL
    · intro h
      exact fire_go h
    -- LANE
    · intro h
      have hv := deliversFlagged_compute (g := fun _ a b _ => valLane f a b) rfl h
      exact hv
    -- INSL
    · intro h
      have hv := deliversFlagged_compute (g := fun _ => valInsl f) rfl h
      refine ⟨_, hv, fun k hk => laneN_fitting (fun i => ?_) hk⟩
      split <;> exact dataLane_lt ..
    -- BCAST
    · intro h
      have hv := deliversFlagged_compute (g := fun _ a _ _ => valBcast f a) rfl h
      exact ⟨_, hv, fun k hk => laneN_fitting (fun _ => dataLane_lt ..) hk⟩
    -- PERM
    · intro h
      have hv := deliversFlagged_compute (g := fun _ a b _ => valPerm f a b) rfl h
      exact ⟨_, hv, fun k hk => laneN_fitting (fun _ => dataLane_lt ..) hk⟩
    -- LROT
    · intro h
      have hv := deliversFlagged_compute (g := fun _ a b _ => valLrot f a b) rfl h
      exact ⟨_, hv, fun k hk => laneN_fitting (fun _ => dataLane_lt ..) hk⟩
  · refine ⟨redadd_reduces, fun e he h => ?_, fun h hm => ?_⟩
    · have hx : exec (e.1 f) s = compute (e.1 f) s (fun _ a _ _ => valRedminmax f e.2 a) := by
        fin_cases he <;> rfl
      have hv := deliversFlagged_compute hx h
      refine ⟨fun hty => ?_, fun hty => redminmax_picks hty hv⟩
      have hr := reduces_valReduce _ hv
      simp only [hty, if_false] at hr
      exact hr
    · have hv := deliversFlagged_computeR (g := fun r a _ _ => valFredadd f r a) rfl h hm
      exact reduces_valReduce _ hv

end Sys2Proof.Laws
end

section
/-! SUPPORT. Where an ISECT stands, and what one comparison of its heads does (R118 to R120). -/

namespace Sys2Proof.Laws

open Sys2Proof Sys2Proof.Machine

variable {i : Instr} {idx : Nat} {fr : Frame} {ta tb : Token}

/-! ## Where an ISECT stands -/

/-- Of two positions of an ISECT, the one after more emissions; of two after as many, the second. -/
def laterIsect (best q : Isect) : Isect := if best.k ≤ q.k then q else best

theorem isectNow_eq (fr : Frame) (idx : Nat) :
    isectNow fr idx = (fr.isects.filter (fun q => q.idx == idx)).foldl laterIsect ⟨idx, 0, 0, 0, false⟩ := rfl

theorem laterIsect_k (p q : Isect) : (laterIsect p q).k = max p.k q.k := by
  unfold laterIsect
  split <;> omega

/-- The emissions before the latest of several positions are the most of any. -/
theorem foldl_laterIsect_k_le {l : List Isect} {p : Isect} {n : Nat} :
    (l.foldl laterIsect p).k ≤ n ↔ p.k ≤ n ∧ ∀ q ∈ l, q.k ≤ n := by
  induction l generalizing p with
  | nil => simp
  | cons q l ih => simp [ih, laterIsect_k, and_assoc]

theorem foldl_laterIsect_idx {l : List Isect} {p : Isect} (hp : p.idx = idx) (hl : ∀ q ∈ l, q.idx = idx) :
    (l.foldl laterIsect p).idx = idx := by
  refine List.foldlRecOn (motive := fun p : Isect => p.idx = idx) l laterIsect hp fun p hp q hq => ?_
  unfold laterIsect
  split
  · exact hl q hq
  · exact hp

theorem isectNow_idx (fr : Frame) (idx : Nat) : (isectNow fr idx).idx = idx := by
  rw [isectNow_eq]
  exact foldl_laterIsect_idx rfl fun q hq => by simpa using (List.mem_filter.mp hq).2

theorem le_isectNow_k {q : Isect} (hq : q ∈ fr.isects) (hidx : q.idx = idx) : q.k ≤ (isectNow fr idx).k := by
  obtain ⟨-, hall⟩ := foldl_laterIsect_k_le.mp (isectNow_eq fr idx ▸ le_refl (isectNow fr idx).k)
  exact hall q (List.mem_filter.mpr ⟨hq, by simpa using hidx⟩)

/-- A position noted after some of those of before, with no fewer emissions, is where the ISECT stands. -/
theorem isectNow_append {g : Frame} {l : List Isect} {q : Isect} (hg : g.isects = l ++ [q]) (hl : l ⊆ fr.isects) (hidx : q.idx = idx)
    (hk : (isectNow fr idx).k ≤ q.k) : isectNow g idx = q := by
  have hle : ((l.filter (fun p => p.idx == idx)).foldl laterIsect ⟨idx, 0, 0, 0, false⟩).k ≤ q.k :=
    foldl_laterIsect_k_le.mpr ⟨Nat.zero_le _, fun p hp => by
      obtain ⟨hmem, hp⟩ := List.mem_filter.mp hp
      exact (le_isectNow_k (hl hmem) (by simpa using hp)).trans hk⟩
  rw [isectNow_eq, hg, List.filter_append, List.filter_cons, if_pos (by simpa using hidx), List.filter_nil, List.foldl_append]
  exact if_pos hle

/-! ## One comparison -/

section Heads

variable (ha : headToken fr idx .a (isectNow fr idx).na = some ta) (hb : headToken fr idx .b (isectNow fr idx).nb = some tb)

include ha hb

/-- The lesser head of stream a is discarded. -/
theorem isectStep_discards_a (h : streamKey ta < streamKey tb) :
    isectNow (isectStep i idx fr) idx = { isectNow fr idx with na := (isectNow fr idx).na + 1 }
      ∧ (isectStep i idx fr).flight = fr.flight := by
  unfold isectStep
  simp only [ha, hb, if_pos h, and_true]
  exact isectNow_append rfl List.filter_sublist.subset (isectNow_idx fr idx) le_rfl

/-- The lesser head of stream b is discarded. -/
theorem isectStep_discards_b (h : streamKey tb < streamKey ta) :
    isectNow (isectStep i idx fr) idx = { isectNow fr idx with nb := (isectNow fr idx).nb + 1 }
      ∧ (isectStep i idx fr).flight = fr.flight := by
  unfold isectStep
  simp only [ha, hb, if_neg h.asymm, if_pos h, and_true]
  exact isectNow_append rfl List.filter_sublist.subset (isectNow_idx fr idx) le_rfl

/-- Heads with one key are consumed and sent as the emission of an open iteration. -/
theorem isectStep_emits (h : streamKey ta = streamKey tb) (hf : fr.follows = false) (ho : isOpen fr (isectNow fr idx).k = true) :
    isectNow (isectStep i idx fr) idx
        = ⟨idx, (isectNow fr idx).k + 1, (isectNow fr idx).na + 1, (isectNow fr idx).nb + 1, ta.stop == some 3⟩
      ∧ (isectStep i idx fr).flight = fr.flight
          ++ (flightsOf i (.iter (isectNow fr idx).k) (some ta) (some { tb with coord := ta.coord })).filter
              (fun e => !isOut (.iter (isectNow fr idx).k) e) := by
  have hopen : emitOpen fr i (isectNow fr idx).k = true := by simp [emitOpen, ho]
  have hmine : (followsAt fr i || decide ((isectNow fr idx).k < fr.iter)) = false := by
    obtain ⟨hiter, -⟩ : fr.iter ≤ (isectNow fr idx).k ∧ _ := by simpa [isOpen] using ho
    simp [followsAt, hf, hiter]
  obtain ⟨os, ds, houts⟩ := foldl_addOut (isectNow fr idx).k
    ((flightsOf i (.iter (isectNow fr idx).k) (some ta) (some { tb with coord := ta.coord })).filter
      (isOut (.iter (isectNow fr idx).k))) fr
  unfold isectStep
  simp only [ha, hb, h, lt_irrefl, if_false, hopen, if_true, hmine, Bool.false_eq_true, houts, and_true]
  exact isectNow_append rfl (List.Subset.refl _) rfl (Nat.le_succ _)

end Heads

/-! ## The meaning of ISECT -/

/-- A token that is not its leader's to share reaches no follower (R145). -/
theorem broadcast_notLeader {s : State} (h : (ctxAt s s.focus.c).course ≠ .leader) (fls : List Flight) : broadcast i s fls = s := by
  unfold broadcast
  split
  · rfl
  · rw [if_neg (by simp [h])]

/-- An ISECT that has not ended makes one comparison, and its followers get what that sends (R145). -/
theorem exec_isect {f : GFields} {s : State} (hf : frameAt s s.focus.c s.focus.frame = some fr)
    (hr : (ctxAt s s.focus.c).st = .running) (hm : fr.mapped = true) (hd : (isectNow fr s.focus.idx).done = false)
    (hp : fr.finalPh = false) :
    exec (.isect f) s
      = .next (broadcast (.isect f) (modFrame s s.focus.c s.focus.frame (isectStep (.isect f) s.focus.idx))
          ((isectStep (.isect f) s.focus.idx fr).flight.drop fr.flight.length
            ++ ((isectStep (.isect f) s.focus.idx fr).outs.drop fr.outs.length).map (·.2))) := by
  change execIsect f s = _
  simp [execIsect, hf, hr, hm, hd, hp, frameAt_modFrame_self]

end Sys2Proof.Laws
end

section
/-! CERTIFICATES. Stream intersection (R118, R119). -/

namespace Sys2Proof.Laws

open Sys2Proof Sys2Proof.Machine

/-- Settles O29: one comparison of the heads, by the order of their keys, whose emission the followers get. -/
theorem isectComparesHeads : Obligations.IsectComparesHeads := by
  intro f s fr ta tb hf hr hm hd hp hfo ha hb ho
  have hx := exec_isect (f := f) hf hr hm hd hp
  refine ⟨⟨_, hx, rfl⟩, fun hc => ?_, fun h => ?_, fun h => ?_,
    fun h => isectStep_emits ha hb h hfo ho⟩
  · rw [hx, broadcast_notLeader]
    simpa using hc
  · obtain ⟨hnow, hflight⟩ := isectStep_discards_a (i := .isect f) ha hb h
    exact ⟨by rw [hnow], hflight⟩
  · obtain ⟨hnow, hflight⟩ := isectStep_discards_b (i := .isect f) ha hb h
    exact ⟨by rw [hnow], hflight⟩

end Sys2Proof.Laws
end

section
/-! SUPPORT. The counters and cursors of a window of 16 buckets (R115). -/

namespace Sys2Proof.Laws

open Sys2Proof Sys2Proof.Machine

variable {base v j x : Nat} {vs h : List Nat}

/-! ## Keys and buckets -/

theorem inWindow_iff : inWindow base v = true ↔ ∃ j, j < 16 ∧ v = base + j := by
  constructor
  · intro hw
    simp only [inWindow, Bool.and_eq_true, decide_eq_true_eq] at hw
    exact ⟨v - base, by omega, by omega⟩
  · rintro ⟨j, hj, rfl⟩
    simp [inWindow, hj]

/-- A key outside the window is in none of its buckets. -/
theorem ne_bucket_of_outside (hw : ¬ inWindow base v = true) (hj : j < 16) : v ≠ base + j := fun h =>
  hw (inWindow_iff.mpr ⟨j, hj, h⟩)

/-- Counter j after one key has changed the counter of its bucket. -/
theorem getD_set_bucket (hw : inWindow base v = true) (hl : h.length = 16) :
    (h.set (v - base) x).getD j 0 = if v = base + j then x else h.getD j 0 := by
  obtain ⟨q, hq, rfl⟩ := inWindow_iff.mp hw
  rw [Nat.add_sub_cancel_left]
  by_cases hj : q = j
  · subst hj
    simp [List.getD, hl, hq]
  · simp [List.getD, hj]

/-- A key that raises the counter of its bucket by one is counted there, and in no other bucket. -/
theorem counter_raised (hw : inWindow base v = true) (hl : h.length = 16) :
    (h.set (v - base) (h.getD (v - base) 0 + 1)).getD j 0 + vs.count (base + j) = h.getD j 0 + (v :: vs).count (base + j) := by
  rw [getD_set_bucket hw hl, List.count_cons]
  by_cases hv : v = base + j
  · simp only [hv, if_true, beq_self_eq_true, Nat.add_sub_cancel_left]
    omega
  · simp [hv]

/-- Only the residue of the new counter matters modulo 2^32. -/
theorem counter_advanced (hw : inWindow base v = true) (hl : h.length = 16)
    (hx : x % 2 ^ 32 = (h.getD (v - base) 0 + 1) % 2 ^ 32) :
    ((h.set (v - base) x).getD j 0 + vs.count (base + j)) % 2 ^ 32 = (h.getD j 0 + (v :: vs).count (base + j)) % 2 ^ 32 := by
  rw [← counter_raised hw hl, Nat.add_mod, Nat.add_mod (List.getD ..), getD_set_bucket hw hl, getD_set_bucket hw hl]
  split
  · rw [hx]
  · rfl

/-- A key outside the window is counted in no bucket. -/
theorem count_cons_outside (hw : ¬ inWindow base v = true) (hj : j < 16) : (v :: vs).count (base + j) = vs.count (base + j) :=
  List.count_cons_of_ne (ne_bucket_of_outside hw hj)

/-! ## The 16 lanes of a token -/

/-- The lanes of 32 bits. -/
def lanes16 (v : Wide) : List Nat := (List.range 16).map (laneN 32 v)

@[simp] theorem length_lanes16 (v : Wide) : (lanes16 v).length = 16 := by
  rw [lanes16, List.length_map, List.length_range]

theorem getD_lanes16 (v : Wide) (hj : j < 16) : (lanes16 v).getD j 0 = laneN 32 v j := getD_map_range (laneN 32 v) 0 hj

theorem getD_lanes16_le (v : Wide) (j : Nat) : (lanes16 v).getD j 0 ≤ 2 ^ 32 - 1 := by
  by_cases hj : j < 16
  · rw [getD_lanes16 v hj]
    exact Nat.le_sub_one_of_lt (laneN_lt ..)
  · simp [List.getD, Nat.le_of_not_lt hj]

theorem getElem?_lanes16 (v : Wide) {k : Nat} (hk : k < 16) : (lanes16 v)[k]? = some (laneN 32 v k) := by
  simp [lanes16, hk]

/-- The keys of the bucket base + j among the first n lanes of a, in the window of an instruction (R115). -/
def keysIn (f : GFields) (a b : Token) (j n : Nat) : Nat :=
  ((List.range n).filter (fun k => laneN 32 a.value k = windowBase f b.value + j)).length

theorem count_take_lanes16 (f : GFields) (a b : Token) (j : Nat) {n : Nat} (hn : n ≤ 16) :
    ((lanes16 a.value).take n).count (windowBase f b.value + j) = keysIn f a b j n := by
  rw [lanes16, ← List.map_take, List.take_range, Nat.min_eq_left hn, List.count, List.countP_map, List.countP_eq_length_filter]
  rfl

theorem count_lanes16 (f : GFields) (a b : Token) (j : Nat) :
    (lanes16 a.value).count (windowBase f b.value + j) = keysIn f a b j 16 := by
  rw [← count_take_lanes16 f a b j le_rfl, List.take_of_length_le (length_lanes16 _).le]

/-! ## BKHIST -/

theorem bkhistFrom_outside (sat : Bool) (hw : ¬ inWindow base v = true) : bkhistFrom sat base (v :: vs) h = bkhistFrom sat base vs h := by
  rw [bkhistFrom, if_neg hw]

theorem bkhistFrom_room (sat : Bool) (hw : inWindow base v = true) (hf : h.getD (v - base) 0 ≠ 2 ^ 32 - 1) :
    bkhistFrom sat base (v :: vs) h = bkhistFrom sat base vs (h.set (v - base) (h.getD (v - base) 0 + 1)) := by
  rw [bkhistFrom, if_pos hw]
  dsimp only
  rw [if_neg hf, decide_eq_false hf]
  exact Prod.ext rfl BitVec.or_zero

theorem bkhistFrom_full_wraps (hw : inWindow base v = true) (hf : h.getD (v - base) 0 = 2 ^ 32 - 1) :
    bkhistFrom false base (v :: vs) h = bkhistFrom false base vs (h.set (v - base) 0) := by
  rw [bkhistFrom, if_pos hw]
  dsimp only
  rw [if_pos hf, Bool.and_false]
  exact Prod.ext rfl BitVec.or_zero

theorem bkhistFrom_full_stays (hw : inWindow base v = true) (hl : h.length = 16) (hf : h.getD (v - base) 0 = 2 ^ 32 - 1) :
    bkhistFrom true base (v :: vs) h = ((bkhistFrom true base vs h).1, (bkhistFrom true base vs h).2 ||| fSaturated) := by
  have hsame : h.set (v - base) (h.getD (v - base) 0) = h := by
    obtain ⟨q, hq, rfl⟩ := inWindow_iff.mp hw
    simp [List.getD, hl, hq]
  rw [bkhistFrom, if_pos hw]
  dsimp only
  rw [if_pos hf, if_pos rfl, hsame, decide_eq_true hf]
  rfl

/-- Without saturate the counters advance modulo 2^32, and no flag is set. -/
theorem bkhistFrom_wraps (hl : h.length = 16) :
    (∀ j, j < 16 → (bkhistFrom false base vs h).1.getD j 0 % 2 ^ 32 = (h.getD j 0 + vs.count (base + j)) % 2 ^ 32)
      ∧ (bkhistFrom false base vs h).2 = 0 := by
  induction vs generalizing h with
  | nil => exact ⟨fun _ _ => rfl, rfl⟩
  | cons v vs ih =>
    have hset : ∀ x, (h.set (v - base) x).length = 16 := fun x => (List.length_set ..).trans hl
    by_cases hw : inWindow base v = true
    · by_cases hf : h.getD (v - base) 0 = 2 ^ 32 - 1
      · rw [bkhistFrom_full_wraps hw hf]
        obtain ⟨hcount, hflag⟩ := ih (hset 0)
        exact ⟨fun j hj => (hcount j hj).trans (counter_advanced hw hl (by rw [hf]; rfl)), hflag⟩
      · rw [bkhistFrom_room false hw hf]
        obtain ⟨hcount, hflag⟩ := ih (hset _)
        exact ⟨fun j hj => (hcount j hj).trans (counter_advanced hw hl rfl), hflag⟩
    · rw [bkhistFrom_outside false hw]
      obtain ⟨hcount, hflag⟩ := ih hl
      exact ⟨fun j hj => by rw [count_cons_outside hw hj, hcount j hj], hflag⟩

/-- A counter passes its greatest value (R115). -/
def Overflows (base : Nat) (vs h : List Nat) : Prop := ∃ j, j < 16 ∧ 2 ^ 32 - 1 < h.getD j 0 + vs.count (base + j)

/-- Under saturate the counters stop at 2^32 - 1, and Saturated says that one was stopped. -/
theorem bkhistFrom_clamps (hl : h.length = 16) (hmax : ∀ j, h.getD j 0 ≤ 2 ^ 32 - 1) :
    (∀ j, j < 16 → (bkhistFrom true base vs h).1.getD j 0 = min (h.getD j 0 + vs.count (base + j)) (2 ^ 32 - 1))
      ∧ (Overflows base vs h → (bkhistFrom true base vs h).2 = fSaturated)
      ∧ (¬ Overflows base vs h → (bkhistFrom true base vs h).2 = 0) := by
  induction vs generalizing h with
  | nil =>
    exact ⟨fun j _ => (Nat.min_eq_left (hmax j)).symm, fun ⟨j, _, hj⟩ => absurd hj (Nat.not_lt.mpr (hmax j)), fun _ => rfl⟩
  | cons v vs ih =>
    by_cases hw : inWindow base v = true
    · by_cases hf : h.getD (v - base) 0 = 2 ^ 32 - 1
      · rw [bkhistFrom_full_stays hw hl hf]
        obtain ⟨q, hq, rfl⟩ := inWindow_iff.mp hw
        rw [Nat.add_sub_cancel_left] at hf
        obtain ⟨hcount, hover, hnone⟩ := ih hl hmax
        have hflag : (bkhistFrom true base vs h).2 ||| fSaturated = fSaturated := by
          by_cases ho : Overflows base vs h
          · rw [hover ho, BitVec.or_self]
          · rw [hnone ho]
            exact BitVec.zero_or
        refine ⟨fun j hj => ?_, fun _ => hflag, fun hno => absurd ⟨q, hq, ?_⟩ hno⟩
        · rw [hcount j hj, List.count_cons]
          by_cases hjq : q = j
          · subst hjq
            omega
          · simp [hjq]
        · rw [List.count_cons_self]
          omega
      · rw [bkhistFrom_room true hw hf]
        have hraised := fun j => counter_raised (vs := vs) (j := j) hw hl
        have hover : Overflows base vs (h.set (v - base) (h.getD (v - base) 0 + 1)) ↔ Overflows base (v :: vs) h := by
          simp only [Overflows, hraised]
        rw [← hover]
        simp only [← hraised]
        refine ih ((List.length_set ..).trans hl) fun j => ?_
        have hq := hmax (v - base)
        rw [getD_set_bucket hw hl]
        split
        · omega
        · exact hmax j
    · rw [bkhistFrom_outside true hw]
      have hover : Overflows base (v :: vs) h ↔ Overflows base vs h :=
        exists_congr fun j => and_congr_right fun hj => by rw [count_cons_outside hw hj]
      rw [hover]
      obtain ⟨hcount, hflag⟩ := ih hl hmax
      exact ⟨fun j hj => by rw [count_cons_outside hw hj, hcount j hj], hflag⟩

/-! ## BKSCAT -/

/-- Each cursor advances by the keys of its bucket. -/
theorem bkscatFrom_cursors (hl : h.length = 16) (hj : j < 16) :
    (bkscatFrom base vs h).2.getD j 0 % 2 ^ 32 = (h.getD j 0 + vs.count (base + j)) % 2 ^ 32 := by
  induction vs generalizing h with
  | nil => simp [bkscatFrom]
  | cons v vs ih =>
    rw [bkscatFrom]
    split
    · next hw => exact (ih ((List.length_set ..).trans hl)).trans (counter_advanced hw hl (Nat.mod_mod ..))
    · next hw => exact (ih hl).trans (by rw [count_cons_outside hw hj])

/-- A key of the window gets the cursor of its bucket as the keys before it have left it. -/
theorem bkscatFrom_slot (hl : h.length = 16) (hj : j < 16) {k : Nat} (hk : vs[k]? = some (base + j)) :
    (bkscatFrom base vs h).1.getD k 0 % 2 ^ 32 = (h.getD j 0 + (vs.take k).count (base + j)) % 2 ^ 32 := by
  induction vs generalizing h k with
  | nil => cases hk
  | cons v vs ih =>
    rw [bkscatFrom]
    cases k with
    | zero =>
      obtain rfl : v = base + j := by simpa using hk
      rw [if_pos (inWindow_iff.mpr ⟨j, hj, rfl⟩)]
      simp
    | succ k =>
      rw [List.getElem?_cons_succ] at hk
      rw [List.take_succ_cons]
      split
      · next hw => exact (ih ((List.length_set ..).trans hl) hk).trans (counter_advanced hw hl (Nat.mod_mod ..))
      · next hw => exact (ih hl hk).trans (by rw [count_cons_outside hw hj])

/-- A key outside the window gets all ones. -/
theorem bkscatFrom_outside {k : Nat} (hk : vs[k]? = some v) (hw : ¬ inWindow base v = true) :
    (bkscatFrom base vs h).1.getD k 0 = 2 ^ 32 - 1 := by
  induction vs generalizing h k with
  | nil => cases hk
  | cons y vs ih =>
    rw [bkscatFrom]
    cases k with
    | zero =>
      obtain rfl : y = v := by simpa using hk
      rw [if_neg hw]
      rfl
    | succ k =>
      rw [List.getElem?_cons_succ] at hk
      split
      · exact ih hk
      · exact ih hk

end Sys2Proof.Laws
end

section
/-! SUPPORT. Scans of strings (R116, R117). -/

namespace Sys2Proof.Laws

open Sys2Proof Sys2Proof.Machine

variable {i : Instr} {s : State} {q : Scan}

/-! ## The state that a token carries (R116) -/

/-- Every field of a scan's state fits its place in the token. -/
structure Fits (q : Scan) : Prop where
  h : q.h < 2 ^ 64
  o : q.o < 4
  r : q.r < 2 ^ 24
  n : q.n < 2 ^ 24

/-- Word 0 of a scan's state. -/
def scanWord (q : Scan) : Nat := q.n + 2 ^ 24 * q.r + 2 ^ 61 * q.o + if q.d then 2 ^ 63 else 0

theorem scanWord_lt (hq : Fits q) : scanWord q < 2 ^ 64 := by
  obtain ⟨-, ho, hr, hn⟩ := hq
  unfold scanWord
  split <;> omega

theorem toNat_writeScan (hq : Fits q) : (writeScan q).toNat = q.h * 2 ^ 64 + scanWord q := by
  have hword := scanWord_lt hq
  have hh := hq.h
  rw [writeScan, BitVec.toNat_ofNat, Nat.mod_eq_of_lt hh]
  unfold scanWord at *
  rw [Nat.mod_eq_of_lt (by omega)]
  omega

/-- The lanes of a scan's state: the word of its fields, the hash, and zeros (R116). -/
theorem laneN_writeScan (hq : Fits q) :
    laneN 64 (writeScan q) 0 = scanWord q ∧ laneN 64 (writeScan q) 1 = q.h ∧ ∀ k, 2 ≤ k → laneN 64 (writeScan q) k = 0 := by
  have hword := scanWord_lt hq
  have hh := hq.h
  unfold laneN
  rw [toNat_writeScan hq]
  refine ⟨by omega, by omega, fun k hk => ?_⟩
  have hpow : 2 ^ (64 * 2) ≤ 2 ^ (64 * k) := Nat.pow_le_pow_right (by decide) (by omega)
  rw [Nat.div_eq_of_lt (lt_of_lt_of_le (by omega) hpow), Nat.zero_mod]

theorem deliversScan_write (hq : Fits q) (hv : DeliversFlagged i s (plain (writeScan q))) :
    DeliversScan i s q.h q.d q.o q.r q.n :=
  ⟨_, hv, laneN_writeScan hq⟩

/-! ## A scan that is done passes (R116) -/

theorem scanFrom_done (step : Scan → Nat → Scan) (js : List Nat) (hd : q.d = true) : scanFrom step js q = q := by
  cases js with
  | nil => rfl
  | cons j js => rw [scanFrom, if_pos hd]

/-- The fields of a state whose scan has ended. -/
def doneScan (c : Wide) : Scan :=
  ⟨laneN 64 c 1, true, field (laneN 64 c 0) 61 2, field (laneN 64 c 0) 24 24, field (laneN 64 c 0) 0 24⟩

theorem fits_doneScan (c : Wide) : Fits (doneScan c) :=
  ⟨laneN_lt .., Nat.mod_lt _ (by decide), Nat.mod_lt _ (by decide), Nat.mod_lt _ (by decide)⟩

theorem runScan_done {c : Wide} (step : Scan → Nat → Scan) (hd : (laneN 64 c 0).testBit 63 = true) :
    runScan c step = plain (writeScan (doneScan c)) := by
  have hread : readScan c = doneScan c := by simp [readScan, doneScan, hd]
  rw [runScan, hread, scanFrom_done step _ rfl]

/-! ## A scan under way (R117) -/

/-- A scan of a state before byte m of the token, where none of the bytes before has stopped it. -/
def scanAt (c : Token) (hash : Nat → Nat) (m : Nat) : Scan :=
  ⟨hash m, false, if field (laneN 64 c.value 0) 61 2 = 3 then 0 else field (laneN 64 c.value 0) 61 2, limitAt c m,
    (field (laneN 64 c.value 0) 0 24 + m) % 2 ^ 24⟩

/-- The scan is stopped, with its outcome where there is one. -/
def stopped (q : Scan) (o : Option Nat) : Scan := { q with o := o.getD q.o, d := true }

/-- Each byte of the token stops the scan, with its outcome, or is consumed. -/
structure Scans (step : Scan → Nat → Scan) (c : Token) (stop : Nat → Prop) (out : Nat → Option Nat) (hash : Nat → Nat) : Prop where
  stops : ∀ j, stop j → step (scanAt c hash j) j = stopped (scanAt c hash j) (out j)
  goes : ∀ j, ¬ stop j → step (scanAt c hash j) j = scanAt c hash (j + 1)

theorem limitAt_lt (c : Token) (m : Nat) : limitAt c m < 2 ^ 24 := by
  have hr : field (laneN 64 c.value 0) 24 24 < 2 ^ 24 := Nat.mod_lt _ (by decide)
  unfold limitAt
  split <;> omega

theorem limitAt_succ (c : Token) (m : Nat) : limitAt c (m + 1) = if limitAt c m = 2 ^ 24 - 1 then limitAt c m else limitAt c m - 1 := by
  have hr : field (laneN 64 c.value 0) 24 24 < 2 ^ 24 := Nat.mod_lt _ (by decide)
  unfold limitAt
  split
  · simp
  · rw [if_neg (by omega)]
    omega

theorem consume_scanAt (c : Token) (hash : Nat → Nat) (m : Nat) :
    Scan.consume { scanAt c hash m with h := hash (m + 1) } = scanAt c hash (m + 1) := by
  simp only [Scan.consume, scanAt, limitAt_succ, Nat.mod_add_mod, Nat.add_assoc]
  rfl

theorem scanFrom_append_singleton (step : Scan → Nat → Scan) (js : List Nat) (j : Nat) :
    scanFrom step (js ++ [j]) q = if (scanFrom step js q).d then scanFrom step js q else step (scanFrom step js q) j := by
  induction js generalizing q with
  | nil => rfl
  | cons k js ih =>
    rw [List.cons_append, scanFrom, scanFrom]
    split
    · rfl
    · exact ih

variable {step : Scan → Nat → Scan} {c : Token} {stop : Nat → Prop} {out : Nat → Option Nat} {hash : Nat → Nat}

/-- A scan of n bytes stands before the first byte that stops it, or behind them all. -/
theorem scanFrom_range (h : Scans step c stop out hash) (n : Nat) :
    ∃ m, m ≤ n ∧ (∀ j, j < m → ¬ stop j) ∧ (m < n → stop m)
      ∧ scanFrom step (List.range n) (scanAt c hash 0) = if m < n then stopped (scanAt c hash m) (out m) else scanAt c hash m := by
  induction n with
  | zero => exact ⟨0, le_rfl, nofun, nofun, rfl⟩
  | succ n ih =>
    obtain ⟨m, hm, hbefore, hat, hscan⟩ := ih
    rw [List.range_succ, scanFrom_append_singleton, hscan]
    rcases hm.lt_or_eq with hlt | rfl
    · refine ⟨m, hm.trans n.le_succ, hbefore, fun _ => hat hlt, ?_⟩
      rw [if_pos hlt, if_pos (Nat.lt_succ_of_lt hlt)]
      exact if_pos rfl
    · rw [if_neg (lt_irrefl m)]
      by_cases hs : stop m
      · refine ⟨m, m.le_succ, hbefore, fun _ => hs, ?_⟩
        rw [if_pos m.lt_succ_self, ← h.stops m hs]
        exact if_neg Bool.false_ne_true
      · refine ⟨m + 1, le_rfl, fun j hj => ?_, fun hlt => absurd hlt (lt_irrefl _), ?_⟩
        · rcases (Nat.lt_succ_iff.mp hj).lt_or_eq with hlt | rfl
          · exact hbefore j hlt
          · exact hs
        · rw [if_neg (lt_irrefl _), ← h.goes m hs]
          exact if_neg Bool.false_ne_true

theorem readScan_open (hd : (laneN 64 c.value 0).testBit 63 = false) (hh : hash 0 = laneN 64 c.value 1) :
    readScan c.value = scanAt c hash 0 := by
  have hn : field (laneN 64 c.value 0) 0 24 < 2 ^ 24 := Nat.mod_lt _ (by decide)
  have hmod : (field (laneN 64 c.value 0) 0 24 + 0) % 2 ^ 24 = field (laneN 64 c.value 0) 0 24 := Nat.mod_eq_of_lt hn
  simp only [readScan, scanAt, limitAt, hmod]
  simp [hd, hh]

theorem fits_scanAt (hlt : ∀ m, hash m < 2 ^ 64) (m : Nat) : Fits (scanAt c hash m) := by
  have ho : field (laneN 64 c.value 0) 61 2 < 4 := Nat.mod_lt _ (by decide)
  refine ⟨hlt m, ?_, limitAt_lt c m, Nat.mod_lt _ (by decide)⟩
  unfold scanAt
  dsimp only
  split <;> omega

theorem fits_stopped {o : Option Nat} (hq : Fits q) (ho : ∀ x, o = some x → x < 4) : Fits (stopped q o) := by
  refine ⟨hq.h, ?_, hq.r, hq.n⟩
  cases o with
  | none => exact hq.o
  | some x => exact ho x rfl

/-- An instruction that scans byte by byte ends as R116 and R117 say. -/
theorem scansTo_of_scans (hv : DeliversFlagged i s (runScan c.value step)) (hs : Scans step c stop out hash)
    (hstart : hash 0 = laneN 64 c.value 1) (hlt : ∀ m, hash m < 2 ^ 64) (hout : ∀ j x, out j = some x → x < 4) :
    ScansTo i s c stop out hash := by
  unfold ScansTo
  dsimp only
  split
  · next hd =>
    rw [runScan_done step hd] at hv
    exact deliversScan_write (fits_doneScan _) hv
  · next hd =>
    obtain ⟨m, hm, hbefore, hat, hscan⟩ := scanFrom_range hs 64
    rw [runScan, readScan_open (by simpa using hd) hstart, hscan] at hv
    refine ⟨m, hm, hbefore, hat, ?_⟩
    by_cases hlt64 : m < 64
    · rw [if_pos hlt64] at hv
      rw [if_pos hlt64, decide_eq_true hlt64]
      exact deliversScan_write (fits_stopped (fits_scanAt hlt m) (hout m)) hv
    · rw [if_neg hlt64] at hv
      rw [if_neg hlt64, decide_eq_false hlt64]
      exact deliversScan_write (fits_scanAt hlt m) hv

end Sys2Proof.Laws
end

section
/-! SUPPORT. The string instructions are scans (R117). -/

namespace Sys2Proof.Laws

open Sys2Proof Sys2Proof.Machine

variable {f : GFields} {s : State} {a b c : Token}

/-- String x ends before its byte j, as the machine decides it (R117). -/
def endsB (f : GFields) (c x : Token) (j : Nat) : Bool :=
  decide (limitAt c j = 0) || (f.imm16.getLsbD 8 && decide (laneN 8 x.value j = f.imm16.toNat % 256))

theorem endsB_iff {x : Token} {j : Nat} : endsB f c x j = true ↔ endsAt f c x j := by
  simp only [endsB, endsAt, Bool.or_eq_true, Bool.and_eq_true, decide_eq_true_eq]

theorem ends_scanAt (hash : Nat → Nat) (x : Token) (j : Nat) :
    (scanAt c hash j).ends (immN f) (laneN 8 x.value j) = endsB f c x j := rfl

/-- A step that tests whether the scan stops, gives the outcome, and consumes the byte else. -/
theorem scans_of_step {step : Scan → Nat → Scan} {stop : Nat → Prop} {out : Nat → Option Nat} {hash : Nat → Nat}
    (hstops : ∀ j, stop j → step (scanAt c hash j) j = stopped (scanAt c hash j) (out j))
    (hgoes : ∀ j, ¬ stop j → step (scanAt c hash j) j = Scan.consume { scanAt c hash j with h := hash (j + 1) }) :
    Scans step c stop out hash :=
  ⟨hstops, fun j hj => (hgoes j hj).trans (consume_scanAt c hash j)⟩

/-! ## Hash and outcome (R117) -/

/-- What SHASH makes of the first m bytes (R117). -/
def hashBytes (a c : Token) (m : Nat) : Nat :=
  (List.range m).foldl (fun h j => (h ^^^ laneN 8 a.value j) * 0x0000010000000233 % 2 ^ 64) (laneN 64 c.value 1)

theorem hashBytes_succ (a c : Token) (m : Nat) :
    hashBytes a c (m + 1) = (hashBytes a c m ^^^ laneN 8 a.value m) * 0x0000010000000233 % 2 ^ 64 := by
  unfold hashBytes
  rw [List.range_succ, List.foldl_append, List.foldl_cons, List.foldl_nil]

theorem hashBytes_lt (a c : Token) (m : Nat) : hashBytes a c m < 2 ^ 64 := by
  cases m with
  | zero => exact laneN_lt ..
  | succ m => exact hashBytes_succ a c m ▸ Nat.mod_lt _ (by decide)

/-- The outcome of SCMP where it stops at byte j (R117). -/
def cmpOutcome (f : GFields) (a b c : Token) (j : Nat) : Option Nat :=
  if endsB f c a j then (if endsB f c b j then none else some 1)
  else if endsB f c b j then some 2
  else some (if laneN 8 a.value j < laneN 8 b.value j then 1 else 2)

/-- The outcome of a scan that finds its byte, or its mismatch, unless string x has ended (R117). -/
def foundOutcome (f : GFields) (x c : Token) (j : Nat) : Option Nat := if endsB f c x j then none else some 1

theorem foundOutcome_cases {x : Token} {j : Nat} :
    (endsAt f c x j → foundOutcome f x c j = none) ∧ (¬ endsAt f c x j → foundOutcome f x c j = some 1) := by
  rw [← endsB_iff]
  exact ⟨fun h => if_pos h, fun h => if_neg h⟩

theorem cmpOutcome_cases {j : Nat} :
    (endsAt f c a j → endsAt f c b j → cmpOutcome f a b c j = none) ∧ (endsAt f c a j → ¬ endsAt f c b j → cmpOutcome f a b c j = some 1)
      ∧ (¬ endsAt f c a j → endsAt f c b j → cmpOutcome f a b c j = some 2)
      ∧ (¬ endsAt f c a j → ¬ endsAt f c b j → cmpOutcome f a b c j = some (if laneN 8 a.value j < laneN 8 b.value j then 1 else 2)) := by
  simp only [← endsB_iff]
  unfold cmpOutcome
  exact ⟨fun ha hb => by rw [if_pos ha, if_pos hb], fun ha hb => by rw [if_pos ha, if_neg hb],
    fun ha hb => by rw [if_neg ha, if_pos hb], fun ha hb => by rw [if_neg ha, if_neg hb]⟩

theorem cmpOutcome_lt {j x : Nat} (h : cmpOutcome f a b c j = some x) : x < 4 := by
  unfold cmpOutcome at h
  grind

theorem foundOutcome_lt {x : Token} {j y : Nat} (h : foundOutcome f x c j = some y) : y < 4 := by
  unfold foundOutcome at h
  grind

/-! ## The five scans (R117) -/

theorem slen_scans (h : readiness (.slen f) s = .go a b c) :
    ScansTo (.slen f) s c (endsAt f c a) (fun _ => none) (fun _ => laneN 64 c.value 1) := by
  have hv := deliversFlagged_compute (g := fun _ a _ c => valSlen f a c) rfl h
  refine scansTo_of_scans hv (scans_of_step (fun j hj => ?_) fun j hj => ?_) rfl (fun _ => laneN_lt ..) nofun
  · rw [ends_scanAt, if_pos (endsB_iff.mpr hj)]
    rfl
  · rw [ends_scanAt, if_neg (mt endsB_iff.mp hj)]
    rfl

theorem shash_scans (h : readiness (.shash f) s = .go a b c) :
    ScansTo (.shash f) s c (endsAt f c a) (fun _ => none) (hashBytes a c) := by
  have hv := deliversFlagged_compute (g := fun _ a _ c => valShash f a c) rfl h
  refine scansTo_of_scans hv (scans_of_step (fun j hj => ?_) fun j hj => ?_) rfl (hashBytes_lt a c) nofun
  · rw [ends_scanAt, if_pos (endsB_iff.mpr hj)]
    rfl
  · rw [ends_scanAt, if_neg (mt endsB_iff.mp hj), hashBytes_succ]
    rfl

theorem scmp_scans (h : readiness (.scmp f) s = .go a b c) :
    ScansTo (.scmp f) s c (fun j => endsAt f c a j ∨ endsAt f c b j ∨ laneN 8 a.value j ≠ laneN 8 b.value j) (cmpOutcome f a b c)
      (fun _ => laneN 64 c.value 1) := by
  have hv := deliversFlagged_compute (g := fun _ => valScmp f) rfl h
  refine scansTo_of_scans hv (scans_of_step (fun j hj => ?_) fun j hj => ?_) rfl (fun _ => laneN_lt ..) fun _ _ => cmpOutcome_lt
  · simp only [← endsB_iff] at hj
    by_cases ha : endsB f c a j = true
    · by_cases hb : endsB f c b j = true
      · simp [ends_scanAt, cmpOutcome, stopped, ha, hb]
      · simp [ends_scanAt, cmpOutcome, stopped, ha, hb]
    · by_cases hb : endsB f c b j = true
      · simp [ends_scanAt, cmpOutcome, stopped, ha, hb]
      · have hne : laneN 8 a.value j ≠ laneN 8 b.value j := by simpa [ha, hb] using hj
        simp [ends_scanAt, cmpOutcome, stopped, ha, hb, hne]
  · simp only [← endsB_iff, not_or, Bool.not_eq_true, not_not] at hj
    obtain ⟨ha, hb, heq⟩ := hj
    simp only [ends_scanAt, ha, hb, Bool.and_false, Bool.false_eq_true, if_false]
    exact if_neg (not_not.mpr heq)

theorem spfx_scans (h : readiness (.spfx f) s = .go a b c) :
    ScansTo (.spfx f) s c (fun j => endsAt f c b j ∨ endsAt f c a j ∨ laneN 8 a.value j ≠ laneN 8 b.value j) (foundOutcome f b c)
      (fun _ => laneN 64 c.value 1) := by
  have hv := deliversFlagged_compute (g := fun _ => valSpfx f) rfl h
  refine scansTo_of_scans hv (scans_of_step (fun j hj => ?_) fun j hj => ?_) rfl (fun _ => laneN_lt ..) fun _ _ => foundOutcome_lt
  · simp only [← endsB_iff] at hj
    by_cases hb : endsB f c b j = true
    · simp [ends_scanAt, foundOutcome, stopped, hb]
    · have hstop : (endsB f c a j || decide (laneN 8 a.value j ≠ laneN 8 b.value j)) = true := by simpa [hb] using hj
      dsimp only
      rw [ends_scanAt, ends_scanAt, if_neg hb, if_pos hstop, foundOutcome, if_neg hb]
      rfl
  · simp only [← endsB_iff, not_or, Bool.not_eq_true, not_not] at hj
    obtain ⟨hb, ha, heq⟩ := hj
    simp only [ends_scanAt, ha, hb, Bool.false_or, Bool.false_eq_true, if_false]
    exact if_neg (by simpa using heq)

theorem sfind_scans (h : readiness (.sfind f) s = .go a b c) :
    ScansTo (.sfind f) s c (fun j => endsAt f c a j ∨ laneN 8 a.value j = laneN 8 b.value 0) (foundOutcome f a c)
      (fun _ => laneN 64 c.value 1) := by
  have hv := deliversFlagged_compute (g := fun _ => valSfind f) rfl h
  refine scansTo_of_scans hv (scans_of_step (fun j hj => ?_) fun j hj => ?_) rfl (fun _ => laneN_lt ..) fun _ _ => foundOutcome_lt
  · simp only [← endsB_iff] at hj
    by_cases ha : endsB f c a j = true
    · simp [ends_scanAt, foundOutcome, stopped, ha]
    · have heq : laneN 8 a.value j = laneN 8 b.value 0 := by simpa [ha] using hj
      dsimp only
      rw [ends_scanAt, if_neg ha, if_pos heq, foundOutcome, if_neg ha]
      rfl
  · simp only [← endsB_iff, not_or] at hj
    obtain ⟨ha, hne⟩ := hj
    simp only [ends_scanAt, ha, hne, if_false]
    rfl

/-! ## A state with D set (R116) -/

theorem toNat_word (v : Wide) (n : Nat) : (word v n).toNat = laneN 64 v n := by
  rw [word, BitVec.extractLsb'_toNat, Nat.shiftRight_eq_div_pow]
  rfl

/-- What a state with D set keeps. -/
theorem doneScan_passes (c : Wide) :
    laneN 64 (writeScan (doneScan c)) 1 = laneN 64 c 1 ∧ (word (writeScan (doneScan c)) 0).getLsbD 63 = true
      ∧ (word (writeScan (doneScan c)) 0).extractLsb' 61 2 = (word c 0).extractLsb' 61 2
      ∧ (word (writeScan (doneScan c)) 0).extractLsb' 0 48 = (word c 0).extractLsb' 0 48 := by
  obtain ⟨hw, hh, -⟩ := laneN_writeScan (fits_doneScan c)
  have hlow : scanWord (doneScan c) = laneN 64 c 0 % 2 ^ 48 + 2 ^ 61 * (laneN 64 c 0 / 2 ^ 61 % 2 ^ 2) + 2 ^ 63 := by
    simp only [scanWord, doneScan, field, if_true]
    omega
  have hlt := laneN_lt 64 c 0
  refine ⟨hh, ?_, BitVec.eq_of_toNat_eq ?_, BitVec.eq_of_toNat_eq ?_⟩
  · rw [BitVec.getLsbD, toNat_word, hw, hlow, Nat.testBit_eq_decide_div_mod_eq]
    exact decide_eq_true (by omega)
  · rw [BitVec.extractLsb'_toNat, BitVec.extractLsb'_toNat, toNat_word, toNat_word, hw, hlow, Nat.shiftRight_eq_div_pow,
      Nat.shiftRight_eq_div_pow]
    omega
  · rw [BitVec.extractLsb'_toNat, BitVec.extractLsb'_toNat, toNat_word, toNat_word, hw, hlow, Nat.shiftRight_zero, Nat.shiftRight_zero]
    omega

end Sys2Proof.Laws
end

section
/-! CERTIFICATES. Hashes, bucket instructions and string scans (R114 to R117). -/

namespace Sys2Proof.Laws

open Sys2Proof Sys2Proof.Machine

variable {f : GFields} {s : State} {a b c : Token}

/-- BKHIST counts the keys of each bucket, modulo 2^32 or up to the greatest counter (R115). -/
theorem bkhist_counts (h : readiness (.bkhist f) s = .go a b c) :
    ∃ v fl, DeliversFlagged (.bkhist f) s (v, fl)
      ∧ (f.sat = false → fl = 0 ∧ ∀ j, j < 16 → laneN 32 v j = (laneN 32 c.value j + keysIn f a b j 16) % 2 ^ 32)
      ∧ (f.sat = true → (∀ j, j < 16 → laneN 32 v j = min (laneN 32 c.value j + keysIn f a b j 16) (2 ^ 32 - 1))
          ∧ fl = if (List.range 16).any (fun j => decide (2 ^ 32 - 1 < laneN 32 c.value j + keysIn f a b j 16)) then fSaturated else 0) := by
  have hv := deliversFlagged_compute (g := fun _ => valBkhist f) rfl h
  refine ⟨_, _, hv, fun hs => ?_, fun hs => ?_⟩
  · obtain ⟨hcount, hflag⟩ := bkhistFrom_wraps (base := windowBase f b.value) (vs := lanes16 a.value) (length_lanes16 c.value)
    rw [hs]
    refine ⟨hflag, fun j hj => ?_⟩
    rw [laneN_fromLanes _ _ _ (by decide) hj]
    exact (hcount j hj).trans (by rw [getD_lanes16 _ hj, count_lanes16])
  · obtain ⟨hcount, hover, hnone⟩ := bkhistFrom_clamps (base := windowBase f b.value) (vs := lanes16 a.value) (length_lanes16 c.value)
      (getD_lanes16_le c.value)
    rw [hs]
    refine ⟨fun j hj => ?_, ?_⟩
    · have hlt : min (laneN 32 c.value j + keysIn f a b j 16) (2 ^ 32 - 1) < 2 ^ 32 := by omega
      rw [laneN_fromLanes _ _ _ (by decide) hj]
      refine (congrArg (· % 2 ^ 32) (hcount j hj)).trans ?_
      rw [getD_lanes16 _ hj, count_lanes16]
      exact Nat.mod_eq_of_lt hlt
    · have hany : (List.range 16).any (fun j => decide (2 ^ 32 - 1 < laneN 32 c.value j + keysIn f a b j 16)) = true
          ↔ Overflows (windowBase f b.value) (lanes16 a.value) (lanes16 c.value) := by
        simp only [List.any_eq_true, List.mem_range, decide_eq_true_eq]
        exact exists_congr fun j => and_congr_right fun hj => by rw [getD_lanes16 _ hj, count_lanes16]
      split
      · next ho => exact hover (hany.mp ho)
      · next ho => exact hnone (mt hany.mpr ho)

/-- BKSCAT delivers the cursors as the keys find them, lane after lane, and as they leave them (R115). -/
theorem bkscat_places (h : readiness (.bkscat f) s = .go a b c) :
    ∃ v w : Wide, exec (.bkscat f) s = .next (fired (.bkscat f) { r0 := some (wideTok v), r1 := some (wideTok w) } s)
      ∧ (∀ j, j < 16 → laneN 32 w j = (laneN 32 c.value j + keysIn f a b j 16) % 2 ^ 32)
      ∧ ∀ k, k < 16 →
          (∀ j, j < 16 → laneN 32 a.value k = windowBase f b.value + j → laneN 32 v k = (laneN 32 c.value j + keysIn f a b j k) % 2 ^ 32)
          ∧ ((∀ j, j < 16 → laneN 32 a.value k ≠ windowBase f b.value + j) → laneN 32 v k = 2 ^ 32 - 1) := by
  have hl := length_lanes16 c.value
  have hx : exec (.bkscat f) s = .next (fired (.bkscat f)
      { r0 := some (wideTok (valBkscat f a.value b.value c.value).1), r1 := some (wideTok (valBkscat f a.value b.value c.value).2) } s) := by
    change execBkscat f s = _
    rw [execBkscat, fire_go h]
  refine ⟨_, _, hx, fun j hj => ?_, fun k hk => ⟨fun j hj hkey => ?_, fun hout => ?_⟩⟩
  · refine (laneN_fromLanes _ _ _ (by decide) hj).trans ((bkscatFrom_cursors hl hj).trans ?_)
    rw [getD_lanes16 _ hj, ← count_lanes16]
    rfl
  · have hkey' := (getElem?_lanes16 a.value hk).trans (congrArg some hkey)
    refine (laneN_fromLanes _ _ _ (by decide) hk).trans ((bkscatFrom_slot hl hj hkey').trans ?_)
    rw [getD_lanes16 _ hj, count_take_lanes16 _ _ _ _ hk.le]
  · have hlane : (bkscatFrom (windowBase f b.value) (lanes16 a.value) (lanes16 c.value)).1.getD k 0 = 2 ^ 32 - 1 :=
      bkscatFrom_outside (getElem?_lanes16 a.value hk) fun hw => by
        obtain ⟨j, hj, hkey⟩ := inWindow_iff.mp hw
        exact hout j hj hkey
    exact (laneN_fromLanes _ _ _ (by decide) hk).trans (congrArg (· % 2 ^ 32) hlane)

/-- HCOMB hashes 32 or 64 bits by its type (R113). -/
theorem valHcomb_eq (f : GFields) (a b : Wide) :
    valHcomb f a b = perLane f.ty f.wide (fun k =>
      (if f.ty = .n32 then mix32 (rolLane 32 (laneN f.ty.width a k) 13 ^^^ seedLane f b k)
       else mix64 (rolLane 64 (laneN f.ty.width a k) 27 ^^^ seedLane f b k), 0)) := by
  unfold valHcomb
  split
  · rfl
  · rfl

/-- Settles O27: the hashes lane by lane, the bucket instructions by the count of keys, the scans by where their bytes stop them. -/
theorem hashAndScanResults : Obligations.HashAndScanResults := by
  refine ⟨fun f s a b c => ⟨fun h => ?_, fun h => ?_, fun h => ?_, fun h => ?_⟩, fun f s a b c => ⟨bkhist_counts, bkscat_places⟩,
    fun f s a b c => ⟨slen_scans, shash_scans, fun h => ⟨_, scmp_scans h, fun _ => cmpOutcome_cases⟩,
      fun h => ⟨_, spfx_scans h, fun _ => foundOutcome_cases⟩, fun h => ⟨_, sfind_scans h, fun _ => foundOutcome_cases⟩⟩,
    fun f a b c hd v hv => ?_⟩
  -- HASH32
  · exact deliversLanes_perLane (deliversFlagged_compute (g := fun _ a b _ => valHash32 f a b) rfl h)
  -- HASH64
  · exact deliversLanes_perLane (deliversFlagged_compute (g := fun _ a b _ => valHash64 f a b) rfl h)
  -- HCOMB
  · have hv := deliversFlagged_compute (g := fun _ a b _ => valHcomb f a b) rfl h
    rw [valHcomb_eq] at hv
    exact deliversLanes_perLane hv
  -- BUCKET
  · exact deliversLanes_perLane (deliversFlagged_compute (g := fun _ a b _ => valBucket f a b) rfl h)
  -- a state with D set
  · rw [BitVec.getLsbD, toNat_word] at hd
    have hdone : v = plain (writeScan (doneScan c)) := by
      simp only [List.mem_cons, List.not_mem_nil, or_false] at hv
      rcases hv with rfl | rfl | rfl | rfl | rfl <;> exact runScan_done _ hd
    rw [hdone]
    exact ⟨rfl, doneScan_passes c⟩

end Sys2Proof.Laws
end

section
/-! SUPPORT. What a prefetch leaves: lines of the caches and their retention, no byte, no register and no frame (R132, R169). -/

namespace Sys2Proof.Laws

open Sys2Proof Sys2Proof.Machine

variable {C : Scope} {s t : State}

/-- A change of a core's block cache. -/
theorem quiet_bcache (s : State) (n : Nat) (f : Core → List (Nat × List Word)) :
    Quiet C s (modCore s n (fun k => { k with bcache := f k })) :=
  quiet_modCore s n ⟨fun _ => rfl, fun _ => rfl, fun _ => rfl, fun _ => rfl, fun _ => rfl, fun _ => rfl⟩ (.inr fun _ => ⟨rfl, rfl⟩)

theorem quiet_cacheLine (s : State) (w : Who) (p : Word) (ws : List Word) : Quiet C s (cacheLine s w p ws) := by
  unfold cacheLine
  split
  · exact Quiet.refl s
  · exact quiet_bcache s _ _

theorem quiet_fillImageLine (s : State) (w : Who) (q : Word) : Quiet C s (fillImageLine s w q) := by
  unfold fillImageLine
  split
  · exact quiet_ite (quiet_cacheLine s w q _) (Quiet.refl s)
  · exact Quiet.refl s

theorem quiet_prefetchCode (s : State) (w : Who) (p : Word) : Quiet C s (prefetchCode s w p) := by
  refine quiet_ite (Quiet.refl s) ?_
  split
  · exact Quiet.refl s
  · exact quiet_foldl (fun k _ s => quiet_fillImageLine s w _) s

theorem quiet_prefetchLines (f : LFields) (s : State) (w : Who) (ls : List Loc) :
    Quiet anyL1 s (prefetchLines f s w ls) :=
  quiet_ite ((quiet_dropMissed s w ls).trans (quiet_fillLines _ w ls)) (quiet_foldl (fun line _ s => quiet_retain _ s line) s)

/-! ## The hints -/

theorem exec_pref (f : LFields) (s : State) : exec (.pref f) s = execPref f s := rfl
theorem exec_prefCode (f : LFields) (s : State) : exec (.prefCode f) s = execPrefCode f s := rfl
theorem exec_lds (f : LFields) (s : State) : exec (.lds f) s = execLds f s := rfl

/-- A hint fires, and behind its firing no frame changes. -/
def FiresQuietly (i : Instr) (s : State) : Prop := ∃ t, exec i s = .next t ∧ Quiet anyL1 (fired i {} s) t

theorem pref_firesQuietly {f : LFields} {a b c : Token} (h : readiness (.pref f) s = .go a b c) : FiresQuietly (.pref f) s := by
  refine ⟨_, by rw [exec_pref, execPref, fire_go h], quiet_ite (Quiet.refl _) ?_⟩
  split
  · exact Quiet.refl _
  · exact quiet_ite (quiet_prefetchLines f _ _ _) (Quiet.refl _)

theorem prefCode_firesQuietly {f : LFields} {a b c : Token} (h : readiness (.prefCode f) s = .go a b c) :
    FiresQuietly (.prefCode f) s :=
  ⟨_, by rw [exec_prefCode, execPrefCode, fire_go h], quiet_prefetchCode _ _ _⟩

theorem FiresQuietly.hint {i : Instr} (h : FiresQuietly i s) :
    ∃ t, exec i s = .next t ∧ SameMemory s t ∧ SameRegs s t ∧ ∀ d n, frameAt t d n = frameAt (fired i {} s) d n := by
  obtain ⟨t, hx, hq⟩ := h
  have hs := (quiet_fired (C := anything) i {} s trivial).trans hq.wide
  have hnone : ∀ d, ¬ anyL1 (some d) := fun _ => nofun
  exact ⟨t, hx, hs.memory, hs.regs, fun d n => hq.frameAt (hnone d) n⟩

/-! ## The start of a stream (R170) -/

/-- The firing of an LDS starts its stream. -/
def streaming (i : Instr) (q : Stream) (s : State) : State :=
  modFrame (fired i {} s) s.focus.c s.focus.frame (fun fr => { fr with streams := fr.streams ++ [q] })

theorem onlySiteFrame_streaming (i : Instr) (q : Stream) (s : State) : OnlySiteFrame s (streaming i q s) := by
  have h := onlySiteFrame_modFrame (fired i {} s) (fun fr => { fr with streams := fr.streams ++ [q] })
  rw [focus_fired] at h
  exact onlySiteFrame_trans (onlySiteFrame_fired i {} s) h

theorem streams_frameFired (i : Instr) (idx : Nat) (tag : Tag) (r : Firing) (fr : Frame) :
    (frameFired i idx tag r fr).streams = fr.streams := by
  obtain ⟨os, ds, h, -⟩ := frameFired_eq i idx tag r fr
  rw [h]

theorem frameAt_streaming {i : Instr} {q : Stream} {fr : Frame} (hf : frameAt s s.focus.c s.focus.frame = some fr) :
    ∃ fr', frameAt (streaming i q s) s.focus.c s.focus.frame = some fr' ∧ fr'.streams = fr.streams ++ [q] := by
  rw [streaming, frameAt_modFrame_self, frameAt_fired_site, hf]
  exact ⟨_, rfl, congrArg (· ++ [q]) (streams_frameFired i s.focus.idx s.focus.tag {} fr)⟩

/-- An LDS of a well-formed descriptor whose stream has not begun. -/
theorem lds_streams {f : LFields} {a b c : Token} {fr : Frame} (h : readiness (.lds f) s = .go a b c)
    (hf : frameAt s s.focus.c s.focus.frame = some fr) (hs : ∀ q ∈ fr.streams, q.idx ≠ s.focus.idx)
    (hd : ∀ q ∈ fr.faults, q.idx ≠ s.focus.idx) (hb : streamBad b.value = false) :
    exec (.lds f) s = .next (streaming (.lds f)
      ⟨s.focus.idx, addrOf (word a.value 0) (offsetOf f), b.value, 0, 0, 0, 0, false⟩ s) := by
  have hnew : (fr.streams.any (·.idx == s.focus.idx) || fr.faults.any (·.idx == s.focus.idx)) = false := by
    simpa using ⟨hs, hd⟩
  rw [exec_lds, execLds, fire_go h, hf]
  dsimp only
  rw [hnew, hb]
  rfl

end Sys2Proof.Laws
end

section
/-! CERTIFICATES. Prefetches and the start of a stream (R132, R169, R170). -/

namespace Sys2Proof.Laws

open Sys2Proof Sys2Proof.Machine

/-- Settles O34: behind the firing of a prefetch only caches change, and the firing of LDS adds its stream to the frame. -/
theorem hintResults : Obligations.HintResults := by
  refine fun f s a b c => ⟨fun i hi h => ?_, fun fr h hf hs hd hb => ?_⟩
  · simp only [List.mem_cons, List.not_mem_nil, or_false] at hi
    rcases hi with rfl | rfl
    · exact (pref_firesQuietly h).hint
    · exact (prefCode_firesQuietly h).hint
  · exact ⟨_, lds_streams h hf hs hd hb, onlySiteFrame_streaming _ _ s, frameAt_streaming hf⟩

end Sys2Proof.Laws
end

section
/-! SUPPORT. What GETC and SETC answer, and who may write a register (R126, R186, R187). -/

namespace Sys2Proof.Laws

open Sys2Proof Sys2Proof.Machine

variable {s : State} {f : GFields} {a b c : Token}

theorem exec_getc (f : GFields) (s : State) : exec (.getc f) s = execGetc f s := rfl

/-- GETC of a register that its block may read now. -/
theorem getc_delivers {fr : Frame} (h : readiness (.getc f) s = .go a b c) (hf : frameAt s s.focus.c s.focus.frame = some fr)
    (hold : f.imm16.toNat ∈ [0x008, 0x009, 0x00A] → s.focus.frame = 0) :
    DeliversWord (.getc f) s (getControl s s.focus.c fr (execCore s.focus.c fr s) f.imm16.toNat) := by
  have hnow : ¬ ((decide (0x008 ≤ f.imm16.toNat) && decide (f.imm16.toNat ≤ 0x00A) && decide (s.focus.frame ≠ 0)) = true) := by
    simp only [Bool.and_eq_true, decide_eq_true_eq, not_and, not_not]
    refine fun hn => hold ?_
    simp only [List.mem_cons, List.not_mem_nil, or_false]
    omega
  unfold DeliversWord DeliversValue
  rw [exec_getc, execGetc, fire_go h, hf]
  dsimp only
  rw [if_neg hnow]
  rfl

theorem getControl_reserved {n : Nat} (h : regRule n = none) (s : State) (c : CtxId) (fr : Frame) (core : Nat) :
    getControl s c fr core n = 0 := by
  simp only [getControl, h]

theorem getControl_above {n : Nat} {q : Nat × Option Nat} {c : CtxId} (h : regRule n = some q) (hr : (ctxAt s c).rank < q.1)
    (fr : Frame) (core : Nat) : getControl s c fr core n = 0 := by
  simp only [getControl, h, hr, if_true]

/-- The forms of SETC: the plain one, and those that name a register. -/
def setcForms : List (GFields → Instr) :=
  [.setc, .round, .seed, .feCtl, .coreErr, .tlbInv, .ptRoot, .rcLogctl, .spillCtl, .partCfg, .distKill]

theorem exec_setcForm {e : GFields → Instr} (he : e ∈ setcForms) (f : GFields) (s : State) :
    exec (e f) s = setControl (e f) f s := by
  simp only [setcForms, List.mem_cons, List.not_mem_nil, or_false] at he
  rcases he with rfl | rfl | rfl | rfl | rfl | rfl | rfl | rfl | rfl | rfl | rfl
  all_goals rfl

theorem setControl_allowed {i : Instr} (h : readiness i s = .go a b c)
    (ha : setcAllowed s s.focus.c f.imm16.toNat (word a.value 0) = true) :
    setControl i f s = .next (fired i
      { r0 := some (scalar 0), r1 := some (scalar 0), effs := [.setc f.imm16.toNat (word a.value 0)] } s) := by
  rw [setControl, fire_go h]
  exact congrArg _ (if_pos ha)

theorem setControl_refused {i : Instr} (h : readiness i s = .go a b c)
    (ha : setcAllowed s s.focus.c f.imm16.toNat (word a.value 0) = false) :
    setControl i f s = .next (fired i { r0 := some (scalar 1), r1 := some (scalar 1) } s) := by
  rw [setControl, fire_go h]
  exact congrArg _ (if_neg (by rw [ha]; exact nofun))

/-! ## The rank of a writer -/

/-- The least rank that may write a register; none for one that no SETC writes. -/
def writerRank (n : Nat) : Option Nat := (regRule n).bind (·.2)

theorem setcAllowed_eq (s : State) (c : CtxId) (n : Nat) (v : Word) :
    setcAllowed s c n v = (writerRank n).any (fun r =>
      r ≤ (ctxAt s c).rank && !(0x038 ≤ n && n ≤ 0x03F && cfgRefused s (dieOf c.core) (n - 0x038) v)) := by
  unfold setcAllowed writerRank
  cases regRule n with
  | none => rfl
  | some q =>
    obtain ⟨m, w⟩ := q
    cases w with
    | none => rfl
    | some r => rfl

theorem setcAllowed_below {n r : Nat} {c : CtxId} (h : writerRank n = some r) (hr : (ctxAt s c).rank < r) (v : Word) :
    setcAllowed s c n v = false := by
  simp [setcAllowed_eq, h, hr]

theorem setcAllowed_readOnly {n : Nat} (h : writerRank n = none) (s : State) (c : CtxId) (v : Word) :
    setcAllowed s c n v = false := by
  simp [setcAllowed_eq, h]

/-- A register that every rank may write, and that is no PART.CFG. -/
theorem setcAllowed_any {n : Nat} (h : writerRank n = some 0) (hn : n < 0x038) (s : State) (c : CtxId) (v : Word) :
    setcAllowed s c n v = true := by
  simp [setcAllowed_eq, h, hn]

end Sys2Proof.Laws
end

section
/-! CERTIFICATES. Access to the control registers (R126, R186, R187). -/

namespace Sys2Proof.Laws

open Sys2Proof Sys2Proof.Machine

/-- Settles O39: GETC reads by `getControl`, every form of SETC is `setControl`, and the ranks are those of `regRule`. -/
theorem controlRegisterAccess : Obligations.ControlRegisterAccess := by
  refine ⟨fun f s fr a b c h hf hold => ?_, fun e he f s a b c h => ⟨fun ha => ?_, fun ha => ?_⟩,
    fun s c v => ⟨fun n hn hr => ?_, fun n hn hr => ?_, fun n hn hr => ?_, fun n hn => ?_, fun n hn => ?_⟩⟩
  · have hd := getc_delivers h hf hold
    exact ⟨hd, fun hn => getControl_reserved hn s _ fr _ ▸ hd, fun q hq hr => getControl_above hq hr fr _ ▸ hd⟩
  · rw [exec_setcForm he, setControl_allowed h ha]
  · exact (exec_setcForm he f s).trans (setControl_refused h ha)
  · have hw : ∀ n ∈ [0x031, 0x035, 0x038, 0x03F, 0x087], writerRank n = some 7 := by decide
    exact setcAllowed_below (hw n hn) hr v
  · have hw : ∀ n ∈ [0x025, 0x030], writerRank n = some 6 := by decide
    exact setcAllowed_below (hw n hn) hr v
  · have hw : ∀ n ∈ [0x005, 0x006, 0x012, 0x013, 0x021, 0x022, 0x023, 0x024, 0x091], writerRank n = some 1 := by decide
    exact setcAllowed_below (hw n hn) hr v
  · have hw : ∀ n ∈ [0x000, 0x001, 0x002, 0x003, 0x007, 0x00B, 0x010, 0x011, 0x040, 0x080, 0x084, 0x090],
        writerRank n = none := by decide
    exact setcAllowed_readOnly (hw n hn) s c v
  · have hw : ∀ n ∈ [0x004, 0x008, 0x009, 0x00A], writerRank n = some 0 ∧ n < 0x038 := by decide
    exact setcAllowed_any (hw n hn).1 (hw n hn).2 s c v

end Sys2Proof.Laws
end

section
/-! SUPPORT. What contexts keep of themselves while blocks are squashed and a course is left (R32, R144, R146). -/

namespace Sys2Proof.Laws

open Sys2Proof Sys2Proof.Machine

variable {α β : Type} {g : Ctx → α} {s t u : State}

/-- Every context in its place shows the same of itself in both states. -/
def Shows (g : Ctx → α) (s t : State) : Prop := ∀ d, g (ctxAt t d) = g (ctxAt s d)

theorem Shows.refl (s : State) : Shows g s s := fun _ => rfl

theorem Shows.trans (h : Shows g s t) (h' : Shows g t u) : Shows g s u := fun d => (h' d).trans (h d)

/-- What is a part of what they show, they show. -/
theorem Shows.part (h : Shows g s t) (p : α → β) : Shows (fun x => p (g x)) s t := fun d => congrArg p (h d)

theorem shows_ite {p : Prop} [Decidable p] (h : Shows g s t) (h' : Shows g s u) : Shows g s (if p then t else u) := by
  split
  · exact h
  · exact h'

theorem shows_foldl {f : State → β → State} (hf : ∀ b s, Shows g s (f s b)) (l : List β) (s : State) :
    Shows g s (l.foldl f s) := by
  induction l generalizing s with
  | nil => exact .refl s
  | cons b l ih => exact (hf b s).trans (ih _)

theorem shows_modCtx (s : State) (c : CtxId) {f : Ctx → Ctx} (h : ∀ x, g (f x) = g x) : Shows g s (modCtx s c f) := by
  intro d
  by_cases hd : d = c
  · subst hd
    rw [ctxAt_modCtx_self, h]
  · rw [ctxAt_modCtx_other _ _ hd]

theorem shows_modPart (s : State) (d p : Nat) (f : Part → Part) : Shows g s (modPart s d p f) := fun _ => rfl

theorem shows_modThread (s : State) (t : Thread) {f : Ctx → Ctx} (h : ∀ x, g (f x) = g x) : Shows g s (modThread s t f) := by
  unfold modThread modThreadCore
  cases t.aside with
  | none => exact shows_modCtx s t.c h
  | some n => exact shows_modPart s _ _ _

theorem shows_modMate (s : State) (c : CtxId) (k : Nat) {f : Ctx → Ctx} (h : ∀ x, g (f x) = g x) :
    Shows g s (modMate s c k f) := shows_modThread s _ h

theorem shows_setReserved (s : State) (l : Loc) (f : Nat → Nat) : Shows g s (setReserved s l f) := by
  cases l with
  | pa a v => exact fun _ => rfl
  | spad k o => exact fun d => congrArg g (ctxAt_modCore_keeps s k d fun _ => rfl)
  | _ => exact .refl s

/-! ## Squashing -/

/-- What no squash changes of a context. -/
def lasting (x : Ctx) : Ctx :=
  { x with frames := [], pinned := none, utoks := [], walk := none, log := [], watch := none, reserved := false, fwd := [],
           lexits := [] }

theorem shows_releaseTags (s : State) (c : CtxId) (fr : Frame) (sel : Tag → Bool) : Shows lasting s (releaseTags s c fr sel) := by
  unfold releaseTags
  extract_lets queued units spawns waits freed mine live handles watch
  have hqueued : Shows lasting s queued := shows_ite (.refl s) fun _ => rfl
  have hunits : Shows lasting s units := hqueued.trans (shows_foldl (fun _ s => shows_setReserved s _ _) _ _)
  have hspawns : Shows lasting s spawns := by
    refine hunits.trans (shows_foldl (fun p s => ?_) _ _)
    split
    · exact shows_modCtx s _ fun _ => rfl
    · exact .refl s
  have hhandles : Shows lasting s handles := shows_ite (hspawns.trans (shows_modPart _ _ _ _)) hspawns
  have hwatch : Shows lasting s watch := by
    refine hhandles.trans (shows_modCtx _ c fun x => ?_)
    cases x.watch with
    | none => rfl
    | some w =>
      dsimp only
      split
      · rfl
      · rfl
  exact hwatch.trans (shows_modPart _ _ _ _)

theorem shows_finishWalk (s : State) (c : CtxId) : Shows lasting s (finishWalk s c) := by
  unfold finishWalk
  split
  · exact .refl s
  · have hw : Shows lasting s (modCtx s c (fun x => { x with walk := none })) := shows_modCtx s c fun _ => rfl
    dsimp only
    split
    · exact hw
    · refine hw.trans (.trans ?_ (shows_modCtx _ c fun _ => ?_))
      · exact fun _ => rfl
      · rfl

theorem shows_squashFrom (s : State) (c : CtxId) (n : Nat) : Shows lasting s (squashFrom s c n) := by
  unfold squashFrom
  dsimp only
  refine .trans (t := _) ?_ (shows_modCtx _ c fun _ => rfl)
  exact (shows_ite (shows_finishWalk s c) (.refl s)).trans (shows_foldl (fun fr s => shows_releaseTags s c fr _) _ _)

theorem shows_dropMember (c : CtxId) (pos : Nat) (old : Option Nat → Bool) (s : State) (k : Nat) :
    Shows lasting s (dropMember c pos old s k) := by
  unfold dropMember
  refine .trans (t := _) ?_ (shows_modMate _ c k fun _ => rfl)
  exact shows_ite (shows_squashFrom s _ _) (.refl s)

theorem shows_squashCourse (s : State) (c : CtxId) (n : Nat) : Shows lasting s (squashCourse s c n) := by
  unfold squashCourse
  dsimp only
  split
  · exact (shows_squashFrom s c n).trans (shows_foldl (fun k s => shows_dropMember c _ _ s k) _ _)
  · exact shows_squashFrom s c n

/-- A squash leaves what a context is in its course. -/
theorem Shows.course (h : Shows lasting s t) (d : CtxId) : (ctxAt t d).course = (ctxAt s d).course := by
  change (lasting (ctxAt t d)).course = (lasting (ctxAt s d)).course
  rw [h d]

/-! ## Leaving a course -/

/-- Whether a context runs, and whether it is stopped. -/
def stopping (x : Ctx) : CtxState × Bool := (x.st, x.stopped)

/-- No byte and no register changes, no context starts and none is stopped: what a change of courses leaves. -/
structure Steady (s t : State) : Prop where
  quiet : Quiet anyFrames s t
  shows : Shows stopping s t

theorem Steady.refl (s : State) : Steady s s := ⟨.refl s, .refl s⟩

theorem Steady.trans (h : Steady s t) (h' : Steady t u) : Steady s u := ⟨h.quiet.trans h'.quiet, h.shows.trans h'.shows⟩

theorem steady_ite {p : Prop} [Decidable p] (h : Steady s t) (h' : Steady s u) : Steady s (if p then t else u) := by
  split
  · exact h
  · exact h'

theorem steady_foldl {f : State → β → State} (hf : ∀ b s, Steady s (f s b)) (l : List β) (s : State) :
    Steady s (l.foldl f s) :=
  ⟨quiet_foldl (fun b _ s => (hf b s).quiet) s, shows_foldl (fun b s => (hf b s).shows) l s⟩

theorem steady_modCtx (s : State) (c : CtxId) {f : Ctx → Ctx} (h : ∀ x, stopping (f x) = stopping x) : Steady s (modCtx s c f) :=
  ⟨quiet_modCtx s c (.inl nofun), shows_modCtx s c h⟩

theorem steady_modMate (s : State) (c : CtxId) (k : Nat) {f : Ctx → Ctx} (hf : ∀ x, (f x).frames = x.frames)
    (h : ∀ x, stopping (f x) = stopping x) : Steady s (modMate s c k f) :=
  ⟨quiet_modMate s c k hf, shows_modMate s c k h⟩

theorem steady_squashFrom (s : State) (c : CtxId) (n : Nat) : Steady s (squashFrom s c n) :=
  ⟨quiet_squashFrom s n nofun, (shows_squashFrom s c n).part fun x => (x.st, x.stopped)⟩

theorem steady_squashCourse (s : State) (c : CtxId) (n : Nat) : Steady s (squashCourse s c n) :=
  ⟨quiet_squashCourse s n nofun fun _ _ => nofun, (shows_squashCourse s c n).part fun x => (x.st, x.stopped)⟩

theorem steady_followExit (s : State) (c : CtxId) (n : Nat) (target : Word) : Steady s (followExit s c n target) := by
  refine steady_ite (.refl s) ?_
  split
  · exact .refl s
  · exact steady_ite (.refl s) (steady_squashCourse s c _)

theorem steady_inheritExits (lead : Nat) (y : Ctx) (s : State) (k : Nat) : Steady s (inheritExits lead y s k) :=
  steady_modMate s _ k (fun _ => rfl) fun _ => rfl

theorem steady_takeLead (s : State) (d : CtxId) (k : Nat) (fs : List Nat) : Steady s (takeLead s d k fs) := by
  unfold takeLead
  extract_lets out c y
  have hout : ∀ s, Steady s (out s) := fun s => steady_modMate s d k (fun _ => rfl) fun _ => rfl
  refine steady_ite ((hout s).trans (steady_foldl (fun f s => ?_) fs _)) ?_
  · exact steady_modMate s d f (fun _ => rfl) fun _ => rfl
  · refine (((steady_squashFrom s c _).trans (hout _)).trans (steady_foldl (fun f s => steady_inheritExits k _ s f) fs _)).trans
      (steady_foldl (fun n s => ?_) _ _)
    split
    · exact steady_followExit s c n _
    · exact .refl s

theorem steady_leaveCourse (s : State) (c : CtxId) (into : CourseState) : Steady s (leaveCourse s c into) := by
  unfold leaveCourse
  extract_lets x out
  have hout : ∀ s, Steady s (out s) := fun s => steady_modCtx s c fun _ => rfl
  split
  · split
    · exact hout s
    · exact (hout s).trans (steady_takeLead _ c _ _)
  · exact (hout s).trans (steady_ite (.refl _) (steady_modMate _ c _ (fun _ => rfl) fun _ => rfl))
  · exact steady_modCtx s c fun _ => rfl
  · exact .refl s

/-! ## Halting -/

/-- A halted context is Parked and stopped (R192), whatever becomes of its course. -/
theorem haltContext_stops (s : State) (c : CtxId) :
    (ctxAt (haltContext s c) c).st = .parked ∧ (ctxAt (haltContext s c) c).stopped = true := by
  have h : stopping (ctxAt (haltContext s c) c) = (.parked, true) := by
    unfold haltContext
    rw [(steady_leaveCourse _ c .solo).shows c, ctxAt_modCtx_self]
    rfl
  exact Prod.mk.inj h

theorem quiet_releaseAsyncs {C : Scope} (s : State) (c : CtxId) : Quiet C s (releaseAsyncs s c) := by
  unfold releaseAsyncs
  dsimp only
  refine .trans ?_ (quiet_slotRecords _ c _)
  exact quiet_modCtx s c (.inr fun _ => rfl)

theorem quiet_haltContext (s : State) (c : CtxId) : Quiet anyFrames s (haltContext s c) := by
  unfold haltContext
  refine .trans (.trans (quiet_releaseAsyncs s c) ?_) (steady_leaveCourse _ c .solo).quiet
  exact quiet_modCtx _ c (.inr fun _ => rfl)

/-- R192: taking an exception changes no byte and no register. -/
theorem quiet_stopContext (s : State) (c : CtxId) (r : RecordArgs) : Quiet anyFrames s (stopContext s c r) :=
  ((steady_squashCourse s c 0).quiet.trans (quiet_slotRecords _ c _)).trans (quiet_haltContext _ c)

end Sys2Proof.Laws
end

section
/-! SUPPORT. The front end: a granted frame, a filled line, a mapped block, a muster, a gated brick (R121, R128 to R134, R142, R147). -/

namespace Sys2Proof.Laws

open Sys2Proof Sys2Proof.Machine

variable {s t : State} {c : CtxId} {n : Nat} {fr : Frame}

theorem exec_frameGrant (c : CtxId) (pr : Option Word) (s : State) : exec (.frameGrant c pr) s = execFrameGrant c pr s := rfl
theorem exec_blockFetchFill (c : CtxId) (line : Word) (s : State) :
    exec (.blockFetchFill c ⟨line, none⟩) s = .next (fillNext s c line) := rfl
theorem exec_blockFetchFill_drop (c : CtxId) (line : Word) (k : Nat) (s : State) :
    exec (.blockFetchFill c ⟨line, some k⟩) s
      = .next (fillNext (modCore s c.core (fun q => { q with bcache := q.bcache.eraseIdx k })) c line) := rfl
theorem exec_blockMap (c : CtxId) (s : State) : exec (.blockMap c) s = execBlockMap c s := rfl
theorem exec_brickGate (core brick : Nat) (s : State) : exec (.brickGate core brick) s = execBrickGate core brick s := rfl

/-! ## Frame grants (R129, R130) -/

/-- Every context of a core is changed alike. -/
theorem ctxAt_mapCtxs (s : State) (k : Nat) {f : Ctx → Ctx} (hf : f Ctx.blank = Ctx.blank) (d : CtxId) :
    ctxAt (modCore s k (fun q => { q with ctxs := q.ctxs.map (fun e => (e.1, f e.2)) })) d
      = if d.core = k then f (ctxAt s d) else ctxAt s d := by
  unfold ctxAt
  rw [coreAt_modCore]
  split
  · next h =>
    subst h
    exact tabGet_map_value hf _ _
  · rfl

/-- A change of the contexts of a core alone. -/
theorem ctxsOnly_ctxs (s : State) (k : Nat) (f : Tab Ctx → Tab Ctx) :
    CtxsOnly s (modCore s k (fun q => { q with ctxs := f q.ctxs })) := by
  have hk : ∀ q, coreAt (modCore s k (fun q => { q with ctxs := f q.ctxs })) q
      = { coreAt s q with ctxs := (coreAt (modCore s k (fun q => { q with ctxs := f q.ctxs })) q).ctxs } := fun q => by
    rw [coreAt_modCore]
    split
    · subst q
      rfl
    · rfl
  exact ⟨sameMemory_of rfl rfl rfl fun q => by rw [hk], hk⟩

theorem CtxsOnly.regs (h : CtxsOnly s t) : SameRegs s t := fun k => by
  rw [h.cores]
  exact ⟨rfl, rfl⟩

theorem sameRegs_trans {u : State} (h : SameRegs s t) (h' : SameRegs t u) : SameRegs s u :=
  fun k => ⟨(h' k).1.trans (h k).1, (h' k).2.trans (h k).2⟩

theorem endYields_cases (s : State) (core : Nat) : endYields s core = s ∨ endYields s core
    = modCore s core (fun k => { k with ctxs := k.ctxs.map (fun e => (e.1, { e.2 with yielding := false })) }) := by
  unfold endYields
  dsimp only
  split
  · exact .inl rfl
  · exact .inr rfl

theorem ctxsOnly_endYields (s : State) (core : Nat) : CtxsOnly s (endYields s core) := by
  rcases endYields_cases s core with h | h
  · rw [h]
    exact .refl s
  · rw [h]
    exact ctxsOnly_ctxs s core (fun l => l.map (fun e => (e.1, { e.2 with yielding := false })))

/-- The end of yielding leaves a context's frames and its ready bit. -/
theorem endYields_keeps (s : State) (core : Nat) (d : CtxId) :
    (ctxAt (endYields s core) d).frames = (ctxAt s d).frames ∧ (ctxAt (endYields s core) d).ready = (ctxAt s d).ready := by
  rcases endYields_cases s core with h | h
  · rw [h]
    exact ⟨rfl, rfl⟩
  · rw [h, ctxAt_mapCtxs s core (f := fun x => { x with yielding := false }) rfl]
    split
    · exact ⟨rfl, rfl⟩
    · exact ⟨rfl, rfl⟩

/-- A frame granted to a context, behind those it has. -/
def granted (s : State) (c : CtxId) (fr : Frame) : State :=
  modCore (modCtx s c (fun x => { x with frames := x.frames ++ [fr], ready := false, fetchStop := none })) c.core
    (fun k => { k with lastGrant := c.ctx })

theorem ctxAt_granted (s : State) (c : CtxId) (fr : Frame) :
    ctxAt (granted s c fr) c = { ctxAt s c with frames := (ctxAt s c).frames ++ [fr], ready := false, fetchStop := none } := by
  rw [granted, ctxAt_modCore_keeps, ctxAt_modCtx_self]
  exact fun _ => rfl

theorem quiet_granted (s : State) (c : CtxId) (fr : Frame) : Quiet anything s (granted s c fr) :=
  (quiet_modCtx s c (.inl trivial)).trans (quiet_modCore _ c.core
    ⟨fun _ => rfl, fun _ => rfl, fun _ => rfl, fun _ => rfl, fun _ => rfl, fun _ => rfl⟩ (.inl trivial))

/-- R130: the frame that is granted is unmapped, at its address and in its position. -/
theorem grantFrame_eq (s : State) (c : CtxId) (addr : Word) :
    ∃ fr, grantFrame s c addr = endYields (granted s c fr) c.core ∧ fr.addr = addr
      ∧ fr.mapped = false ∧ fr.fired = [] ∧ fr.pos = nextPos (ctxAt s c)
      ∧ fr.member = memberFor s c (nextPos (ctxAt s c)) ∧ fr.follows = ((ctxAt s c).course == .follower) :=
  ⟨_, rfl, rfl, rfl, rfl, rfl, rfl, rfl⟩

/-- What a grant leaves of the context and its core, whoever's yield ends with it. -/
theorem endYields_granted (s : State) (c : CtxId) (fr : Frame) :
    let t := endYields (granted s c fr) c.core
    (ctxAt t c).frames = (ctxAt s c).frames ++ [fr] ∧ (ctxAt t c).ready = false ∧ (coreAt t c.core).lastGrant = c.ctx
      ∧ SameMemory s t ∧ SameRegs s t := by
  have hy := ctxsOnly_endYields (granted s c fr) c.core
  have hq := quiet_granted s c fr
  obtain ⟨hframes, hready⟩ := endYields_keeps (granted s c fr) c.core c
  rw [ctxAt_granted] at hframes hready
  refine ⟨hframes, hready, ?_, SameMemory.trans hq.memory hy.memory, sameRegs_trans hq.regs hy.regs⟩
  rw [hy.cores, granted, coreAt_modCore_self]

theorem frameGrant_grants {pr : Option Word} {addr : Word} (ha : nextAddress s c pr = some addr)
    (ht : grantTurn s c pr = some c.ctx) (hr : framesOn s c.core (memberFor s c (nextPos (ctxAt s c))) < 8) :
    exec (.frameGrant c pr) s = .next (grantFrame s c addr) := by
  simp only [exec_frameGrant, execFrameGrant, ha, ht, ne_eq, not_true_eq_false, if_false, hr, if_true]

/-! ## Fetch (R128, R132) -/

theorem fillNext_mapped {line : Word} (h : mappingFrame (ctxAt s c) = none) : fillNext s c line = s := by
  simp only [fillNext, h]

/-- Where the line named is the one the front end needs next, the fill is its fetch. -/
theorem fillNext_next {line p : Word} (hm : mappingFrame (ctxAt s c) = some n) (hf : frameAt s c n = some fr)
    (hn : nextLine s c fr = some p) (hk : fetchKey p = fetchKey line) :
    (∀ ws, fetchLine s (fetchWho s c fr) p = .ok ws → fillNext s c line = cacheLine s (fetchWho s c fr) p ws)
    ∧ ∀ e, fetchLine s (fetchWho s c fr) p = .error e → fillNext s c line = fetchFault s c n fr e := by
  have hfilter : (nextLine s c fr).filter (fun p => fetchKey p = fetchKey line) = some p := by
    rw [hn, Option.filter_some]
    exact if_pos (decide_eq_true hk)
  exact ⟨fun ws hw => by simp only [fillNext, hm, hf, hfilter, hw], fun e he => by simp only [fillNext, hm, hf, hfilter, he]⟩

theorem fetchPlace_of_fetchLine {w : Who} {p : Word} {ws : List Word} (h : fetchLine s w p = .ok ws) :
    ∃ key, fetchPlace s w p = .ok key := by
  unfold fetchLine at h
  split at h
  · cases h
  · next key hk => exact ⟨key, hk⟩

/-- The block cache with a line at a place: a full one gives up its oldest line (R121). -/
def bcacheWith (key : Nat) (ws : List Word) (b : List (Nat × List Word)) : List (Nat × List Word) :=
  let others := b.filter (fun e => e.1 ≠ key)
  others.drop (others.length + 1 - bcacheLines) ++ [(key, ws)]

theorem cacheLine_eq {w : Who} {p : Word} {key : Nat} (h : fetchPlace s w p = .ok key) (ws : List Word) :
    cacheLine s w p ws = modCore s w.core (fun k => { k with bcache := bcacheWith key ws k.bcache }) := by
  simp only [cacheLine, h, bcacheWith]

theorem find_bcacheWith (key : Nat) (ws : List Word) (b : List (Nat × List Word)) :
    (bcacheWith key ws b).find? (fun e => e.1 = key) = some (key, ws) := by
  have hnone : ((b.filter (fun e => e.1 ≠ key)).drop ((b.filter (fun e => e.1 ≠ key)).length + 1 - bcacheLines)).find?
      (fun e => e.1 = key) = none :=
    List.find?_eq_none.mpr fun e he => by simpa using (List.mem_filter.mp (List.mem_of_mem_drop he)).2
  simp only [bcacheWith, List.find?_append, hnone, Option.none_or, List.find?_cons, decide_true]

theorem length_bcacheWith (key : Nat) (ws : List Word) (b : List (Nat × List Word)) :
    (bcacheWith key ws b).length ≤ bcacheLines := by
  simp only [bcacheWith, List.length_append, List.length_drop, List.length_singleton, bcacheLines]
  omega

/-- R128: a line that has entered the block cache stands there. -/
theorem cachedLine_cacheLine {w : Who} {p : Word} {ws : List Word} (h : fetchLine s w p = .ok ws) :
    cachedLine (cacheLine s w p ws) w p = some ws := by
  obtain ⟨key, hk⟩ := fetchPlace_of_fetchLine h
  rw [cacheLine_eq hk]
  have hk' : fetchPlace (modCore s w.core (fun k => { k with bcache := bcacheWith key ws k.bcache })) w p = .ok key := hk
  simp only [cachedLine, hk', coreAt_modCore_self, find_bcacheWith, Option.map_some]

theorem length_bcache_cacheLine (s : State) (w : Who) (p : Word) (ws : List Word) {k : Nat}
    (h : (coreAt s k).bcache.length ≤ bcacheLines) : (coreAt (cacheLine s w p ws) k).bcache.length ≤ bcacheLines := by
  cases hp : fetchPlace s w p with
  | error e => simpa only [cacheLine, hp] using h
  | ok key =>
    rw [cacheLine_eq hp, coreAt_modCore]
    split
    · exact length_bcacheWith _ _ _
    · exact h

theorem frames_squashFrom (s : State) (c : CtxId) (n : Nat) :
    (ctxAt (squashFrom s c n) c).frames = (ctxAt s c).frames.take n := by
  unfold squashFrom
  dsimp only
  rw [ctxAt_modCtx_self]
  have hfin : Quiet (fun _ => False) s (if n = 0 then finishWalk s c else s) := quiet_ite (quiet_finishWalk s c) (Quiet.refl s)
  have hrel := hfin.trans (quiet_foldl (l := (ctxAt (if n = 0 then finishWalk s c else s) c).frames.drop n)
    (fun fr _ s => quiet_releaseTags s c fr (fun _ => true)) _)
  exact congrArg (List.take n) (hrel.frames c id)

theorem quiet_fetchFault (s : State) (c : CtxId) (n : Nat) (fr : Frame) (e : AccFault) :
    Quiet anyFrames s (fetchFault s c n fr e) :=
  quiet_ite (quiet_stopContext s c _) ((quiet_squashFrom s n nofun).trans (quiet_modCtx _ c (.inr fun _ => rfl)))

/-- R132: a demand fetch that faults stops its context, a speculative one takes its block and what is younger away. -/
theorem fetchFault_spec (s : State) (c : CtxId) (n : Nat) (fr : Frame) (e : AccFault) :
    (n = 0 → (ctxAt (fetchFault s c n fr e) c).st = .parked ∧ (ctxAt (fetchFault s c n fr e) c).stopped = true)
    ∧ (n ≠ 0 → (ctxAt (fetchFault s c n fr e) c).frames = (ctxAt s c).frames.take n)
    ∧ SameMemory s (fetchFault s c n fr e) ∧ SameRegs s (fetchFault s c n fr e) := by
  have hq := quiet_fetchFault s c n fr e
  refine ⟨fun h => ?_, fun h => ?_, hq.memory, hq.regs⟩
  · rw [fetchFault, if_pos h]
    exact haltContext_stops _ c
  · rw [fetchFault, if_neg h, ctxAt_modCtx_self]
    exact frames_squashFrom s c n

/-! ## Mapping (R128, R134, R142) -/

theorem blockMap_faults {e : AccFault} (hm : mappingFrame (ctxAt s c) = some n) (hf : frameAt s c n = some fr)
    (hg : gatherImage s c fr = some (.error e)) : exec (.blockMap c) s = .next (fetchFault s c n fr e) := by
  simp only [exec_blockMap, execBlockMap, hm, hf, hg]

theorem blockMap_maps {image : List Word} (hm : mappingFrame (ctxAt s c) = some n) (hf : frameAt s c n = some fr)
    (hg : gatherImage s c fr = some (.ok image)) (hu : musters s c { fr with image := image } = false)
    (hr : (ctxAt s c).course = .leader → ∀ k ∈ followersOf s c.core, followerRoom s c fr.pos k = true) :
    exec (.blockMap c) s = .next (mapImage s c n { fr with image := image }) := by
  have hroom : ((ctxAt s c).course != .leader || (followersOf s c.core).all (followerRoom s c fr.pos)) = true := by
    by_cases hl : (ctxAt s c).course = .leader
    · rw [List.all_eq_true.mpr (hr hl), Bool.or_true]
    · simp [hl]
  simp only [exec_blockMap, execBlockMap, hm, hf, hg, hu, hroom, Bool.not_false, if_true]

theorem blockMap_musters {image : List Word} (hm : mappingFrame (ctxAt s c) = some 0) (hf : frameAt s c 0 = some fr)
    (hg : gatherImage s c fr = some (.ok image)) (hu : musters s c { fr with image := image } = true) :
    exec (.blockMap c) s = .next (arriveMuster s c fr.addr) := by
  simp only [exec_blockMap, execBlockMap, hm, hf, hg, hu, Bool.not_true, Bool.false_eq_true, if_false, if_true]

theorem quiet_forwardTo {C : Scope} (c : CtxId) (pos : Nat) (addr : Word) (image : List Word) (s : State) {k : Nat}
    (h : C (some ⟨k, 0⟩)) : Quiet C s (forwardTo c pos addr image s k) :=
  quiet_ite (Quiet.refl s) ((quiet_dropMember c pos _ s h).trans (quiet_modMate _ c k fun _ => rfl))

/-- R142: forwarding an image changes frames of other cores alone. -/
theorem quiet_forwardImage (s : State) (c : CtxId) (fr : Frame) : Quiet (otherCores c) s (forwardImage s c fr) :=
  quiet_ite (quiet_foldl (fun _ hk s => quiet_forwardTo c fr.pos fr.addr fr.image s ⟨_, rfl, mem_followersOf hk⟩) s) (Quiet.refl s)

theorem quiet_wakeBricks {C : Scope} (s : State) (core : Nat) (fr : Frame) : Quiet C s (wakeBricks s core fr) := by
  unfold wakeBricks
  dsimp only
  exact quiet_modCore s core ⟨fun _ => rfl, fun _ => rfl, fun _ => rfl, fun _ => rfl, fun _ => rfl, fun _ => rfl⟩ (.inr fun _ => ⟨rfl, rfl⟩)

/-- A block that begins is mapped in its frame. -/
theorem beginFrame_spec {g : Frame} (hf : frameAt s c n = some g) (fr : Frame) :
    (∃ fr', frameAt (beginFrame s c n fr) c n = some fr' ∧ fr'.mapped = true) ∧ Quiet anything s (beginFrame s c n fr) := by
  unfold beginFrame
  extract_lets x shared start s1
  have hrest : Quiet (otherCores c) s1 (wakeBricks (forwardImage s1 c fr) (execCore c fr s1) fr) :=
    (quiet_forwardImage s1 c fr).trans (quiet_wakeBricks _ _ fr)
  have hown : frameAt s1 c n = (frameAt s c n).map (fun _ => begun { start with shared := shared }) := by
    unfold frameAt s1
    rw [ctxAt_modCtx_self]
    simp [listSet]
  refine ⟨⟨begun { start with shared := shared }, ?_, rfl⟩, (quiet_modCtx s c (.inl trivial)).trans hrest.wide⟩
  rw [hrest.frameAt otherCores_own, hown, hf, Option.map_some]

/-- R54, R55, R128: a valid block is mapped, an invalid one keeps its frame with its one fault. -/
theorem mapImage_spec {g : Frame} (hf : frameAt s c n = some g) (fr : Frame) :
    ∃ fr', frameAt (mapImage s c n fr) c n = some fr' ∧ SameMemory s (mapImage s c n fr) ∧ SameRegs s (mapImage s c n fr)
      ∧ (validate fr (regsPerCtx (coreAt s c.core).contexts) = none → fr'.mapped = true)
      ∧ ∀ v, validate fr (regsPerCtx (coreAt s c.core).contexts) = some v →
          fr'.mapped = fr.mapped ∧ fr'.faults = [invalidFault v] := by
  unfold mapImage
  cases validate fr (regsPerCtx (coreAt s c.core).contexts) with
  | none =>
    obtain ⟨⟨fr', hfr, hm⟩, hq⟩ := beginFrame_spec hf fr
    exact ⟨fr', hfr, hq.memory, hq.regs, fun _ => hm, nofun⟩
  | some v =>
    have hfwd := quiet_forwardImage (modFrame s c n (fun _ => { fr with faults := [invalidFault v] })) c fr
    have hq := (quiet_modFrame s (C := anything) n (fun _ => { fr with faults := [invalidFault v] }) trivial).trans hfwd.wide
    refine ⟨{ fr with faults := [invalidFault v] }, ?_, hq.memory, hq.regs, nofun, ?_⟩
    · rw [hfwd.frameAt otherCores_own, frameAt_modFrame_self, hf, Option.map_some]
    · rintro w ⟨⟩
      exact ⟨rfl, rfl⟩

/-! ## Musters (R147) -/

/-- A core of a course comes to a muster: its blocks are dropped, and it waits. -/
def comeToMuster (c : CtxId) (addr : Word) (s : State) (k : Nat) : State :=
  modMate (dropFrom c 0 s k) c k (fun x => { x with course := .waiting addr, lead := 0 })

/-- The cores that a member brings to a muster. -/
def broughtAlong (s : State) (c : CtxId) : List Nat := if (ctxAt s c).course == .leader then followersOf s c.core else []

theorem mem_broughtAlong {k : Nat} (h : k ∈ broughtAlong s c) : (ctxAt s c).course = .leader ∧ k ∈ followersOf s c.core := by
  unfold broughtAlong at h
  split at h
  · next hl => exact ⟨eq_of_beq hl, h⟩
  · cases h

theorem arriveMuster_together {addr : Word} (h : (ctxAt s c).course = .leader →
    ∀ k ∈ followersOf s c.core, (mateAt s c k).pos = (ctxAt s c).pos) :
    arriveMuster s c addr = (c.core :: broughtAlong s c).foldl (comeToMuster c addr) s := by
  have hpos : ¬ (broughtAlong s c).any (fun k => (mateAt s c k).pos ≠ (ctxAt s c).pos) = true := by
    simp only [List.any_eq_true, decide_eq_true_eq, not_exists, not_and, not_not]
    intro k hk
    obtain ⟨hl, hf⟩ := mem_broughtAlong hk
    exact h hl k hf
  exact if_neg hpos

/-- A context is its own mate, in its place. -/
theorem mate_self (s : State) {c : CtxId} (h : c.ctx = 0) : mate s c c.core = ⟨c, (ctxAt s c).part, none⟩ := by
  have hc : (⟨c.core, 0⟩ : CtxId) = c := by rw [← h]
  simp [mate, threadWhere, hc]

theorem modMate_self (s : State) {c : CtxId} (h : c.ctx = 0) (f : Ctx → Ctx) : modMate s c c.core f = modCtx s c f := by
  rw [modMate, mate_self s h]
  rfl

theorem ctxAt_modMate_other (s : State) (c : CtxId) {k : Nat} (f : Ctx → Ctx) (h : k ≠ c.core) :
    ctxAt (modMate s c k f) c = ctxAt s c := by
  have hne : c ≠ (mate s c k).c := fun e => h (congrArg CtxId.core e).symm
  unfold modMate modThread modThreadCore
  cases (mate s c k).aside with
  | none => exact ctxAt_modCtx_other s f hne
  | some n => rfl

theorem frames_dropFrom_self (s : State) {c : CtxId} (h : c.ctx = 0) : (ctxAt (dropFrom c 0 s c.core) c).frames = [] := by
  have hc : (⟨c.core, 0⟩ : CtxId) = c := by rw [← h]
  have hkeep : ((ctxAt s c).frames.takeWhile (fun f => decide (f.pos < 0))).length = 0 := by
    cases (ctxAt s c).frames <;> rfl
  unfold dropFrom dropMember
  simp only [mate_self s h, Option.isNone_none, if_true, hc, hkeep]
  rw [modMate_self _ h, ctxAt_modCtx_self]
  dsimp only
  rw [frames_squashFrom, List.take_zero]

/-- A context waits at a muster, without a block. -/
def Mustering (c : CtxId) (addr : Word) (s : State) : Prop := (ctxAt s c).course = .waiting addr ∧ (ctxAt s c).frames = []

theorem mustering_comeToMuster (addr : Word) (s : State) {c : CtxId} (h : c.ctx = 0) :
    Mustering c addr (comeToMuster c addr s c.core) := by
  unfold Mustering comeToMuster
  rw [modMate_self _ h, ctxAt_modCtx_self]
  exact ⟨rfl, frames_dropFrom_self s h⟩

/-- It waits on while another core of its course comes. -/
theorem Mustering.comeToMuster {addr : Word} (h : Mustering c addr s) {k : Nat} (hk : k ≠ c.core) :
    Mustering c addr (comeToMuster c addr s k) := by
  obtain ⟨hcourse, hframes⟩ := h
  unfold Mustering Laws.comeToMuster
  rw [ctxAt_modMate_other _ c _ hk]
  have hshow : (ctxAt (dropFrom c 0 s k) c).course = (ctxAt s c).course := (shows_dropMember c 0 _ s k).course c
  have hquiet : Quiet (otherCores c) s (dropFrom c 0 s k) := quiet_dropMember c 0 _ s ⟨_, rfl, hk⟩
  exact ⟨hshow.trans hcourse, (hquiet.frames c otherCores_own).trans hframes⟩

theorem Mustering.foldl {addr : Word} {ks : List Nat} (hk : ∀ k ∈ ks, k ≠ c.core) (h : Mustering c addr s) :
    Mustering c addr (ks.foldl (Laws.comeToMuster c addr) s) := by
  induction ks generalizing s with
  | nil => exact h
  | cons k ks ih =>
    exact ih (fun q hq => hk q (List.mem_cons_of_mem _ hq)) (h.comeToMuster (hk k (List.mem_cons_self ..)))

theorem quiet_comeToMuster (c : CtxId) (addr : Word) (s : State) (k : Nat) : Quiet anyFrames s (comeToMuster c addr s k) :=
  (quiet_dropMember c 0 _ s nofun).trans (quiet_modMate _ c k fun _ => rfl)

/-- R147: a member whose followers stand where it stands arrives with them. -/
theorem arriveMuster_spec {addr : Word} (h0 : c.ctx = 0) (h : (ctxAt s c).course = .leader →
    ∀ k ∈ followersOf s c.core, (mateAt s c k).pos = (ctxAt s c).pos) :
    (ctxAt (arriveMuster s c addr) c).course = .waiting addr ∧ (ctxAt (arriveMuster s c addr) c).frames = []
      ∧ SameMemory s (arriveMuster s c addr) ∧ SameRegs s (arriveMuster s c addr) := by
  rw [arriveMuster_together h]
  obtain ⟨hcourse, hframes⟩ := (mustering_comeToMuster addr s h0).foldl fun k hk => mem_followersOf (mem_broughtAlong hk).2
  have hq : Quiet anyFrames s ((c.core :: broughtAlong s c).foldl (comeToMuster c addr) s) :=
    quiet_foldl (fun k _ s => quiet_comeToMuster c addr s k) s
  exact ⟨hcourse, hframes, hq.memory, hq.regs⟩

/-! ## Brick gating (R134) -/

theorem brickGate_gates {core brick : Nat} (hb : brick < 16) (hg : (coreAt s core).noGate = false)
    (hidle : ∀ j e fr, e ∈ (coreAt s j).ctxs → fr ∈ e.2.frames → fr.mapped = true → execCore ⟨j, e.1⟩ fr s = core →
      ∀ n ∈ indices fr, n % 16 ≠ brick) :
    exec (.brickGate core brick) s = .next (modCore s core (fun k => { k with gated := k.gated ||| (1#16 <<< brick) })) := by
  have hheld : (coreNums s).any (fun j => (coreAt s j).ctxs.any (fun e => e.2.frames.any (fun fr =>
      fr.mapped && execCore ⟨j, e.1⟩ fr s = core && (indices fr).any (fun n => n % 16 = brick)))) = false := by
    simp only [List.any_eq_false, Bool.and_eq_true, decide_eq_true_eq, List.any_eq_true, not_and, not_exists, and_imp]
    exact fun j _ e he fr hfr hm hx n hn => hidle j e fr he hfr hm hx n hn
  rw [exec_brickGate, execBrickGate, hheld, hg]
  simp [Nat.not_le.mpr hb]

end Sys2Proof.Laws
end

section
/-! CERTIFICATES. The front end (R121, R128 to R130, R132 to R134, R142, R147). -/

namespace Sys2Proof.Laws

open Sys2Proof Sys2Proof.Machine

/-- Settles O53: each event is one operation of the front end, whose frame, block cache or contexts its lemma gives. -/
theorem frontEndEvents : Obligations.FrontEndEvents := by
  refine ⟨fun s c pr addr ha ht hr => ?_, fun s c k line hm => ?_, fun s c n fr line p hm hf hn hk => ?_,
    fun s c n fr hm hf => ⟨fun image hg hu hr => ?_, fun e hg => ?_, fun image hg hu h0 hc hp => ?_⟩,
    fun s core brick hb hg hidle => brickGate_gates hb hg hidle⟩
  -- a grant
  · obtain ⟨fr, hgrant, haddr, hmap, hfired, hpos, hmember, hfollows⟩ := grantFrame_eq s c addr
    obtain ⟨hframes, hready, hlast, hmem, hregs⟩ := endYields_granted s c fr
    exact ⟨_, fr, (frameGrant_grants ha ht hr).trans (congrArg _ hgrant), hframes, haddr, hmap, hfired, hpos, hmember, hfollows,
      hready, hlast, hmem, hregs⟩
  -- a line leaves the block cache
  · have hctx : ctxAt (modCore s c.core (fun q => { q with bcache := q.bcache.eraseIdx k })) c = ctxAt s c :=
      ctxAt_modCore_keeps s c.core c fun _ => rfl
    rw [exec_blockFetchFill_drop, fillNext_mapped (by rw [hctx]; exact hm)]
  -- a fill
  · obtain ⟨hok, herr⟩ := fillNext_next hm hf hn hk
    rw [exec_blockFetchFill]
    refine ⟨fun ws hw => ⟨_, congrArg _ (hok ws hw), ?_⟩, fun e he => ⟨_, congrArg _ (herr e he), fetchFault_spec s c n fr e⟩⟩
    have hq : Quiet anything s (cacheLine s (fetchWho s c fr) p ws) := quiet_cacheLine _ _ _ _
    exact ⟨cachedLine_cacheLine hw, fun k => length_bcache_cacheLine s _ p ws, hq.memory, hq.regs⟩
  -- a block that is mapped, or fails validation
  · obtain ⟨fr', hspec⟩ := mapImage_spec hf { fr with image := image }
    exact ⟨_, fr', blockMap_maps hm hf hg hu hr, hspec⟩
  -- a line that may no longer be fetched
  · exact ⟨_, blockMap_faults hm hf hg, fetchFault_spec s c n fr e⟩
  -- a muster
  · subst h0
    exact ⟨_, blockMap_musters hm hf hg hu, arriveMuster_spec hc hp⟩

end Sys2Proof.Laws
end

section
/-! SUPPORT. A context that parks while an arena of its die searches for it: the squash of its blocks logs the search (R122, R130,
R335). -/

namespace Sys2Proof.Laws

open Sys2Proof Sys2Proof.Machine

/-- A mapped block without a word, one instruction of which waits for an answer. -/
def waitingFrame : Frame := { idleFrame with waiting := [(1, .iter 0)] }

/-- The searcher runs a block that waits for an answer, and its search has read nothing yet. -/
def waitingSearcher : State := modCtx searching searcher (fun x => { x with frames := [waitingFrame] })

theorem waitingSearcher_waits : (ctxAt waitingSearcher searcher).frames = [waitingFrame]
    ∧ (ctxAt waitingSearcher searcher).st = .running ∧ waitingFrame.mapped = true ∧ waitingFrame.waiting ≠ []
    ∧ dueFaults waitingFrame = [] ∧ frameActive waitingSearcher searcher waitingFrame 0 = false
    ∧ blockComplete waitingSearcher searcher waitingFrame = false
    ∧ iterationDone waitingSearcher searcher waitingFrame = false
    ∧ (ctxAt waitingSearcher searcher).log.length = 0 := by decide +kernel

theorem park_logs : searcherLogged (exec (.contextPark searcher) waitingSearcher) = 1 := by decide +kernel

end Sys2Proof.Laws
end

section
/-! CERTIFICATES. Parking, waking, repartition, musters and phases (R122, R124, R147, R177, R264). -/

namespace Sys2Proof.Laws

open Sys2Proof Sys2Proof.Machine

/-- Refutes O55: a context that parks while its search of an arena is under way gets the search's result into its replay log; the
statement says that the log stays as it is, and excludes no such search. -/
theorem not_contextEvents : ¬ Obligations.ContextEvents := by
  intro h
  obtain ⟨hfr, hst, hm, hw, hd, ha, hb, hi, hlen⟩ := waitingSearcher_waits
  obtain ⟨hctx, -⟩ := h
  obtain ⟨hpark, -⟩ := hctx waitingSearcher searcher
  obtain ⟨t, hx, -, hlog, -⟩ := hpark waitingFrame [] hfr hst hm hw hd ha hb hi
  have hone := park_logs
  rw [hx] at hone
  rw [← hlog] at hlen
  exact absurd (hone.symm.trans hlen) (by decide)

end Sys2Proof.Laws
end

section
/-! SUPPORT. The counts of lines: what a renewed lease leaves of them, and the reservation of a unit (R165, R274, R293). -/

namespace Sys2Proof.Laws

open Sys2Proof Sys2Proof.Machine

variable {s t u : State}

/-- No slice line changes, and no count of a scratchpad line. -/
structure SameCounts (s t : State) : Prop where
  l2 : t.l2 = s.l2
  spadCnt : ∀ k, (coreAt t k).spadCnt = (coreAt s k).spadCnt

theorem SameCounts.refl (s : State) : SameCounts s s := ⟨rfl, fun _ => rfl⟩

theorem SameCounts.trans (h : SameCounts s t) (h' : SameCounts t u) : SameCounts s u :=
  ⟨h'.l2.trans h.l2, fun k => (h'.spadCnt k).trans (h.spadCnt k)⟩

theorem SameCounts.countAt (h : SameCounts s t) (l : Loc) : countAt t l = countAt s l := by
  cases l with
  | pa a va => simp only [Machine.countAt, l2At, h.l2]
  | spad k o => simp only [Machine.countAt, h.spadCnt]
  | _ => rfl

theorem sameCounts_ite {p : Prop} [Decidable p] (h : SameCounts s t) (h' : SameCounts s u) :
    SameCounts s (if p then t else u) := by
  split
  · exact h
  · exact h'

theorem sameCounts_foldl {β : Type} {f : State → β → State} (hf : ∀ s b, SameCounts s (f s b)) (l : List β) (s : State) :
    SameCounts s (l.foldl f s) := by
  induction l generalizing s with
  | nil => exact .refl s
  | cons b l ih => exact (hf s b).trans (ih _)

theorem sameCounts_modDie (s : State) (d : Nat) (f : Die → Die) : SameCounts s (modDie s d f) :=
  ⟨rfl, fun _ => rfl⟩

theorem sameCounts_modPart (s : State) (d p : Nat) (f : Part → Part) : SameCounts s (modPart s d p f) := sameCounts_modDie s d _

theorem sameCounts_modCore (s : State) (n : Nat) {f : Core → Core} (hf : ∀ k, (f k).spadCnt = k.spadCnt) :
    SameCounts s (modCore s n f) := by
  refine ⟨rfl, fun k => ?_⟩
  rw [coreAt_modCore]
  split
  · subst k
    exact hf _
  · rfl

theorem sameCounts_clean (s : State) (n : Nat) (g : Core → Tab Wide) :
    SameCounts s (modCore s n (fun q => { q with clean := g q })) :=
  sameCounts_modCore s n fun _ => rfl

theorem sameCounts_modFrame (s : State) (c : CtxId) (n : Nat) (f : Frame → Frame) : SameCounts s (modFrame s c n f) :=
  ⟨rfl, fun k => by rw [modFrame, coreAt_modCtx]⟩

/-! ## Leases (R293) -/

theorem sameCounts_dropSpan (s : State) (die part core lo hi : Nat) : SameCounts s (dropSpan s die part core lo hi) := by
  refine sameCounts_foldl (fun s k => ?_) _ s
  split
  · exact sameCounts_foldl (fun s _ => sameCounts_clean s _ _) _ s
  · exact .refl s

theorem sameCounts_rebasePart (slice home excess die part : Nat) (s : State) :
    SameCounts s (rebasePart slice home excess die part s) := by
  unfold rebasePart
  refine .trans (sameCounts_modPart s die part _) (sameCounts_foldl (fun s h => sameCounts_foldl (fun s t => ?_) _ s) _ _)
  exact sameCounts_ite (sameCounts_dropSpan s die part _ h.lo h.hi) (SameCounts.refl s)

theorem sameCounts_rebaseLeases (s : State) (die slice excess : Nat) : SameCounts s (rebaseLeases s die slice excess) :=
  sameCounts_foldl (fun s _ => sameCounts_foldl (fun s _ => sameCounts_rebasePart _ _ _ _ _ s) _ s) _ s

theorem sameCounts_newLease (s : State) (die slice len : Nat) : SameCounts s (newLease s die slice len).1 := by
  unfold newLease
  dsimp only
  generalize tabGet 0 (dieAt s die).leaseNow slice + len - (tabGet 0 (dieAt s die).leaseBase slice + 65535) = excess
  exact sameCounts_ite (SameCounts.refl s) ((sameCounts_modDie s die _).trans (sameCounts_rebaseLeases _ die slice _))

theorem sameCounts_renewLeases (s : State) (w : Who) (ls : List Loc) : SameCounts s (renewLeases s w ls) := by
  unfold renewLeases
  dsimp only
  refine sameCounts_ite (.refl s) (sameCounts_foldl (fun s h => ?_) _ s)
  exact (sameCounts_newLease s h.die h.slice _).trans (sameCounts_modPart _ _ _ _)

/-! ## A unit reserved (R274) -/

/-- A line that has a count is one of GEN or of a scratchpad, whose reserved units can be changed. -/
theorem countAt_setReserved {l : Loc} (f : Nat → Nat) (h : (countAt s l).1 ≠ 0) :
    countAt (setReserved s l f) l = ((countAt s l).1, f (countAt s l).2) := by
  cases l with
  | pa a va => simp only [countAt, setReserved, l2At_modL2_self]
  | spad k o => simp only [countAt, setReserved, coreAt_modCore_self, tabGet_tabSet_self]
  | _ => exact absurd rfl h

end Sys2Proof.Laws
end

section
/-! SUPPORT. A consuming load at its line: refused, waiting, or served (R165, R274). -/

namespace Sys2Proof.Laws

open Sys2Proof Sys2Proof.Machine

variable {s : State} {f : LFields} {fr : Frame} {p : Word} {ls : List Loc} {l : Loc} {i : Instr}

theorem exec_ldRc (f : LFields) (s : State) : exec (.ldRc f) s = execLdRc f s := rfl

/-- A consuming load whose address passes its checks and that need not wait goes to its line. -/
theorem exec_ldRc_checked {a b c : Token} (hf : frameAt s s.focus.c s.focus.frame = some fr)
    (hr : readiness (.ldRc f) s = .go a b c) (hp : p = addrOf (word a.value 0) (offsetOf f)) (hb : basicCheck p = none)
    (hfmt : formatCheck f.ty p = none) (hpath : ptrPath p = pathGEN ∨ ptrPath p = pathSPAD)
    (hl : locate s (whoAt s) .write p (accessSize f.ty) = .ok ls) (h64 : ptrAddr p % 64 + accessSize f.ty ≤ 64)
    (hh : holdLoad s fr f.lsid.toNat = false) (hs : syncHeld s fr (.ldRc f) = false) :
    exec (.ldRc f) s = .next (consumeAt (.ldRc f) f s p ls) := by
  have hserves : (decide (ptrPath p ≠ pathGEN) && decide (ptrPath p ≠ pathSPAD)) = false := by
    rcases hpath with h | h
    all_goals simp [h]
  have hwaits : (some fr).any (fun fr => holdLoad s fr f.lsid.toNat || syncHeld s fr (.ldRc f)) = false := by
    rw [Option.any_some, hh, hs]
    rfl
  rw [exec_ldRc, execLdRc, fire_go hr]
  dsimp only
  rw [← hp, hb]
  dsimp only
  rw [hfmt]
  dsimp only
  rw [hserves, hl]
  dsimp only
  rw [if_neg Bool.false_ne_true, if_neg (Nat.not_lt.mpr h64), hf, hwaits, if_neg Bool.false_ne_true]

/-! ## The outcomes at the line -/

theorem firstLoc_of_head (hl : ls.head? = some l) : firstLoc ls = l := by
  cases ls with
  | nil => cases hl
  | cons x xs => exact Option.some.inj hl

section
variable (hf : frameAt s s.focus.c s.focus.frame = some fr) (hl : ls.head? = some l)
include hf hl

theorem consumeAt_notCounted {e : AccFault} (he : notCounted (partAt s (whoAt s).die (whoAt s).part) l p = some e)
    (ho : isOldest fr s.focus.frame s.focus.tag = true) :
    consumeAt i f s p ls = faulted e.cls e.cause e.addr e.arg (rcServed s fr) := by
  simp only [consumeAt, hf, firstLoc_of_head hl, he, ho, if_true]
  rfl

variable (hc : notCounted (partAt s (whoAt s).die (whoAt s).part) l p = none) (hd : fillDue s l = false)
include hc hd

theorem consumeAt_overRead (hn : (countAt s l).1 ≤ (countAt s l).2) (ho : isOldest fr s.focus.frame s.focus.tag = true) :
    ∃ arg, consumeAt i f s p ls = faulted clsOverRead 0x01 p arg (rcServed s fr) := by
  simp only [consumeAt, hf, firstLoc_of_head hl, hc, hd, hn, ho, Bool.false_eq_true, if_false, if_true]
  exact ⟨_, rfl⟩

theorem consumeAt_waits (hn : (countAt s l).1 ≤ (countAt s l).2 + aheadAt s fr l)
    (ho : (countAt s l).1 ≤ (countAt s l).2 → ¬ isOldest fr s.focus.frame s.focus.tag = true) :
    consumeAt i f s p ls = rcWait s fr l := by
  have hahead : (countAt s l).1 - (countAt s l).2 ≤ aheadAt s fr l := by omega
  simp only [consumeAt, hf, firstLoc_of_head hl, hc, hd, hahead, Bool.false_eq_true, if_false, if_true]
  split
  · next h => rw [if_neg (ho h)]
  · rfl

end

/-! ## A load that is served -/

/-- Its unit is reserved, it waits at its line no longer, and cached leases are renewed. -/
def unitTaken (s : State) (fr : Frame) (l : Loc) (ls : List Loc) : State :=
  renewLeases (setReserved (rcServed s fr) l (· + 1)) (whoAt s) ls

/-- The load is recorded with its unit and its bytes, as it fires. -/
def unitLoaded (f : LFields) (s : State) (fr : Frame) (l : Loc) (ls : List Loc) : State :=
  modFrame (unitTaken s fr l ls) s.focus.c s.focus.frame (fun fr =>
    { fr with reserved := fr.reserved ++ [(s.focus.tag, l)]
              loads := fr.loads ++ [⟨s.focus.idx, f.lsid.toNat, s.focus.tag, ls, siteBytes s f true ls⟩] })

theorem rcServed_queue (s : State) (fr : Frame) : ∃ q, rcServed s fr = { s with rcQueue := q } := by
  unfold rcServed
  split
  · exact ⟨s.rcQueue, rfl⟩
  · exact ⟨_, rfl⟩

theorem quiet_rcServed {C : Scope} (s : State) (fr : Frame) : Quiet C s (rcServed s fr) := by
  obtain ⟨q, h⟩ := rcServed_queue s fr
  rw [h]
  exact quiet_outside rfl rfl rfl rfl rfl rfl

theorem sameCounts_rcServed (s : State) (fr : Frame) : SameCounts s (rcServed s fr) := by
  obtain ⟨q, h⟩ := rcServed_queue s fr
  rw [h]
  exact ⟨rfl, fun _ => rfl⟩

theorem quiet_unitTaken (s : State) (fr : Frame) (l : Loc) (ls : List Loc) : Quiet anyL1 s (unitTaken s fr l ls) :=
  ((quiet_rcServed s fr).trans (quiet_setReserved _ l _)).trans (quiet_renewLeases _ _ ls)

theorem quiet_unitLoaded (f : LFields) (s : State) (fr : Frame) (l : Loc) (ls : List Loc) :
    Quiet anything s (unitLoaded f s fr l ls) :=
  (quiet_unitTaken s fr l ls).wide.trans (quiet_modFrame _ _ _ trivial)

theorem frameAt_unitLoaded (hf : frameAt s s.focus.c s.focus.frame = some fr) :
    frameAt (unitLoaded f s fr l ls) s.focus.c s.focus.frame = some { fr with
      reserved := fr.reserved ++ [(s.focus.tag, l)]
      loads := fr.loads ++ [⟨s.focus.idx, f.lsid.toNat, s.focus.tag, ls, siteBytes s f true ls⟩] } := by
  rw [unitLoaded, frameAt_modFrame_self, (quiet_unitTaken s fr l ls).frameAt nofun, hf]
  rfl

theorem countAt_unitLoaded (h : (countAt s l).1 ≠ 0) :
    countAt (unitLoaded f s fr l ls) l = ((countAt s l).1, (countAt s l).2 + 1) := by
  have hserved := (sameCounts_rcServed s fr).countAt l
  have hrest : SameCounts (setReserved (rcServed s fr) l (· + 1)) (unitLoaded f s fr l ls) :=
    (sameCounts_renewLeases _ _ ls).trans (sameCounts_modFrame _ _ _ _)
  rw [hrest.countAt l, countAt_setReserved _ (by rwa [hserved]), hserved]

theorem consumeAt_serves (hf : frameAt s s.focus.c s.focus.frame = some fr) (hl : ls.head? = some l)
    (hc : notCounted (partAt s (whoAt s).die (whoAt s).part) l p = none) (hd : fillDue s l = false)
    (hn : (countAt s l).2 + aheadAt s fr l < (countAt s l).1) (hp : poisonAt s (whoAt s) true ls = none) :
    consumeAt i f s p ls = keepOrder (fired i { r0 := some (loadToken f.ty (siteBytes s f true ls)), effs := [.consume l p] }
        (unitLoaded f s fr l ls)) (whoAt s) s.focus.frame s.focus.tag f.lsid.toNat true (ls.zip (siteBytes s f true ls)) := by
  have hleft : ¬ (countAt s l).1 ≤ (countAt s l).2 := by omega
  have hahead : ¬ (countAt s l).1 - (countAt s l).2 ≤ aheadAt s fr l := by omega
  have hclean : poisonedLine s (whoAt s) true (ls.zip (bytePtrs p ls.length)) = none :=
    poisonedLine_eq_none_iff.mpr (by rw [map_fst_zip_bytePtrs rfl]; exact hp)
  have hfocus : (renewLeases (setReserved (rcServed s fr) l (· + 1)) (whoAt s) ls).focus = s.focus :=
    (quiet_unitTaken s fr l ls).focus
  unfold consumeAt
  simp only [hf, firstLoc_of_head hl, hc, hd, hleft, hahead, hclean, hfocus, modFrame_focus, Bool.false_eq_true, if_false]
  rfl

/-- A served load delivers the bytes of its places. -/
theorem takesLoad_of_served (hf : frameAt s s.focus.c s.focus.frame = some fr)
    (hx : exec i s = .next (keepOrder (fired i { r0 := some (loadToken f.ty (siteBytes s f true ls)), effs := [.consume l p] }
        (unitLoaded f s fr l ls)) (whoAt s) s.focus.frame s.focus.tag f.lsid.toNat true (ls.zip (siteBytes s f true ls)))) :
    TakesLoad i f s ls (loadToken f.ty) [.consume l p] (unitLoaded f s fr l ls) := by
  have hleft := quiet_unitLoaded f s fr l ls
  have hfired := quiet_fired (C := anything) i { r0 := some (loadToken f.ty (siteBytes s f true ls)), effs := [.consume l p] }
    (unitLoaded f s fr l ls) trivial
  have hall := hleft.trans (hfired.trans (quiet_keepOrder _ (whoAt s) s.focus.frame s.focus.tag
    f.lsid.toNat true (ls.zip (siteBytes s f true ls))).wide)
  unfold TakesLoad
  simp only [List.isEmpty_cons, Bool.not_false, Bool.or_true]
  refine ⟨hx, hall.memory, hall.regs, hleft.focus, fun fr' hf' => ⟨_, frameAt_unitLoaded hf, ?_⟩⟩
  obtain rfl := Option.some.inj (hf.symm.trans hf')
  exact ⟨rfl, rfl, rfl, rfl⟩

/-- A line that is not counted refuses with NOT-COUNTED. -/
theorem cls_notCounted {part : Part} {e : AccFault} (h : notCounted part l p = some e) : e.cls = clsNotCounted := by
  unfold notCounted at h
  split at h
  · cases h
    rfl
  · split at h
    · cases h
      rfl
    · cases h

end Sys2Proof.Laws
end

section
/-! CERTIFICATES. Consuming loads (R165, R274). -/

namespace Sys2Proof.Laws

open Sys2Proof Sys2Proof.Machine

/-- Settles O32: a load that passes its checks goes to its line, which refuses it, lets it wait, or serves it. -/
theorem consumingLoads : Obligations.ConsumingLoads := by
  intro f s fr a b c ls l p oldest hf hr hb hfmt hpath hloc h64 hh hs hl hd
  have hx := exec_ldRc_checked hf hr rfl hb hfmt hpath hloc h64 hh hs
  refine ⟨fun hc => ⟨fun hn hp => ?_, fun hn ho => ?_, fun hn ho => ?_⟩, fun e he ho => ⟨cls_notCounted he, ?_⟩⟩
  · rw [consumeAt_serves hf hl hc hd hn hp] at hx
    exact ⟨_, takesLoad_of_served hf hx, countAt_unitLoaded (by omega)⟩
  · obtain ⟨arg, harg⟩ := consumeAt_overRead (i := .ldRc f) (f := f) hf hl hc hd hn ho
    exact ⟨arg, by rw [hx, harg]⟩
  · rw [hx, consumeAt_waits hf hl hc hd hn ho]
  · rw [hx, consumeAt_notCounted hf hl he ho]

end Sys2Proof.Laws
end

section
/-! SUPPORT. The context that a SPAWN takes, the word that a WAITA waits on, and the thread that a RETT resumes (R175, R185,
R189, R211). -/

namespace Sys2Proof.Laws

open Sys2Proof Sys2Proof.Machine

variable {f : GFields} {s : State} {a b c : Token}

theorem exec_spawn (f : GFields) (s : State) : exec (.spawn f) s = execSpawn f s := rfl
theorem exec_waita (f : GFields) (s : State) : exec (.waita f) s = execWaita f s := rfl
theorem exec_rett (f : GFields) (s : State) : exec (.rett f) s = execRett f s := rfl

/-! ## SPAWN -/

theorem coreReserved_eq_false_iff {core : Nat} :
    coreReserved s core = false ↔ ∀ q ∈ (dieAt s (dieOf core)).parts, ∀ r ∈ q.2.reserve, core ∉ r.cores := by
  simp only [coreReserved, List.any_eq_false, Option.any_eq_true, not_exists, not_and, List.contains_iff_mem]
  rfl

theorem freeContext_iff {core n : Nat} : freeContext s core n = true ↔ CanStart s core n := by
  have hres := coreReserved_eq_false_iff (s := s) (core := core)
  simp only [freeContext, CanStart, coreEnabled, Bool.and_eq_true, Bool.not_eq_true', decide_eq_true_eq, Bool.or_eq_true,
    beq_iff_eq, hres]
  tauto

/-- The core that a SPAWN names: the one it fires on, or one of its partition (R175). -/
theorem spawnCore_named {d core self : Nat} {c : CtxId} (hs : d.testBit 8 = true → core = self)
    (hn : ¬ d.testBit 8 = true → field d 3 5 < cfgSize (partOf s c).cfg ∧ core = coreNamed s c (field d 3 5) (field d 0 3)) :
    spawnCore s c self d = some core := by
  unfold spawnCore
  by_cases h : d.testBit 8 = true
  · rw [if_pos h, hs h]
  · obtain ⟨hin, hcore⟩ := hn h
    rw [if_neg h, if_pos (by simpa [clusterIn] using hin), hcore]

theorem spawnCore_outside {d self : Nat} {c : CtxId} (hs : ¬ d.testBit 8 = true)
    (hc : cfgSize (partOf s c).cfg ≤ field d 3 5) : spawnCore s c self d = none := by
  rw [spawnCore, if_neg hs, if_neg (by simpa [clusterIn] using hc)]

theorem spawnTarget_starts {c : CtxId} {core d n : Nat} (hr : field d 14 3 ≤ (ctxAt s c).rank) (hn : CanStart s core n)
    (hctx : ¬ d.testBit 13 = true → n = field d 9 4)
    (hany : d.testBit 13 = true → n < 16 ∧ ∀ m, m < n → ¬ CanStart s core m) :
    spawnTarget s c core d = some ⟨core, n⟩ := by
  have hnum : (if d.testBit 13 then (List.range 16).find? (freeContext s core) else some (field d 9 4)) = some n := by
    by_cases h : d.testBit 13 = true
    · obtain ⟨hlt, hleast⟩ := hany h
      rw [if_pos h, List.find?_range_eq_some]
      exact ⟨freeContext_iff.mpr hn, List.mem_range.mpr hlt, fun m hm => by
        simpa using fun hf => hleast m hm (freeContext_iff.mp hf)⟩
    · rw [if_neg h, hctx h]
  unfold spawnTarget
  dsimp only
  rw [hnum]
  simp only [hr, freeContext_iff.mpr hn, decide_true, Bool.and_self, if_true]

theorem spawnTarget_refused {c : CtxId} {core d : Nat}
    (h : (ctxAt s c).rank < field d 14 3 ∨ (¬ d.testBit 13 = true ∧ ¬ CanStart s core (field d 9 4))
      ∨ (d.testBit 13 = true ∧ ∀ n, n < 16 → ¬ CanStart s core n)) : spawnTarget s c core d = none := by
  have hno : ∀ {n}, (if d.testBit 13 then (List.range 16).find? (freeContext s core) else some (field d 9 4)) = some n →
      ¬ (field d 14 3 ≤ (ctxAt s c).rank ∧ freeContext s core n = true) := by
    rintro n hn ⟨hr, hf⟩
    rcases h with h | ⟨hany, hc⟩ | ⟨hany, hc⟩
    · exact absurd hr (Nat.not_le.mpr h)
    · rw [if_neg hany] at hn
      exact hc (Option.some.inj hn ▸ freeContext_iff.mp hf)
    · rw [if_pos hany] at hn
      exact hc n (List.mem_range.mp (List.mem_of_find?_eq_some hn)) (freeContext_iff.mp hf)
  unfold spawnTarget
  dsimp only
  split
  · rfl
  · next n hn =>
    rw [if_neg]
    simpa using hno hn

section
variable (hr : readiness (.spawn f) s = .go a b c) (hc : basicCheck (word a.value 0) = none)
  (h128 : ptrAddr (word a.value 0) % 128 = 0) (hp : ptrPath (word a.value 0) ∈ [0, 2, 3])

theorem spawnCheck_passes {p : Word} (h : ptrPath p ∈ [0, 2, 3]) :
    (decide (ptrPath p = 1) || decide (4 ≤ ptrPath p)) = false := by
  simp only [List.mem_cons, List.not_mem_nil, or_false] at h
  rcases h with h | h | h
  all_goals rw [h]; rfl

include hr hc h128 hp

theorem spawn_border (hcore : spawnCore s s.focus.c (whoAt s).core (word b.value 0).toNat = none) :
    exec (.spawn f) s = .next (faulted clsPartitionBorder 0x01 0 (word b.value 0) s) := by
  rw [exec_spawn, execSpawn, fire_go hr]
  simp only [hc, h128, spawnCheck_passes hp, siteCore, hcore, ne_eq, not_true_eq_false, Bool.false_eq_true, if_false]
  rfl

theorem spawn_refused {core : Nat} (hcore : spawnCore s s.focus.c (whoAt s).core (word b.value 0).toNat = some core)
    (ht : spawnTarget s s.focus.c core (word b.value 0).toNat = none) :
    DeliversWord (.spawn f) s (BitVec.allOnes 64) := by
  unfold DeliversWord DeliversValue
  rw [exec_spawn, execSpawn, fire_go hr]
  simp only [hc, h128, spawnCheck_passes hp, siteCore, hcore, ht, ne_eq, not_true_eq_false, Bool.false_eq_true, if_false]
  rfl

/-- The name that a SPAWN delivers of a context (R175). -/
def spawnName (s : State) (t : CtxId) : Token :=
  let name := relName s (dieOf t.core) (ctxAt s s.focus.c).part t.core
  scalar (BitVec.ofNat 64 (t.ctx * 2 ^ 9 + name.1 * 2 ^ 3 + name.2))

theorem spawn_starts {core n : Nat} (hcore : spawnCore s s.focus.c (whoAt s).core (word b.value 0).toNat = some core)
    (ht : spawnTarget s s.focus.c core (word b.value 0).toNat = some ⟨core, n⟩) :
    exec (.spawn f) s = .next (fired (.spawn f) { r0 := some (spawnName s ⟨core, n⟩), r1 := some (spawnName s ⟨core, n⟩), effs :=
        [.spawn ⟨core, n⟩ (word a.value 0) c.value (field (word b.value 0).toNat 14 3)] }
      (modCtx s ⟨core, n⟩ (fun x => { x with reserved := true }))) := by
  rw [exec_spawn, execSpawn, fire_go hr]
  simp only [hc, h128, spawnCheck_passes hp, siteCore, hcore, ht, ne_eq, not_true_eq_false, Bool.false_eq_true, if_false]
  rfl

end

/-! ## WAITA -/

/-- The poisoned line that an access at its homes names is the line of a byte that is poisoned there. -/
theorem poisonedHome_eq_none {at_ : List (Loc × Word)} (h : poisonHome s (at_.map (·.1)) = none) : poisonedHome s at_ = none := by
  obtain ⟨meets, hm⟩ : ∃ meets : Loc → Bool, ∀ ls, poisonHome s ls = ls.find? meets := ⟨_, fun _ => rfl⟩
  unfold poisonedHome firstPoisoned
  simp only [hm, List.find?_map, Option.map_eq_none_iff] at h ⊢
  cases s.poison.isEmpty with
  | true => rfl
  | false => simpa [List.find?_singleton, Option.isSome_ite] using h

/-- The watch that a WAITA armed goes when it is answered. -/
def disarmed (t : Site) (x : Ctx) : Ctx :=
  match x.watch with
  | some w => if w.idx = t.idx && w.tag == t.tag then { x with watch := none } else x
  | none => x

theorem frames_disarmed (t : Site) (x : Ctx) : (disarmed t x).frames = x.frames := by
  unfold disarmed
  split
  · split
    · rfl
    · rfl
  · rfl

section
variable {ls : List Loc} (hr : readiness (.waita f) s = .go a b c) (hc : basicCheck (word a.value 0) = none)
  (hp : ptrPath (word a.value 0) ≤ 1) (h8 : ptrAddr (word a.value 0) % 8 = 0)
  (hl : locate s (whoAt s) .read (word a.value 0) 8 = .ok ls) (hn : readPending s = false) (hh : poisonHome s ls = none)

theorem waitaCheck_passes {p : Word} (hp : ptrPath p ≤ 1) (h8 : ptrAddr p % 8 = 0) :
    (decide (1 < ptrPath p) || decide (ptrAddr p % 8 ≠ 0)) = false := by
  simp [h8, hp]

theorem poisonedHome_of_clean {p : Word} (hl : locate s (whoAt s) .read p 8 = .ok ls) (hh : poisonHome s ls = none) :
    poisonedHome s (ls.zip (bytePtrs p 8)) = none :=
  poisonedHome_eq_none (by rw [map_fst_zip_bytePtrs (length_locateFrom hl)]; exact hh)

include hr hc hp h8 hl hn hh

theorem waita_answers (hv : coherentWord s (whoAt s) ls ≠ (word b.value 0).toNat) :
    exec (.waita f) s = .next (answered (.waita f) (some (BitVec.ofNat 512 (coherentWord s (whoAt s) ls)))
      (BitVec.ofNat 64 (coherentWord s (whoAt s) ls)) (modCtx (squashLater s s.focus.c) s.focus.c (disarmed s.focus))) := by
  rw [exec_waita, execWaita, fire_go hr]
  simp only [hc, waitaCheck_passes hp h8, hl, hn, poisonedHome_of_clean hl hh, ne_eq, hv, not_false_eq_true, Bool.false_eq_true,
    if_false, if_true]
  rfl

theorem waita_waits (hv : coherentWord s (whoAt s) ls = (word b.value 0).toNat) (hw : (ctxAt s s.focus.c).watch = none) :
    exec (.waita f) s = .next (awaiting (modCtx s s.focus.c (fun x =>
      { x with watch := some ⟨firstLoc ls, s.focus.idx, s.focus.tag⟩ }))) := by
  rw [exec_waita, execWaita, fire_go hr]
  simp only [hc, waitaCheck_passes hp h8, hl, hn, poisonedHome_of_clean hl hh, ne_eq, hv, hw, not_true_eq_false,
    Bool.false_eq_true, if_false]

end

/-! ## RETT -/

theorem rettStatus_eq (s : State) (c t : CtxId) : rettStatus s c t
    = if (ctxAt s c).rank ≤ (threadAt s (stoppedThread s c t)).rank then 2
      else if (threadAt s (stoppedThread s c t)).stopped = true ∧ c ∈ (threadAt s (stoppedThread s c t)).handlers
        ∧ (threadAt s (stoppedThread s c t)).rettHold = none then 0 else 1 := by
  simp [rettStatus, stoppedFor, and_assoc]

/-- The result of an irrevocable instruction enters the log of its context (R198). -/
def logAnswer (v : Nat) (s : State) : State :=
  modCtx s s.focus.c (fun x =>
    { x with log := x.log ++ [⟨s.focus.idx, s.focus.tag, some (BitVec.ofNat 512 v), BitVec.ofNat 64 v⟩] })

/-- What a RETT leaves but for its firing: its result logged, and with status 0 its thread held. -/
def rettLeft (s : State) (t : CtxId) : State :=
  let s' := logAnswer (rettStatus s s.focus.c t) s
  if rettStatus s s.focus.c t = 0 then
    modThread s' (stoppedThread s' s.focus.c t) (fun x => { x with rettHold := some s.focus.c })
  else s'

theorem exec_rett_go (hr : readiness (.rett f) s = .go a b c)
    (hc : field (word a.value 0).toNat 8 5 < cfgSize (partOf s s.focus.c).cfg) :
    exec (.rett f) s = .next (fired (.rett f)
      { r0 := some (scalar (BitVec.ofNat 64 (rettStatus s s.focus.c (rettTarget s s.focus.c (word a.value 0).toNat))))
        r1 := some (scalar (BitVec.ofNat 64 (rettStatus s s.focus.c (rettTarget s s.focus.c (word a.value 0).toNat))))
        effs := if rettStatus s s.focus.c (rettTarget s s.focus.c (word a.value 0).toNat) = 0 then
          [.rett (rettTarget s s.focus.c (word a.value 0).toNat)] else [] }
      (rettLeft s (rettTarget s s.focus.c (word a.value 0).toNat))) := by
  have hin : clusterIn s s.focus.c (field (word a.value 0).toNat 8 5) = true := by simpa [clusterIn] using hc
  rw [exec_rett, execRett]
  dsimp only
  split
  · next h _ => rw [hr] at h; cases h
  · rw [fire_go hr]
    simp only [hin, Bool.not_true, Bool.false_eq_true, if_false]
    rfl

/-- Where a thread stands whose context satisfies a test does not hang on what the test does not read of the contexts in their
places. -/
theorem threadWhere_congr {t : State} {part : Nat} {d : CtxId} {test : Ctx → Bool} (h : test (ctxAt t d) = test (ctxAt s d))
    (hd : t.dies = s.dies) : threadWhere t part d test = threadWhere s part d test := by
  unfold threadWhere partAt dieAt
  rw [h, hd]

theorem stoppedThread_logAnswer (v : Nat) (t : CtxId) :
    stoppedThread (logAnswer v s) s.focus.c t = stoppedThread s s.focus.c t := by
  have hshows : Shows (fun x => (x.part, stoppedFor s.focus.c x)) s (logAnswer v s) := shows_modCtx s _ fun _ => rfl
  have hpart : (ctxAt (logAnswer v s) s.focus.c).part = (ctxAt s s.focus.c).part := congrArg Prod.fst (hshows _)
  unfold stoppedThread
  rw [hpart]
  exact threadWhere_congr (congrArg Prod.snd (hshows _)) rfl

/-- A thread that stands aside is one of the saved cores. -/
theorem threadWhere_aside {part n : Nat} {d : CtxId} {test : Ctx → Bool} (h : (threadWhere s part d test).aside = some n) :
    n < (partAt s (dieOf d.core) part).saves.length := by
  unfold threadWhere at h
  dsimp only at h
  split at h
  · cases h
  · exact (List.findIdx?_eq_some_iff_findIdx_eq.mp h).1

/-- A thread in its place, or among the saved cores, holds what was made of it. -/
theorem threadAt_modThread_self {t : Thread} (g : Ctx → Ctx)
    (h : ∀ n, t.aside = some n → n < (partAt s (dieOf t.c.core) t.part).saves.length) :
    threadAt (modThread s t g) t = g (threadAt s t) := by
  obtain ⟨d, part, aside⟩ := t
  cases aside with
  | none => exact ctxAt_modCtx_self s d g
  | some n =>
    have hn := h n rfl
    simp only [threadAt, threadCore, modThread, modThreadCore, partAt_modPart_self, listSet, List.getElem?_modify_eq]
    rw [List.getElem?_eq_getElem hn]
    simp [ctxIn]

theorem quiet_rettLeft {C : Scope} (s : State) (t : CtxId) : Quiet C s (rettLeft s t) := by
  have hlog : Quiet C s (logAnswer (rettStatus s s.focus.c t) s) := quiet_modCtx s _ (.inr fun _ => rfl)
  exact quiet_ite (hlog.trans (quiet_modThread _ _ fun _ => rfl)) hlog

/-- A RETT that succeeds holds its thread. -/
theorem rettHold_rettLeft {t : CtxId} (h : rettStatus s s.focus.c t = 0) :
    (threadAt (rettLeft s t) (stoppedThread s s.focus.c t)).rettHold = some s.focus.c := by
  unfold rettLeft
  dsimp only
  rw [if_pos h, stoppedThread_logAnswer, threadAt_modThread_self]
  intro n hn
  exact threadWhere_aside (s := s) (d := t) hn

end Sys2Proof.Laws
end

section
/-! CERTIFICATES. SPAWN, WAITA and RETT (R175, R185, R189). -/

namespace Sys2Proof.Laws

open Sys2Proof Sys2Proof.Machine

/-- Settles O37: each instruction, its checks passed, goes by the context, the word or the thread that it names. -/
theorem contextResults : Obligations.ContextResults := by
  refine ⟨fun f s a b c hr hb h128 hp => ?_, fun f s a b c ls hr hb hp h8 hl hn hh => ?_, fun f s a b c hr hc => ?_⟩
  · refine ⟨fun hself hout => spawn_border hr hb h128 hp (spawnCore_outside hself hout),
      fun core hself hname => ⟨fun hno => ?_, fun n hrank hstart hctx hany => ?_⟩⟩
    · exact spawn_refused hr hb h128 hp (spawnCore_named hself hname) (spawnTarget_refused hno)
    · exact spawn_starts hr hb h128 hp (spawnCore_named hself hname) (spawnTarget_starts hrank hstart hctx hany)
  · refine ⟨fun hne => ?_, fun heq hw => waita_waits hr hb hp h8 hl hn hh heq hw⟩
    have hq : Quiet anyFrames s (modCtx (squashLater s s.focus.c) s.focus.c (disarmed s.focus)) :=
      (quiet_squashLater s _).trans (quiet_modCtx _ _ (.inr (frames_disarmed _)))
    exact ⟨_, waita_answers hr hb hp h8 hl hn hh hne, hq.focus, hq.memory⟩
  · have hx := exec_rett_go hr hc
    have hq : Quiet anything s (rettLeft s (rettTarget s s.focus.c (word a.value 0).toNat)) := quiet_rettLeft s _
    dsimp only
    rw [← rettStatus_eq]
    exact ⟨_, hx, hq.focus, hq.memory, hq.regs, rettHold_rettLeft⟩

end Sys2Proof.Laws
end

section
/-! SUPPORT. The message classes of a core, and the oldest message of one (R180, R183, R264, R265). -/

namespace Sys2Proof.Laws

open Sys2Proof Sys2Proof.Machine

variable {f : GFields} {s : State} {a b c : Token}

theorem exec_bind (f : GFields) (s : State) : exec (.bind f) s = execBind f s := rfl
theorem exec_unbind (f : GFields) (s : State) : exec (.unbind f) s = execUnbind f s := rfl
theorem exec_recv (f : GFields) (s : State) : exec (.recv f) s = execRecv f s := rfl

/-- A small number as a logged result: the number in both of its widths. -/
theorem answers_number {i : Instr} {s' : State} {n : Nat} (hn : n < 2 ^ 64)
    (hx : exec i s = .next (answered i (some (BitVec.ofNat 512 n)) (BitVec.ofNat 64 n) s')) :
    Answers i s (BitVec.ofNat 64 n) s' := by
  have hw : (BitVec.ofNat 64 n).setWidth 512 = BitVec.ofNat 512 n := by
    apply BitVec.eq_of_toNat_eq
    rw [BitVec.toNat_setWidth, BitVec.toNat_ofNat, BitVec.toNat_ofNat, Nat.mod_eq_of_lt hn]
  rw [Answers, hw, hx]

/-! ## BIND and UNBIND -/

/-- A class that no context of the core has is the issuer's. -/
theorem bind_unbound (hr : readiness (.bind f) s = .go a b c)
    (hn : (coreAt s s.focus.c.core).bound.find? (·.1 = f.imm16.toNat % 32) = none) :
    Answers (.bind f) s 0
      (modCore s s.focus.c.core (fun k => { k with bound := k.bound ++ [(f.imm16.toNat % 32, s.focus.c.ctx)] })) := by
  refine answers_number (n := 0) (by decide) ?_
  rw [exec_bind, execBind, fire_go hr]
  simp only [hn]
  rfl

/-- A bound class stays with the context that has it. -/
theorem bind_bound {e : Nat × Nat} (hr : readiness (.bind f) s = .go a b c)
    (he : (coreAt s s.focus.c.core).bound.find? (·.1 = f.imm16.toNat % 32) = some e) :
    Answers (.bind f) s (if e.2 = s.focus.c.ctx then 0 else 1) s := by
  have hx : exec (.bind f) s = .next (answered (.bind f) (some (if e.2 = s.focus.c.ctx then 0 else 1))
      (if e.2 = s.focus.c.ctx then 0 else 1) s) := by
    rw [exec_bind, execBind, fire_go hr]
    simp only [he]
  by_cases h : e.2 = s.focus.c.ctx
  · rw [if_pos h]
    refine answers_number (n := 0) (by decide) ?_
    rw [hx, if_pos h, if_pos h]
    rfl
  · rw [if_neg h]
    refine answers_number (n := 1) (by decide) ?_
    rw [hx, if_neg h, if_neg h]
    rfl

theorem unbind_own (hr : readiness (.unbind f) s = .go a b c)
    (hm : (coreAt s s.focus.c.core).bound.contains (f.imm16.toNat % 32, s.focus.c.ctx) = true) :
    Answers (.unbind f) s 0 (modCore s s.focus.c.core
      (fun k => { k with bound := k.bound.filter (· != (f.imm16.toNat % 32, s.focus.c.ctx)) })) := by
  refine answers_number (n := 0) (by decide) ?_
  rw [exec_unbind, execUnbind, fire_go hr]
  simp only [hm, if_true]
  rfl

theorem unbind_other (hr : readiness (.unbind f) s = .go a b c)
    (hm : (coreAt s s.focus.c.core).bound.contains (f.imm16.toNat % 32, s.focus.c.ctx) = false) :
    Answers (.unbind f) s 2 s := by
  refine answers_number (n := 2) (by decide) ?_
  rw [exec_unbind, execUnbind, fire_go hr]
  simp only [hm, Bool.false_eq_true, if_false]
  rfl

/-! ## RECV -/

theorem takeMessage_nil {core cls : Nat} (h : tabGet [] (coreAt s core).queues cls = []) : takeMessage s core cls = none := by
  simp only [takeMessage, h]

theorem takeMessage_cons {core cls : Nat} {m : QMsg} {rest : List QMsg}
    (h : tabGet [] (coreAt s core).queues cls = m :: rest) :
    takeMessage s core cls = some (m, modCore s core (fun k => { k with queues := tabSet [] k.queues cls rest })) := by
  simp only [takeMessage, h]

/-- What RECV finds: the oldest message of its class, where its context has bound that. -/
def received (f : GFields) (s : State) : Option (QMsg × State) :=
  if (coreAt s s.focus.c.core).bound.contains (f.imm16.toNat % 32, s.focus.c.ctx) then
    takeMessage s s.focus.c.core (f.imm16.toNat % 32)
  else none

theorem recv_takes {m : QMsg} {s' : State} (hr : readiness (.recv f) s = .go a b c) (hp : readPending s = false)
    (h : received f s = some (m, s')) : exec (.recv f) s = .next (answered (.recv f) (some m.payload) m.header s') := by
  unfold received at h
  rw [exec_recv, execRecv, fire_go hr]
  simp only [hp, h, Bool.false_eq_true, if_false]

/-- Without a message RECV answers null where it may not block, and else spends the ready bit or parks (R122, R183). -/
theorem recv_empty (hr : readiness (.recv f) s = .go a b c) (hp : readPending s = false) (h : received f s = none) :
    exec (.recv f) s = .next (
      if f.imm16.getLsbD 8 || !(coreAt s s.focus.c.core).bound.contains (f.imm16.toNat % 32, s.focus.c.ctx) then
        answered (.recv f) none 0 s
      else if (ctxAt s s.focus.c).ready then modCtx s s.focus.c (fun x => { x with ready := false })
      else parkContext s s.focus.c) := by
  unfold received at h
  rw [exec_recv, execRecv, fire_go hr]
  simp only [hp, h, Bool.false_eq_true, if_false]

theorem parkContext_parks (s : State) (c : CtxId) : (ctxAt (parkContext s c) c).st = .parked := by
  rw [parkContext, ctxAt_modCtx_self]

end Sys2Proof.Laws
end

section
/-! CERTIFICATES. Binding, unbinding and receiving (R180, R183). -/

namespace Sys2Proof.Laws

open Sys2Proof Sys2Proof.Machine

/-- Settles O38: BIND and UNBIND by who has the class, RECV by what its queue holds. -/
theorem messageResults : Obligations.MessageResults := by
  intro f s a b c
  refine ⟨fun hr => ⟨bind_unbound hr, fun e he => bind_bound hr he⟩, fun hr => ⟨unbind_own hr, unbind_other hr⟩,
    fun hr hp => ⟨fun m rest hm hq => ?_, fun h => ?_, fun hm hq hb => ?_⟩⟩
  · exact recv_takes hr hp (by rw [received, hm, if_pos rfl, takeMessage_cons hq])
  · rcases h with hm | ⟨hq, hb⟩
    · rw [recv_empty hr hp (by rw [received, hm]; rfl), hm]
      simp
    · rw [recv_empty hr hp (by rw [received, takeMessage_nil hq, ite_self]), hb]
      simp
  · have hx := recv_empty hr hp (by rw [received, takeMessage_nil hq, ite_self])
    rw [hm, hb] at hx
    refine ⟨fun hready => ?_, fun hready => ⟨parkContext s s.focus.c, ?_, parkContext_parks _ _⟩⟩
    · rw [hx, hready]
      rfl
    · rw [hx, hready]
      rfl

end Sys2Proof.Laws
end

section
/-! SUPPORT. Threads in their place, and messages that enter a queue with room (R179, R182, R197). -/

namespace Sys2Proof.Laws

open Sys2Proof Sys2Proof.Machine

variable {s u : State} {t : Thread}

section
variable (h : t.aside = none)
include h

theorem threadCore_inPlace : threadCore s t = coreAt s t.c.core := by simp only [threadCore, h]

theorem modThreadCore_inPlace (f : Core → Core) : modThreadCore s t f = modCore s t.c.core f := by simp only [modThreadCore, h]

theorem threadAt_inPlace : threadAt s t = ctxAt s t.c := by
  rw [threadAt, threadCore_inPlace h]
  rfl

theorem modThread_inPlace (f : Ctx → Ctx) : modThread s t f = modCtx s t.c f := by
  rw [modThread, modThreadCore_inPlace h]
  rfl

end

/-! ## Entering a queue -/

/-- A context but for its ready bits. -/
def unready (x : Ctx) : Ctx := { x with ready := false, readyHeld := false }

/-- A message has entered the queue of a class of a core. The contexts keep all but their ready bits. -/
structure Enters (s u : State) (core cls : Nat) (m : QMsg) : Prop where
  queue : tabGet [] (coreAt u core).queues cls = tabGet [] (coreAt s core).queues cls ++ [m]
  arrived : (coreAt u core).arrived = (coreAt s core).arrived + 1
  ctxs : Shows unready s u

theorem Enters.ready {core cls : Nat} {m : QMsg} (he : Enters s u core cls m) (ht : t.aside = none) :
    Enters s (modThread u t setReady) core cls m := by
  rw [modThread_inPlace ht]
  refine ⟨?_, ?_, he.ctxs.trans (shows_modCtx u t.c fun _ => rfl)⟩
  · rw [coreAt_modCtx]
    exact he.queue
  · rw [coreAt_modCtx]
    exact he.arrived

theorem enters_queued (s : State) (core cls : Nat) (m : QMsg) :
    Enters s (modCore (modCore s core (fun k =>
        { k with queues := tabSet [] k.queues cls (tabGet [] (coreAt s core).queues cls ++ [m]) })) core (fun k =>
          { k with arrived := k.arrived + 1 })) core cls m := by
  refine ⟨?_, ?_, fun d => ?_⟩
  · rw [coreAt_modCore_self, coreAt_modCore_self]
    exact tabGet_tabSet_self _ _ _ _
  · rw [coreAt_modCore_self, coreAt_modCore_self]
  · refine congrArg unready (.trans (ctxAt_modCore_keeps _ core d ?_) (ctxAt_modCore_keeps s core d ?_))
    · exact fun _ => rfl
    · exact fun _ => rfl

/-- A message enters a queue that has room, where no spill area takes the class's messages (R182, R206). -/
theorem enqueue_room {cls : Nat} {payload : Wide} {header : Word} (ht : t.aside = none)
    (ha : areaIn (coreAt s t.c.core) cls = none) (hq : (tabGet [] (coreAt s t.c.core).queues cls).length < 16) :
    ∃ u, enqueue s t cls payload header = (true, u)
      ∧ Enters s u t.c.core cls ⟨payload, header, (coreAt s t.c.core).arrived⟩ := by
  have hin := enters_queued s t.c.core cls ⟨payload, header, (coreAt s t.c.core).arrived⟩
  unfold enqueue
  simp only [threadCore_inPlace ht, modThreadCore_inPlace ht, ha, Nat.not_le.mpr hq, if_false]
  refine ⟨_, rfl, ?_⟩
  cases binderIn (coreAt s t.c.core) cls with
  | none => exact hin
  | some n => exact hin.ready ht

/-! ## MESSAGE_ARRIVAL (R182) -/

/-- A context's thread in its place. -/
def ownThread (s : State) (c : CtxId) : Thread := ⟨c, (ctxAt s c).part, none⟩

theorem messageArrival_first (s : State) (c : CtxId) :
    exec (.messageArrival c 0) s = .next (moveMessage s (ownThread s c) 0) := by
  have hfirst : moveAmong (threadsOf s c) 0 s = moveMessage s (ownThread s c) 0 := by
    unfold threadsOf moveAmong
    exact if_pos (Nat.succ_pos _)
  exact congrArg Host.Outcome.next hfirst

/-- The last copy of the oldest entry enters its queue, and the entry is freed. -/
theorem sendOne_last {e : SendEntry} {es : List SendEntry} {d : Nat × Nat} (hd : e.dsts = [d])
    (he : enqueue s (coreWhere s (threadAt s t).part (threadAt s t).launch d.1) d.2 e.payload e.header = (true, u)) :
    sendOne s t (e :: es) 0 = some (countIn u (dieOf t.c.core) (threadAt s t).part, es) := by
  have hb : blocked (e :: es) 0 d = false := rfl
  unfold sendOne
  simp only [List.getElem?_cons_zero, hd, hb, he, Bool.false_eq_true, if_false, if_true, List.isEmpty_nil, List.eraseIdx_cons_zero]

theorem messageArrival_moves {c : CtxId} {e : SendEntry} {es : List SendEntry} {d : Nat × Nat}
    (hq : (ctxAt s c).sendq = e :: es) (hst : (ctxAt s c).st ≠ .saved) (hph : phasing (ctxAt s c) = false) (hd : e.dsts = [d])
    (he : enqueue s (coreWhere s (ctxAt s c).part (ctxAt s c).launch d.1) d.2 e.payload e.header = (true, u)) :
    exec (.messageArrival c 0) s
      = .next (modCtx (countIn u (dieOf c.core) (ctxAt s c).part) c (fun x => { x with sendq := es })) := by
  have hx : threadAt s (ownThread s c) = ctxAt s c := rfl
  have hgo : ((ctxAt s c).st == .saved || phasing (ctxAt s c) || decide (0 ≠ 0)) = false := by simp [hst, hph]
  rw [messageArrival_first]
  unfold moveMessage
  simp only [hx, hq, hgo, List.length_cons, Nat.succ_pos, if_true, Bool.false_eq_true, if_false]
  rw [sendOne_last hd (by rw [hx]; exact he)]
  rfl

/-- The oldest message, with one copy left, enters a queue that has room. -/
theorem messageArrival_enters {c : CtxId} {e : SendEntry} {es : List SendEntry} {d : Nat × Nat}
    (hq : (ctxAt s c).sendq = e :: es) (hst : (ctxAt s c).st ≠ .saved) (hph : phasing (ctxAt s c) = false) (hd : e.dsts = [d])
    (ht : (coreWhere s (ctxAt s c).part (ctxAt s c).launch d.1).aside = none) (ha : areaIn (coreAt s d.1) d.2 = none)
    (hroom : (tabGet [] (coreAt s d.1).queues d.2).length < 16) :
    ∃ t, exec (.messageArrival c 0) s = .next t ∧ (ctxAt t c).sendq = es ∧ (coreAt t d.1).arrived = (coreAt s d.1).arrived + 1
      ∧ tabGet [] (coreAt t d.1).queues d.2
          = tabGet [] (coreAt s d.1).queues d.2 ++ [⟨e.payload, e.header, (coreAt s d.1).arrived⟩] := by
  obtain ⟨u, hu, hin⟩ := enqueue_room (payload := e.payload) (header := e.header) ht ha hroom
  refine ⟨_, messageArrival_moves hq hst hph hd hu, by rw [ctxAt_modCtx_self], ?_, ?_⟩
  · rw [coreAt_modCtx]
    exact hin.arrived
  · rw [coreAt_modCtx]
    exact hin.queue

/-! ## TRAP_RECORD_DELIVERY (R197) -/

/-- The dies, the contexts and the queues are as before. -/
structure SameQueues (s u : State) : Prop where
  dies : u.dies = s.dies
  ctxs : ∀ d, ctxAt u d = ctxAt s d
  queues : ∀ k, (coreAt u k).queues = (coreAt s k).queues

/-- Freeing the journal entry of a refusal changes the journal alone. -/
theorem sameQueues_freeRefusal (ht : t.aside = none) (r : Record) : SameQueues s (freeRefusal s t r) := by
  unfold freeRefusal
  dsimp only
  split
  · rw [modThreadCore_inPlace ht]
    refine ⟨rfl, fun d => ctxAt_modCore_keeps _ _ _ fun _ => rfl, fun k => ?_⟩
    rw [coreAt_modCore]
    split
    · subst k
      rfl
    · rfl
  · exact ⟨rfl, fun _ => rfl, fun _ => rfl⟩

/-- A record that has reached its handler has left its slot, and its thread is stopped for the handler where the record stops
it; the queues, and the records that the management cores hold, are as before. -/
theorem recordGone_spec (ht : t.aside = none) (r : Record) (h : CtxId) :
    (ctxAt (recordGone s t r h) t.c).slot = (ctxAt s t.c).slot.tail
      ∧ (r.stops = true → h ∈ (ctxAt (recordGone s t r h) t.c).handlers)
      ∧ (∀ d, (dieAt (recordGone s t r h) d).mgmt = (dieAt s d).mgmt)
      ∧ ∀ k, (coreAt (recordGone s t r h) k).queues = (coreAt s k).queues := by
  unfold recordGone
  dsimp only
  rw [modThread_inPlace ht]
  generalize hg : (fun x : Ctx =>
    { x with slot := x.slot.tail, handlers := if r.stops then x.handlers ++ [h] else x.handlers }) = g
  have hq := sameQueues_freeRefusal (s := countIn (modCtx s t.c g) (dieOf t.c.core) r.part) ht r
  have hc : ctxAt (countIn (modCtx s t.c g) (dieOf t.c.core) r.part) t.c = g (ctxAt s t.c) := ctxAt_modCtx_self s t.c g
  rw [hq.ctxs, hc]
  refine ⟨by rw [← hg], fun hs => ?_, fun d => ?_, fun k => ?_⟩
  · rw [← hg]
    simp [hs]
  · have hd : dieAt (freeRefusal (countIn (modCtx s t.c g) (dieOf t.c.core) r.part) t r) d
        = dieAt (countIn (modCtx s t.c g) (dieOf t.c.core) r.part) d := by
      unfold dieAt
      rw [hq.dies]
    rw [hd, countIn, dieAt_modPart]
    rfl
  · rw [hq.queues]
    change (coreAt (modCtx s t.c g) k).queues = _
    rw [coreAt_modCtx]

theorem trapRecordDelivery_first {c : CtxId} {r : Record} {rest : List Record} (h : (ctxAt s c).slot = r :: rest) :
    exec (.trapRecordDelivery c) s = .next (deliverRecord s (ownThread s c)) := by
  have hx : (!(threadAt s (ownThread s c)).slot.isEmpty) = true := by
    rw [threadAt_inPlace rfl]
    simp [ownThread, h]
  have hfirst : (threadsOf s c).find? (fun t => !(threadAt s t).slot.isEmpty) = some (ownThread s c) :=
    List.find?_cons_of_pos hx
  change execTrapRecordDelivery c s = _
  rw [execTrapRecordDelivery, hfirst]

/-- A record as the management core takes it: one that its routing sends there wrongly is marked (R197). -/
def marked (wrong : Bool) (r : Record) : Record :=
  if wrong then { r with words := r.words.set 0 ((r.words.getD 0 0) ||| (1 <<< 35)) } else r

section
variable {r : Record} {rest : List Record} (ht : t.aside = none) (hs : (ctxAt s t.c).slot = r :: rest)
include ht hs

/-- A record without a handler goes to the management core. -/
theorem deliverRecord_unrouted (hr : routeFor s (dieOf t.c.core) r.part (field (r.words.getD 0 0).toNat 32 3)
      ((r.words.getD 0 0).toNat / 2 ^ 56) = none) :
    deliverRecord s t = modDie (recordGone s t r ⟨1024 + dieOf t.c.core, 0⟩) (dieOf t.c.core) (fun d => { d with mgmt := d.mgmt
      ++ [(t.c, marked (misrouted s (dieOf t.c.core) r.part (field (r.words.getD 0 0).toNat 32 3)
        ((r.words.getD 0 0).toNat / 2 ^ 56)) r)] }) := by
  unfold deliverRecord
  rw [threadAt_inPlace ht, hs]
  dsimp only
  rw [hr]
  rfl

/-- One with a handler whose queue takes it leaves its slot. -/
theorem deliverRecord_routed {h : Thread} {cls : Nat} (hr : routeFor s (dieOf t.c.core) r.part
      (field (r.words.getD 0 0).toNat 32 3) ((r.words.getD 0 0).toNat / 2 ^ 56) = some (h, cls))
    (he : enqueue s h cls (ofWords r.words) (headerFrom s t.c r.part cls) = (true, u)) :
    deliverRecord s t = recordGone u t r h.c := by
  unfold deliverRecord
  rw [threadAt_inPlace ht, hs]
  dsimp only
  rw [hr]
  dsimp only
  rw [he]
  rfl

end

section
variable {c : CtxId} {r : Record} {rest : List Record} (hs : (ctxAt s c).slot = r :: rest)
include hs

theorem trapRecordDelivery_unrouted (hr : routeFor s (dieOf c.core) r.part (field (r.words.getD 0 0).toNat 32 3)
      ((r.words.getD 0 0).toNat / 2 ^ 56) = none) :
    ∃ t, exec (.trapRecordDelivery c) s = .next t ∧ (ctxAt t c).slot = rest
      ∧ (dieAt t (dieOf c.core)).mgmt = (dieAt s (dieOf c.core)).mgmt ++ [(c, marked (misrouted s (dieOf c.core) r.part
          (field (r.words.getD 0 0).toNat 32 3) ((r.words.getD 0 0).toNat / 2 ^ 56)) r)] := by
  obtain ⟨hslot, -, hmgmt, -⟩ := recordGone_spec (s := s) (t := ownThread s c) rfl r ⟨1024 + dieOf c.core, 0⟩
  have hx := trapRecordDelivery_first hs
  rw [deliverRecord_unrouted (t := ownThread s c) rfl hs hr] at hx
  exact ⟨_, hx, hslot.trans (congrArg List.tail hs),
    (congrArg Die.mgmt (dieAt_modDie_self _ (dieOf c.core) _)).trans (congrArg (· ++ _) (hmgmt _))⟩

theorem trapRecordDelivery_routed {h : Thread} {cls : Nat} (hr : routeFor s (dieOf c.core) r.part
      (field (r.words.getD 0 0).toNat 32 3) ((r.words.getD 0 0).toNat / 2 ^ 56) = some (h, cls)) (ht : h.aside = none)
    (ha : areaIn (coreAt s h.c.core) cls = none) (hroom : (tabGet [] (coreAt s h.c.core).queues cls).length < 16) :
    ∃ t, exec (.trapRecordDelivery c) s = .next t ∧ (ctxAt t c).slot = rest
      ∧ (r.stops = true → h.c ∈ (ctxAt t c).handlers)
      ∧ tabGet [] (coreAt t h.c.core).queues cls = tabGet [] (coreAt s h.c.core).queues cls
          ++ [⟨ofWords r.words, headerFrom s c r.part cls, (coreAt s h.c.core).arrived⟩] := by
  obtain ⟨u, hu, hin⟩ := enqueue_room (payload := ofWords r.words) (header := headerFrom s c r.part cls) ht ha hroom
  obtain ⟨hslot, hstop, -, hqueues⟩ := recordGone_spec (s := u) (t := ownThread s c) rfl r h.c
  have hx := trapRecordDelivery_first hs
  rw [deliverRecord_routed (t := ownThread s c) rfl hs hr hu] at hx
  have hkept : (ctxAt u c).slot = (ctxAt s c).slot := hin.ctxs.part Ctx.slot c
  refine ⟨_, hx, hslot.trans (congrArg List.tail (hkept.trans hs)), hstop, ?_⟩
  rw [hqueues]
  exact hin.queue

end

end Sys2Proof.Laws
end

section
/-! SUPPORT. Posted accesses at their targets (R200, R201), and the jobs of a mortar queue (R220, R222). -/

namespace Sys2Proof.Laws

open Sys2Proof Sys2Proof.Machine

variable {s : State}

/-! ## Posted accesses -/

section
variable {core entry : Nat} {t : Thread} {j : JEntry} (h : postedDue s core entry = some (t, j))
include h

theorem postedAck_performs (hr : entryRefusal s j = none) : exec (.postedAck core entry) s = .next
    (modThreadCore (performPosted s t j) t (fun k => { k with journal := k.journal.filter (·.slot ≠ entry) })) := by
  change execPostedAck core entry s = _
  unfold execPostedAck
  rw [h]
  dsimp only
  rw [hr, Option.isSome_none, if_neg Bool.false_ne_true]

/-- A journal entry that its target has refused waits for its record to be delivered (R201). -/
def refusedEntry (entry cause : Nat) (k : Core) : Core :=
  { k with journal := k.journal.map (fun q => if q.slot = entry then { q with state := 2, cause := cause } else q) }

theorem postedRefusal_records {cause : Nat} (hr : entryRefusal s j = some cause ∨ (ptrPath j.ptr = pathHOST ∧ cause = 0x06))
    (ht : t.aside = none) : exec (.postedRefusal core entry cause) s = .next (asyncRecord
      (modCore s t.c.core (refusedEntry entry cause)) t.c
      { cls := clsRemoteRefused, cause := cause, addr := j.ptr, where_ := BitVec.ofNat 64 entry }) := by
  have hgo : (!((ptrPath j.ptr = pathHOST && cause = 0x06) || entryRefusal s j = some cause)) = false := by
    rcases hr with hr | ⟨hp, hc⟩
    · simp [hr]
    · simp [hp, hc]
  change execPostedRefusal core entry cause s = _
  unfold execPostedRefusal
  rw [h]
  dsimp only
  rw [hgo, if_neg Bool.false_ne_true, modThreadCore_inPlace ht, ht]
  rfl

end

theorem quiet_refusedEntry {C : Scope} (s : State) (core entry cause : Nat) :
    Quiet C s (modCore s core (refusedEntry entry cause)) :=
  quiet_modCore s core ⟨fun _ => rfl, fun _ => rfl, fun _ => rfl, fun _ => rfl, fun _ => rfl, fun _ => rfl⟩
    (.inr fun _ => ⟨rfl, rfl⟩)

/-- One byte posted to host memory stands there (R200). -/
theorem hostMem_performPosted {t : Thread} {j : JEntry} {a : Nat} {b : Byte} (hs : j.stq = none) (hb : j.bytes = [(.host a, b)]) :
    tabGet 0 (performPosted s t j).hostMem a = b := by
  have hbytes : performBytes s j = { s with hostMem := tabSet 0 s.hostMem a b } := by
    unfold performBytes
    rw [hs, hb]
    rfl
  have hq : Quiet anyL1 { s with hostMem := tabSet 0 s.hostMem a b } (performPosted s t j) := by
    unfold performPosted
    rw [hbytes]
    exact quiet_ite (Quiet.refl _) (quiet_foldl (fun line _ s => quiet_dropOwnClean s _ _) _)
  have hread := hq.memory (.host a)
  simp only [readByte, Option.some.injEq] at hread
  rw [hread, tabGet_tabSet_self]

/-! ## Jobs -/

variable {core seq : Nat} {j : Job}

theorem seq_of_jobAt (h : jobAt s core seq = some j) : j.seq = seq := by simpa using List.find?_some h

theorem mem_of_jobAt (h : jobAt s core seq = some j) : j ∈ (coreAt s core).jobs := List.mem_of_find?_eq_some h

/-- A job that is changed, under the number that it keeps. -/
theorem jobAt_modJob {f : Job → Job} (h : jobAt s core seq = some j) (hf : ∀ q, (f q).seq = q.seq) :
    jobAt (modJob s core seq f) core seq = some (f j) := by
  have hp : ((fun q : Job => decide (q.seq = seq)) ∘ fun q => if q.seq = seq then f q else q) = fun q => decide (q.seq = seq) := by
    funext q
    dsimp only [Function.comp_apply]
    split
    · rw [hf]
    · rfl
  unfold jobAt at h ⊢
  rw [modJob, coreAt_modCore_self]
  dsimp only
  rw [List.find?_map, hp, h, Option.map_some, if_pos (seq_of_jobAt h)]

/-- A job that has left its queue. -/
theorem jobAt_dropJob (s : State) (core : Nat) (j : Job) : jobAt (dropJob s core j) core j.seq = none := by
  unfold dropJob jobAt
  dsimp only
  rw [coreAt_modCore_self]
  simp [List.find?_eq_none]

theorem abandonDue_none (h : jobAt s core seq = none) : abandonDue s core seq = s := by rw [abandonDue, h]

theorem abandonDue_of_ne (h : jobAt s core seq = some j) (hst : j.st ≠ .suspended) : abandonDue s core seq = s := by
  have hs : (j.st == .suspended) = false := by simp [hst]
  rw [abandonDue, h]
  dsimp only
  rw [hs, Bool.false_and, if_neg Bool.false_ne_true]

/-- The image of a saved core is not written while a job of it runs (R205). -/
theorem writeImage_of_mem (h : j ∈ (coreAt s core).jobs) (hst : j.st ≠ .suspended) : writeImage s core = s := by
  have hall : ((coreAt s core).jobs.all (·.st == .suspended)) = false :=
    List.all_eq_false.mpr ⟨j, h, by simp [hst]⟩
  unfold writeImage
  dsimp only
  rw [hall, Bool.and_false, if_neg Bool.false_ne_true]

section
variable (h : jobAt s core seq = some j)
include h

theorem jobTurn_of_jobAt (turn : State → Nat → Job → State) :
    jobTurn core seq turn s = settle (writeImage (abandonDue (turn s core j) core seq) core) := by
  rw [jobTurn, h]

/-- The oldest Queued job becomes Active (R222). -/
theorem jobStart_starts (hst : j.st = .queued) (hq : ∀ q ∈ earlierJobs s core seq, q.st ≠ .queued) (ha : activeJobs s core < 32)
    (hp : phasing (ctxAt s (jobOwner j)) = false) (hd : j.desc.handle = none) :
    exec (.jobStart core seq) s = .next (settle (modJob s core seq (fun j => { j with st := .active }))) := by
  have hseq := seq_of_jobAt h
  have hwait : ((earlierJobs s core j.seq).any (·.st == .queued) || decide (32 ≤ activeJobs s core)
      || phasing (ctxAt s (jobOwner j))) = false := by
    have hearlier : (earlierJobs s core j.seq).any (·.st == .queued) = false := by
      rw [hseq, List.any_eq_false]
      exact fun q hmem => by simp [hq q hmem]
    rw [hearlier, decide_eq_false (Nat.not_le.mpr ha), hp]
    rfl
  have hstart : startJob s core j = modJob s core seq (fun j => { j with st := .active }) := by
    unfold startJob
    dsimp only
    rw [hst, hwait, hd, hseq]
    rfl
  have hj := jobAt_modJob (f := fun j => { j with st := .active }) h fun _ => rfl
  change Host.Outcome.next (jobTurn core seq startJob s) = _
  rw [jobTurn_of_jobAt h, hstart, abandonDue_of_ne hj nofun, writeImage_of_mem (mem_of_jobAt hj) nofun]

/-- A job whose last byte lands is Completing (R220). -/
theorem jobLand_lands (hr : jobRuns s core j = true) (hb : (runJob s core j).bad = none) (hf : j.desc.follow = none) :
    exec (.jobLand core seq) s = .next (settle (writeImage (abandonDue
      (modJob (wakeWatches (runJob s core j).st (runJob s core j).dsts) core seq (fun j =>
        { j with st := .completing, landed := true })) core seq) core)) := by
  have hland : landJob s core j = modJob (wakeWatches (runJob s core j).st (runJob s core j).dsts) core seq (fun j =>
      { j with st := .completing, landed := true }) := by
    unfold landJob
    dsimp only
    rw [hr, hb, hf, seq_of_jobAt h]
    rfl
  change Host.Outcome.next (jobTurn core seq landJob s) = _
  rw [jobTurn_of_jobAt h, hland]

/-- The oldest job leaves its queue once it is Completing and its follow-on stands in its queue (R220). -/
theorem jobComplete_drops (hst : j.st = .completing) (hf : followEntered s core j = true) (he : earlierJobs s core seq = [])
    (hc : j.desc.cw = none) : exec (.jobComplete core seq) s = .next (settle (writeImage (dropJob s core j) core)) := by
  have hseq := seq_of_jobAt h
  have hdrop : completeJob s core j = dropJob s core j := by
    unfold completeJob
    rw [hst, hf, hseq, he, hc]
    rfl
  change Host.Outcome.next (jobTurn core seq completeJob s) = _
  rw [jobTurn_of_jobAt h, hdrop, abandonDue_none (by rw [← hseq]; exact jobAt_dropJob s core j)]

theorem jobFault_faults : exec (.jobFault core seq) s
    = .next (settle (writeImage (abandonDue (faultJob s core j) core seq) core)) :=
  congrArg Host.Outcome.next (jobTurn_of_jobAt h faultJob)

end

/-- A job that runs into a fault sends its owner a record of it (R222). -/
theorem faultJob_records {e : AccFault} {n : Nat} (hr : jobRuns s core j = true) (hb : (runJob s core j).bad = some (e, n)) :
    ∃ s' r, faultJob s core j = asyncRecord s' (jobOwner j) r ∧ r.cls = e.cls ∧ r.cause = e.cause ∧ r.addr = e.addr
      ∧ r.job = true := by
  unfold faultJob
  dsimp only
  rw [hr, hb]
  exact ⟨_, _, rfl, rfl, rfl, rfl, rfl⟩

end Sys2Proof.Laws
end

section
/-! SUPPORT. The start of a task (R225), and the matrix commands (R243 to R252). -/

namespace Sys2Proof.Laws

open Sys2Proof Sys2Proof.Machine

variable {s : State}

/-! ## Cards and tasks -/

theorem cardDispatch_places {cluster : Nat} {d : Card} {c : CtxId}
    (h : ((clusterAt s cluster).cards.filter (·.st = 1)).findSome? (fun d => (cardPlace s cluster d).map (fun t => (d, t)))
      = some (d, c)) (hf : fetchDue s cluster = none) : exec (.cardDispatch cluster) s = .next (placeCard s cluster d c) := by
  change execCardDispatch cluster s = _
  unfold execCardDispatch
  dsimp only
  rw [hf, h]

theorem regsOnly_clearRegs (s : State) (c : CtxId) : RegsOnly s (clearRegs s c) := by
  have hw : clearRegs s c
      = writeRegs s c ((List.range (regsPerCtx (coreAt s c.core).contexts)).map (fun i => (i, 0))) := by
    rw [writeRegs, List.foldl_map]
    rfl
  rw [hw]
  exact regsOnly_writeRegs s c _

/-- A thread runs from its start on, at its address and its rank (R175, R225). -/
theorem startThread_runs (s : State) (c : CtxId) (addr : Word) (rank part : Nat) (launch : Option (Nat × Nat)) (gang : Nat)
    (regs : List (Nat × Wide)) : (ctxAt (startThread s c addr rank part launch gang regs) c).st = .running
      ∧ (ctxAt (startThread s c addr rank part launch gang regs) c).next = addr
      ∧ (ctxAt (startThread s c addr rank part launch gang regs) c).rank = rank := by
  have hregs : RegsOnly _ (startThread s c addr rank part launch gang regs) :=
    (regsOnly_clearRegs _ c).trans (regsOnly_writeRegs _ c regs)
  rw [hregs.ctxAt, ctxAt_modCtx_self]
  exact ⟨rfl, rfl, rfl⟩

theorem l1Only_acquire (s : State) (c : CtxId) (scope : Nat) : L1Only s (acquire s c scope) := by
  unfold acquire
  split
  · exact .refl s
  · exact l1Only_foldl (fun s k => l1Only_modCore s k fun q => ⟨[], q.dirty, rfl⟩) _ s

theorem taskStart_starts {c : CtxId} {d : Card}
    (h : (clusterAt s (clusterOf c.core)).cards.find? (fun d => d.st = 2 && d.target == some c) = some d)
    (hf : fetchesLeft d = []) (hj : ∀ j ∈ (coreAt s c.core).jobs, j.card ≠ some d.num) :
    exec (.taskStart c) s = .next (startTask s (clusterOf c.core) d c) := by
  have hnone : (coreAt s c.core).jobs.any (fun j => j.card == some d.num) = false :=
    List.any_eq_false.mpr fun j hmem => by simp [hj j hmem]
  change execTaskStart c s = _
  unfold execTaskStart
  dsimp only
  rw [h]
  dsimp only
  rw [hf, hnone]
  rfl

theorem ctxAt_startTask (s : State) (cluster : Nat) (d : Card) (c : CtxId) :
    (ctxAt (startTask s cluster d c) c).st = .running ∧ (ctxAt (startTask s cluster d c) c).next = d.words.getD 0 0
      ∧ (ctxAt (startTask s cluster d c) c).task = some d.num ∧ (ctxAt (startTask s cluster d c) c).rank = d.rank := by
  have hruns := startThread_runs s c (d.words.getD 0 0) d.rank (ctxAt s d.owner).part (ctxAt s d.owner).launch
    (ctxAt s d.owner).gang (taskRegs d.words)
  unfold startTask
  dsimp only
  generalize startThread s c (d.words.getD 0 0) d.rank (ctxAt s d.owner).part (ctxAt s d.owner).launch
    (ctxAt s d.owner).gang (taskRegs d.words) = u at hruns ⊢
  have hx : ∀ g, ctxAt (modCluster (acquire (modCtx u c (fun x => { x with task := some d.num })) c 1) cluster g) c
      = { ctxAt u c with task := some d.num } := fun g =>
    ((l1Only_acquire _ c 1).ctxAt c).trans (ctxAt_modCtx_self u c _)
  obtain ⟨hst, hnext, hrank⟩ := hruns
  rw [hx]
  exact ⟨hst, hnext, rfl, hrank⟩

/-! ## Matrix commands -/

theorem matrixCommandStart_first {core brick n : Nat} (hs : (coreAt s core).saving = false)
    (h : (List.range (coreAt s core).mq.length).find? (fun n => ((coreAt s core).mq[n]?).any (fun q =>
      brickOf q.acc = brick && mayStart (coreAt s core) ((coreAt s core).mq.take n) q && !phasing (ctxAt s q.owner))) = some n) :
    exec (.matrixCommandStart core brick) s = .next (modCore s core (fun k =>
      { k with mq := listSet k.mq n (fun q => { q with started := true }) })) := by
  have hstart : startCommand s (coreAt s core) brick
      = { coreAt s core with mq := listSet (coreAt s core).mq n (fun q => { q with started := true }) } := by
    unfold startCommand
    rw [if_neg (by rw [hs]; exact Bool.false_ne_true), h]
  exact congrArg (fun k => Host.Outcome.next (setCore s core k)) hstart

/-- A command that enters its queue changes no value of an accumulator and not its count of executed commands (R244). -/
theorem enterDue_keeps (n : Nat) (k : Core) (acc : Nat) :
    (tabGet Acc.blank (enterDue n k).accs acc).vals = (tabGet Acc.blank k.accs acc).vals
      ∧ (tabGet Acc.blank (enterDue n k).accs acc).e = (tabGet Acc.blank k.accs acc).e := by
  induction n generalizing k with
  | zero => exact ⟨rfl, rfl⟩
  | succ n ih =>
    unfold enterDue
    split
    · exact ⟨rfl, rfl⟩
    · next q _ =>
      obtain ⟨hv, he⟩ := ih { k with
        mq := k.mq.filter (fun r => r != q) ++ [{ q with entered := true }]
        accs := tabSet Acc.blank k.accs q.acc { tabGet Acc.blank k.accs q.acc with
          enter := (tabGet Acc.blank k.accs q.acc).enter + 1 } }
      rw [hv, he]
      dsimp only
      rw [tabGet_tabSet]
      split
      · next hq => rw [hq]; exact ⟨rfl, rfl⟩
      · exact ⟨rfl, rfl⟩

theorem accAt_modAcc_self (s : State) (core k : Nat) (f : Acc → Acc) : accAt (modAcc s core k f) core k = f (accAt s core k) := by
  unfold accAt modAcc
  rw [coreAt_modCore_self]
  exact tabGet_tabSet_self _ _ _ _

/-- What a command leaves that has run: it leaves its queue, and those whose turn has come enter. -/
def commandGone (s : State) (core : Nat) (q : QCmd) : State :=
  modCore (runCommand s core q) core (fun k =>
    enterDue (k.mq.filter (· != q)).length { k with mq := k.mq.filter (· != q) })

theorem accAt_commandGone (s : State) (core : Nat) (q : QCmd) :
    (accAt (commandGone s core q) core q.acc).vals = (accAt (runCommand s core q) core q.acc).vals
      ∧ (accAt (commandGone s core q) core q.acc).e = (accAt (runCommand s core q) core q.acc).e := by
  unfold commandGone accAt
  rw [coreAt_modCore_self]
  exact enterDue_keeps _ _ _

theorem matrixCommandFinish_finishes {core brick : Nat} {q : QCmd}
    (h : (coreAt s core).mq.find? (fun q => q.started && brickOf q.acc = brick) = some q) :
    exec (.matrixCommandFinish core brick) s = .next (settle (answerAccq (commandGone s core q) core q.acc)) := by
  have hfin : finishCommand s core brick = answerAccq (commandGone s core q) core q.acc := by
    unfold finishCommand
    rw [h]
    rfl
  exact congrArg (fun u => Host.Outcome.next (settle u)) hfin

/-- ACCCLR and ACCINIT clear their accumulator (R252). -/
theorem runCommand_clears {core : Nat} {q : QCmd} (h : q.cmd = .accClr ∨ ∃ m, q.cmd = .accInit m) :
    accAt (runCommand s core q) core q.acc = { accAt s core q.acc with vals := [], e := 0 } := by
  have hrun : runCommand s core q = modAcc s core q.acc (fun a => { a with vals := [], e := 0 }) := by
    unfold runCommand
    rcases h with h | ⟨m, h⟩
    all_goals rw [h]
  rw [hrun, accAt_modAcc_self]

/-- An MMA of tokens adds its products and counts as executed (R249). -/
theorem runCommand_multiplies {core row col : Nat} {q : QCmd} {ta tb : ElemType} {a b : Wide}
    (h : q.cmd = .mmaToken ta tb row col a b) :
    accAt (runCommand s core q) core q.acc = { accAt s core q.acc with
      e := ((accAt s core q.acc).e + 1) % 2 ^ 16
      vals := mmaValues ta tb row col (tokenDepth ta) (tokenRows a) (tokenRows b) (accAt s core q.acc).vals } := by
  unfold runCommand
  rw [h]
  dsimp only
  rw [accAt_modAcc_self, accAt_modAcc_self]

/-! ## Collectives -/

/-- A collective that has come to an end ends at every member of the module (R392 to R394). -/
theorem endCollective_ends {c : CtxId} {n code : Nat} {ks : List Contribution} {q : Coll} (hq : (ctxAt s c).colls[n]? = some q)
    (hd : q.done = false) (ho : collOutcome s q = some (code, ks)) :
    endCollective s c n = (ownMembers s q).foldl (fun s e => finishMember s e.1 e.2 code ks) s := by
  unfold endCollective
  rw [hq]
  dsimp only
  rw [hd, if_neg Bool.false_ne_true, ho]

end Sys2Proof.Laws
end

section
/-! CERTIFICATES. Messages, records, posted accesses, jobs, cards, matrix commands and collectives (R182, R197, R200, R201, R220 to
R226, R245, R251, R393). -/

namespace Sys2Proof.Laws

open Sys2Proof Sys2Proof.Machine

/-- Settles O60: each event, where what it waits for has come, makes the one change that its lemma names. -/
theorem workEvents : Obligations.WorkEvents := by
  intro s
  refine ⟨fun c e es d => messageArrival_enters,
    fun c r rest hslot => ⟨fun hr => ?_, fun h cls => trapRecordDelivery_routed hslot⟩,
    fun core entry th j hdue => ⟨fun hr => ⟨postedAck_performs hdue hr, fun a b => hostMem_performPosted⟩,
      fun cause hr ht => ?_⟩,
    fun core seq j hj => ⟨jobStart_starts hj, jobLand_lands hj, jobComplete_drops hj, jobFault_faults hj,
      fun hr e n => faultJob_records hr⟩,
    fun cluster d c => cardDispatch_places,
    fun c d hd hf hj => ⟨_, taskStart_starts hd hf hj, ctxAt_startTask s _ d c⟩,
    fun core brick => rfl,
    fun core brick n => matrixCommandStart_first,
    fun core brick q hq => ⟨commandGone s core q, matrixCommandFinish_finishes hq, fun hc => ?_, fun ta tb row col a b hc => ?_⟩,
    fun c n => rfl,
    fun c n code ks q hq hd ho => ?_⟩
  · obtain ⟨t, hx, hrest, hmgmt⟩ := trapRecordDelivery_unrouted hslot hr
    exact ⟨t, _, hx, hrest, hmgmt, fun hm => if_neg (Bool.eq_false_iff.mp hm), fun hm => if_pos hm⟩
  · have hq := quiet_refusedEntry (C := anything) s th.c.core entry cause
    exact ⟨_, postedRefusal_records hdue hr ht, hq.memory, hq.regs⟩
  · obtain ⟨hv, he⟩ := accAt_commandGone s core q
    rw [hv, he, runCommand_clears hc]
    exact ⟨rfl, rfl⟩
  · obtain ⟨hv, he⟩ := accAt_commandGone s core q
    rw [hv, he, runCommand_multiplies hc]
    exact ⟨rfl, rfl⟩
  · exact congrArg (fun u => Host.Outcome.next (settle u)) (endCollective_ends hq hd ho)

end Sys2Proof.Laws
end

section
/-! SUPPORT. A list of changes one after the other: what one of them brings about and the others keep. -/

namespace Sys2Proof.Laws

variable {σ β : Type} {f : σ → β → σ} {l : List β} {b : β}

/-- What one change of a list brings about, and every change keeps, holds in the end. -/
theorem foldl_reaches {P : σ → Prop} (hb : b ∈ l) (hf : ∀ s, P (f s b)) (hk : ∀ s q, P s → P (f s q)) (s : σ) :
    P (l.foldl f s) := by
  obtain ⟨l₁, l₂, rfl⟩ := List.append_of_mem hb
  rw [List.foldl_append, List.foldl_cons]
  exact List.foldlRecOn l₂ f (hf _) fun t ht q _ => hk t q ht

/-- What the others do not touch is changed by the one change of a list that concerns it. -/
theorem foldl_once {P Q : σ → Prop} (hn : l.Nodup) (hb : b ∈ l) (hP : ∀ s q, q ≠ b → P s → P (f s q))
    (hf : ∀ s, P s → Q (f s b)) (hQ : ∀ s q, q ≠ b → Q s → Q (f s q)) {s : σ} (hs : P s) : Q (l.foldl f s) := by
  obtain ⟨l₁, l₂, rfl⟩ := List.append_of_mem hb
  obtain ⟨-, h₂, hd⟩ := List.nodup_append.mp hn
  have hbefore : P (l₁.foldl f s) :=
    List.foldlRecOn l₁ f hs fun t ht q hq => hP t q (hd q hq b (List.mem_cons_self ..)) ht
  rw [List.foldl_append, List.foldl_cons]
  exact List.foldlRecOn l₂ f (hf _ hbefore) fun t ht q hq => hQ t q (fun h => (List.nodup_cons.mp h₂).1 (h ▸ hq)) ht

end Sys2Proof.Laws
end

section
/-! SUPPORT. Boot and its images (R375 to R377), and the host's accesses to BAR0 (R349, R364, R373). -/

namespace Sys2Proof.Laws

open Sys2Proof Sys2Proof.Machine

variable {s t u : State}

/-! ## Boot -/

/-- A trained host port has a width of R382. -/
theorem portWidthLegal_widthCode (w : Nat) : portWidthLegal (widthCode w) = true := by
  unfold widthCode
  split
  · next h =>
    simp only [Bool.or_eq_true, decide_eq_true_eq] at h
    rcases h with (h | h) | h
    all_goals rw [h]; rfl
  · rfl

/-- Bring-up changes package registers alone: the node, its routes and its ports (R383). -/
theorem bringUp_rest (s : State) : ∃ ports, bringUp s
    = { s with pkg := { s.pkg with ports := ports, node := Config.fabricNode % 2 ^ 17, routes := Config.fabricRoutes } } := by
  unfold bringUp
  extract_lets t
  have ht : ∃ ports, t = { s with pkg := { s.pkg with ports := ports } } :=
    List.foldlRecOn (motive := fun u => ∃ ports, u = { s with pkg := { s.pkg with ports := ports } }) (List.range 16) _ ⟨_, rfl⟩
      fun u ⟨ports, hu⟩ n _ => ⟨_, by rw [hu]; rfl⟩
  clear_value t
  obtain ⟨ports, rfl⟩ := ht
  exact ⟨ports, rfl⟩

/-- What boot leaves: memory, registers, the flash, the request, and the digest of the image that was accepted. -/
structure Boots (s t : State) : Prop where
  hbm : t.hbm = s.hbm
  regs : SameRegs s t
  flash : t.kiln.flash = s.kiln.flash
  request : t.kiln.request = s.kiln.request
  digest : t.kiln.digest = s.kiln.digest

theorem Boots.refl (s : State) : Boots s s := ⟨rfl, fun _ => ⟨rfl, rfl⟩, rfl, rfl, rfl⟩

theorem Boots.trans (h : Boots s t) (h' : Boots t u) : Boots s u where
  hbm := h'.hbm.trans h.hbm
  regs k := ⟨(h'.regs k).1.trans (h.regs k).1, (h'.regs k).2.trans (h.regs k).2⟩
  flash := h'.flash.trans h.flash
  request := h'.request.trans h.request
  digest := h'.digest.trans h.digest

theorem boots_foldl {f : State → Nat → State} (hf : ∀ s d, Boots s (f s d)) (l : List Nat) (s : State) : Boots s (l.foldl f s) :=
  List.foldlRecOn l f (.refl s) fun t ht d _ => ht.trans (hf t d)

theorem boots_modDie (s : State) (d : Nat) (f : Die → Die) : Boots s (modDie s d f) := ⟨rfl, fun _ => ⟨rfl, rfl⟩, rfl, rfl, rfl⟩

theorem boots_readyDie (s : State) (d : Nat) : Boots s (readyDie s d) :=
  ⟨rfl, (quiet_modCtxAny (modDie s d _) ⟨1024 + d, 0⟩ _).regs, rfl, rfl, rfl⟩

theorem boots_loadFirmware (im : List Byte) (s : State) : Boots s (loadFirmware im s) := boots_foldl (fun s d => boots_modDie s d _) _ s

theorem boots_bringUp (s : State) : Boots s (bringUp s) := by
  obtain ⟨ports, h⟩ := bringUp_rest s
  rw [h]
  exact ⟨rfl, fun _ => ⟨rfl, rfl⟩, rfl, rfl, rfl⟩

theorem boots_trainPorts (s : State) : Boots s (trainPorts s) := ⟨rfl, fun _ => ⟨rfl, rfl⟩, rfl, rfl, rfl⟩

theorem boots_readyBoot (s : State) : Boots s (readyBoot s) := by
  unfold readyBoot
  extract_lets t
  have h : Boots s t := ((boots_trainPorts s).trans (boots_foldl boots_readyDie (List.range 4) _)).trans (boots_bringUp _)
  clear_value t
  exact ⟨h.hbm, h.regs, h.flash, h.request, h.digest⟩

theorem boots_finishBoot (im : List Byte) (s : State) :
    Boots (acceptImage im { s with freeCounter := s.freeCounter + 1 }) (finishBoot im s) := by
  unfold finishBoot
  extract_lets t
  have hload := boots_loadFirmware im t
  generalize loadFirmware im t = u at hload
  split
  · split
    · exact ⟨hload.hbm, hload.regs, hload.flash, hload.request, hload.digest⟩
    · exact ⟨rfl, fun _ => ⟨rfl, rfl⟩, rfl, rfl, rfl⟩
  · exact hload.trans (boots_readyBoot _)

theorem readyBoot_kiln (s : State) : (readyBoot s).kiln = { s.kiln with bootStep := 5, status := Config.kilnStatus 5 0 } := rfl

theorem readyBoot_dies (s : State) : (readyBoot s).pkg.dies = 0xF := rfl

theorem readyBoot_widths (s : State) :
    portWidthLegal (readyBoot s).pkg.p0w = true ∧ portWidthLegal (readyBoot s).pkg.p1w = true :=
  ⟨portWidthLegal_widthCode _, portWidthLegal_widthCode _⟩

theorem coreMask_readyDie (s : State) (d q : Nat) :
    (dieAt (readyDie s d) q).coreMask = if q = d then Config.coreFuses d else (dieAt s q).coreMask := by
  unfold readyDie
  rw [dieAt_modCtx]
  split
  · next h => rw [h, dieAt_modDie_self]
  · next h => rw [dieAt_modDie_other _ _ h]

theorem rank_readyDie (s : State) (d q : Nat) :
    (ctxAt (readyDie s d) ⟨1024 + q, 0⟩).rank = if q = d then 7 else (ctxAt s ⟨1024 + q, 0⟩).rank := by
  unfold readyDie
  split
  · next h => rw [h, ctxAt_modCtx_self]
  · next h => rw [ctxAt_modCtx_other _ _ (by simpa using h), ctxAt_modDie]

/-- READY comes with every die's fuses read and its management core at rank 7 (R363, R375). -/
theorem readyBoot_die (s : State) {d : Nat} (hd : d < 4) :
    (dieAt (readyBoot s) d).coreMask = Config.coreFuses d ∧ (ctxAt (readyBoot s) ⟨1024 + d, 0⟩).rank = 7 := by
  have hfold := foldl_reaches (f := readyDie) (P := fun t => (dieAt t d).coreMask = Config.coreFuses d ∧ (ctxAt t ⟨1024 + d, 0⟩).rank = 7)
    (List.mem_range.mpr hd) (fun t => by rw [coreMask_readyDie, rank_readyDie, if_pos rfl, if_pos rfl]; exact ⟨rfl, rfl⟩)
    (fun t q ht => by
      rw [coreMask_readyDie, rank_readyDie]
      split
      · next h => exact ⟨by rw [h], rfl⟩
      · exact ht) (trainPorts s)
  unfold readyBoot
  extract_lets t
  obtain ⟨ports, hp⟩ := bringUp_rest ((List.range 4).foldl readyDie (trainPorts s))
  have ht : t.dies = ((List.range 4).foldl readyDie (trainPorts s)).dies ∧ t.cores = ((List.range 4).foldl readyDie (trainPorts s)).cores := by
    subst t
    rw [hp]
    exact ⟨rfl, rfl⟩
  simpa only [dieAt, ctxAt, coreAt, ht.1, ht.2] using hfold

theorem finishBoot_ready (im : List Byte) (h : bootFails s = none) :
    finishBoot im s = readyBoot (loadFirmware im (acceptImage im { s with freeCounter := s.freeCounter + 1 })) := by
  unfold finishBoot
  rw [h]

theorem pkg_loadFirmware (im : List Byte) (s : State) : (loadFirmware im s).pkg = s.pkg :=
  List.foldlRecOn (motive := fun t : State => t.pkg = s.pkg) (List.range 4) _ rfl fun _ ht _ _ => ht

/-- Where loading or training fails, no package register changes. -/
theorem finishBoot_stops (im : List Byte) {k : Nat} (h : bootFails s = some k) :
    (finishBoot im s).kiln.bootStep = k ∧ (finishBoot im s).pkg = s.pkg := by
  unfold finishBoot
  rw [h]
  extract_lets t
  have hload : (loadFirmware im t).pkg = s.pkg := pkg_loadFirmware im t
  generalize loadFirmware im t = u at hload
  dsimp only
  split
  · exact ⟨rfl, hload⟩
  · exact ⟨rfl, rfl⟩

/-- A boot that has begun does not begin again (R375). -/
theorem boot_begun (h : s.kiln.bootStep ≠ 0) : exec .boot s = .next s := congrArg Host.Outcome.next (if_pos h)

/-- What the host finds after BOOT of a flash image (R375 to R377). -/
theorem boot_spec (h0 : s.kiln.bootStep = 0) : ∃ t, exec .boot s = .next t ∧ t.hbm = s.hbm ∧ t.kiln.flash = s.kiln.flash ∧ SameRegs s t
    ∧ (imageFault s.kiln.flash = none → bootFails s = none →
        t.kiln.bootStep = 5 ∧ t.pkg.dies = 0xF ∧ t.kiln.digest = imagePart s.kiln.flash 0x10 64
        ∧ portWidthLegal t.pkg.p0w = true ∧ portWidthLegal t.pkg.p1w = true
        ∧ ∀ d, d < 4 → (dieAt t d).coreMask = Config.coreFuses d ∧ (ctxAt t ⟨1024 + d, 0⟩).rank = 7)
    ∧ (∀ k, imageFault s.kiln.flash = none → bootFails s = some k → t.kiln.bootStep = k ∧ t.pkg = s.pkg)
    ∧ (∀ n, imageFault s.kiln.flash = some n → t.kiln.bootStep = 1 ∧ t.kiln.status = Config.kilnStatus 1 n
        ∧ t.pkg.dies = s.pkg.dies ∧ portWidthLegal t.pkg.p0w = true ∧ portWidthLegal t.pkg.p1w = true) := by
  cases hf : imageFault s.kiln.flash with
  | some n =>
    refine ⟨stopFirst n s, ?_, rfl, rfl, fun _ => ⟨rfl, rfl⟩, nofun, fun _ => nofun, fun m hm => ?_⟩
    · simp only [exec, execBoot, h0, ne_eq, not_true_eq_false, if_false, hf]
    · cases hm
      exact ⟨rfl, rfl, rfl, portWidthLegal_widthCode _, portWidthLegal_widthCode _⟩
  | none =>
    have hleaves := boots_finishBoot s.kiln.flash s
    refine ⟨finishBoot s.kiln.flash s, ?_, hleaves.hbm, hleaves.flash, hleaves.regs, fun _ hb => ?_,
      fun k _ hb => finishBoot_stops _ hb, fun _ => nofun⟩
    · simp only [exec, execBoot, h0, ne_eq, not_true_eq_false, if_false, hf]
    · have hdigest := hleaves.digest
      rw [finishBoot_ready _ hb] at hdigest ⊢
      exact ⟨congrArg Kiln.bootStep (readyBoot_kiln _), readyBoot_dies _, hdigest, (readyBoot_widths _).1, (readyBoot_widths _).2,
        fun d hd => readyBoot_die _ hd⟩

/-- Request 1 of a boot stopped at step 1 (R377). -/
theorem kilnRecoveryRequest_spec (h1 : s.kiln.bootStep = 1) : ∃ t, exec .kilnRecoveryRequest s = .next t
    ∧ t.kiln.request = 1 ∧ t.kiln.flash = s.kiln.flash
    ∧ (imageFault s.kiln.recovery = none → bootFails s = none → t.kiln.bootStep = 5 ∧ t.pkg.dies = 0xF)
    ∧ (imageFault s.kiln.recovery ≠ none → t.kiln.bootStep = 1 ∧ t.pkg = s.pkg) := by
  generalize hu : ({ s with kiln := { s.kiln with request := 1 } } : State) = u
  have hrequest : u.kiln.request = 1 ∧ u.kiln.flash = s.kiln.flash ∧ bootFails u = bootFails s := by subst hu; exact ⟨rfl, rfl, rfl⟩
  cases hf : imageFault s.kiln.recovery with
  | some n =>
    refine ⟨stopBoot 1 n u, ?_, hrequest.1, hrequest.2.1, nofun, fun _ => ⟨rfl, by subst hu; rfl⟩⟩
    subst hu
    simp only [exec, execKilnRecoveryRequest, requestRecovery, h1, ne_eq, not_true_eq_false, if_false, hf]
  | none =>
    have hleaves := boots_finishBoot s.kiln.recovery u
    refine ⟨finishBoot s.kiln.recovery u, ?_, hleaves.request.trans hrequest.1, hleaves.flash.trans hrequest.2.1,
      fun _ hb => ?_, fun h => absurd rfl h⟩
    · subst hu
      simp only [exec, execKilnRecoveryRequest, requestRecovery, h1, ne_eq, not_true_eq_false, if_false, hf]
    · rw [finishBoot_ready _ (hrequest.2.2.trans hb)]
      exact ⟨congrArg Kiln.bootStep (readyBoot_kiln _), readyBoot_dies _⟩

/-- Request 2: only an accepted image rewrites the flash (R377). -/
theorem kilnFlashRewrite_spec (s : State) : ∃ t, exec .kilnFlashRewrite s = .next t ∧ t.kiln.request = 2
    ∧ t.kiln.flash = if imageFault s.kiln.recovery = none then s.kiln.recovery else s.kiln.flash := by
  refine ⟨requestRewrite s, rfl, ?_⟩
  cases hf : imageFault s.kiln.recovery with
  | some n => simp [requestRewrite, hf]
  | none => simp [requestRewrite, hf]

/-! ## The package registers -/

/-- CAP.PKG shows the module number in its bits 23 to 20 (R382). -/
theorem field_capPkg_mod {k : Package} (hm : k.mod < 16) (h0 : k.p0w < 16) (h1 : k.p1w < 16) : field (capPkg k) 20 4 = k.mod := by
  have hd : k.dies.toNat < 16 := k.dies.isLt
  simp only [field, capPkg]
  omega

/-- The module number is one of 0 to 15, as CAP.PKG shows it (R374, R382). -/
theorem moduleNumberSet_sets {m : Nat} (hm : m < 16) (h0 : s.pkg.p0w < 16) (h1 : s.pkg.p1w < 16) :
    ∃ t, exec (.moduleNumberSet m) s = .next t ∧ field (capPkg t.pkg) 20 4 = m ∧ t = { s with pkg := t.pkg } :=
  ⟨_, congrArg Host.Outcome.next (if_pos hm), field_capPkg_mod (k := { s.pkg with mod := m }) hm h0 h1, rfl⟩

theorem moduleNumberSet_ignored {m : Nat} (hm : 16 ≤ m) : exec (.moduleNumberSet m) s = .next s :=
  congrArg Host.Outcome.next (if_neg (Nat.not_lt.mpr hm))

/-- A report begins with the nonce, and the certificate with both public keys (R378). -/
theorem attestationReport_spec (s : State) (nonce : List Byte) : ∃ t, exec (.attestationReport nonce) s = .next t ∧ t.pkg = s.pkg
    ∧ t.kiln.report.take nonce.length = nonce
    ∧ t.kiln.cert.take (Config.identityEdKey ++ Config.identityMlKey).length = Config.identityEdKey ++ Config.identityMlKey := by
  refine ⟨_, rfl, rfl, ?_, ?_⟩
  · simp only [reportBody, List.append_assoc, List.take_left]
  · exact (congrArg (List.take _) (List.append_assoc ..)).trans List.take_left

/-! ## BAR0 -/

/-- The bytes of an access with the offsets at which they stand. -/
def placed (o : Nat) (data : List Byte) : List (Nat × Byte) := (List.range data.length).map (fun k => (o + k, data.getD k 0))

theorem zipIdx_eq_map_range (data : List Byte) : data.zipIdx = (List.range data.length).map (fun k => (data.getD k 0, k)) := by
  refine List.ext_getElem (by simp) fun n h₁ h₂ => ?_
  have hn : n < data.length := by simpa using h₁
  simp [hn]

/-- An access within a region reaches all its bytes there. -/
theorem barSpan_within {o base n : Nat} {data : List Byte} (hlo : base ≤ o) (hhi : o + data.length ≤ base + n) :
    barSpan o data base n = placed (o - base) data := by
  unfold barSpan placed
  rw [zipIdx_eq_map_range, List.filterMap_map, ← List.filterMap_eq_map]
  refine List.filterMap_congr fun k hk => ?_
  have hk : k < data.length := List.mem_range.mp hk
  have hin : base ≤ o + k ∧ o + k < base + n := by omega
  have ho : o + k - base = o - base + k := by omega
  simp [hin, ho]

/-- An access beside a region reaches nothing of it. -/
theorem barSpan_beside {o base n : Nat} {data : List Byte} (h : o + data.length ≤ base ∨ base + n ≤ o) : barSpan o data base n = [] := by
  unfold barSpan
  rw [zipIdx_eq_map_range, List.filterMap_map, List.filterMap_eq_nil_iff]
  intro k hk
  have hk : k < data.length := List.mem_range.mp hk
  have hout : ¬ (base ≤ o + k ∧ o + k < base + n) := by omega
  simpa using hout

theorem isEmpty_placed {o : Nat} {data : List Byte} (h : data ≠ []) : (placed o data).isEmpty = false := by
  have : data.length ≠ 0 := fun h' => h (List.length_eq_zero_iff.mp h')
  simpa [placed] using this

theorem mem_placed {o : Nat} {data : List Byte} {e : Nat × Byte} (h : e ∈ placed o data) : o ≤ e.1 ∧ e.1 < o + data.length := by
  obtain ⟨k, hk, rfl⟩ := List.mem_map.mp h
  have := List.mem_range.mp hk
  dsimp only
  omega

/-- An access of the host within the launch window of a die is a write of that window alone (R349, R373). -/
theorem barWrite_window {die o : Nat} {data : List Byte} (hd : die < 4) (hne : data ≠ []) (ho : o + data.length ≤ 0x1000) (s : State) :
    barWrite s (0x1000 * die + o) data = barWindow (placed o data) die s := by
  have hwindow : ∀ t : State, (List.range 4).foldl (fun s d =>
      let bs := barSpan (0x1000 * die + o) data (0x1000 * d) 0x1000
      if bs.isEmpty then s else barWindow bs d s) t = barWindow (placed o data) die t := by
    intro t
    have hother : ∀ (s : State) q, q ≠ die → (let bs := barSpan (0x1000 * die + o) data (0x1000 * q) 0x1000
        if bs.isEmpty then s else barWindow bs q s) = s := fun s q hq => by
      rw [barSpan_beside (by omega)]
      rfl
    refine foldl_once (P := (· = t)) (Q := (· = barWindow (placed o data) die t)) List.nodup_range (List.mem_range.mpr hd)
      (fun s q hq hs => (hother s q hq).trans hs) (fun s hs => ?_) (fun s q hq hs => (hother s q hq).trans hs) rfl
    dsimp only
    rw [barSpan_within (by omega) (by omega), Nat.add_sub_cancel_left, isEmpty_placed hne, hs]
    rfl
  unfold barWrite
  dsimp only
  rw [hwindow, barSpan_beside (by omega), barSpan_beside (by omega)]
  rfl

/-- An access of the host within the recovery buffer is a write of that buffer alone (R373, R377). -/
theorem barWrite_recovery {o : Nat} {data : List Byte} (ho : o + data.length ≤ recoverySize) (s : State) :
    barWrite s (0x300000 + o) data = barRecovery (placed o data) s := by
  have hwindow : (List.range 4).foldl (fun s d =>
      let bs := barSpan (0x300000 + o) data (0x1000 * d) 0x1000
      if bs.isEmpty then s else barWindow bs d s) s = s := by
    refine List.foldlRecOn (motive := (· = s)) _ _ rfl fun t ht d hd => ?_
    have := List.mem_range.mp hd
    dsimp only
    rw [barSpan_beside (by omega)]
    exact ht
  unfold barWrite
  dsimp only
  rw [hwindow, barSpan_beside (base := 0x200008) (by omega), barSpan_within (base := 0x300000) (by omega) (by omega),
    Nat.add_sub_cancel_left]
  rfl

/-- A byte written in a list: it reads back, and every other place as before, zero past the end. -/
theorem getD_writeBytes_singleton (l : List Byte) (o : Nat) (b : Byte) (p : Nat) :
    (writeBytes l [(o, b)]).getD p 0 = if p = o then b else l.getD p 0 := by
  have hlen : o < (l ++ List.replicate (o + 1 - l.length) 0).length := by simp; omega
  simp only [writeBytes, List.foldl_cons, List.foldl_nil, List.getD_eq_getElem?_getD]
  split
  · next h => rw [h, List.getElem?_set_self hlen, Option.getD_some]
  · next h =>
    rw [List.getElem?_set_ne (Ne.symm h), List.getElem?_append]
    split
    · rfl
    · next hp =>
      rw [List.getElem?_eq_none (Nat.le_of_not_lt hp), List.getElem?_replicate]
      split
      · rfl
      · rfl

/-- A byte of the recovery buffer that the host writes (R373, R377). -/
theorem launchWindowWrite_recovery (s : State) {o : Nat} (b : Byte) (ho : o < recoverySize) :
    ∃ t, exec (.launchWindowWrite 0 (0x300000 + o) (.write [b])) s = .next t
      ∧ t.kiln.recovery.getD o 0 = b ∧ (∀ p, p ≠ o → t.kiln.recovery.getD p 0 = s.kiln.recovery.getD p 0)
      ∧ t.kiln.request = s.kiln.request ∧ t.dies = s.dies := by
  refine ⟨barRecovery [(o, b)] s, ?_, ?_, fun p hp => ?_, rfl, rfl⟩
  · exact congrArg Host.Outcome.next ((congrArg (barWrite s · [b]) (Nat.zero_add _)).trans (barWrite_recovery (data := [b]) ho s))
  · exact (getD_writeBytes_singleton _ o b o).trans (if_pos rfl)
  · exact (getD_writeBytes_singleton _ o b p).trans (if_neg hp)

end Sys2Proof.Laws
end

section
/-! SUPPORT. Power, links and ports (R366, R370, R380, R383, R384), and the launch window (R349, R364, R365). -/

namespace Sys2Proof.Laws

open Sys2Proof Sys2Proof.Machine

variable {s : State}

/-! ## Power -/

/-- A limit of 1 to 3,200 W is taken (R380). -/
theorem powerLimitSet_sets {w : Nat} (hlo : 1 ≤ w) (hhi : w ≤ 3200) :
    exec (.powerLimitSet w) s = .next { s with pkg := { s.pkg with limit := w } } :=
  congrArg Host.Outcome.next (if_pos (by simp [hlo, hhi]))

theorem powerLimitSet_ignored {w : Nat} (hw : w = 0 ∨ 3200 < w) : exec (.powerLimitSet w) s = .next s :=
  congrArg Host.Outcome.next (if_neg (by simpa using by omega))

/-- The clock after a judgement: down above the limit, up below 95% of it (R380). -/
theorem powerThrottle_spec (s : State) (mw : Nat) : ∃ t, exec (.powerThrottle mw) s = .next t ∧ t = { s with pkg := t.pkg }
    ∧ (1000 * s.pkg.limit < mw → t.pkg.clock = max 1250 (s.pkg.clock - 125))
    ∧ (mw < 950 * s.pkg.limit → t.pkg.clock = min 2500 (s.pkg.clock + 125))
    ∧ (950 * s.pkg.limit ≤ mw → mw ≤ 1000 * s.pkg.limit → t.pkg.clock = s.pkg.clock)
    ∧ (t.pkg.throt = true ↔ t.pkg.clock < 2500) := by
  refine ⟨_, rfl, rfl, fun h => if_pos h, fun h => ?_, fun hlo hhi => ?_, decide_eq_true_iff⟩
  · exact (if_neg (by omega)).trans (if_pos h)
  · exact (if_neg (by omega)).trans (if_neg (by omega))

/-! ## Links -/

/-- A link that cannot retrain marks every die and stops the module (R366). -/
theorem linkRetrain_fails {die nb : Nat} (hd : die < 4) (hn : nb = die ^^^ 1 ∨ nb = die ^^^ 2) :
    ∃ t, exec (.linkRetrain die nb false) s = .next t ∧ t.pkg.failed = true
      ∧ (∀ d, d < 4 → (dieAt t d).linkErr = true) ∧ ∀ u, step t ≠ .next u := by
  have hlink : ¬ ((false || decide (4 ≤ die) || (decide (nb ≠ die ^^^ 1) && decide (nb ≠ die ^^^ 2))) = true) := by
    have : ¬ 4 ≤ die := Nat.not_le.mpr hd
    rcases hn with h | h
    · simp [this, h]
    · simp [this, h]
  have hmarked : ∀ d, d < 4 →
      (dieAt ((List.range 4).foldl (fun s d => modDie s d (fun q => { q with linkErr := true })) s) d).linkErr = true := by
    refine fun d hd => foldl_reaches (P := fun t => (dieAt t d).linkErr = true) (List.mem_range.mpr hd) (fun t => ?_) (fun t q ht => ?_) s
    · rw [dieAt_modDie_self]
    · by_cases hq : d = q
      · rw [hq, dieAt_modDie_self]
      · rw [dieAt_modDie_other _ _ hq, ht]
  have hexec : exec (.linkRetrain die nb false) s = _ := congrArg Host.Outcome.next (if_neg hlink)
  generalize (List.range 4).foldl (fun s d => modDie s d (fun q => { q with linkErr := true })) s = t at hmarked hexec
  refine ⟨_, hexec, rfl, hmarked, fun u => ?_⟩
  rw [step, if_pos rfl]
  exact nofun

/-! ## Ports -/

theorem portAt_modPort (s : State) (n m : Nat) (f : Port → Port) :
    portAt (modPort s n f) m = if m = n then f (portAt s n) else portAt s m :=
  tabGet_tabSet _ _ _ _ _

/-- A host port that loses lanes comes back at a smaller width, and the other stays (R370). -/
theorem hostPortRetrain_spec {w : Nat} (hw : w = 0x8 ∨ w = 0x4) :
    (w < s.pkg.p0w → exec (.hostPortRetrain 0 w) s = .next { s with pkg := { s.pkg with p0w := w } })
    ∧ (w < s.pkg.p1w → exec (.hostPortRetrain 1 w) s = .next { s with pkg := { s.pkg with p1w := w } }) := by
  have hwidth : ¬ ((decide (w ≠ 0x8) && decide (w ≠ 0x4)) = true) := by rcases hw with rfl | rfl <;> decide
  refine ⟨fun h => congrArg Host.Outcome.next ((if_neg hwidth).trans (if_pos ?_)),
    fun h => congrArg Host.Outcome.next ((if_neg hwidth).trans ((if_neg ?_).trans (if_pos ?_)))⟩
  · simpa using h
  · simp
  · simpa using h

/-- A flit that is sent again is counted at its port (R383). -/
theorem flitRetry_counts {n : Nat} (hn : n < 16) : exec (.flitRetry n) s
    = .next (modPort s n (fun q => { q with retries := min 65535 (q.retries + 1) })) :=
  congrArg Host.Outcome.next (if_neg (Nat.not_le.mpr hn))

/-- A port that loses lanes comes back with fewer (R384). -/
theorem portRetrain_lowers {n l : Nat} (hn : n < 16) (hl : l < (portAt s n).lanes) (hm : l ∈ [4, 2, 0]) :
    exec (.portRetrain n l) s = .next (modPort s n (fun q => { q with lanes := l })) := by
  have hport : ¬ 16 ≤ n ∧ ¬ (portAt s n).lanes ≤ l := by omega
  have hlanes : [4, 2, 0].contains l = true := List.contains_iff_mem.mpr hm
  exact congrArg Host.Outcome.next (if_neg (by rw [hlanes]; simp [hport]))

/-! ## The launch window -/

/-- An access that covers the last doubleword of the record has written the record whole (R349). -/
theorem placed_whole {o : Nat} {data : List Byte} (hlo : o ≤ 0x78) (hhi : 0x80 ≤ o + data.length) :
    (List.range 8).all (fun k => ((placed o data).filter (·.1 < 0x80)).any (·.1 = 0x78 + k)) = true := by
  refine List.all_eq_true.mpr fun k hk => List.any_eq_true.mpr ⟨(0x78 + k, data.getD (0x78 + k - o) 0), ?_, by simp⟩
  have hk := List.mem_range.mp hk
  refine List.mem_filter.mpr ⟨List.mem_map.mpr ⟨0x78 + k - o, List.mem_range.mpr (by omega), ?_⟩, by simpa using by omega⟩
  rw [Nat.add_sub_cancel' (by omega)]

/-- An access below 0x088 reaches the record alone, not the registers behind it (R364). -/
theorem barWindow_record {o die : Nat} {data : List Byte} (h : o + data.length ≤ 0x88) (s : State) :
    barWindow (placed o data) die s = windowWrite s die ((placed o data).filter (·.1 < 0x80)) := by
  have hdrop : (placed o data).any (fun e => decide (e.1 / 8 = 0x11)) = false := by
    refine List.any_eq_false.mpr fun e he => ?_
    have := (mem_placed he).2
    simp only [decide_eq_true_eq]
    omega
  have hwake : (placed o data).find? (fun e => decide (e.1 = 0x90)) = none := by
    refine List.find?_eq_none.mpr fun e he => ?_
    have := (mem_placed he).2
    simp only [decide_eq_true_eq]
    omega
  unfold barWindow
  simp only [hdrop, hwake, Bool.false_eq_true, if_false]

/-- A record that meets a full queue is dropped and counted (R349). -/
theorem windowWrite_full {die : Nat} {bs : List (Nat × Byte)} (hw : (List.range 8).all (fun k => bs.any (·.1 = 0x78 + k)) = true)
    (hq : 64 ≤ (dieAt s die).lqueue.length) :
    windowWrite s die bs = modDie s die (fun d => { d with winDrop := min (2 ^ 32 - 1) (d.winDrop + 1) }) := by
  unfold windowWrite
  simp only [hw, hq, decide_true, Bool.and_self, if_true]

/-- The bytes of the window behind a write of a whole record from its beginning. -/
theorem window_filled {data : List Byte} (hlen : data.length = 128) (w : Tab Byte) :
    (List.range 128).map (tabGet 0 (((placed 0 data).filter (·.1 < 0x80)).foldl
      (fun t e => if e.1 < 0x80 then tabSet 0 t e.1 e.2 else t) w)) = data := by
  have hall : (placed 0 data).filter (·.1 < 0x80) = placed 0 data :=
    List.filter_eq_self.mpr fun e he => by
      have := (mem_placed he).2
      simpa using by omega
  have hwrites : (placed 0 data).foldl (fun t e => if e.1 < 0x80 then tabSet 0 t e.1 e.2 else t) w
      = (List.range 128).foldl (fun t k => tabSet 0 t (0 + k) (data.getD k 0)) w := by
    rw [placed, List.foldl_map, hlen]
    refine List.foldl_ext _ _ _ fun t k hk => if_pos ?_
    have := List.mem_range.mp hk
    dsimp only
    omega
  rw [hall, hwrites]
  refine List.ext_getElem (by simp [hlen]) fun n h₁ h₂ => ?_
  have hn : n < 128 := hlen ▸ h₂
  rw [List.getElem_map, List.getElem_range, tabGet_foldl_tabSet, if_pos (by omega), Nat.sub_zero, List.getD_eq_getElem _ _ h₂]

/-- A whole record that finds room is the youngest of its die's queue (R349). -/
theorem windowWrite_enters {die : Nat} {data : List Byte} (hlen : data.length = 128) (hq : (dieAt s die).lqueue.length < 64) :
    (dieAt (windowWrite s die ((placed 0 data).filter (·.1 < 0x80))) die).lqueue
      = (dieAt s die).lqueue ++ [.window ((chunksOf 8 16 data).map (BitVec.ofNat 64))] := by
  unfold windowWrite
  rw [placed_whole (by omega) (by omega)]
  have : ¬ 64 ≤ (dieAt s die).lqueue.length := by omega
  simp only [this, decide_false, Bool.and_false, Bool.false_eq_true, if_false, dieAt_modDie_self, if_true]
  rw [window_filled hlen]

theorem barByte_window {die o : Nat} (hd : die < 4) (ho : o < 0x1000) :
    barByte s (0x1000 * die + o) = windowByte (dieAt s die) o := by
  have hlo : 0x1000 * die + o < 0x4000 := by omega
  have hdie : (0x1000 * die + o) / 0x1000 = die := by omega
  have hoff : (0x1000 * die + o) % 0x1000 = o := by omega
  unfold barByte
  dsimp only
  rw [if_pos hlo, hdie, hoff]

/-- WIN.FREE as the host reads it: the room of the die's queue (R364, R365). -/
theorem given_free {die : Nat} (hd : die < 4) :
    ofBytes ((List.range 8).map (fun k => barByte s (0x1000 * die + 0x080 + k))) = 64 - (dieAt s die).lqueue.length := by
  have hbytes : (List.range 8).map (fun k => barByte s (0x1000 * die + 0x080 + k)) = toBytes 8 (64 - (dieAt s die).lqueue.length) := by
    refine List.map_congr_left fun k hk => ?_
    have hk := List.mem_range.mp hk
    have hplace : (0x080 + k) / 8 * 8 = 0x080 ∧ (0x080 + k) % 8 = k ∧ ¬ 0x080 + k < 0x80 := by omega
    rw [Nat.add_assoc, barByte_window hd (by omega), windowByte, if_neg hplace.2.2, hplace.1, hplace.2.1, windowReg, if_pos rfl,
      pow_mul]
    rfl
  rw [hbytes, ofBytes_toBytes, Nat.mod_eq_of_lt]
  have : (64 : Nat) < 256 ^ 8 := by decide
  omega

/-- PART.WAKE holds what was written to it last (R361, R365). -/
theorem wake_setWake (s : State) (die : Nat) (mask : Word) : (dieAt (setWake s die mask) die).wake = mask.setWidth 8 := by
  unfold setWake
  extract_lets old t
  refine List.foldlRecOn (motive := fun u => (dieAt u die).wake = mask.setWidth 8) (List.range 8) _ ?_ fun u hu p _ => ?_
  · rw [dieAt_modDie_self]
  · split
    · rw [dieAt_modPart]
      exact hu
    · exact hu

end Sys2Proof.Laws
end

section
/-! SUPPORT. What asynchronous changes leave of cores and partitions: writes at the homes, records, wakes and squashes (R32, R185,
R202, R262). -/

namespace Sys2Proof.Laws

open Sys2Proof Sys2Proof.Machine

/-- What a core is to the distributor: whether it is saved, for which gang, and how long its last restore took. -/
def standing (k : Core) : Bool × Option (Nat × Nat) × Nat := (k.saving, k.gang, k.srcost)

/-- What a partition is to the distributor: its rectangle, its sample, and the gangs of the cores that stand aside. -/
def recorded (p : Part) : Word × Option Sample × Bool × List (Nat × Option (Nat × Nat)) :=
  (p.cfg, p.sample, p.quiet, p.saves.map (fun e => (e.1, e.2.gang)))

/-- Cores and partitions stand as before, L1s take no dirty byte, an L1 without clean lines takes none, and no free value is used. -/
structure Stands (s t : State) : Prop where
  counter : t.freeCounter = s.freeCounter
  cores : ∀ k, standing (coreAt t k) = standing (coreAt s k)
  parts : ∀ d p, recorded (partAt t d p) = recorded (partAt s d p)
  dirty : ∀ k, (coreAt t k).dirty ⊆ (coreAt s k).dirty
  clean : ∀ k, (coreAt s k).clean = [] → (coreAt t k).clean = []

variable {s t u : State}

theorem Stands.refl (s : State) : Stands s s := ⟨rfl, fun _ => rfl, fun _ _ => rfl, fun _ => List.Subset.refl _, fun _ h => h⟩

theorem Stands.trans (h : Stands s t) (h' : Stands t u) : Stands s u where
  counter := h'.counter.trans h.counter
  cores k := (h'.cores k).trans (h.cores k)
  parts d p := (h'.parts d p).trans (h.parts d p)
  dirty k := List.Subset.trans (h'.dirty k) (h.dirty k)
  clean k hk := h'.clean k (h.clean k hk)

theorem stands_ite {p : Prop} [Decidable p] (h : Stands s t) (h' : Stands s u) : Stands s (if p then t else u) := by
  split
  · exact h
  · exact h'

theorem stands_foldl {β : Type} {f : State → β → State} (hf : ∀ s b, Stands s (f s b)) (l : List β) (s : State) :
    Stands s (l.foldl f s) :=
  List.foldlRecOn l f (.refl s) fun t ht b _ => ht.trans (hf t b)

theorem Stands.saving (h : Stands s t) (k : Nat) : (coreAt t k).saving = (coreAt s k).saving := congrArg Prod.fst (h.cores k)

theorem Stands.gang (h : Stands s t) (k : Nat) : (coreAt t k).gang = (coreAt s k).gang := congrArg (·.2.1) (h.cores k)

theorem Stands.srcost (h : Stands s t) (k : Nat) : (coreAt t k).srcost = (coreAt s k).srcost := congrArg (·.2.2) (h.cores k)

/-! ## The primitive changes -/

/-- A change of neither cores, nor dies, nor the numbering of free values. -/
theorem stands_outside (hc : t.cores = s.cores) (hd : t.dies = s.dies) (hn : t.freeCounter = s.freeCounter) : Stands s t := by
  have hcore : ∀ k, coreAt t k = coreAt s k := fun k => by unfold coreAt; rw [hc]
  have hpart : ∀ d p, partAt t d p = partAt s d p := fun d p => by unfold partAt dieAt; rw [hd]
  exact ⟨hn, fun k => by rw [hcore], fun d p => by rw [hpart], fun k => by rw [hcore]; exact List.Subset.refl _,
    fun k h => by rw [hcore, h]⟩

theorem OnlyHomes.stands (h : OnlyHomes s t) : Stands s t := by
  unfold OnlyHomes at h
  exact stands_outside (by rw [h]) (by rw [h]) (by rw [h])

theorem stands_modCore (s : State) (n : Nat) {f : Core → Core} (hs : standing (f (coreAt s n)) = standing (coreAt s n))
    (hd : (f (coreAt s n)).dirty ⊆ (coreAt s n).dirty) (hc : (coreAt s n).clean = [] → (f (coreAt s n)).clean = []) :
    Stands s (modCore s n f) := by
  have hcore : ∀ k, coreAt (modCore s n f) k = coreAt s k ∨ k = n ∧ coreAt (modCore s n f) k = f (coreAt s n) := fun k => by
    rw [coreAt_modCore]
    split
    · next h => exact .inr ⟨h, rfl⟩
    · exact .inl rfl
  refine ⟨rfl, fun k => ?_, fun _ _ => rfl, fun k => ?_, fun k hk => ?_⟩
  all_goals rcases hcore k with h | ⟨rfl, h⟩
  · rw [h]
  · rw [h, hs]
  · rw [h]
    exact List.Subset.refl _
  · rw [h]
    exact hd
  · rw [h, hk]
  · rw [h, hc hk]

/-- A change of a core that concerns neither the distributor nor its L1. -/
theorem stands_inCore (s : State) (n : Nat) {f : Core → Core} (hs : ∀ k, standing (f k) = standing k)
    (hl : ∀ k, (f k).dirty = k.dirty ∧ (f k).clean = k.clean) : Stands s (modCore s n f) :=
  stands_modCore s n (hs _) (by rw [(hl _).1]; exact List.Subset.refl _) fun h => (hl _).2.trans h

theorem stands_modCtx (s : State) (c : CtxId) (f : Ctx → Ctx) : Stands s (modCtx s c f) :=
  stands_inCore s c.core (f := fun k => { k with ctxs := tabSet Ctx.blank k.ctxs c.ctx (f (ctxAt s c)) }) (fun _ => rfl)
    fun _ => ⟨rfl, rfl⟩

theorem stands_modFrame (s : State) (c : CtxId) (n : Nat) (f : Frame → Frame) : Stands s (modFrame s c n f) := stands_modCtx s c _

theorem stands_modDie (s : State) (n : Nat) {f : Die → Die} (hf : ∀ d, (f d).parts = d.parts) : Stands s (modDie s n f) := by
  refine ⟨rfl, fun _ => rfl, fun d p => ?_, fun _ => List.Subset.refl _, fun _ h => h⟩
  unfold partAt partIn
  by_cases hd : d = n
  · rw [hd, dieAt_modDie_self, hf]
  · rw [dieAt_modDie_other _ _ hd]

theorem stands_modPart (s : State) (d p : Nat) {f : Part → Part} (hf : ∀ q, recorded (f q) = recorded q) : Stands s (modPart s d p f) := by
  refine ⟨rfl, fun _ => rfl, fun d' p' => ?_, fun _ => List.Subset.refl _, fun _ h => h⟩
  rw [partAt_modPart]
  split
  · next h => rw [hf, h.1, h.2]
  · rfl

theorem stands_modPartOf (s : State) (c : CtxId) {f : Part → Part} (hf : ∀ q, recorded (f q) = recorded q) :
    Stands s (modPartOf s c f) := stands_modPart s _ _ hf

/-- A saved core of a list that changes within leaves the gangs as they are. -/
theorem gangs_listSet (l : List (Nat × Core)) (n : Nat) {f : Core → Core} (hf : ∀ k, (f k).gang = k.gang) :
    (listSet l n (fun e => (e.1, f e.2))).map (fun e => (e.1, e.2.gang)) = l.map (fun e => (e.1, e.2.gang)) := by
  refine List.ext_getElem? fun m => ?_
  rw [listSet, List.getElem?_map, List.getElem?_map, List.getElem?_modify]
  split
  · cases l[m]? with
    | none => rfl
    | some e => simp [hf]
  · simp

theorem stands_modThread (s : State) (t : Thread) (f : Ctx → Ctx) : Stands s (modThread s t f) := by
  unfold modThread modThreadCore
  cases t.aside with
  | none => exact stands_inCore s _ (fun _ => rfl) fun _ => ⟨rfl, rfl⟩
  | some n =>
    refine stands_modPart s _ _ fun q => ?_
    have h := gangs_listSet q.saves n (f := fun k => { k with ctxs := tabSet Ctx.blank k.ctxs t.c.ctx (f (ctxIn k t.c.ctx)) }) fun _ => rfl
    unfold recorded
    dsimp only at h ⊢
    rw [h]

theorem stands_modMate (s : State) (c : CtxId) (k : Nat) (f : Ctx → Ctx) : Stands s (modMate s c k f) := stands_modThread s _ f

theorem stands_setReserved (s : State) (l : Loc) (f : Nat → Nat) : Stands s (setReserved s l f) := by
  unfold setReserved
  cases l with
  | pa a v => exact stands_outside rfl rfl rfl
  | spad k o => exact stands_inCore s k (fun _ => rfl) fun _ => ⟨rfl, rfl⟩
  | _ => exact .refl s

/-! ## Squashing -/

theorem stands_releaseTags (s : State) (c : CtxId) (fr : Frame) (sel : Tag → Bool) : Stands s (releaseTags s c fr sel) := by
  unfold releaseTags
  extract_lets queued units spawns waits freed mine live handles watch
  have hqueued : Stands s queued := stands_ite (.refl s) (stands_outside rfl rfl rfl)
  have hunits : Stands s units := hqueued.trans (stands_foldl (fun s _ => stands_setReserved s _ _) _ _)
  have hspawns : Stands s spawns := by
    refine hunits.trans (stands_foldl (fun s p => ?_) _ _)
    split
    · exact stands_modCtx s _ _
    · exact .refl s
  have hhandles : Stands s handles := stands_ite (hspawns.trans (stands_modPartOf _ c fun _ => rfl)) hspawns
  have hwatch : Stands s watch := hhandles.trans (stands_modCtx _ c _)
  exact hwatch.trans (stands_modPartOf _ c fun _ => rfl)

theorem stands_giveBack (s : State) (c : CtxId) (pos : Nat) (fls : List Flight) : Stands s (giveBack s c pos fls) :=
  stands_ite (.refl s) (stands_modCtx s c _)

theorem stands_finishWalk (s : State) (c : CtxId) : Stands s (finishWalk s c) := by
  unfold finishWalk
  split
  · exact .refl s
  · have hw : Stands s (modCtx s c (fun x => { x with walk := none })) := stands_modCtx s c _
    dsimp only
    split
    · exact hw
    · refine (hw.trans ?_).trans (stands_modCtx _ c _)
      exact stands_modDie _ _ fun _ => rfl

theorem stands_squashFrom (s : State) (c : CtxId) (n : Nat) : Stands s (squashFrom s c n) := by
  unfold squashFrom
  dsimp only
  refine .trans ?_ (stands_modCtx _ c _)
  exact (stands_ite (stands_finishWalk s c) (.refl s)).trans (stands_foldl (fun s fr => stands_releaseTags s c fr _) _ _)

theorem stands_dropMember (c : CtxId) (pos : Nat) (old : Option Nat → Bool) (s : State) (k : Nat) :
    Stands s (dropMember c pos old s k) := by
  unfold dropMember
  refine .trans ?_ (stands_modMate _ c k _)
  exact stands_ite (stands_squashFrom s _ _) (.refl s)

theorem stands_squashCourse (s : State) (c : CtxId) (n : Nat) : Stands s (squashCourse s c n) := by
  unfold squashCourse
  dsimp only
  split
  · exact (stands_squashFrom s c n).trans (stands_foldl (fun s k => stands_dropMember c _ _ s k) _ _)
  · exact stands_squashFrom s c n

theorem stands_discardOwn (s : State) (c : CtxId) (n t : Nat) : Stands s (discardOwn s c n t) := by
  unfold discardOwn
  split
  · exact .refl s
  · exact ((stands_releaseTags s c _ _).trans (stands_modFrame _ c n _)).trans (stands_giveBack _ c _ _)

theorem stands_discardMate (c : CtxId) (pos t : Nat) (s : State) (k : Nat) : Stands s (discardMate c pos t s k) := by
  unfold discardMate
  dsimp only
  refine .trans ?_ (stands_modMate _ c k _)
  split
  · exact stands_discardOwn s _ _ _
  · exact .refl s

theorem stands_discardIters (s : State) (c : CtxId) (n t : Nat) : Stands s (discardIters s c n t) := by
  unfold discardIters
  split
  · exact .refl s
  · have h := stands_discardOwn s c n t
    exact stands_ite (h.trans (stands_foldl (fun s k => stands_discardMate c _ t s k) _ _)) h

theorem stands_squashLater (s : State) (c : CtxId) : Stands s (squashLater s c) := by
  have h := stands_squashCourse s c 1
  unfold squashLater squashYounger
  dsimp only
  split
  · exact stands_ite (h.trans (stands_discardIters _ c 0 _)) h
  · exact h

/-! ## Wakes and records -/

theorem stands_wakeWatches (s : State) (touched : List Loc) : Stands s (wakeWatches s touched) := by
  refine stands_foldl (fun s k => stands_ite (stands_foldl (fun s e => ?_) _ s) (.refl s)) _ s
  cases (ctxAt s ⟨k, e.1⟩).watch with
  | none => exact .refl s
  | some wt =>
    refine stands_ite ?_ (.refl s)
    exact ((stands_modCtx s ⟨k, e.1⟩ _).trans (stands_squashLater _ _)).trans (stands_modCtx _ _ _)

theorem stands_slotRecords (s : State) (c : CtxId) (rs : List Record) : Stands s (slotRecords s c rs) := by
  refine stands_ite (stands_foldl (fun s r => ?_) _ s) (.trans (stands_modCtx s c fun x => { x with slot := x.slot ++ rs }) ?_)
  · exact stands_modDie s _ fun _ => rfl
  · exact stands_modPartOf _ c fun _ => rfl

theorem stands_asyncRecord (s : State) (c : CtxId) (r : RecordArgs) : Stands s (asyncRecord s c r) := by
  unfold asyncRecord sendRecord
  dsimp only
  refine stands_ite (stands_slotRecords s c _) (stands_ite ?_ (stands_modCtx s c _))
  exact (stands_slotRecords s c _).trans (stands_modCtx _ c _)

theorem stands_asyncRecords (s : State) (rs : List (CtxId × RecordArgs)) : Stands s (asyncRecords s rs) := by
  refine stands_foldl (fun s e => ?_) rs s
  exact stands_asyncRecord s e.1 e.2

/-! ## An L1 that is emptied -/

theorem stands_dropDirty (s : State) (n : Nat) (p : Nat × DirtyByte → Bool) :
    Stands s (modCore s n (fun k => { k with dirty := k.dirty.filter p })) :=
  stands_modCore s n rfl List.filter_sublist.subset id

theorem stands_mergeClean (s : State) (c : CtxId) (key : Nat) (b : Byte) : Stands s (mergeClean s c key b) := by
  refine stands_foldl (fun s k => ?_) _ s
  split
  · next line h =>
    refine stands_modCore s k rfl (List.Subset.refl _) fun hc => ?_
    rw [hc] at h
    cases h
  · exact .refl s

theorem stands_dropOwnClean (s : State) (c : CtxId) (key : Nat) : Stands s (dropOwnClean s c key) := by
  refine stands_foldl (fun s k => stands_ite (stands_modCore s k rfl (List.Subset.refl _) fun hc => ?_) (.refl s)) _ s
  dsimp only
  rw [hc]
  rfl

theorem stands_drainByte (s : State) (e : Nat × DirtyByte) : Stands s (drainByte s e) :=
  stands_ite (stands_inCore s _ (fun _ => rfl) fun _ => ⟨rfl, rfl⟩) (.refl s)

/-- A drain of all pending scratchpad stores of a core leaves none (R264). -/
theorem drainSpad_spec (s : State) (core : Nat) : Stands s (drainSpad s core (fun _ => true))
    ∧ ∀ e ∈ (coreAt (drainSpad s core (fun _ => true)) core).dirty, e.1 < spadBase := by
  unfold drainSpad
  extract_lets all dropped
  have hdropped : Stands s dropped := stands_dropDirty s core _
  by_cases hall : all.isEmpty = true
  · rw [if_pos hall]
    refine ⟨.refl s, fun e he => Nat.lt_of_not_le fun hle => ?_⟩
    have : e ∈ all := List.mem_filter.mpr ⟨he, by simpa using hle⟩
    rw [List.isEmpty_iff.mp hall] at this
    cases this
  · rw [if_neg hall]
    have hrest := (stands_foldl stands_drainByte all dropped).trans
      (stands_wakeWatches _ (all.map (fun e => Loc.spad ((e.1 - spadBase) / 2 ^ 19) (e.1 % 2 ^ 19))))
    refine ⟨hdropped.trans hrest, fun e he => ?_⟩
    have hmem := hrest.dirty core he
    simp only [dropped, coreAt_modCore_self, List.mem_filter] at hmem
    simpa using hmem.2

/-- A carry of all dirty bytes of an L1 leaves none (R262). -/
theorem carryHome_spec (s : State) (core : Nat) : Stands s (carryHome s core (fun _ => true) none).1
    ∧ ∀ e ∈ (coreAt (carryHome s core (fun _ => true) none).1 core).dirty, e ∈ (coreAt s core).dirty ∧ ¬ e.1 < spadBase := by
  unfold carryHome carryHomeBy
  extract_lets all judged good bad dropped merged cleaned lost woken
  have hdropped : Stands s dropped := stands_dropDirty s core _
  have hmerged : Stands dropped merged := (onlyHomes_homeMerge _ _ _).stands
  have hcleaned : Stands dropped cleaned := hmerged.trans (stands_foldl (fun s e => stands_mergeClean s _ _ _) _ _)
  have hlost : Stands dropped lost := hcleaned.trans (stands_foldl (fun s e => stands_dropOwnClean s _ _) _ _)
  have hwoken : Stands dropped woken := hlost.trans (stands_wakeWatches _ _)
  refine ⟨hdropped.trans hwoken, fun e he => ?_⟩
  have hmem := hwoken.dirty core he
  simp only [dropped, coreAt_modCore_self, List.mem_filter] at hmem
  simpa using hmem

/-- An L1 that is written back and invalidated is empty; the others gain nothing (R262). -/
theorem emptyL1_spec (s : State) (core : Nat) : Stands s (emptyL1 s core)
    ∧ (coreAt (emptyL1 s core) core).dirty = [] ∧ (coreAt (emptyL1 s core) core).clean = [] := by
  obtain ⟨hdrain, hbelow⟩ := drainSpad_spec s core
  obtain ⟨hcarry, habove⟩ := carryHome_spec (drainSpad s core (fun _ => true)) core
  have hrecords := stands_asyncRecords (carryHome (drainSpad s core (fun _ => true)) core (fun _ => true) none).1
    (carryHome (drainSpad s core (fun _ => true)) core (fun _ => true) none).2
  have hflush : Stands s (flushCore s core) := (hdrain.trans hcarry).trans hrecords
  have hnone : (coreAt (flushCore s core) core).dirty = [] := List.eq_nil_iff_forall_not_mem.mpr fun e he =>
    (habove e (hrecords.dirty core he)).2 (hbelow e (habove e (hrecords.dirty core he)).1)
  unfold emptyL1
  refine ⟨hflush.trans (stands_modCore _ core rfl (List.Subset.refl _) fun _ => rfl), ?_, ?_⟩
  · rw [coreAt_modCore_self]
    exact hnone
  · rw [coreAt_modCore_self]

/-- Several L1s that are written back and invalidated, one after the other. -/
theorem emptyL1s_spec (s : State) (l : List Nat) : Stands s (l.foldl emptyL1 s)
    ∧ ∀ k ∈ l, (coreAt (l.foldl emptyL1 s) k).dirty = [] ∧ (coreAt (l.foldl emptyL1 s) k).clean = [] := by
  refine ⟨stands_foldl (fun s k => (emptyL1_spec s k).1) l s, fun k hk => ?_⟩
  refine foldl_reaches (P := fun t => (coreAt t k).dirty = [] ∧ (coreAt t k).clean = []) hk (fun t => (emptyL1_spec t k).2)
    (fun t q ht => ?_) s
  have h := (emptyL1_spec t q).1
  exact ⟨List.subset_nil.mp (ht.1 ▸ h.dirty k), h.clean k ht.2⟩

end Sys2Proof.Laws
end

section
/-! SUPPORT. A cluster that powers down (R380). -/

namespace Sys2Proof.Laws

open Sys2Proof Sys2Proof.Machine

variable {s : State}

/-- The scratchpads and accumulators of some cores lose their power. -/
def lostAll (n : Nat) (l : List Nat) (s : State) : State :=
  l.foldl (fun s k => modCore s k (fun c => { c with spad := lostSpad n k, accs := [] })) s

theorem coreAt_lostAll (n : Nat) (l : List Nat) (s : State) (q : Nat) : coreAt (lostAll n l s) q
      = if q ∈ l then { coreAt s q with spad := lostSpad n q, accs := [] } else coreAt s q := by
  unfold lostAll
  induction l generalizing s with
  | nil => rfl
  | cons k l ih =>
    rw [List.foldl_cons, ih, coreAt_modCore]
    by_cases hk : q = k
    · subst hk
      simp
    · simp [hk]

/-- The L1s of an idle cluster are emptied, and then its power goes (R380). -/
theorem clusterPowerDown_idle {cl : Nat} (hp : (clusterAt s cl).powered = true) (hi : clusterIdle s cl = true) :
    exec (.clusterPowerDown cl) s = .next (modCluster { lostAll s.freeCounter ((List.range 8).map (fun k => 8 * cl + k))
      (((List.range 8).map (fun k => 8 * cl + k)).foldl emptyL1 s) with freeCounter := s.freeCounter + 1 } cl
      (fun k => { k with powered := false })) := by
  have hcounter := (emptyL1s_spec s ((List.range 8).map (fun k => 8 * cl + k))).1.counter
  unfold lostAll
  simp only [exec, execClusterPowerDown, hp, hi, Bool.not_true, Bool.or_self, Bool.false_eq_true, if_false, hcounter]

/-- What an idle cluster loses with its power (R380). -/
theorem clusterPowerDown_spec {cl core : Nat} (hp : (clusterAt s cl).powered = true) (hi : clusterIdle s cl = true)
    (hcl : core / 8 = cl) : ∃ t, exec (.clusterPowerDown cl) s = .next t
      ∧ (clusterAt t cl).powered = false ∧ (coreAt t core).accs = [] ∧ (coreAt t core).dirty = [] ∧ (coreAt t core).clean = []
      ∧ (coreAt t core).spad = lostSpad s.freeCounter core := by
  have hmem : core ∈ (List.range 8).map (fun k => 8 * cl + k) :=
    List.mem_map.mpr ⟨core % 8, List.mem_range.mpr (Nat.mod_lt _ (by decide)), by omega⟩
  obtain ⟨hdirty, hclean⟩ := (emptyL1s_spec s ((List.range 8).map (fun k => 8 * cl + k))).2 core hmem
  have hlost := coreAt_lostAll s.freeCounter ((List.range 8).map (fun k => 8 * cl + k))
    (((List.range 8).map (fun k => 8 * cl + k)).foldl emptyL1 s) core
  rw [if_pos hmem] at hlost
  have hexec := clusterPowerDown_idle hp hi
  generalize lostSpad s.freeCounter core = lost at hlost ⊢
  generalize lostAll s.freeCounter ((List.range 8).map (fun k => 8 * cl + k))
    (((List.range 8).map (fun k => 8 * cl + k)).foldl emptyL1 s) = t at hexec hlost
  generalize coreAt (((List.range 8).map (fun k => 8 * cl + k)).foldl emptyL1 s) core = k at hdirty hclean hlost
  refine ⟨_, hexec, by rw [clusterAt_modCluster_self], ?_⟩
  rw [coreAt_modCluster]
  have hcore : coreAt { t with freeCounter := s.freeCounter + 1 } core = coreAt t core := rfl
  rw [hcore, hlost]
  exact ⟨rfl, hdirty, hclean, rfl⟩

end Sys2Proof.Laws
end

section
/-! CERTIFICATES. Boot, recovery, power, links and ports (R366, R370, R373 to R378, R380, R382 to R384). -/

namespace Sys2Proof.Laws

open Sys2Proof Sys2Proof.Machine

/-- Settles O58: boot by the image that is accepted or refused, the package registers by their ranges, and a cluster's loss
of power by what its L1s write back before it. -/
theorem packageEvents : Obligations.PackageEvents := by
  refine ⟨fun s => ?_, fun s => ?_⟩
  · exact ⟨boot_spec, boot_begun, kilnRecoveryRequest_spec, kilnFlashRewrite_spec s, fun m => moduleNumberSet_sets,
      fun m => moduleNumberSet_ignored, attestationReport_spec s, fun o b => launchWindowWrite_recovery s b⟩
  · refine ⟨fun w hlo hhi => ⟨_, powerLimitSet_sets hlo hhi, rfl, rfl⟩, fun w => powerLimitSet_ignored,
      fun mw _ _ => powerThrottle_spec s mw, fun _ _ => rfl, fun die nb => linkRetrain_fails,
      fun w hw hlt => ⟨_, (hostPortRetrain_spec hw).1 hlt, rfl, rfl⟩, fun w hw hlt => ⟨_, (hostPortRetrain_spec hw).2 hlt, rfl, rfl⟩,
      fun n hn => ⟨_, flitRetry_counts hn, ?_, ?_, fun m hm => ?_⟩, fun n l hn hl hm => ⟨_, portRetrain_lowers hn hl hm, ?_, fun m hm => ?_⟩,
      fun cl core => clusterPowerDown_spec⟩
    · rw [portAt_modPort, if_pos rfl]
    · rw [portAt_modPort, if_pos rfl]
    · rw [portAt_modPort, if_neg hm]
    · rw [portAt_modPort, if_pos rfl]
    · rw [portAt_modPort, if_neg hm]

end Sys2Proof.Laws
end

section
/-! SUPPORT. Changes of launches and reservations (R351 to R353), writes that the device makes itself, and what is saved of a
place (R203, R204, R209). -/

namespace Sys2Proof.Laws

open Sys2Proof Sys2Proof.Machine

variable {s t : State}

/-! ## Launches of a partition -/

theorem partAt_modLaunch (s : State) (die part lid : Nat) (f : Launch → Launch) : partAt (modLaunch s die part lid f) die part
    = { partAt s die part with launches := (partAt s die part).launches.map (fun l => if l.lid = lid then f l else l) } := by
  unfold modLaunch
  rw [partAt_modPart_self]

theorem partAt_modPart_other (s : State) (die : Nat) {part p : Nat} (f : Part → Part) (h : p ≠ part) :
    partAt (modPart s die part f) die p = partAt s die p := by
  rw [partAt_modPart, if_neg fun hp => h hp.2]

/-- A withdrawn reservation, and its launch Waiting again, are all that a launch of higher priority changes (R353). -/
theorem outrank_cases (s : State) (die part : Nat) : outrank s die part = s
    ∨ outrank s die part = modPart s die part (fun p => { p with reserve := none })
    ∨ ∃ lid, outrank s die part = modLaunch (modPart s die part (fun p => { p with reserve := none })) die part lid
        (fun l => { l with st := 0 }) := by
  unfold outrank
  dsimp only
  split
  · split
    · split
      · exact .inr (.inr ⟨_, rfl⟩)
      · exact .inl rfl
    · exact .inr (.inl rfl)
  · exact .inl rfl

theorem coreAt_outrank (s : State) (die part k : Nat) : coreAt (outrank s die part) k = coreAt s k := by
  rcases outrank_cases s die part with h | h | ⟨lid, h⟩
  all_goals rw [h]
  all_goals rfl

theorem partAt_outrank_other (s : State) (die : Nat) {part p : Nat} (h : p ≠ part) :
    partAt (outrank s die part) die p = partAt s die p := by
  rcases outrank_cases s die part with hc | hc | ⟨lid, hc⟩
  · rw [hc]
  · rw [hc, partAt_modPart_other _ _ _ h]
  · rw [hc, modLaunch, partAt_modPart_other _ _ _ h, partAt_modPart_other _ _ _ h]

/-- A launch of a partition that has waited for so long. -/
def HasAged (s : State) (die part lid aged : Nat) : Prop := ∃ l ∈ (partAt s die part).launches, l.lid = lid ∧ l.aged = aged

theorem hasAged_outrank {die part lid aged : Nat} (h : HasAged s die part lid aged) : HasAged (outrank s die part) die part lid aged := by
  obtain ⟨l, hl, hlid, haged⟩ := h
  unfold HasAged
  rcases outrank_cases s die part with hc | hc | ⟨n, hc⟩
  · rw [hc]
    exact ⟨l, hl, hlid, haged⟩
  · rw [hc, partAt_modPart_self]
    exact ⟨l, hl, hlid, haged⟩
  · rw [hc, partAt_modLaunch, partAt_modPart_self]
    refine ⟨_, List.mem_map.mpr ⟨l, hl, rfl⟩, ?_⟩
    split
    · exact ⟨hlid, haged⟩
    · exact ⟨hlid, haged⟩

/-- A launch that waits an interval longer ages by one (R351). -/
theorem effectivePriorityAging_ages {die part : Nat} {l : Launch} (hl : l ∈ (partAt s die part).launches) (hp : part < 8)
    (hg : gangsLeft l = true) : ∃ t, exec (.effectivePriorityAging die l.lid) s = .next t
      ∧ HasAged t die part l.lid (l.aged + 1) := by
  refine ⟨_, rfl, ?_⟩
  refine foldl_once (P := fun u => partAt u die part = partAt s die part) (Q := fun u => HasAged u die part l.lid (l.aged + 1))
    List.nodup_range (List.mem_range.mpr hp) (fun u q hq hu => ?_) (fun u hu => ?_) (fun u q hq hu => ?_) rfl
  · split
    · rw [partAt_outrank_other _ _ hq.symm, modLaunch, partAt_modPart_other _ _ _ hq.symm, hu]
    · exact hu
  · have hany : (partAt u die part).launches.any (fun l' => decide (l'.lid = l.lid) && gangsLeft l') = true :=
      List.any_eq_true.mpr ⟨l, hu ▸ hl, by simp [hg]⟩
    rw [if_pos hany]
    refine hasAged_outrank ⟨{ l with aged := l.aged + 1 }, ?_, rfl, rfl⟩
    rw [partAt_modLaunch]
    exact List.mem_map.mpr ⟨l, hu ▸ hl, if_pos rfl⟩
  · split
    · unfold HasAged
      rw [partAt_outrank_other _ _ hq.symm, modLaunch, partAt_modPart_other _ _ _ hq.symm]
      exact hu
    · exact hu

/-! ## Writes that the device makes itself -/

theorem stands_deviceWrite (s : State) (die part : Nat) (p : Word) (bs : List Byte) : Stands s ((deviceWrite s die part p bs).getD s) := by
  unfold deviceWrite
  cases deviceBytes s die part p bs.length with
  | none => exact .refl s
  | some ls => exact (onlyHomes_homeWrite _ _).stands.trans (stands_wakeWatches _ _)

theorem stands_writeSections (s : State) (core : Nat) (es : List (Nat × Nat × (Nat → Byte))) : Stands s (writeSections s core es) := by
  refine stands_foldl (fun s e => ?_) es s
  exact stands_foldl (fun s n => stands_deviceWrite s _ _ _ _) _ s

/-! ## What is saved of a place -/

theorem Stands.cfg (h : Stands s t) (d p : Nat) : (partAt t d p).cfg = (partAt s d p).cfg := congrArg (·.1) (h.parts d p)

theorem Stands.gangsAside (h : Stands s t) (d p : Nat) :
    (partAt t d p).saves.map (fun e => (e.1, e.2.gang)) = (partAt s d p).saves.map (fun e => (e.1, e.2.gang)) :=
  congrArg (·.2.2.2) (h.parts d p)

theorem Stands.gangAside (h : Stands s t) (d p n : Nat) :
    ((partAt t d p).saves[n]?).map (fun e => (e.1, e.2.gang)) = ((partAt s d p).saves[n]?).map (fun e => (e.1, e.2.gang)) := by
  rw [← List.getElem?_map, ← List.getElem?_map, h.gangsAside]

theorem Stands.partHolding (h : Stands s t) (core : Nat) : partHolding t core = partHolding s core := by
  simp only [Machine.partHolding, h.cfg]

/-- The core that holds a thread is of the same gang. -/
theorem Stands.threadGang (h : Stands s t) (q : Thread) : (threadCore t q).gang = (threadCore s q).gang := by
  unfold threadCore
  cases q.aside with
  | none => exact h.gang _
  | some n =>
    have hn := h.gangAside (dieOf q.c.core) q.part n
    dsimp only
    cases ht : (partAt t (dieOf q.c.core) q.part).saves[n]? with
    | none =>
      rw [ht] at hn
      rw [Option.map_eq_none_iff.mp hn.symm]
    | some e =>
      rw [ht] at hn
      obtain ⟨e', he', heq⟩ := Option.map_eq_some_iff.mp hn.symm
      rw [he']
      exact (Prod.mk.inj heq).2.symm

/-- The same is saved of a place. -/
theorem Stands.savedPieces (h : Stands s t) (core : Nat) : savedPieces t core = savedPieces s core := by
  have hlen : ∀ d p, (partAt t d p).saves.length = (partAt s d p).saves.length := fun d p => by
    simpa using congrArg List.length (h.gangsAside d p)
  have hany : ∀ d p n, ((partAt t d p).saves[n]?).any (fun e : Nat × Core => decide (e.1 = core))
      = ((partAt s d p).saves[n]?).any (fun e : Nat × Core => decide (e.1 = core)) := fun d p n => by
    simpa [Option.any_map] using congrArg (Option.any (fun e : Nat × Option (Nat × Nat) => decide (e.1 = core))) (h.gangAside d p n)
  unfold Machine.savedPieces threadsOf
  simp only [h.saving, h.partHolding, hlen, hany, List.filter_cons, Option.isSome_none, Bool.false_eq_true, if_false]

theorem Stands.pieceOf (h : Stands s t) (gang : Option (Nat × Nat)) (core : Nat) : pieceOf t gang core = pieceOf s gang core := by
  simp only [Machine.pieceOf, h.savedPieces, h.threadGang]

/-! ## Restore -/

theorem stands_convertCluster (s : State) (cluster : Nat) (fused : Bool) : Stands s (convertCluster s cluster fused) := by
  have h := (emptyL1s_spec s ((List.range 8).map (fun k => 8 * cluster + k))).1
  unfold convertCluster
  generalize ((List.range 8).map (fun k => 8 * cluster + k)).foldl emptyL1 s = t at h
  exact h.trans (stands_outside rfl rfl rfl)

theorem stands_arrangeFor (s : State) (die part : Nat) (gang : Option (Nat × Nat)) (cluster : Nat) :
    Stands s (arrangeFor s die part gang cluster) := by
  unfold arrangeFor
  split
  · exact .refl s
  · exact stands_ite (.refl s) (stands_convertCluster ..)

theorem stands_refill (s : State) (c : CtxId) : Stands s (refill s c) := by
  unfold refill
  extract_lets x
  split
  · exact .refl s
  · split
    · exact .refl s
    · extract_lets ws m queued taken
      have hqueued : Stands s queued := by
        refine stands_inCore s c.core ?_ ?_
        · exact fun _ => rfl
        · exact fun _ => ⟨rfl, rfl⟩
      have htaken : Stands s taken := hqueued.trans (stands_modCtx _ c _)
      split
      · exact htaken.trans (stands_modCtx _ _ setReady)
      · exact htaken

theorem stands_refillAll (n : Nat) (s : State) (c : CtxId) : Stands s (refillAll n s c) := by
  induction n generalizing s with
  | zero => exact .refl s
  | succ n ih => exact (stands_refill s c).trans (ih _)

/-- A core of which something is saved for a gang is restored, and keeps the time that the restore took (R209). -/
theorem restoreCore_restores {gang : Option (Nat × Nat)} {core : Nat} (cycles : Nat) (h : (pieceOf s gang core).isSome = true) :
    (coreAt (restoreCore gang cycles s core) core).saving = false
      ∧ (coreAt (restoreCore gang cycles s core) core).srcost = min (2 ^ 32 - 1) cycles := by
  obtain ⟨q, hq⟩ := Option.isSome_iff_exists.mp h
  unfold restoreCore
  rw [hq]
  dsimp only
  generalize hu : modCore (bringBack s q) core (fun k => { k with saving := false, srcost := min (2 ^ 32 - 1) cycles }) = u
  have hrefilled := stands_foldl (fun s (e : Nat × Ctx) => stands_refillAll (ctxAt s ⟨core, e.1⟩).spillAt.length s ⟨core, e.1⟩)
    (coreAt u core).ctxs u
  rw [hrefilled.saving, hrefilled.srcost, ← hu, coreAt_modCore_self]
  exact ⟨rfl, rfl⟩

theorem coreAt_modGang (s : State) (die part : Nat) (gang : Option (Nat × Nat)) (f : Gang → Gang) (k : Nat) :
    coreAt (modGang s die part gang f) k = coreAt s k := by
  unfold modGang
  split
  · rfl
  · rfl

theorem coreAt_gangBack (s : State) (die part : Nat) (gang : Option (Nat × Nat)) (k : Nat) :
    coreAt (gangBack s die part gang) k = coreAt s k := by
  unfold gangBack
  dsimp only
  split
  · exact coreAt_modGang _ _ _ _ _ _
  · exact coreAt_modGang _ _ _ _ _ _

/-- A saved core outside bonds that may come back comes back (R208, R209). -/
theorem contextRestore_restores {core : Nat} {r : Thread} (cycles : Nat) (hr : (savedPieces s core).find? (restorable s) = some r)
    (hk : (threadCore s r).kind ≠ 1) : ∃ t, exec (.contextRestore core cycles) s = .next (settle t)
      ∧ (coreAt t core).saving = false ∧ (coreAt t core).srcost = min (2 ^ 32 - 1) cycles := by
  have hunit : unitOf (threadCore s r) core = [core] := if_neg hk
  have hpiece : (pieceOf s (threadCore s r).gang core).isSome = true :=
    List.find?_isSome.mpr ⟨r, List.mem_of_find?_eq_some hr, decide_eq_true rfl⟩
  have hstands := stands_arrangeFor s (dieOf core) r.part (threadCore s r).gang (clusterOf core)
  have hrestored := restoreCore_restores cycles (hstands.pieceOf _ _ ▸ hpiece)
  refine ⟨modPart (gangBack ((unitOf (threadCore s r) core).foldl (restoreCore (threadCore s r).gang cycles)
    (arrangeFor s (dieOf core) r.part (threadCore s r).gang (clusterOf core))) (dieOf core) r.part (threadCore s r).gang)
    (dieOf core) r.part (fun p => { p with pmax := max p.pmax (min (2 ^ 32 - 1) cycles) }), ?_, ?_⟩
  · simp only [exec, execContextRestore, hr]
  · rw [coreAt_modPart, coreAt_gangBack, hunit]
    exact hrestored

/-! ## Pre-emption -/

/-- A core that is saved is marked so when its record stands in memory (R203, R204). -/
theorem saving_saveCore (s : State) (core : Nat) : (coreAt (saveCore s core) core).saving = true := by
  unfold saveCore writeRecord
  extract_lets finished stopped spilled marked n k
  have hmarked : (coreAt marked core).saving = true := by
    clear_value spilled
    subst marked
    rw [coreAt_modCore_self]
  clear_value marked
  rw [(stands_writeSections _ core _).saving]
  exact hmarked

/-- A core in no bond that holds a live context is saved (R203). -/
theorem preemptCore_saves {core : Nat} {x : Nat × Ctx} (hk : (coreAt s core).kind = 0) (hs : (coreAt s core).saving = false)
    (hx : x ∈ (coreAt s core).ctxs) (hl : isLive x.2 = true) : (coreAt (preemptCore s core) core).saving = true := by
  have hbond : bondMembers s core = [core] := if_neg (by rw [hk]; decide)
  have hlive : [core].any (fun k => (coreAt s k).ctxs.any (fun e => isLive e.2)) = true :=
    List.any_eq_true.mpr ⟨core, List.mem_singleton_self _, List.any_eq_true.mpr ⟨x, hx, hl⟩⟩
  unfold preemptCore
  simp only [hbond, hs, hlive, Bool.not_true, Bool.or_self, Bool.false_eq_true, if_false, List.foldl_cons, List.foldl_nil]
  rw [coreAt_outrank, coreAt_modGang]
  exact saving_saveCore s core

/-! ## Quiescence -/

theorem Stands.sample (h : Stands s t) (d p : Nat) : (partAt t d p).sample = (partAt s d p).sample := congrArg (·.2.1) (h.parts d p)

theorem Stands.quiet (h : Stands s t) (d p : Nat) : (partAt t d p).quiet = (partAt s d p).quiet := congrArg (·.2.2.1) (h.parts d p)

theorem stands_modLaunch (s : State) (die part lid : Nat) (f : Launch → Launch) : Stands s (modLaunch s die part lid f) :=
  stands_modPart s die part fun _ => rfl

theorem stands_reportDeadlock (s : State) (die part : Nat) (l : Launch) (cause : Nat) : Stands s (reportDeadlock s die part l cause) := by
  unfold reportDeadlock
  extract_lets cs r reported
  have hreported : Stands s reported := stands_modLaunch s die part l.lid _
  split
  · exact hreported.trans (stands_asyncRecord _ _ _)
  · refine hreported.trans ?_
    exact stands_modDie _ _ fun _ => rfl
  · exact hreported

theorem stands_judgeQuiet (die part : Nat) (s : State) (l : Launch) : Stands s (judgeQuiet die part s l) := by
  unfold judgeQuiet
  refine stands_ite (.refl s) (stands_ite (stands_ite (.refl s) (stands_reportDeadlock ..)) (stands_ite (stands_modLaunch ..) ?_))
  exact stands_ite (.refl s) (stands_reportDeadlock ..)

/-- A partition with resident launches is sampled, and is quiet where the sample and the one before it show it (R359, R360). -/
theorem quiescenceSample_samples {die part : Nat} (h : resident (partAt s die part) ≠ []) :
    ∃ t, exec (.quiescenceSample die part) s = .next t ∧ (partAt t die part).sample = some (takeSample s die part)
      ∧ ((partAt t die part).quiet = true ↔ ∃ old, (partAt s die part).sample = some old ∧ quietPair old (takeSample s die part) = true) := by
  have hres : ¬ (resident (partAt s die part)).isEmpty = true := fun he => h (List.isEmpty_iff.mp he)
  have hexec : exec (.quiescenceSample die part) s = _ := congrArg Host.Outcome.next (if_neg hres)
  refine ⟨_, hexec, ?_⟩
  extract_lets now quiet sampled
  have hstands : Stands sampled (if (!quiet || (dieAt sampled die).wake.getLsbD part) = true then sampled
      else (resident (partAt s die part)).foldl (judgeQuiet die part) sampled) :=
    stands_ite (.refl _) (stands_foldl (stands_judgeQuiet die part) _ _)
  have hpart : partAt sampled die part = { partAt s die part with sample := some now, quiet := quiet } := partAt_modPart_self ..
  refine ⟨?_, ?_⟩
  · rw [hstands.sample, hpart]
  · rw [hstands.quiet, hpart]
    exact Option.any_eq_true _ _

end Sys2Proof.Laws
end

section
/-! SUPPORT. The launch window, the loader, gangs and the end of a quantum (R347, R349, R350, R352, R353, R358). -/

namespace Sys2Proof.Laws

open Sys2Proof Sys2Proof.Machine

variable {s : State} {die part : Nat}

/-! ## The launch window -/

/-- What the host writes to a die's window below its registers is a write of the record (R349, R364). -/
theorem launchWindowWrite_record {o : Nat} {data : List Byte} (hd : die < 4) (hlo : 0x80 ≤ o + data.length)
    (hhi : o + data.length ≤ 0x88) (ho : o ≤ 0x78) :
    exec (.launchWindowWrite die o (.write data)) s = .next (windowWrite s die ((placed o data).filter (·.1 < 0x80))) := by
  have hne : data ≠ [] := by
    rintro rfl
    simp only [List.length_nil] at hlo
    omega
  exact congrArg Host.Outcome.next ((barWrite_window hd hne (by omega) s).trans (barWindow_record hhi s))

/-- A whole record enters the queue of its die (R349). -/
theorem launchWindowWrite_enters {data : List Byte} (hd : die < 4) (hlen : data.length = 128) (hq : (dieAt s die).lqueue.length < 64) :
    ∃ t ws, exec (.launchWindowWrite die 0 (.write data)) s = .next t
      ∧ (dieAt t die).lqueue = (dieAt s die).lqueue ++ [.window ws] ∧ ws.length = 16
      ∧ ∀ n, n < 16 → ws.getD n 0 = BitVec.ofNat 64 (ofBytes ((data.drop (8 * n)).take 8)) := by
  refine ⟨_, _, launchWindowWrite_record hd (by omega) (by omega) (by omega), windowWrite_enters hlen hq, by simp [chunksOf],
    fun n hn => ?_⟩
  simp [chunksOf, List.getD, hn]

/-- A record that meets a full queue is dropped and counted (R349). -/
theorem launchWindowWrite_drops {o : Nat} {data : List Byte} (hd : die < 4) (ho : o ≤ 0x78) (hlo : 0x80 ≤ o + data.length)
    (hhi : o + data.length ≤ 0x88) (hq : 64 ≤ (dieAt s die).lqueue.length) :
    ∃ t, exec (.launchWindowWrite die o (.write data)) s = .next t ∧ (dieAt t die).lqueue = (dieAt s die).lqueue
      ∧ (dieAt t die).winDrop = min (2 ^ 32 - 1) ((dieAt s die).winDrop + 1) := by
  refine ⟨_, launchWindowWrite_record hd hlo hhi ho, ?_⟩
  rw [windowWrite_full (placed_whole ho hlo) hq, dieAt_modDie_self]
  exact ⟨rfl, rfl⟩

/-! ## The loader -/

/-- From READY on the loader judges the oldest record of the window (R347). -/
theorem loaderTake_window {ws : List Word} {rest : List LaunchEntry} (hb : 5 ≤ s.kiln.bootStep)
    (hq : (dieAt s die).lqueue = .window ws :: rest) :
    exec (.loaderTake die) s = .next (judgeRecord (modDie s die (fun d => { d with lqueue := rest })) die none ws) := by
  simp only [exec, execLoaderTake, if_neg (Nat.not_lt.mpr hb), hq]

/-- A pointer whose record cannot be read is refused (R347). -/
theorem loaderTake_unread {p : Word} {pt rank : Nat} {rest : List LaunchEntry} (hb : 5 ≤ s.kiln.bootStep)
    (hq : (dieAt s die).lqueue = .pointer p pt rank :: rest)
    (hr : readRecord (modDie s die (fun d => { d with lqueue := rest })) die pt p = none) :
    exec (.loaderTake die) s = .next (refuseRecord (modDie s die (fun d => { d with lqueue := rest })) die none [] 0x08) := by
  simp only [exec, execLoaderTake, if_neg (Nat.not_lt.mpr hb), hq, hr]

/-- The record that a pointer names is judged with the rank of its issuer (R347, R350). -/
theorem loaderTake_pointer {p : Word} {pt rank : Nat} {rest : List LaunchEntry} {ws : List Word} (hb : 5 ≤ s.kiln.bootStep)
    (hq : (dieAt s die).lqueue = .pointer p pt rank :: rest)
    (hr : readRecord (modDie s die (fun d => { d with lqueue := rest })) die pt p = some ws) :
    exec (.loaderTake die) s = .next (judgeRecord (modDie s die (fun d => { d with lqueue := rest })) die (some (pt, rank)) ws) := by
  simp only [exec, execLoaderTake, if_neg (Nat.not_lt.mpr hb), hq, hr]

/-! ## Gangs -/

/-- The next gang of the served launch is reserved where cores for it are free (R352). -/
theorem gangReserve_reserves {m : Launch} {cs : List Nat} (hr : (partAt s die part).reserve = none)
    (hm : served (partAt s die part) = some m) (hn : m.nextGang < gangTotal m.words) (hg : m.gangs.all (fun g => !g.saved) = true)
    (hc : placeFor s die part m = some cs) :
    ∃ t, exec (.gangReserve die part) s = .next t ∧ (partAt t die part).reserve = some ⟨m.lid, m.nextGang, cs⟩ := by
  have hnone : ¬ ((m.gangs.any (·.saved) || decide (gangTotal m.words ≤ m.nextGang)) = true) := by
    have hsaved : m.gangs.any (·.saved) = false := by simpa using hg
    simpa [hsaved] using hn
  refine ⟨modLaunch (modPart (cs.foldl (prepareCore (gangLayout m.words)) s) die part
    (fun p => { p with reserve := some ⟨m.lid, m.nextGang, cs⟩ })) die part m.lid (fun l => { l with st := 1 }), ?_, ?_⟩
  · simp only [exec, execGangReserve, hr, hm, if_neg hnone, hc]
  · rw [partAt_modLaunch, partAt_modPart_self]

/-- A reserved gang that no launch of higher priority overtook starts where its cluster's L1s are arranged for it (R348, R352). -/
theorem gangCommit_starts {r : Reservation} {l : Launch} (hr : (partAt s die part).reserve = some r)
    (hl : (partAt s die part).launches.find? (·.lid = r.lid) = some l)
    (hf : (clusterAt s (clusterOf (r.cores.headD 0))).fused = recFused l.words) (ho : outrank s die part = s) :
    exec (.gangCommit die part) s = .next (startGang s die part l r) := by
  simp only [exec, execGangCommit, ho, hr, hl, hf, beq_self_eq_true, if_true]

/-- The end of a quantum pre-empts its victim for a launch that waits and cannot be placed (R358). -/
theorem quantumEnd_preempts {v l : Launch} (hv : quantumVictim s die part = some v) (hl : l ∈ (partAt s die part).launches)
    (hlid : l.lid ≠ v.lid) (hg : gangsLeft l = true) (hst : l.st ≠ 1) (hp : recPrio v.words ≤ effPrio l)
    (hs : ∀ g ∈ l.gangs, g.saved = false) (hc : placeFor s die part l = none) :
    exec (.quantumEnd die part) s = .next (outrank (modLaunch (modPart (((v.gangs.flatMap (·.cores)).filter (fun k =>
      (coreAt s k).gang.any (·.1 = v.lid))).foldl preemptCore s) die part
      (fun p => { p with reserve := p.reserve.filter (·.lid ≠ v.lid) })) die part v.lid (fun l => { l with st := 0, aged := 0 })) die part) := by
  have hplace : unplaceable s die part l = true := by
    have hsaved : l.gangs.any (·.saved) = false := List.any_eq_false.mpr fun g hgm => by rw [hs g hgm]; exact Bool.false_ne_true
    simp [unplaceable, hsaved, hc]
  have hwaits : (partAt s die part).launches.any (fun l => decide (l.lid ≠ v.lid) && gangsLeft l && decide (l.st ≠ 1)
      && decide (recPrio v.words ≤ effPrio l) && unplaceable s die part l) = true :=
    List.any_eq_true.mpr ⟨l, hl, by simp [hlid, hg, hst, hp, hplace]⟩
  simp only [exec, execQuantumEnd, hv, hwaits, Bool.not_true, Bool.false_eq_true, if_false]

end Sys2Proof.Laws
end

section
/-! CERTIFICATES. The launch window, the loader, gangs, launch ends, samples and pre-emption (R203, R209, R347, R349 to R353, R357 to
R365). -/

namespace Sys2Proof.Laws

open Sys2Proof Sys2Proof.Machine

/-- Settles O59: each event of the distributor, where what it waits for has come, makes the one change that its lemma names. -/
theorem launchEvents : Obligations.LaunchEvents := by
  intro s die part
  refine ⟨fun data => launchWindowWrite_enters, fun o data => launchWindowWrite_drops, fun hd => ⟨_, rfl, given_free hd, rfl⟩,
    ⟨_, rfl, ?_⟩, fun mask => ⟨_, rfl, wake_setWake s die mask⟩, fun hb => congrArg Host.Outcome.next (if_pos hb),
    fun ws rest => loaderTake_window, fun p pt rank rest hb hq => ?_, fun m cs => gangReserve_reserves,
    fun r l => gangCommit_starts, fun lid p l hl => ?_, quiescenceSample_samples, fun l => effectivePriorityAging_ages,
    fun core => rfl, fun core x hk hs hx hl => ⟨_, rfl, preemptCore_saves hk hs hx hl⟩,
    fun core r cycles => contextRestore_restores cycles, fun v hv ⟨l, hl, hlid, hg, hst, hp, hs, hc⟩ =>
      quantumEnd_preempts hv hl hlid hg hst hp hs hc⟩
  · rw [clearDrops, dieAt_modDie_self]
    exact ⟨rfl, rfl⟩
  · intro s'
    cases hr : readRecord s' die pt p with
    | none => exact loaderTake_unread hb hq hr
    | some ws => exact loaderTake_pointer hb hq hr
  · simp only [exec, execLaunchComplete, hl]

end Sys2Proof.Laws
end

section
/-! SUPPORT. Where contexts stand while lines are published and dropped: the focus stays, and every context in its partition (R185,
R202, R264, R265). -/

namespace Sys2Proof.Laws

open Sys2Proof Sys2Proof.Machine

variable {s t u : State}

/-! ## Squashing what follows the oldest block -/

theorem shows_modFrame (s : State) (c : CtxId) (n : Nat) (f : Frame → Frame) : Shows lasting s (modFrame s c n f) :=
  shows_modCtx s c fun _ => rfl

theorem shows_giveBack (s : State) (c : CtxId) (pos : Nat) (fls : List Flight) : Shows lasting s (giveBack s c pos fls) :=
  shows_ite (.refl s) (shows_modCtx s c fun _ => rfl)

theorem shows_discardOwn (s : State) (c : CtxId) (n k : Nat) : Shows lasting s (discardOwn s c n k) := by
  unfold discardOwn
  split
  · exact .refl s
  · exact ((shows_releaseTags s c _ _).trans (shows_modFrame _ c n _)).trans (shows_giveBack _ c _ _)

theorem shows_discardMate (c : CtxId) (pos k : Nat) (s : State) (m : Nat) : Shows lasting s (discardMate c pos k s m) := by
  unfold discardMate
  dsimp only
  refine .trans ?_ (shows_modMate _ c m fun _ => rfl)
  split
  · exact shows_discardOwn s _ _ _
  · exact .refl s

theorem shows_discardIters (s : State) (c : CtxId) (n k : Nat) : Shows lasting s (discardIters s c n k) := by
  unfold discardIters
  split
  · exact .refl s
  · have h := shows_discardOwn s c n k
    exact shows_ite (h.trans (shows_foldl (fun m s => shows_discardMate c _ k s m) _ _)) h

theorem shows_squashLater (s : State) (c : CtxId) : Shows lasting s (squashLater s c) := by
  have h := shows_squashCourse s c 1
  unfold squashLater squashYounger
  dsimp only
  split
  · exact shows_ite (h.trans (shows_discardIters _ c 0 _)) h
  · exact h

/-! ## The focus and the partitions -/

/-- The step stands at the same site, and every context in the same partition. -/
structure Seated (s t : State) : Prop where
  focus : t.focus = s.focus
  part : Shows Ctx.part s t

theorem Seated.refl (s : State) : Seated s s := ⟨rfl, .refl s⟩

theorem Seated.trans (h : Seated s t) (h' : Seated t u) : Seated s u := ⟨h'.focus.trans h.focus, h.part.trans h'.part⟩

theorem seated_ite {p : Prop} [Decidable p] (h : Seated s t) (h' : Seated s u) : Seated s (if p then t else u) := by
  split
  · exact h
  · exact h'

theorem seated_foldl {β : Type} {f : State → β → State} (hf : ∀ s b, Seated s (f s b)) (l : List β) (s : State) :
    Seated s (l.foldl f s) :=
  List.foldlRecOn l f (.refl s) fun t ht b _ => ht.trans (hf t b)

/-- A change of a core that keeps its contexts. -/
theorem seated_modCore (s : State) (n : Nat) {f : Core → Core} (hf : ∀ k, (f k).ctxs = k.ctxs) : Seated s (modCore s n f) :=
  ⟨rfl, fun d => congrArg Ctx.part (ctxAt_modCore_keeps s n d hf)⟩

theorem OnlyHomes.seated (h : OnlyHomes s t) : Seated s t := by
  refine ⟨by rw [h], fun d => ?_⟩
  unfold ctxAt
  rw [h.coreAt]

/-! ## Wakes and records -/

/-- A WAITA that wakes stays in its partition, as does what is squashed behind it (R185, R221). -/
theorem shows_part_wakeWatches (s : State) (touched : List Loc) : Shows Ctx.part s (wakeWatches s touched) := by
  refine shows_foldl (fun k s => shows_ite (shows_foldl (fun e s => ?_) _ s) (.refl s)) _ s
  cases (ctxAt s ⟨k, e.1⟩).watch with
  | none => exact .refl s
  | some wt =>
    refine shows_ite ?_ (.refl s)
    refine .trans (.trans ?_ ((shows_squashLater _ _).part Ctx.part)) (shows_modCtx _ _ fun _ => rfl)
    exact shows_modCtx s _ fun _ => rfl

theorem seated_wakeWatches (s : State) (touched : List Loc) : Seated s (wakeWatches s touched) :=
  ⟨(quiet_wakeWatches s touched).focus, shows_part_wakeWatches s touched⟩

theorem shows_part_slotRecords (s : State) (c : CtxId) (rs : List Record) : Shows Ctx.part s (slotRecords s c rs) := by
  refine shows_ite (shows_foldl (fun r s => ?_) _ s) ?_
  · exact fun _ => rfl
  · refine .trans ?_ (shows_modPart _ _ _ _)
    exact shows_modCtx s c fun _ => rfl

theorem shows_part_asyncRecord (s : State) (c : CtxId) (r : RecordArgs) : Shows Ctx.part s (asyncRecord s c r) := by
  unfold asyncRecord sendRecord
  dsimp only
  refine shows_ite (shows_part_slotRecords s c _) (shows_ite ?_ (shows_modCtx s c fun _ => rfl))
  exact (shows_part_slotRecords s c _).trans (shows_modCtx _ c fun _ => rfl)

theorem seated_asyncRecords (s : State) (rs : List (CtxId × RecordArgs)) : Seated s (asyncRecords s rs) := by
  refine ⟨(quiet_asyncRecords (C := anything) s rs).focus, ?_⟩
  refine shows_foldl (fun e s => ?_) rs s
  exact shows_part_asyncRecord s e.1 e.2

/-! ## Publication and acquisition -/

theorem seated_mergeClean (s : State) (c : CtxId) (key : Nat) (b : Byte) : Seated s (mergeClean s c key b) := by
  refine seated_foldl (fun s k => ?_) _ s
  split
  · exact seated_modCore s k fun _ => rfl
  · exact .refl s

theorem seated_dropOwnClean (s : State) (c : CtxId) (key : Nat) : Seated s (dropOwnClean s c key) := by
  refine seated_foldl (fun s k => seated_ite ?_ (.refl s)) _ s
  exact seated_modCore s k fun _ => rfl

theorem seated_drainByte (s : State) (e : Nat × DirtyByte) : Seated s (drainByte s e) :=
  seated_ite (seated_modCore s _ fun _ => rfl) (.refl s)

theorem seated_drainSpad (s : State) (core : Nat) (sel : DirtyByte → Bool) : Seated s (drainSpad s core sel) := by
  unfold drainSpad
  extract_lets all dropped
  have hdropped : Seated s dropped := seated_modCore s core fun _ => rfl
  exact seated_ite (.refl s) ((hdropped.trans (seated_foldl seated_drainByte all dropped)).trans (seated_wakeWatches _ _))

theorem seated_drainOwn (s : State) (c : CtxId) : Seated s (drainOwn s c) :=
  seated_foldl (fun s k => seated_drainSpad s k _) _ s

theorem seated_carryHome (s : State) (core : Nat) (sel : Nat → Bool) (pub : Option (CtxId × Word)) :
    Seated s (carryHome s core sel pub).1 := by
  unfold carryHome carryHomeBy
  extract_lets all judged good bad dropped merged cleaned lost woken
  have hdropped : Seated s dropped := seated_modCore s core fun _ => rfl
  have hmerged : Seated s merged := hdropped.trans (onlyHomes_homeMerge _ _ _).seated
  have hcleaned : Seated s cleaned := hmerged.trans (seated_foldl (fun s e => seated_mergeClean s _ _ _) _ _)
  have hlost : Seated s lost := hcleaned.trans (seated_foldl (fun s e => seated_dropOwnClean s _ _) _ _)
  exact hlost.trans (seated_wakeWatches _ _)

/-- A publication changes lines, their homes and the records of refused bytes (R264). -/
theorem seated_publish (s : State) (c : CtxId) (scope : Nat) (blk : Word) : Seated s (publish s c scope blk) := by
  unfold publish
  extract_lets drained evicted members r
  have hr : Seated s r.1 := by
    refine List.foldlRecOn (motive := fun acc : State × List (CtxId × RecordArgs) => Seated s acc.1) members _ (seated_drainOwn s c)
      fun acc h k _ => ?_
    dsimp only
    exact h.trans (seated_carryHome acc.1 k _ _)
  exact hr.trans (seated_asyncRecords _ _)

theorem seated_acquire (s : State) (c : CtxId) (scope : Nat) : Seated s (acquire s c scope) := by
  refine seated_ite (.refl s) (seated_foldl (fun s k => ?_) _ s)
  exact seated_modCore s k fun _ => rfl

end Sys2Proof.Laws
end

section
/-! SUPPORT. Mortar jobs, cards, queries and group barriers as they fire (R232, R233, R236 to R238, R240, R241). -/

namespace Sys2Proof.Laws

open Sys2Proof Sys2Proof.Machine

variable {f : LFields} {s : State} {a b c : Token}

theorem exec_mcopy (f : LFields) (s : State) : exec (.mcopy f) s = queueJob (.mcopy f) f 0 s := rfl
theorem exec_mput (f : LFields) (s : State) : exec (.mput f) s = queueJob (.mput f) f 1 s := rfl
theorem exec_mget (f : LFields) (s : State) : exec (.mget f) s = queueJob (.mget f) f 2 s := rfl
theorem exec_mquery (f : LFields) (s : State) : exec (.mquery f) s = execMquery f s := rfl
theorem exec_gmcast (f : LFields) (s : State) : exec (.gmcast f) s = execGmcast f s := rfl
theorem exec_task (f : LFields) (s : State) : exec (.task f) s = execTask f s := rfl
theorem exec_gbar (f : LFields) (s : State) : exec (.gbar f) s = execGbar f s := rfl

/-! ## Jobs -/

/-- The three job instructions queue a job of their kind. -/
theorem exec_job {e : Instr × Nat} (he : e ∈ ([(.mcopy f, 0), (.mput f, 1), (.mget f, 2)] : List (Instr × Nat))) :
    exec e.1 s = queueJob e.1 f e.2 s := by
  simp only [List.mem_cons, List.not_mem_nil, or_false] at he
  rcases he with rfl | rfl | rfl
  · exact exec_mcopy f s
  · exact exec_mput f s
  · exact exec_mget f s

theorem queueJob_passes {i : Instr} {kind : Nat} {d : JobDesc} (hr : readiness i s = .go a b c)
    (hc : checkJob s kind f a.value b.value = .ok d) : queueJob i f kind s = .next (fired i { effs := [.job d] } s) := by
  rw [queueJob, fire_go hr]
  simp only [hc]

theorem queueJob_faults {i : Instr} {kind : Nat} {x : AccFault} (hr : readiness i s = .go a b c)
    (hc : checkJob s kind f a.value b.value = .error x) :
    queueJob i f kind s = .next (faulted x.cls x.cause x.addr x.arg s) := by
  rw [queueJob, fire_go hr]
  simp only [hc]
  rfl

/-- The oldest unfinished number of a queue: that of its head, or the next one where the queue is empty (R237). -/
def oldestSeq (k : Core) : Nat :=
  match k.jobs with
  | j :: _ => j.seq
  | [] => k.jobSeq

theorem head_jobs_eq_oldestSeq (k : Core) : (k.jobs.head?.map (·.seq)).getD k.jobSeq = oldestSeq k := by
  unfold oldestSeq
  cases k.jobs with
  | nil => rfl
  | cons j js => rfl

/-- The core whose queue an MQUERY reads: its own, or one of its cluster (R237). -/
def queriedCore (f : LFields) (s : State) : Core :=
  coreAt s (if f.off.getLsbD 3 then siteCore s else 8 * (siteCore s / 8) + f.off.toNat % 8)

theorem mquery_delivers (hr : readiness (.mquery f) s = .go a b c) :
    exec (.mquery f) s = .next (fired (.mquery f) { r0 := some (scalar (BitVec.ofNat 64
      (oldestSeq (queriedCore f s) * 2 ^ 32 + (queriedCore f s).jobSeq))) } s) := by
  rw [exec_mquery, execMquery, fire_go hr, ← head_jobs_eq_oldestSeq]
  rfl

theorem gmcast_waits (hr : readiness (.gmcast f) s = .go a b c) (hc : basicCheck (word a.value 0) = none)
    (hp : ptrPath (word a.value 0) = pathSPAD) (h64 : ptrAddr (word a.value 0) % 64 = 0)
    (hs : ptrAddr (word a.value 0) % 2 ^ 19 < 0x7C000) :
    LeavesEffects (.gmcast f) s [.job { blankJob with
      kind := 3, dest := BitVec.ofNat 64 (ptrAddr (word a.value 0) % 2 ^ 19),
      payload := (groupCores s s.focus.c (f.off.toNat % 256)).map (fun k => (k, b.value)) }] := by
  have hoff : ptrAddr (word a.value 0) % 2 ^ 19 % 64 = 0 := by omega
  rw [LeavesEffects, exec_gmcast, execGmcast, fire_go hr]
  simp only [hc, hp, hoff, Nat.not_le.mpr hs, ne_eq, not_true_eq_false, if_false]

/-! ## Cards -/

/-- The words of a card (R223). -/
def cardWords (bytes : List Byte) : List Word :=
  (List.range 16).map (fun k => BitVec.ofNat 64 (ofBytes ((bytes.drop (8 * k)).take 8)))

/-- The machine behind a TASK but for its firing: the card is recorded as a load, the caches and leases are as it left them. -/
def cardLeft (f : LFields) (s : State) (ls : List Loc) (bytes : List Byte) : State :=
  let s := leaveLines f s (whoAt s) ls
  let s := renewLeases s (whoAt s) ls
  modFrame s s.focus.c s.focus.frame (fun fr =>
    { fr with loads := fr.loads ++ [⟨s.focus.idx, f.lsid.toNat, s.focus.tag, ls, bytes⟩] })

theorem quiet_cardLeft (f : LFields) (s : State) (ls : List Loc) (bytes : List Byte) : Quiet anything s (cardLeft f s ls bytes) := by
  have h := (quiet_leaveLines f s (whoAt s) ls).trans (quiet_renewLeases _ (whoAt (leaveLines f s (whoAt s) ls)) ls)
  exact h.wide.trans (quiet_modFrame _ _ _ trivial)

/-- What TASK does once its card is read (R223, R238). -/
def cardRead (f : LFields) (s : State) (p : Word) (ls : List Loc) (bytes : List Byte) : State :=
  if cardBad (cardWords bytes) then faulted clsPathReserved 0x0F p 0 s
  else match cardStaging (cardWords bytes) with
  | some base => faulted clsPathReserved 0x0D base 0 s
  | none => fired (.task f) { effs := [.task (cardWords bytes)] } (cardLeft f s ls bytes)

theorem servesTask_of_path {p : Word} (hp : ptrPath p = pathGEN ∨ ptrPath p = pathCONST) : pathCheck servesTask p = none := by
  simp only [pathCheck, servesTask, Bool.or_eq_true, decide_eq_true_eq, hp, if_true, Option.map_none]

/-- A card whose line passes the checks and does not wait is read (R238). -/
theorem task_reads {fr : Frame} {p : Word} {ls : List Loc} (hr : readiness (.task f) s = .go a b c)
    (hf : frameAt s s.focus.c s.focus.frame = some fr) (hpe : p = addrOf (word a.value 0) (offsetOf f))
    (hc : basicCheck p = none) (hp : ptrPath p = pathGEN ∨ ptrPath p = pathCONST) (h128 : ptrAddr p % 128 = 0)
    (hl : locate s (whoAt s) .read p 128 = .ok ls) (hh : holdLoad s fr f.lsid.toNat = false)
    (hn : poisonAt s (whoAt s) (f.cache = 3) ls = none) :
    exec (.task f) s = .next (cardRead f s p ls
      (loadBytes s (whoAt s) s.focus.frame s.focus.tag f.lsid.toNat (f.cache = 3) ls)) := by
  have hpass : (basicCheck p <|> pathCheck servesTask p) = none := by
    rw [hc, servesTask_of_path hp]
    rfl
  have hclean : poisonedLine s (whoAt s) (f.cache = 3) (ls.zip (bytePtrs p 128)) = none :=
    poisonedLine_eq_none_iff.mpr (by rw [map_fst_zip_bytePtrs (length_locateFrom hl)]; exact hn)
  rw [exec_task, execTask, fire_go hr]
  extract_lets q
  obtain rfl : q = p := hpe.symm
  -- The kernel would walk the 128 places of `locate` to compare the branches behind it.
  generalize locate s (whoAt s) .read q 128 = located at hl
  subst hl
  simp only [hf, hpass, h128, hh, hclean, ne_eq, not_true_eq_false, Bool.false_eq_true, if_false]
  rfl

section
variable {p : Word} {ls : List Loc} {bytes : List Byte}

theorem cardRead_bad (hb : cardBad (cardWords bytes) = true) : cardRead f s p ls bytes = faulted clsPathReserved 0x0F p 0 s := if_pos hb

theorem cardRead_staging {base : Word} (hb : cardBad (cardWords bytes) = false) (hs : cardStaging (cardWords bytes) = some base) :
    cardRead f s p ls bytes = faulted clsPathReserved 0x0D base 0 s := by
  rw [cardRead, hb, if_neg Bool.false_ne_true, hs]

theorem cardRead_good (hb : cardBad (cardWords bytes) = false) (hs : cardStaging (cardWords bytes) = none) :
    cardRead f s p ls bytes = fired (.task f) { effs := [.task (cardWords bytes)] } (cardLeft f s ls bytes) := by
  rw [cardRead, hb, if_neg Bool.false_ne_true, hs]

end

/-! ## Barriers -/

theorem gbar_nonmember (hr : readiness (.gbar f) s = .go a b c)
    (hm : (groupMembers s s.focus.c (f.off.toNat % 256)).contains (memberNum s s.focus.c) = false) :
    Answers (.gbar f) s (BitVec.allOnes 64) s := by
  rw [Answers, exec_gbar, execGbar, fire_go hr]
  simp only [hm, Bool.not_false, if_true]
  rfl

theorem ctxAt_modGroup (s : State) (die part g : Nat) (f : Group → Group) (d : CtxId) :
    ctxAt (modGroup s die part g f) d = ctxAt s d := by
  rw [modGroup, ctxAt_modPart]

/-- A context that waits at the barrier of group g for the instruction in focus. -/
def atBarrier (s : State) (c : CtxId) (g : Nat) : State :=
  awaiting (modCtx s c (fun x => { x with gbarWait := some (g, s.focus.idx, s.focus.tag) }))

theorem ctxAt_atBarrier {d : CtxId} (hd : s.focus.c = d) (g : Nat) :
    (ctxAt (atBarrier s d g) d).part = (ctxAt s d).part
      ∧ (ctxAt (atBarrier s d g) d).gbarWait = some (g, s.focus.idx, s.focus.tag) := by
  subst hd
  unfold atBarrier awaiting
  rw [modCtx_focus, ctxAt_modFrame_self, ctxAt_modCtx_self]
  exact ⟨rfl, rfl⟩

/-- The PHASE of an arrival at a group's barrier: its context publishes and acquires at the group's scope (R228). -/
def barrierPhase (s : State) (g : Nat) : State :=
  let scope := groupScope (groupMembers s s.focus.c g)
  acquire (publish s s.focus.c scope (((frameAt s s.focus.c s.focus.frame).map (·.addr)).getD 0)) s.focus.c scope

theorem seated_barrierPhase (s : State) (g : Nat) : Seated s (barrierPhase s g) :=
  (seated_publish s _ _ _).trans (seated_acquire _ _ _)

/-- The machine with the member's arrival at group g's barrier (R228). -/
def barrierArrival (s : State) (g : Nat) : State :=
  modGroup (atBarrier (barrierPhase s g) s.focus.c g) (dieOf s.focus.c.core) (ctxAt s s.focus.c).part g
    (fun q => { q with arrived := q.arrived ++ [memberNum s s.focus.c] })

/-- A member that arrives waits, and is still in its partition, whatever its PHASE wakes or refuses. -/
theorem ctxAt_afterPhase (s : State) (g : Nat) :
    (ctxAt (atBarrier (barrierPhase s g) s.focus.c g) s.focus.c).part = (ctxAt s s.focus.c).part
      ∧ (ctxAt (atBarrier (barrierPhase s g) s.focus.c g) s.focus.c).gbarWait = some (g, s.focus.idx, s.focus.tag) := by
  have hseat := seated_barrierPhase s g
  obtain ⟨hpart, hwait⟩ := ctxAt_atBarrier (congrArg Site.c hseat.focus) g
  rw [hseat.focus] at hwait
  exact ⟨hpart.trans (hseat.part _), hwait⟩

theorem gbarWait_barrierArrival (s : State) (g : Nat) :
    (ctxAt (barrierArrival s g) s.focus.c).gbarWait = some (g, s.focus.idx, s.focus.tag) := by
  obtain ⟨-, hwait⟩ := ctxAt_afterPhase s g
  rw [barrierArrival, ctxAt_modGroup, hwait]

/-- A member whose context does not wait arrives, and its generation is judged in the group of its own partition (R228). -/
theorem gbar_arrives (hr : readiness (.gbar f) s = .go a b c)
    (hm : (groupMembers s s.focus.c (f.off.toNat % 256)).contains (memberNum s s.focus.c) = true)
    (hw : (ctxAt s s.focus.c).gbarWait = none) (hp : syncPending s = false) :
    exec (.gbar f) s = .next (completeBarrier (barrierArrival s (f.off.toNat % 256)) (dieOf s.focus.c.core)
      (ctxAt s s.focus.c).part (f.off.toNat % 256) s.focus.c) := by
  obtain ⟨hpart, -⟩ := ctxAt_afterPhase s (f.off.toNat % 256)
  rw [barrierArrival, ← hpart, exec_gbar, execGbar, fire_go hr]
  simp only [hm, hw, hp, ctxAt_modGroup, Bool.not_true, Bool.false_eq_true, if_false]
  rfl

end Sys2Proof.Laws
end

section
/-! CERTIFICATES. Mortar jobs, cards, queries and group barriers (R218, R223, R228, R232, R233, R236 to R238, R240, R241). -/

namespace Sys2Proof.Laws

open Sys2Proof Sys2Proof.Machine

/-- Settles O44: a job and a card go by their checks, a query by the queue of its core, a GBAR by whether its issuer is a member. -/
theorem mortarResults : Obligations.MortarResults := by
  intro f s a b c
  refine ⟨fun e he hr => ⟨fun d hc => ?_, fun x hc => ?_⟩, fun hr => ?_, gmcast_waits, fun ls fr hr hf hchecks hh hn => ?_,
    fun hr => ⟨gbar_nonmember hr, fun hm hw hp => ?_⟩⟩
  · rw [LeavesEffects, exec_job he, queueJob_passes hr hc]
  · rw [exec_job he, queueJob_faults hr hc]
  · exact mquery_delivers hr
  · obtain ⟨hc, hp, h128, hl⟩ := hchecks
    have hx := task_reads hr hf rfl hc hp h128 hl hh hn
    refine ⟨fun hb => ?_, fun base hb hs => ?_, fun hb hs => ?_⟩
    · rw [hx, cardRead_bad hb]
    · rw [hx, cardRead_staging hb hs]
    · have hleft := quiet_cardLeft f s ls
        (loadBytes s (whoAt s) s.focus.frame s.focus.tag f.lsid.toNat (f.cache = 3) ls)
      exact ⟨_, by rw [hx, cardRead_good hb hs]; rfl, hleft.focus, hleft.memory, hleft.regs⟩
  · exact ⟨_, gbar_arrives hr hm hw hp, gbarWait_barrierArrival s _⟩

end Sys2Proof.Laws
end

section
/-! SUPPORT. An ACCQ that answers in a pinned block: the block's younger iterations are discarded with the younger blocks (R150,
R153, R254). -/

namespace Sys2Proof.Laws

open Sys2Proof Sys2Proof.Machine

/-- An ACCQ of accumulator 0. -/
def drain : XFields := ⟨.i8, .i8, 0, .none, 0, .always, false, 0⟩

/-- A load of one byte, without a target. -/
def outputLoad : LFields := ⟨.i8, .always, .none, 0, 0, 0, 0, 0⟩

/-- A load that iteration 1 has made: it may have read the accumulator's output before it was there. -/
def earlyLoad : LoadRec := ⟨0, 0, .iter 1, [.pa 128 128], [0]⟩

/-- A pinned block with the load at index 0 and the ACCQ at index 7, whose iteration 1 has loaded. -/
def pinnedDrain (fr : Frame) : Frame :=
  { fr with
    image := (placeImage (encode (.accq drain)) 7 true).set 16 (encode (.ld outputLoad))
    fired := [(0, .iter 1)]
    loads := [earlyLoad] }

/-- The machine about to fire the ACCQ for iteration 0 of that block; no queue holds a command. -/
def draining : State := modFrame (placeWord State.reset (encode (.accq drain))) ⟨0, 0⟩ 0 pinnedDrain

theorem draining_ready : readiness (.accq drain) draining = .go Token.zero Token.zero Token.zero := by decide +kernel

theorem draining_queues_empty : (ctxAt draining draining.focus.c).accWait = []
    ∧ (coreAt draining (whoAt draining).core).mq = [] := by decide +kernel

/-- The status word that the ACCQ delivers. -/
def drainStatus : Word := accStatus (accAt draining (whoAt draining).core drain.acc.toNat) drain.acc.toNat

/-- The loads that the block of the ACCQ holds after an outcome. -/
def drainLoads : Result → List LoadRec
  | .next t => ((frameAt t ⟨0, 0⟩ 0).map (·.loads)).getD []
  | _ => []

theorem accq_discards_earlyLoad : drainLoads (exec (.accq drain) draining) = [] := by decide +kernel

theorem squashYounger_keeps_earlyLoad : drainLoads (.next (answered (.accq drain) (some (drainStatus.setWidth 512)) drainStatus
    (squashYounger draining draining.focus.c))) = [earlyLoad] := by decide +kernel

end Sys2Proof.Laws
end

section
/-! CERTIFICATES. Matrix commands and the status word (R246 to R248, R253 to R255). -/

namespace Sys2Proof.Laws

open Sys2Proof Sys2Proof.Machine

/-- Refutes O45: an ACCQ that answers in a pinned block discards the block's younger iterations together with the younger blocks;
the statement has it squash the younger blocks alone, and excludes no pinned block. -/
theorem not_matrixResults : ¬ Obligations.MatrixResults := by
  intro h
  obtain ⟨hwait, hqueue⟩ := draining_queues_empty
  obtain ⟨-, -, haccq, -⟩ := h drain draining Token.zero Token.zero Token.zero
  obtain ⟨hanswers, -⟩ := haccq draining_ready hwait
  have hx : exec (.accq drain) draining = .next (answered (.accq drain) (some (drainStatus.setWidth 512)) drainStatus
      (squashYounger draining draining.focus.c)) := hanswers (by simp [hqueue])
  have hloads := accq_discards_earlyLoad
  rw [hx, squashYounger_keeps_earlyLoad] at hloads
  exact List.cons_ne_nil _ _ hloads

end Sys2Proof.Laws
end

section
/-! SUPPORT. One step of the machine: what it takes (log entry 8), and what it keeps of the memories and of the package
registers (R375, R380, R382). -/

namespace Sys2Proof.Laws

open Sys2Proof Sys2Proof.Machine

variable {s t : State} {i : Instr}

/-! ## What a step takes -/

theorem fetch_rotate (s : State) (core : Nat) (u : Site) : fetch (rotate s core) u = fetch s u := by
  have h : (ctxAt (rotate s core) u.c).frames = (ctxAt s u.c).frames := by
    unfold ctxAt rotate
    rw [coreAt_modCore]
    split
    · next h => rw [h]; rfl
    · rfl
  simp only [fetch, frameAt, h]

theorem siteMove_of_fetch {u : Site} (h : fetch s u = some (.ok i)) (hm : exec i { s with focus := u } ≠ .next { s with focus := u }) :
    siteMove s u = some (exec i { s with focus := u }) := by
  simp only [siteMove, h, moves_of_ne hm, if_true]

theorem step_of_agenda {m : Move} {rest : List Move} (hp : s.pkg.failed = false) (ha : s.agenda = m :: rest) :
    step s = agendaMove m { s with agenda := rest } := by
  simp only [step, hp, ha, Bool.false_eq_true, if_false]

/-- The instruction of an event that is due. -/
noncomputable def dueInstr : Due → Instr
  | .boot => .boot
  | .tokenArrival c f n => .tokenArrival c f n .none
  | .tokenResend c f n => .tokenResend c f n false
  | .ldsEmit c n => .ldsEmit c n
  | .iterationCommit c => .iterationCommit c
  | .blockCommit c => .blockCommit c
  | .faultTaken c => .faultTaken c
  | .phaseComplete c => .phaseComplete c
  | .trapRecordDelivery c => .trapRecordDelivery c
  | .taskStart c => .taskStart c
  | .contextUnpark c => .contextUnpark c
  | .blockMap c => .blockMap c
  | .blockFetchFill c l => .blockFetchFill c ⟨l, none⟩
  | .messageArrival c n => .messageArrival c n
  | .collectiveComplete c n => .collectiveComplete c n
  | .frameGrant c => .frameGrant c none
  | .yieldExpiry c => .yieldExpiry c
  | .musterComplete k a => .musterComplete k a
  | .jobStart k n => .jobStart k n
  | .jobLand k n => .jobLand k n
  | .jobFault k n => .jobFault k n
  | .jobComplete k n => .jobComplete k n
  | .matrixCommandStart k b => .matrixCommandStart k b
  | .matrixCommandFinish k b => .matrixCommandFinish k b
  | .repartApply k => .repartApply k
  | .postedAck k n => .postedAck k n
  | .postedRefusal k n v => .postedRefusal k n v
  | .cardDispatch k => .cardDispatch k
  | .tenureGrant d p => .tenureGrant d p
  | .regionEnd d p r => .regionEnd d p r
  | .launchComplete d l => .launchComplete d l
  | .gangCommit d p => .gangCommit d p
  | .gangReserve d p => .gangReserve d p
  | .loaderTake d => .loaderTake d
  | .contextRestore k => .contextRestore k 0
  | .contextPark c => .contextPark c
  | .blockIncompleteTimeout c => .blockIncompleteTimeout c
  | .quiescenceSample d p => .quiescenceSample d p

theorem dueMove_eq_exec (d : Due) (s : State) : dueMove d s = exec (dueInstr d) s := by
  cases d <;> rfl

theorem firstEvent_is_exec {l : List Due} {r : Result} (h : firstEvent s l = some r) : ∃ i, r = exec i s := by
  induction l with
  | nil => cases h
  | cons d l ih =>
    unfold firstEvent at h
    split at h
    · cases h
      exact ⟨_, dueMove_eq_exec d s⟩
    · exact ih h

theorem siteMove_is_exec {u : Site} (h : siteMove s u = some (.next t)) : ∃ i, .next t = exec i { s with focus := u } := by
  unfold siteMove at h
  split at h
  · cases h
  · cases h
  · next i _ =>
    dsimp only at h
    split at h
    · exact ⟨i, (Option.some.inj h).symm⟩
    · cases h

theorem firstSite_is_siteMove {l : List Site} {r : Result} (h : firstSite s l = some r) :
    ∃ u : Site, siteMove (rotate s u.c.core) u = some r := by
  induction l with
  | nil => cases h
  | cons u l ih =>
    unfold firstSite at h
    split at h
    · next e => exact ⟨u, e.trans h⟩
    · exact ih h

/-! ## What the package's own events keep -/

/-- The package registers within R375, R380 and R382, at a step of the boot. -/
structure PackageWithin (bootStep : Nat) (p : Package) : Prop where
  mod : p.mod < 16
  limitLow : 1 ≤ p.limit
  limitHigh : p.limit ≤ 3200
  clockLow : 1250 ≤ p.clock
  clockHigh : p.clock ≤ 2500
  throt : p.throt = decide (p.clock < 2500)
  p0w : portWidthLegal p.p0w = true
  p1w : portWidthLegal p.p1w = true
  boot : bootStep ≤ 5
  dies : bootStep = 5 ∨ p.dies = 0

theorem packageLegal_iff : packageLegal s = true ↔ PackageWithin s.kiln.bootStep s.pkg := by
  simp only [packageLegal, Bool.and_eq_true, Bool.or_eq_true, decide_eq_true_eq, beq_iff_eq]
  exact ⟨fun ⟨⟨⟨⟨⟨⟨⟨⟨⟨h1, h2⟩, h3⟩, h4⟩, h5⟩, h6⟩, h7⟩, h8⟩, h9⟩, h10⟩ => ⟨h1, h2, h3, h4, h5, h6, h7, h8, h9, h10⟩,
    fun ⟨h1, h2, h3, h4, h5, h6, h7, h8, h9, h10⟩ => ⟨⟨⟨⟨⟨⟨⟨⟨⟨h1, h2⟩, h3⟩, h4⟩, h5⟩, h6⟩, h7⟩, h8⟩, h9⟩, h10⟩⟩

/-- Legal is kept with the memories' form and the outside. -/
theorem legal_of_kept (h : Legal s) (hk : Kept (outside s) t) : Legal t := by
  obtain ⟨hm, ho⟩ := hk
  simp only [outside, Prod.mk.injEq] at ho
  obtain ⟨hkiln, hpkg, -⟩ := ho
  refine ⟨hm, packageLegal_iff.mpr ?_⟩
  rw [hkiln, hpkg]
  exact packageLegal_iff.mp h.2

theorem legal_kept (h : Legal s) : Kept (outside s) s := ⟨h.1, rfl⟩

/-- The memories' form does not look at kiln or the package. -/
theorem legal_withPackage (h : Legal s) {k : Kiln} {p : Package} (hp : PackageWithin k.bootStep p) :
    Legal { s with kiln := k, pkg := p } := ⟨h.1, packageLegal_iff.mpr hp⟩

theorem legal_within (h : Legal s) : PackageWithin s.kiln.bootStep s.pkg := packageLegal_iff.mp h.2

/-- Boot has not come to READY, so no die is booted, wherever it stands (R375). -/
theorem PackageWithin.stoppedAt {n k : Nat} {p : Package} (h : PackageWithin n p) (hn : n ≠ 5) (hk : k ≤ 5) : PackageWithin k p :=
  { h with boot := hk, dies := .inr (h.dies.resolve_left hn) }

theorem legal_modPort (h : Legal s) (n : Nat) (f : Port → Port) : Legal (modPort s n f) :=
  legal_withPackage h { legal_within h with }

theorem legal_modDie (h : Legal s) (d : Nat) (f : Die → Die) : Legal (modDie s d f) := h

theorem legal_trainPorts (h : Legal s) : Legal (trainPorts s) :=
  legal_withPackage (s := { s with freeCounter := _ }) h
    { legal_within h with p0w := portWidthLegal_widthCode _, p1w := portWidthLegal_widthCode _ }

theorem legal_stopBoot {k cause : Nat} (hs : s.kiln.bootStep ≠ 5) (hk : k ≤ 5) (h : Legal s) : Legal (stopBoot k cause s) :=
  legal_withPackage h ((legal_within h).stoppedAt hs hk)

theorem legal_readyDie (h : Legal s) (d : Nat) : Legal (readyDie s d) := legal_of_kept h (kept_modCtx (kept_modDie (legal_kept h)))

theorem legal_bringUp (h : Legal s) : Legal (bringUp s) := by
  obtain ⟨ports, e⟩ := bringUp_rest s
  rw [e]
  exact legal_withPackage h { legal_within h with }

theorem legal_foldl {β : Type} {f : State → β → State} (hf : ∀ s b, Legal s → Legal (f s b)) (l : List β) (h : Legal s) :
    Legal (l.foldl f s) :=
  List.foldlRecOn l f h fun t ht b _ => hf t b ht

theorem legal_loadFirmware (im : List Byte) (h : Legal s) : Legal (loadFirmware im s) :=
  legal_foldl (fun _ d ht => legal_modDie ht d _) _ h

theorem legal_readyBoot (h : Legal s) : Legal (readyBoot s) := by
  unfold readyBoot
  extract_lets u
  have hu : Legal u := legal_bringUp (legal_foldl (fun _ d ht => legal_readyDie ht d) _ (legal_trainPorts h))
  clear_value u
  exact legal_withPackage hu { legal_within hu with boot := le_rfl, dies := .inl rfl }

theorem bootFails_le {k : Nat} (h : bootFails s = some k) : k ≤ 5 := by
  simp only [bootFails, Bool.and_eq_true, decide_eq_true_eq] at h
  split at h
  · next hk => cases h; omega
  · cases h

theorem bootStep_loadFirmware (im : List Byte) (s : State) : (loadFirmware im s).kiln = s.kiln :=
  List.foldlRecOn (motive := fun t : State => t.kiln = s.kiln) (List.range 4) _ rfl fun _ ht _ _ => ht

theorem legal_finishBoot (im : List Byte) (hs : s.kiln.bootStep ≠ 5) (h : Legal s) : Legal (finishBoot im s) := by
  unfold finishBoot
  extract_lets u
  have hu : Legal u := legal_withPackage (s := { s with freeCounter := _ }) h (legal_within h)
  have hstep : u.kiln.bootStep ≠ 5 := hs
  clear_value u
  split
  · next k hk =>
    refine legal_stopBoot ?_ (bootFails_le hk) ?_
    · split
      · rwa [bootStep_loadFirmware]
      · exact hstep
    · split
      · exact legal_loadFirmware im hu
      · exact hu
  · exact legal_readyBoot (legal_loadFirmware im hu)

theorem legal_boot (h : Legal s) (he : exec .boot s = .next t) : Legal t := by
  cases he
  split
  · exact h
  · next h0 =>
    have hs : s.kiln.bootStep ≠ 5 := by omega
    split
    · exact legal_trainPorts (legal_stopBoot hs (by decide) h)
    · exact legal_finishBoot _ hs h

theorem legal_requestRecovery (h : Legal s) : Legal (requestRecovery s) := by
  unfold requestRecovery
  extract_lets k u
  have hu : Legal u := legal_withPackage h (legal_within h)
  clear_value u
  split
  · exact hu
  · next h1 =>
    have hs : u.kiln.bootStep ≠ 5 := by omega
    split
    · exact legal_stopBoot hs (by decide) hu
    · exact legal_finishBoot _ hs hu

theorem legal_requestRewrite (h : Legal s) : Legal (requestRewrite s) := by
  unfold requestRewrite
  dsimp only
  split
  · exact legal_withPackage h (legal_within h)
  · exact legal_withPackage h (legal_within h)

theorem legal_barWindow (bs : List (Nat × Byte)) (die : Nat) (h : Legal s) : Legal (barWindow bs die s) := by
  unfold barWindow
  extract_lets u v
  have hu : Legal u := legal_of_kept h (kept_windowWrite _ _ _ (legal_kept h))
  have hv : Legal v := by
    show Legal (if _ then _ else _)
    split
    · exact legal_of_kept hu (kept_clearDrops _ _ (legal_kept hu))
    · exact hu
  split
  · exact legal_of_kept hv (kept_setWake _ _ _ (legal_kept hv))
  · exact hv

theorem legal_barRequest (bs : List (Nat × Byte)) (h : Legal s) : Legal (barRequest bs s) := by
  unfold barRequest
  split
  · exact h
  · dsimp only
    split
    · exact legal_requestRecovery h
    · split
      · exact legal_requestRewrite h
      · exact legal_withPackage h (legal_within h)

theorem legal_barWrite (o : Nat) (data : List Byte) (h : Legal s) : Legal (barWrite s o data) := by
  unfold barWrite
  extract_lets u
  have hu : Legal u := by
    refine legal_foldl (fun t d ht => ?_) _ h
    dsimp only
    split
    · exact ht
    · exact legal_barWindow _ d ht
  clear_value u
  have hr := legal_barRequest (barSpan o data 0x200008 8) hu
  exact legal_withPackage hr (legal_within hr)

theorem nextClock_within {limit clock average : Nat} (hlo : 1250 ≤ clock) (hhi : clock ≤ 2500) :
    1250 ≤ nextClock limit clock average ∧ nextClock limit clock average ≤ 2500 := by
  unfold nextClock
  split
  · omega
  · split
    · omega
    · exact ⟨hlo, hhi⟩

theorem legal_linkRetrain {die nb : Nat} {ok : Bool} (h : Legal s) (he : exec (.linkRetrain die nb ok) s = .next t) : Legal t := by
  cases he
  split
  · exact h
  · have hm := legal_foldl (fun u d (hu : Legal u) => legal_modDie hu d (fun q => { q with linkErr := true })) (List.range 4) h
    exact legal_withPackage hm { legal_within hm with }

theorem legal_hostPortRetrain {port w : Nat} (h : Legal s) (he : exec (.hostPortRetrain port w) s = .next t) : Legal t := by
  cases he
  split
  · exact h
  · next hw =>
    have hlegal : portWidthLegal w = true := by
      simp only [Bool.and_eq_true, decide_eq_true_eq, not_and_or, ne_eq, not_not] at hw
      rcases hw with rfl | rfl
      all_goals rfl
    split
    · exact legal_withPackage h { legal_within h with p0w := hlegal }
    · split
      · exact legal_withPackage h { legal_within h with p1w := hlegal }
      · exact h

/-- An event of the package keeps the memories, and each register in its range. -/
theorem legal_packageEvent (hp : changesPackage i = true) (h : Legal s) (he : exec i s = .next t) : Legal t := by
  cases i with
  | boot => exact legal_boot h he
  | kilnRecoveryRequest => cases he; exact legal_requestRecovery h
  | kilnFlashRewrite => cases he; exact legal_requestRewrite h
  | moduleNumberSet m =>
    cases he
    split
    · next hm => exact legal_withPackage h { legal_within h with mod := hm }
    · exact h
  | attestationReport nonce => cases he; exact legal_withPackage h (legal_within h)
  | powerLimitSet w =>
    cases he
    split
    · next hw =>
      simp only [Bool.and_eq_true, decide_eq_true_eq] at hw
      exact legal_withPackage h { legal_within h with limitLow := hw.1, limitHigh := hw.2 }
    · exact h
  | launchWindowWrite die off access =>
    cases he
    cases access with
    | write data => exact legal_barWrite _ data h
    | read n => exact legal_withPackage h (legal_within h)
  | powerThrottle mw =>
    cases he
    obtain ⟨hlo, hhi⟩ := nextClock_within (limit := s.pkg.limit) (average := mw) (legal_within h).clockLow (legal_within h).clockHigh
    exact legal_withPackage h { legal_within h with clockLow := hlo, clockHigh := hhi, throt := rfl }
  | linkRetrain => exact legal_linkRetrain h he
  | hostPortRetrain => exact legal_hostPortRetrain h he
  | flitRetry port =>
    cases he
    split
    · exact h
    · exact legal_modPort h port _
  | portRetrain port lanes =>
    cases he
    split
    · exact h
    · exact legal_modPort h port _
  | _ => cases hp

/-! ## What every step keeps -/

theorem legal_exec (h : Legal s) (he : exec i s = .next t) : Legal t := by
  cases hp : changesPackage i with
  | true => exact legal_packageEvent hp h he
  | false => exact legal_of_kept h (kept_exec hp (legal_kept h) t he)

theorem legal_siteMove {u : Site} (h : Legal s) (he : siteMove s u = some (.next t)) : Legal t := by
  obtain ⟨i, hi⟩ := siteMove_is_exec he
  exact legal_exec (s := { s with focus := u }) h hi.symm

theorem legal_firstEvent {l : List Due} (h : Legal s) (he : firstEvent s l = some (.next t)) : Legal t := by
  obtain ⟨i, hi⟩ := firstEvent_is_exec he
  exact legal_exec h hi.symm

theorem legal_rotate (h : Legal s) (core : Nat) : Legal (rotate s core) := legal_of_kept h (kept_modCore (fun _ hk => hk) (legal_kept h))

theorem legal_chosen (h : Legal s) (he : chosen s = .next t) : Legal t := by
  unfold chosen at he
  split at he
  · next e => exact legal_siteMove h (e.trans (congrArg some he))
  · split at he
    · next e => exact legal_firstEvent h (e.trans (congrArg some he))
    · split at he
      · next e =>
        obtain ⟨u, hu⟩ := firstSite_is_siteMove (e.trans (congrArg some he))
        exact legal_siteMove (legal_rotate h _) hu
      · cases e : firstEvent s (lateEvents s) with
        | none =>
          rw [e] at he
          cases he
          exact h
        | some r =>
          rw [e] at he
          exact legal_firstEvent h (e.trans (congrArg some he))

/-- A site where nothing moves leaves the state as it is. -/
theorem legal_siteMove_getD {u : Site} (h : Legal s) (hs : Legal t) {v : State} (he : (siteMove s u).getD (.next t) = .next v) :
    Legal v := by
  cases e : siteMove s u with
  | none =>
    rw [e] at he
    cases he
    exact hs
  | some r =>
    rw [e] at he
    exact legal_siteMove h (e.trans (congrArg some he))

theorem legal_agendaMove {m : Move} (h : Legal s) (he : agendaMove m s = .next t) : Legal t := by
  cases m with
  | happens i =>
    simp only [agendaMove] at he
    split at he
    · exact legal_siteMove_getD h h he
    · exact legal_exec h he
  | fires u => exact legal_siteMove_getD (legal_rotate h _) h he

theorem changesPackage_of_isBrick (hb : isBrick i = true) : changesPackage i = false := by
  cases i with
  | boot | kilnRecoveryRequest | kilnFlashRewrite | moduleNumberSet _ | attestationReport _ | powerLimitSet _
  | launchWindowWrite _ _ _ | powerThrottle _ | linkRetrain _ _ _ | hostPortRetrain _ _ | flitRetry _ | portRetrain _ _ => cases hb
  | _ => rfl

end Sys2Proof.Laws
end

section
/-! CERTIFICATES. The step, and the worked words of the manual (R11, R366, R375, R380 to R382, R411, R416, R425). -/

namespace Sys2Proof.Laws

open Sys2Proof Sys2Proof.Machine

/-- Settles O1: the words are decoded. -/
theorem workedWordsDecode : Obligations.WorkedWordsDecode := by
  unfold Obligations.WorkedWordsDecode
  decide +kernel

/-- Settles O8: whatever a step takes is an instruction or an event, which keeps the memories' form; those that change kiln or the
package registers keep each register in its range. -/
theorem stepKeepsLegal : Obligations.StepKeepsLegal := by
  intro s t h he
  unfold step at he
  split at he
  · cases he
  · split at he
    · next m rest _ => exact legal_agendaMove (t := t) (s := { s with agenda := rest }) h he
    · exact legal_chosen h he

/-- Settles O9: a brick fires no event of the package, and nothing else changes what lies outside. -/
theorem bricksLeaveThePackage : Obligations.BricksLeaveThePackage := by
  intro i s t h hb he
  obtain ⟨-, ho⟩ := kept_exec (changesPackage_of_isBrick hb) (legal_kept h) t he
  simpa only [outside, Prod.mk.injEq] using ho

/-- Settles O11: the agenda is looked at first, and a site's instruction is the word that its frame holds there. -/
theorem stepTakesTheAgenda : Obligations.StepTakesTheAgenda := by
  refine ⟨⟨fun s i rest hp ha hb => ?_, fun s u fr i rest hp ha hf hm hd => ?_⟩, fun s hp => ?_⟩
  · rw [step_of_agenda hp ha]
    simp only [agendaMove, hb, Bool.false_eq_true, if_false]
  · intro s' hx
    have hfetch : fetch (rotate { s with agenda := rest } u.c.core) u = some (.ok i) :=
      (fetch_rotate _ _ u).trans (fetch_of_decode hf hm hd)
    rw [step_of_agenda hp ha]
    simp only [agendaMove, siteMove_of_fetch hfetch hx, Option.getD_some]
    rfl
  · rw [step, if_pos hp]

end Sys2Proof.Laws
end

section
/-! SUPPORT. Atomics that their checks let through, and one that is performed beside a search of an arena (R314, R315, R335). -/

namespace Sys2Proof.Laws

open Sys2Proof Sys2Proof.Machine

variable {s : State} {f : LFields} {i : Instr} {op : AtomicNew} {a b c : Token} {ls : List Loc}

/-- Each atomic of the table is one firing with its own operation (R315). -/
theorem exec_atomic {e : Instr × AtomicNew} (he : e ∈ atomicTable f) (s : State) : exec e.1 s = atomic e.1 f e.2 s := by
  simp only [atomicTable, List.mem_cons, List.not_mem_nil, or_false] at he
  rcases he with rfl | rfl | rfl | rfl | rfl | rfl | rfl | rfl | rfl | rfl | rfl
  all_goals rfl

theorem atomic_misaligned (hr : readiness i s = .go a b c)
    (hl : checkAccess f.ty servesAtomic .write (f.ty.width / 8) s (addrOf (word a.value 0) (offsetOf f)) = .ok ls)
    (hp : ptrAddr (addrOf (word a.value 0) (offsetOf f)) % (f.ty.width / 8) ≠ 0) :
    atomic i f op s = .next (faulted clsPathReserved 0x13 (addrOf (word a.value 0) (offsetOf f)) 0 s) := by
  rw [atomic, fire_go hr]
  simp only [hl, hp, ne_eq, not_false_eq_true, if_true]

/-- The queue that an atomic with a notification names, if it has one (R318). -/
def atomicDst (f : LFields) (c : Token) (s : State) : Option (Nat × Nat) :=
  if f.mc.getLsbD 0 then
    (sendCore s s.focus.c s.focus.c.core (word c.value 0).toNat).map (fun k => (k, (word c.value 0).toNat % 32))
  else none

theorem atomic_performs (hr : readiness i s = .go a b c)
    (hl : checkAccess f.ty servesAtomic .write (f.ty.width / 8) s (addrOf (word a.value 0) (offsetOf f)) = .ok ls)
    (hp : ptrAddr (addrOf (word a.value 0) (offsetOf f)) % (f.ty.width / 8) = 0)
    (hd : (f.mc.getLsbD 0 && (atomicDst f c s).isNone) = false)
    (hh : atomicHeld s f ls = false) (hn : poisonHome s ls = none) (ht : atomicRefusal s (whoAt s) ls = none) :
    atomic i f op s = .next (performAtomic i f op s (addrOf (word a.value 0) (offsetOf f)) ls
      (b.value.toNat % 2 ^ f.ty.width) (c.value.toNat % 2 ^ f.ty.width) (atomicDst f c s)) := by
  have hclean : poisonedHome s (ls.zip (bytePtrs (addrOf (word a.value 0) (offsetOf f)) (f.ty.width / 8))) = none :=
    poisonedHome_eq_none (by rw [map_fst_zip_bytePtrs (length_checkAccess hl)]; exact hn)
  unfold atomicDst at hd ⊢
  rw [atomic, fire_go hr]
  simp only [hl, hp, hd, hh, hclean, ht, ne_eq, not_true_eq_false, Bool.false_eq_true, if_false]

/-! ## An atomic beside a search -/

/-- A load of a byte that follows the place of the atomic in its block. -/
def followingLoad : LoadRec := ⟨8, 1, .iter 0, [.pa 64 64], [0]⟩

/-- The block of a searcher with the atomic at its index 0 and a load behind it, which has fired. -/
def atomicFrame : Frame := { idleFrame with loads := [followingLoad] }

/-- The searcher, whose search has read nothing yet, about to perform an atomic on the word at address 0. -/
def searchingAtomic : State :=
  { modCtx searching searcher (fun x => { x with frames := [atomicFrame] }) with focus := ⟨searcher, 0, 0, .iter 0⟩ }

/-- An addition without a result, an ordering or a notification. -/
def plainAdd : LFields := ⟨.n8, .always, .none, 0, 0, 0, 0, 0⟩

/-- The searcher after the addition of 1 to the byte at address 0. -/
def afterAtomic : State := performAtomic (.aadd plainAdd) plainAdd (fun m b _ => m + b) searchingAtomic 0 [.pa 0 0] 1 0 none

/-- The block fires again from its beginning, and the search that it had under way finishes and is logged behind the atomic. -/
theorem afterAtomic_logs_search : ((ctxAt afterAtomic searcher).log.getLast?.bind (·.t0)).isSome = true := by decide +kernel

end Sys2Proof.Laws
end

section
/-! CERTIFICATES. Atomics (R314 to R318). -/

namespace Sys2Proof.Laws

open Sys2Proof Sys2Proof.Machine

/-- Settles O41: behind the checks of an access comes the alignment, then whom the atomic notifies, then what holds or refuses
it. -/
theorem atomicsComplete : Obligations.AtomicsComplete := by
  intro f e he s a b c ls dst p hr hl
  rw [exec_atomic he]
  refine ⟨fun hp => atomic_misaligned hr hl hp, fun hp hd hh hn ht => ?_⟩
  have hdst : atomicDst f c s = dst ∧ (f.mc.getLsbD 0 && (atomicDst f c s).isNone) = false := by
    unfold atomicDst
    rcases hd with ⟨hnz, rfl⟩ | ⟨hnz, k, hk, rfl⟩
    · simp only [hnz, Bool.false_eq_true, if_false, Bool.false_and, and_self]
    · simp only [hnz, hk, if_true, Option.map_some, Option.isNone_some, Bool.and_false, and_self]
  obtain ⟨hdst, hnotified⟩ := hdst
  rw [atomic_performs hr hl hp hnotified hh hn ht, hdst]

/-- Refutes O42: an atomic that makes its context's oldest block fire again while a search of an arena is under way there gets the
search's result into the replay log behind its own; the statement says that the atomic's stands last, and excludes no such
search. -/
theorem not_atomicValues : ¬ Obligations.AtomicValues := by
  intro h
  obtain ⟨-, -, -, hlog⟩ := h (.aadd plainAdd) plainAdd (fun m b _ => m + b) searchingAtomic 0 [.pa 0 0] 1 0 none
    (.inl ⟨0, 0, 1, rfl⟩) (List.cons_ne_nil _ _)
  have hsearch := afterAtomic_logs_search
  rw [afterAtomic, show searcher = searchingAtomic.focus.c from rfl, hlog] at hsearch
  exact absurd hsearch (by decide)

end Sys2Proof.Laws
end

section
/-! SUPPORT. Windows, the state of a fabric port, and collectives as they fire (R391, R393, R396 to R399). -/

namespace Sys2Proof.Laws

open Sys2Proof Sys2Proof.Machine

variable {s : State} {f : LFields} {a b c : Token}

/-! ## Windows (R396) -/

theorem exec_wset (f : LFields) (s : State) : exec (.wset f) s = execWset f s := rfl
theorem exec_wget (f : LFields) (s : State) : exec (.wget f) s = execWget f s := rfl
theorem exec_flink (f : LFields) (s : State) : exec (.flink f) s = execFlink f s := rfl
theorem exec_coll (f : LFields) (s : State) : exec (.coll f) s = execColl f s := rfl
theorem exec_cwait (f : LFields) (s : State) : exec (.cwait f) s = execCwait f s := rfl

theorem windowOf_squashYounger (s : State) (c : CtxId) (m : Nat) : windowOf (squashYounger s c) c m = windowOf s c m :=
  congrArg (tabGet (0, 0) · m) ((shows_squashCourse s c 1).part Ctx.windows c)

theorem applyEffect_wset {c : CtxId} {core n : Nat} {blk w0 w1 : Word} {q : Pending} (he : q.eff = .wset n w0 w1) :
    applyEffect c core blk s q = squashYounger (modCtx s c (fun x => { x with windows := tabSet (0, 0) x.windows n (w0, w1) })) c := by
  simp only [applyEffect, he]

/-- A committed window reads as it was written, and the others as before (R396). -/
theorem windowOf_applyEffect_wset {c : CtxId} {core n : Nat} {blk w0 w1 : Word} {q : Pending} (he : q.eff = .wset n w0 w1) (m : Nat) :
    windowOf (applyEffect c core blk s q) c m = if m = n then (w0, w1) else windowOf s c m := by
  rw [applyEffect_wset he, windowOf_squashYounger, windowOf, ctxAt_modCtx_self]
  exact tabGet_tabSet _ _ _ _ _

/-- The words of a token made of two. -/
theorem ofWords_pair (x y : Word) : word (ofWords [x, y]) 0 = x ∧ word (ofWords [x, y]) 1 = y
    ∧ (ofWords [x, y]).extractLsb' 128 384 = 0 := by
  refine ⟨BitVec.eq_of_getLsbD_eq fun i hi => ?_, BitVec.eq_of_getLsbD_eq fun i hi => ?_, BitVec.eq_of_getLsbD_eq fun i hi => ?_⟩
  · simp [word, ofWords, hi]
    omega
  · simp [word, ofWords, hi, show 64 + i < 512 by omega]
  · simp [ofWords]
    exact fun _ => ⟨fun _ _ _ => BitVec.getLsbD_of_ge _ _ (by omega), fun _ => BitVec.getLsbD_of_ge _ _ (by omega)⟩

/-! ## The state of a port (R399) -/

/-- The word that FLINK delivers of a port. -/
def linkWord (q : Port) : Nat :=
  (if q.lanes ≠ 0 then q.peer else 0) * 2 ^ 32 + min 65535 q.retries * 2 ^ 16 + q.lanes * 2 ^ 8 + bit (q.lanes ≠ 0) 0

theorem flink_delivers (hr : readiness (.flink f) s = .go a b c) : exec (.flink f) s = .next (fired (.flink f)
    { r0 := some (scalar (BitVec.ofNat 64 (linkWord (tabGet Port.blank s.pkg.ports (f.off.toNat % 16))))) } s) := by
  rw [exec_flink, execFlink, fire_go hr]
  rfl

/-- The fields of a word put together as FLINK does. -/
theorem fields_of_parts {n p r l u : Nat} (hn : n = p * 2 ^ 32 + r * 2 ^ 16 + l * 2 ^ 8 + u) (hp : p < 2 ^ 17) (hr : r < 2 ^ 16)
    (hl : l < 16) (hu : u < 2) :
    n < 2 ^ 64 ∧ field n 49 15 = 0 ∧ field n 32 17 = p ∧ field n 16 16 = r ∧ field n 12 4 = 0 ∧ field n 8 4 = l ∧ field n 1 7 = 0
      ∧ n % 2 = u := by
  simp only [field]
  omega

/-- The fields of FLINK's word; those of a port that is down are 0. -/
theorem field_linkWord {q : Port} (hp : q.peer < 2 ^ 17) (hl : q.lanes < 16) :
    let v := BitVec.ofNat 64 (linkWord q)
    field v.toNat 49 15 = 0 ∧ field v.toNat 32 17 = (if q.lanes = 0 then 0 else q.peer)
      ∧ field v.toNat 16 16 = min 65535 q.retries ∧ field v.toNat 12 4 = 0 ∧ field v.toNat 8 4 = q.lanes
      ∧ field v.toNat 1 7 = 0 ∧ (v.getLsbD 0 = true ↔ q.lanes ≠ 0) := by
  have hpeer : (if q.lanes ≠ 0 then q.peer else 0) < 2 ^ 17 := by split <;> omega
  have hup : bit (q.lanes ≠ 0) 0 < 2 := by unfold bit; split <;> omega
  obtain ⟨hlt, h49, h32, h16, h12, h8, h1, h0⟩ :=
    fields_of_parts (n := linkWord q) rfl hpeer (r := min 65535 q.retries) (by omega) hl hup
  intro v
  have hv : v.toNat = linkWord q := (BitVec.toNat_ofNat _ _).trans (Nat.mod_eq_of_lt hlt)
  have hbit : v.getLsbD 0 = decide (linkWord q % 2 = 1) := by rw [← hv]; exact Nat.testBit_zero _
  rw [hv, hbit, h0]
  refine ⟨h49, h32.trans ?_, h16, h12, h8, h1, ?_⟩
  · rw [ite_not]
  · by_cases h : q.lanes = 0
    · simp [bit, h]
    · simp [bit, h]

/-! ## Collectives (R391, R397, R398) -/

/-- A pointer whose range can be reached passes the checks that every pointer passes. -/
theorem basicCheck_of_spanFault {w : Who} {want : Want} {p : Word} {n : Nat} (h : spanFault s w want p n = none) (hn : n ≠ 0) :
    basicCheck p = none := by
  unfold spanFault at h
  rw [if_neg hn] at h
  split at h
  · cases h
  · assumption

theorem collMembers_ne_zero {ws : List Word} (h : collBad ws = false) : collMembers ws ≠ 0 := by
  intro h0
  simp [collBad, h0] at h

/-- The pointers of a collective whose ranges can all be reached (R397). -/
theorem collPointers_pass {ws : List Word} {w : Who} {want want' want'' : Want} (hb : collBad ws = false)
    (hlist : spanFault s w want (ws.getD 4 0) (4 * collMembers ws) = none)
    (hsrc : spanFault s w want' (ws.getD 0 0) (collSrc ws) = none) (hdst : spanFault s w want'' (ws.getD 1 0) (collDst ws) = none) :
    (collPointers ws).findSome? basicCheck = none := by
  refine List.findSome?_eq_none_iff.mpr fun p hp => ?_
  unfold collPointers at hp
  rcases List.mem_cons.mp hp with rfl | hp
  · exact basicCheck_of_spanFault hlist (by have := collMembers_ne_zero hb; omega)
  · rcases List.mem_append.mp hp with hp | hp
    · split at hp
      · cases hp
      · next h =>
        rw [List.mem_singleton.mp hp]
        exact basicCheck_of_spanFault hsrc h
    · split at hp
      · cases hp
      · next h =>
        rw [List.mem_singleton.mp hp]
        exact basicCheck_of_spanFault hdst h

/-- The descriptor of a COLL as it is read at its point of coherence. -/
def collWords (s : State) (ls : List Loc) : List Word := (chunksOf 8 8 (coherentBytes s (whoAt s) ls)).map (BitVec.ofNat 64)

theorem coll_reads {ls : List Loc} (hr : readiness (.coll f) s = .go a b c)
    (hp : collPointer (addrOf (word a.value 0) (offsetOf f)) = none)
    (hl : locate s (whoAt s) .read (addrOf (word a.value 0) (offsetOf f)) 64 = .ok ls) (hn : poisonHome s ls = none) :
    exec (.coll f) s = .next (startCollective f (addrOf (word a.value 0) (offsetOf f)) (collWords s ls) s) := by
  have hclean : poisonedHome s (ls.zip (bytePtrs (addrOf (word a.value 0) (offsetOf f)) 64)) = none :=
    poisonedHome_eq_none (by rw [map_fst_zip_bytePtrs (length_locateFrom hl)]; exact hn)
  rw [exec_coll, execColl, fire_go hr]
  extract_lets p
  rw [show collPointer p = none from hp, show locate s (whoAt s) .read p 64 = .ok ls from hl]
  dsimp -zeta only
  rw [hclean]
  rfl

theorem startCollective_bad {p : Word} {ws : List Word} (hb : collBad ws = true) (hp : ∀ q ∈ collPointers ws, basicCheck q = none) :
    startCollective f p ws s = faulted clsPathReserved 0x19 p 0 s := by
  simp only [startCollective, List.findSome?_eq_none_iff.mpr hp, hb, if_true]

theorem startCollective_good {p : Word} {ws : List Word} {bs : List Byte} (hb : collBad ws = false)
    (hlist : spanFault s (whoAt s) .read (ws.getD 4 0) (4 * collMembers ws) = none)
    (hbs : coherentRead s (whoAt s) (ws.getD 4 0) (4 * collMembers ws) = some bs)
    (hm : ∀ m ∈ chunksOf 4 (collMembers ws) bs, m < 2 ^ 22)
    (hown : (chunksOf 4 (collMembers ws) bs).getD (collRank ws) 0 = ownEntry s s.focus.c)
    (hsrc : spanFault s (whoAt s) .read (ws.getD 0 0) (collSrc ws) = none)
    (hdst : spanFault s (whoAt s) .write (ws.getD 1 0) (collDst ws) = none)
    (hstatus : spanFault s (whoAt s) .write (addrOf p 48) 8 = none) :
    startCollective f p ws s
      = fired (.coll f) { effs := [.coll p ws ((chunksOf 4 (collMembers ws) bs).map (BitVec.ofNat 64))] } s := by
  have hfit : (chunksOf 4 (collMembers ws) bs).any (fun m => decide (2 ^ 22 ≤ m)) = false := by
    simpa [List.any_eq_false] using hm
  simp only [startCollective, collPointers_pass hb hlist hsrc hdst, hb, hlist, hbs, hfit, hown, hsrc, hdst, hstatus, ne_eq,
    not_true_eq_false, decide_false, Bool.or_self, Bool.false_eq_true, if_false]
  rfl

/-- What a CWAIT does of which nothing waits yet, by the last collective that its context has committed with the descriptor
(R398). -/
def cwaitRead (f : LFields) (s : State) (p : Word) (ls : List Loc) : State :=
  match lastColl (ctxAt s s.focus.c) p with
  | none => answerWord (.cwait f) (BitVec.ofNat 64 (ofBytes (coherentBytes s (whoAt s) ls))) s
  | some n =>
    match (ctxAt s s.focus.c).colls[n]? with
    | none => s
    | some q =>
      if q.done then reloadLater (answerWord (.cwait f) q.status s) s.focus.c s.focus.tag f.lsid.toNat
      else awaiting (modCtx s s.focus.c (fun x => { x with cwait := some (n, s.focus.idx, s.focus.tag) }))

theorem cwait_reads {ls : List Loc} (hr : readiness (.cwait f) s = .go a b c)
    (hp : collPointer (addrOf (word a.value 0) (offsetOf f)) = none)
    (hc : (ctxAt s s.focus.c).cwait = none) (hn : syncPending s = false)
    (hl : locate s (whoAt s) .read (addrOf (addrOf (word a.value 0) (offsetOf f)) 48) 8 = .ok ls) :
    exec (.cwait f) s = .next (cwaitRead f s (addrOf (word a.value 0) (offsetOf f)) ls) := by
  rw [exec_cwait, execCwait, fire_go hr]
  extract_lets p d x
  rw [show x.cwait = none from hc, hn, show collPointer p = none from hp,
    show locate s (whoAt s) .read (addrOf p 48) 8 = .ok ls from hl]
  rfl

end Sys2Proof.Laws
end

section
/-! CERTIFICATES. Windows, ports and collectives (R391, R393, R396 to R399). -/

namespace Sys2Proof.Laws

open Sys2Proof Sys2Proof.Machine

/-- Settles O48: the reserved bits decide what WSET does; the squash at its commit leaves every window; PEER and LANES are
masked by the state of the port. -/
theorem windowAndPortResults : Obligations.WindowAndPortResults := by
  intro f s a b c
  refine ⟨fun hr => ⟨fun h0 h1 => ?_, fun h => ?_⟩, fun core blk q n w0 w1 he => ⟨windowOf_applyEffect_wset he, ?_⟩, fun hr => ?_,
    fun hr => ⟨_, flink_delivers hr, field_linkWord⟩⟩
  · have hclear : ¬ 2 ^ 54 ≤ (word a.value 1).toNat := Nat.not_le.mpr h1
    rw [LeavesEffects, exec_wset, execWset, fire_go hr]
    simp only [h0, hclear, ne_eq, not_true_eq_false, decide_false, Bool.or_self, Bool.false_eq_true, if_false]
  · rw [exec_wset, execWset, fire_go hr]
    simp only [ne_eq, Bool.or_eq_true, decide_eq_true_eq, h, if_true]
  · rw [applyEffect_wset he, squashYounger, frames_squashCourse _ _ one_ne_zero, ctxAt_modCtx_self]
  · rw [exec_wget, execWget, fire_go hr]
    exact ⟨_, rfl, ofWords_pair _ _⟩

/-- Settles O49: COLL goes through its checks in their order; what CWAIT does depends on the last collective that its context
committed with the descriptor. -/
theorem collectiveResults : Obligations.CollectiveResults := by
  intro f s a b c ls p hp
  refine ⟨fun hr hl hn => ?_, fun hr hc hn hl => ?_⟩
  · intro ws
    have hx := coll_reads hr hp hl hn
    refine ⟨fun hb hq => hx.trans (congrArg _ (startCollective_bad hb hq)), fun bs hb hlist hbs => ?_⟩
    intro ms hm hown hsrc hdst hstatus
    exact hx.trans (congrArg _ (startCollective_good hb hlist hbs hm hown hsrc hdst hstatus))
  · have hx : exec (.cwait f) s = .next (cwaitRead f s p ls) := cwait_reads hr hp hc hn hl
    refine ⟨fun h => ?_, fun n q h hq => ⟨fun hd => ?_, fun hd => ?_⟩⟩
    · exact hx.trans (congrArg _ (by simp only [cwaitRead, h]; rfl))
    · exact hx.trans (congrArg _ (by simp only [cwaitRead, h, hq, hd, if_true]; rfl))
    · exact hx.trans (congrArg _ (by simp only [cwaitRead, h, hq, hd, Bool.false_eq_true, if_false]))

end Sys2Proof.Laws
end

section
/-! SUPPORT. Counted regions and range maintenance as they fire (R276, R322 to R326). -/

namespace Sys2Proof.Laws

open Sys2Proof Sys2Proof.Machine

variable {s : State} {f : LFields} {a b c : Token}

theorem exec_rcdecl (f : LFields) (s : State) : exec (.rcdecl f) s = execRcdecl f s := rfl
theorem exec_rcend (f : LFields) (s : State) : exec (.rcend f) s = execRcend f s := rfl
theorem exec_rcq (f : LFields) (s : State) : exec (.rcq f) s = execRcq f s := rfl
theorem exec_rwb (f : LFields) (s : State) : exec (.rwb f) s = rangeWriteBack (.rwb f) f false s := rfl
theorem exec_rinv (f : LFields) (s : State) : exec (.rinv f) s = rangeWriteBack (.rinv f) f true s := rfl
theorem exec_rdisc (f : LFields) (s : State) : exec (.rdisc f) s = execRdisc f s := rfl

/-! ## RCDECL (R322) -/

/-- A range meets a region of its context's partition. -/
def meetsRegion (s : State) (sp : Option Nat) (lo len : Nat) : Bool :=
  (partOf s s.focus.c).regions.any (fun r => r.spad == sp && decide (lo < r.lo + r.len ∧ r.lo < lo + len))

/-- The region that a context declares of a range, under a number. -/
def declaredRegion (s : State) (sp : Option Nat) (lo len n : Nat) : Region :=
  ⟨n, sp, lo, len, false, s.focus.c, (ctxAt s s.focus.c).rcLog, (ctxAt s s.focus.c).rcLogctl, none, (ctxAt s s.focus.c).launch⟩

theorem meetsRegion_eq (s : State) (sp : Option Nat) (lo len : Nat) :
    (partOf s s.focus.c).regions.any (fun r => r.spad == sp && spansMeet lo (lo + len) r.lo (r.lo + r.len)) = meetsRegion s sp lo len := by
  simp only [meetsRegion, spansMeet, Bool.decide_and]

theorem declareRegion_meets {sp : Option Nat} {lo len : Nat} (h : meetsRegion s sp lo len = true) :
    declareRegion f sp lo len s = answered (.rcdecl f) (some ((0x0200000000000000 : Word).setWidth 512)) 0x0200000000000000 s := by
  simp only [declareRegion, meetsRegion_eq, h, if_true]
  rfl

/-- Every number below 64 is in use. -/
theorem freeNumber_none {rs : List Region} (h : ∀ n, n < 64 → ∃ r ∈ rs, r.num = n) :
    (List.range 64).find? (fun n => !(rs.any (·.num = n))) = none := by
  refine List.find?_eq_none.mpr fun n hn => ?_
  obtain ⟨r, hr, hnum⟩ := h n (List.mem_range.mp hn)
  have : rs.any (fun q => decide (q.num = n)) = true := List.any_eq_true.mpr ⟨r, hr, decide_eq_true hnum⟩
  simp only [this, Bool.not_true, Bool.false_eq_true, not_false_eq_true]

/-- The lowest number that is in no use. -/
theorem freeNumber_some {rs : List Region} {n : Nat} (hn : n < 64) (hfree : ∀ r ∈ rs, r.num ≠ n)
    (hlow : ∀ m, m < n → ∃ r ∈ rs, r.num = m) : (List.range 64).find? (fun n => !(rs.any (·.num = n))) = some n := by
  refine List.find?_range_eq_some.mpr ⟨?_, List.mem_range.mpr hn, fun m hm => ?_⟩
  · simpa using hfree
  · simpa using hlow m hm

theorem declareRegion_full {sp : Option Nat} {lo len : Nat} (h : meetsRegion s sp lo len = false)
    (hfull : ∀ n, n < 64 → ∃ r ∈ (partOf s s.focus.c).regions, r.num = n) :
    declareRegion f sp lo len s = answered (.rcdecl f) (some ((0x0100000000000000 : Word).setWidth 512)) 0x0100000000000000 s := by
  simp only [declareRegion, meetsRegion_eq, h, freeNumber_none hfull, Bool.false_eq_true, if_false]
  rfl

theorem declareRegion_declares {sp : Option Nat} {lo len n : Nat} (h : meetsRegion s sp lo len = false) (hn : n < 64)
    (hfree : ∀ r ∈ (partOf s s.focus.c).regions, r.num ≠ n) (hlow : ∀ m, m < n → ∃ r ∈ (partOf s s.focus.c).regions, r.num = m) :
    declareRegion f sp lo len s = answered (.rcdecl f) (some ((BitVec.ofNat 64 n).setWidth 512)) (BitVec.ofNat 64 n)
      (modPartOf s s.focus.c (fun q => { q with regions := q.regions ++ [declaredRegion s sp lo len n] })) := by
  simp only [declareRegion, meetsRegion_eq, h, freeNumber_some hn hfree hlow, Bool.false_eq_true, if_false, Nat.zero_mul,
    Nat.zero_add]
  rfl

/-- A range that RCDECL accepts: on GEN with both ends translated, or on SPAD below the staging area (R322). -/
def Declarable (s : State) (p : Word) (len : Nat) (sp : Option Nat) (lo : Nat) : Prop :=
  ptrPath p = pathGEN ∧ sp = none ∧ lo = ptrAddr p
      ∧ (∃ l, locateByte s (whoAt s) .write p 0 = .ok l) ∧ (∃ l, locateByte s (whoAt s) .write p (len - 64) = .ok l)
    ∨ ptrPath p = pathSPAD ∧ sp = some (spadLoc (whoAt s) (ptrAddr p)).1 ∧ lo = (spadLoc (whoAt s) (ptrAddr p)).2
      ∧ lo + len ≤ 0x7C000

theorem rcdecl_declares {sp : Option Nat} {lo : Nat} (hr : readiness (.rcdecl f) s = .go a b c)
    (hp : basicCheck (word a.value 0) = none) (h64 : ptrAddr (word a.value 0) % 64 = 0) (hl64 : (word b.value 0).toNat % 64 = 0)
    (hpos : 0 < (word b.value 0).toNat) (hmax : (word b.value 0).toNat ≤ 2 ^ 32)
    (hd : Declarable s (word a.value 0) (word b.value 0).toNat sp lo) :
    exec (.rcdecl f) s = .next (declareRegion f sp lo (word b.value 0).toNat s) := by
  have hpath : ¬ 1 < ptrPath (word a.value 0) := by
    rcases hd with ⟨h, -⟩ | ⟨h, -⟩
    all_goals rw [h]; decide
  have hform : (decide (1 < ptrPath (word a.value 0)) || decide (ptrAddr (word a.value 0) % 64 ≠ 0)
      || decide ((word b.value 0).toNat % 64 ≠ 0) || decide ((word b.value 0).toNat = 0)
      || decide (2 ^ 32 < (word b.value 0).toNat)) = false := by
    simpa [hpath, h64, hl64, Nat.ne_of_gt hpos] using hmax
  rw [exec_rcdecl, execRcdecl, fire_go hr]
  simp only [hp, hform, Bool.false_eq_true, if_false]
  rcases hd with ⟨hgen, rfl, rfl, ⟨l, hfirst⟩, l', hlast⟩ | ⟨hspad, rfl, rfl, hroom⟩
  · have hn : ¬ ptrPath (word a.value 0) = pathSPAD := by rw [hgen]; decide
    simp only [hn, hfirst, hlast, if_false]
  · simp only [hspad, Nat.not_lt.mpr hroom, if_true, if_false]

/-! ## RCEND (R276, R323) -/

theorem rcend_number (h : (word a.value 0).toNat < 64) : ¬ (word a.value 0).toNat / 64 ≠ 0 :=
  fun h' => h' (Nat.div_eq_of_lt h)

theorem rcend_none (hr : readiness (.rcend f) s = .go a b c) (hn : (word a.value 0).toNat < 64)
    (h : ∀ r ∈ (partOf s s.focus.c).regions, r.num ≠ (word a.value 0).toNat) : Answers (.rcend f) s 0x0100000000000000 s := by
  have hnone : (partOf s s.focus.c).regions.find? (·.num = (word a.value 0).toNat) = none := by simpa using h
  rw [Answers, exec_rcend, execRcend, fire_go hr]
  simp only [rcend_number hn, hnone, if_false]
  rfl

theorem rcend_ending {r : Region} (hr : readiness (.rcend f) s = .go a b c) (hn : (word a.value 0).toNat < 64)
    (h : (partOf s s.focus.c).regions.find? (·.num = (word a.value 0).toNat) = some r) (he : r.ending = true)
    (hw : r.waiter ≠ some (s.focus.c, s.focus.idx, s.focus.tag)) : Answers (.rcend f) s 0x0100000000000000 s := by
  rw [Answers, exec_rcend, execRcend, fire_go hr]
  simp only [rcend_number hn, h, beq_eq_false_iff_ne.mpr hw, he, Bool.false_eq_true, if_false, if_true]
  rfl

theorem rcend_ends {r : Region} {fr : Frame} (hr : readiness (.rcend f) s = .go a b c) (hn : (word a.value 0).toNat < 64)
    (h : (partOf s s.focus.c).regions.find? (·.num = (word a.value 0).toNat) = some r) (he : r.ending = false)
    (hw : r.waiter = none) (hf : frameAt s s.focus.c s.focus.frame = some fr) (hres : fr.reserved = [])
    (hany : anyReserved s (regionLines s (dieOf s.focus.c.core) (ctxAt s s.focus.c).part r) = false) :
    let e := endRegion s s.focus.c (dieOf s.focus.c.core) (ctxAt s s.focus.c).part r
    Answers (.rcend f) s (BitVec.ofNat 64 e.2) e.1 := by
  intro e
  rw [Answers, exec_rcend, execRcend, fire_go hr]
  simp only [rcend_number hn, h, hw, he, endDeclared, hf, hres, hany, Option.bind_some, List.find?_nil, Bool.false_eq_true, if_false]
  simp [answerWord, endWord, e]

/-! ## RCQ (R324) -/

/-- The status word that RCQ reports of a line. -/
def countWord (s : State) (l : Loc) : Nat :=
  (match regionAt (partOf s s.focus.c) l with
    | none => 2 ^ 56
    | some r => (if r.ending then 2 else 0) * 2 ^ 56 + r.num * 2 ^ 16) + (countAt s l).2 * 2 ^ 8 + (countAt s l).1

theorem rcq_reports {l : Loc} (hr : readiness (.rcq f) s = .go a b c)
    (hp : basicCheck (addrOf (word a.value 0) (offsetOf f)) = none) (hpath : ptrPath (addrOf (word a.value 0) (offsetOf f)) ≤ 1)
    (hl : locateByte s (whoAt s) .read (addrOf (word a.value 0) (offsetOf f)) 0 = .ok l) :
    exec (.rcq f) s = .next (fired (.rcq f) { r0 := some (scalar (BitVec.ofNat 64 (countWord s l))) } s) := by
  rw [exec_rcq, execRcq, fire_go hr]
  simp only [hp, Nat.not_lt.mpr hpath, hl, countWord, if_false]
  cases regionAt (partOf s s.focus.c) l with
  | none => rfl
  | some r => rfl

/-! ## Ranges (R325, R326) -/

theorem rangeWriteBack_waits {i : Instr} {inv : Bool} (hr : readiness i s = .go a b c)
    (hc : checkRange (if inv then .write else .read) s (addrOf (word a.value 0) (offsetOf f)) (word b.value 0).toNat = none) :
    rangeWriteBack i f inv s = .next (fired i { effs := [.rangeWb
      ((rangeLines s (whoAt s) (addrOf (word a.value 0) (offsetOf f)) (word b.value 0).toNat).map (·.1)) inv] } s) := by
  rw [rangeWriteBack, fire_go hr]
  simp only [hc]

theorem rdisc_drops {fr : Frame} (hr : readiness (.rdisc f) s = .go a b c)
    (hc : checkRange .write s (addrOf (word a.value 0) (offsetOf f)) (word b.value 0).toNat = none)
    (hf : frameAt s s.focus.c s.focus.frame = some fr) (hres : fr.reserved = [])
    (hfree : ∀ q ∈ rangeLines s (whoAt s) (addrOf (word a.value 0) (offsetOf f)) (word b.value 0).toNat,
      foreignTenure (partAt s (whoAt s).die (whoAt s).part) (holderOf s (whoAt s)) q.2 = false ∧ (l2At s q.1).v = 0) :
    exec (.rdisc f) s = .next (reloadLater (answered (.rdisc f) none 0
      ((rangeLines s (whoAt s) (addrOf (word a.value 0) (offsetOf f)) (word b.value 0).toNat).foldl
        (fun s' q => discardLine s' s.focus.c (l1Group s (whoAt s).core) q) (modCtx s s.focus.c (fun x => { x with discWait := [] }))))
      s.focus.c s.focus.tag f.lsid.toNat) := by
  rw [exec_rdisc, execRdisc, fire_go hr]
  simp only [hc, discardRange]
  generalize rangeLines s (whoAt s) (addrOf (word a.value 0) (offsetOf f)) (word b.value 0).toNat = lines at hfree
  have hheld : lines.find? (fun q => lineDirty s (l1Group s (whoAt s).core) q.1
      && foreignTenure (partAt s (whoAt s).die (whoAt s).part) (holderOf s (whoAt s)) q.2) = none :=
    List.find?_eq_none.mpr fun q hq => by rw [(hfree q hq).1, Bool.and_false]; exact Bool.false_ne_true
  have hunits : lines.any (fun q => decide ((l2At s q.1).v ≠ 0)) = false :=
    List.any_eq_false.mpr fun q hq => by simp [(hfree q hq).2]
  simp only [hheld, hunits, hf, hres, Option.bind_some, List.find?_nil, Bool.false_eq_true, if_false]

end Sys2Proof.Laws
end

section
/-! CERTIFICATES. Counted regions and ranges (R276, R322 to R326). -/

namespace Sys2Proof.Laws

open Sys2Proof Sys2Proof.Machine

/-- Settles O43: each instruction goes through its tests in their order, of which the premises leave one outcome. -/
theorem regionAndRangeResults : Obligations.RegionAndRangeResults := by
  refine ⟨fun f s a b c sp lo => ?_, fun f s a b c => ?_⟩
  · intro p len hr hp h64 hl64 hpos hmax hd rs meets
    have hx := rcdecl_declares hr hp h64 hl64 hpos hmax hd
    exact ⟨fun hm => hx.trans (congrArg _ (declareRegion_meets hm)), fun hm hfull => hx.trans (congrArg _ (declareRegion_full hm hfull)),
      fun n hm hn hfree hlow => hx.trans (congrArg _ (declareRegion_declares hm hn hfree hlow))⟩
  · intro p len part
    exact ⟨fun hr hn => ⟨rcend_none hr hn, fun r h he hw => rcend_ending hr hn h he hw,
        fun r fr h he hw hf hres hany => rcend_ends hr hn h he hw hf hres hany⟩,
      fun l hr hp hpath hl => rcq_reports hr hp hpath hl,
      fun hr hc => rangeWriteBack_waits (inv := false) hr hc,
      fun hr hc => rangeWriteBack_waits (inv := true) hr hc,
      fun fr hr hc hf hres hfree => rdisc_drops hr hc hf hres hfree⟩

end Sys2Proof.Laws
end

section
/-! SUPPORT. A split whose write of the mirror wakes a watch: the younger block that is squashed retires a handle (R185, R287,
R301). -/

namespace Sys2Proof.Laws

open Sys2Proof Sys2Proof.Machine

/-- The split of dimension 0 after its first element. -/
def firstElement : LFields := ⟨.n8, .always, .none, 0, 0, 0, 0, 0x100⟩

/-- A tile of two bytes at address 0. -/
def pairTile : Handle := ⟨1, 1, [0, 2, 0, 0, 0], 0, 2, 0, 0, 1, [], [], [], none, false⟩

/-- A tile that the second block of the first context is retiring. -/
def retiredTile : Handle := ⟨2, 1, [64, 1, 0, 0, 0], 64, 65, 0, 0, 2, [], [], [], some (⟨0, 0⟩, 1), false⟩

/-- The second block, whose THFREE has left its effect. -/
def freeingFrame : Frame := { idleFrame with pos := 1, effects := [⟨0, none, .persist, .thfree 0x201⟩] }

/-- The value in slot a of the split: the tile's handle. -/
def splitHandleToken (fr : Frame) : Frame := { fr with ops := fr.ops.map (fun o => { o with tok := wideTok 0x101 }) }

/-- The first context splits the tile and watches the tile's entry; its second block is retiring the other tile. -/
def splitting : State :=
  modPart (modCtx (placeWord State.reset (encode (.tsplit firstElement))) searcher (fun x =>
      { x with frames := x.frames.map splitHandleToken ++ [freeingFrame], watch := some ⟨.pa 64 64, 0, .persist⟩ })) 0 0
    (fun p => { p with tlb := [⟨0, 2 ^ 21, 0, true, true, false⟩], thCap := 16, handles := [retiredTile, pairTile] })

/-- The value in slot a of the split. -/
def splitToken : Token := wideTok 0x101

theorem splitting_ready : readiness (.tsplit firstElement) splitting = .go splitToken splitToken splitToken := by decide +kernel

theorem splitting_finds : findHandle (partOf splitting splitting.focus.c) (handleOf splitToken.value) = .ok pairTile := by
  decide +kernel

theorem splitting_free : freeIndex (partOf splitting splitting.focus.c) = some 3 := by decide +kernel

theorem splitting_others : (partOf splitting splitting.focus.c).handles.filter (fun g => g.idx ≠ pairTile.idx) = [retiredTile] := by
  decide +kernel

/-- The states of the tiles that the first context's partition has after an outcome. -/
def tileStates : Result → List Nat
  | .next t => (partOf t searcher).handles.map (·.st)
  | _ => []

theorem split_revives_retiredTile : tileStates (exec (.tsplit firstElement) splitting) = [1, 1, 1] := by decide +kernel

theorem handles_fired (i : Instr) (r : Firing) (s : State) (d p : Nat) :
    (partAt (fired i r s) d p).handles = (partAt s d p).handles := by
  obtain ⟨-, hdies, -⟩ := onlySiteFrame_fired i r s
  obtain ⟨hpart, -⟩ := (hdies d).2 p
  rw [hpart]

/-- The site's context has logged an answer (R198). -/
def loggedHere (t0 : Option Wide) (t1 : Word) (s : State) : State :=
  modCtx s s.focus.c (fun x => { x with log := x.log ++ [⟨s.focus.idx, s.focus.tag, t0, t1⟩] })

theorem partOf_answered_handles (i : Instr) (t0 : Option Wide) (t1 : Word) (s : State) (c : CtxId) :
    (partOf (answered i t0 t1 s) c).handles = (partOf s c).handles := by
  obtain ⟨-, -, -, hctx, -⟩ := onlySiteFrame_fired i
    { r0 := some (match t0 with | some v => wideTok v | none => nullTok), r1 := some (scalar t1) } (loggedHere t0 t1 s)
  have hlog : (ctxAt (loggedHere t0 t1 s) c).part = (ctxAt s c).part := by
    by_cases hc : c = s.focus.c
    · rw [hc, loggedHere, ctxAt_modCtx_self]
    · rw [loggedHere, ctxAt_modCtx_other _ _ hc]
  have hpart : (ctxAt (answered i t0 t1 s) c).part = (ctxAt s c).part := (congrArg Ctx.part (hctx c)).trans hlog
  rw [partOf, partOf, hpart]
  exact handles_fired ..

end Sys2Proof.Laws
end

section
/-! CERTIFICATES. Tiles (R286 to R311). -/

namespace Sys2Proof.Laws

open Sys2Proof Sys2Proof.Machine

/-- Refutes O46: the mirror of a handle that a split makes is a synchronising write, which may wake a watch and so squash a block
younger than the watcher's oldest; where that block was retiring another handle, that one is live again, and the statement says
that a split leaves the other handles as they are. -/
theorem not_tileResults : ¬ Obligations.TileResults := by
  intro h
  obtain ⟨-, hlive, -⟩ := h firstElement splitting splitToken splitToken splitToken
  obtain ⟨-, -, -, -, hsplit⟩ := hlive pairTile splitting_finds
  obtain ⟨-, -, -, hcuts⟩ := hsplit splitting_ready (by decide)
  obtain ⟨t, lo, hi, hx, hhandles, -⟩ := hcuts 3 (by decide) (.inl (by decide +kernel)) splitting_free
  have hstates := split_revives_retiredTile
  rw [show exec _ _ = _ from hx, tileStates, partOf_answered_handles, show searcher = splitting.focus.c from rfl, hhandles,
    splitting_others] at hstates
  exact absurd (List.cons.inj hstates).1 (by decide)

end Sys2Proof.Laws
end

section
/-! SUPPORT. An arena made where a leader of a course watches the bytes of its nodes: the squash of the leader's younger block ends
the follower's search in another arena (R144, R185, R335, R338). -/

namespace Sys2Proof.Laws

open Sys2Proof Sys2Proof.Machine

/-- TARENA without a result target. -/
def plainArena : LFields := ⟨.n8, .always, .none, 0, 0, 0, 0, 0⟩

/-- The node area at address 4096. -/
def areaToken : Token := wideTok 4096

/-- Room for two nodes. -/
def roomToken : Token := wideTok 2

/-- The operands of TARENA. -/
def areaOperands (fr : Frame) : Frame :=
  { fr with ops := fr.ops.map (fun o => match o.slot with
      | .a => { o with tok := areaToken }
      | .b => { o with tok := roomToken }
      | _ => o) }

/-- The context that the searcher leads. -/
def follower : CtxId := ⟨1, 0⟩

/-- The searcher leads a course and is about to make an arena; it watches the first node, and holds a second block. Its follower
searches another arena. -/
def leading : State :=
  let s := placeWord State.reset (encode (.tarena plainArena))
  let s := modPart s 0 0 (fun p => { p with tlb := [⟨0, 2 ^ 21, 0, true, true, false⟩] })
  let s := modDie s 0 (fun d => { d with arenas := [searchedArena] })
  let s := modCore (modCore s 0 (fun k => { k with set := 3 })) 1 (fun k => { k with set := 3 })
  let s := modCtx s searcher (fun x =>
    { x with frames := x.frames.map areaOperands ++ [{ idleFrame with pos := 1 }], watch := some ⟨.pa 4096 4096, 0, .persist⟩
             course := .leader })
  modCtx s follower (fun x =>
    { x with st := .running, course := .follower, lead := 0, walk := some ⟨0, .iter 0, 0, .read 0 0⟩ })

theorem leading_ready : readiness (.tarena plainArena) leading = .go areaToken roomToken Token.zero := by decide +kernel

theorem leading_turn : engineTurn leading plainArena.lsid.toNat = true := by decide +kernel

theorem leading_passes : basicCheck (word areaToken.value 0) = none ∧ arenaParamsBad (word areaToken.value 0) roomToken.value = false
    ∧ rangeFault leading (whoAt leading) .write (word areaToken.value 0) (32 * (word roomToken.value 0).toNat) = none
    ∧ areaOverlaps leading 0 (ctxAt leading leading.focus.c).part (ptrAddr (word areaToken.value 0))
        (32 * (word roomToken.value 0).toNat) = false := by decide +kernel

theorem leading_arenas : (dieAt leading (dieOf leading.focus.c.core)).arenas = [searchedArena] := by decide +kernel

/-- The leaves that wait in the queue of the first arena of the first die, after an outcome. -/
def queuedLeaves : Result → Option (List Nat)
  | .next t => (dieAt t 0).arenas.head?.map (·.queue)
  | _ => none

theorem tarena_moves_search : queuedLeaves (exec (.tarena plainArena) leading) = some [0] := by decide +kernel

theorem arenas_answered (i : Instr) (t0 : Option Wide) (t1 : Word) (s : State) (d : Nat) :
    (dieAt (answered i t0 t1 s) d).arenas = (dieAt s d).arenas := by
  obtain ⟨-, hdies, -⟩ := onlySiteFrame_fired i
    { r0 := some (match t0 with | some v => wideTok v | none => nullTok), r1 := some (scalar t1) } (loggedHere t0 t1 s)
  obtain ⟨hdie, -⟩ := hdies d
  have harenas := congrArg Die.arenas hdie
  exact harenas

end Sys2Proof.Laws
end

section
/-! CERTIFICATES. The search-tree engine (R327 to R344). -/

namespace Sys2Proof.Laws

open Sys2Proof Sys2Proof.Machine

/-- Refutes O47: the first write of a new arena's nodes may wake a watch of a course's leader, whose younger block is squashed, and
with it the same position of its follower; a search that the follower has under way then finishes in its own arena, and the
statement says that TARENA leaves the other arenas as they are. -/
theorem not_searchResults : ¬ Obligations.SearchResults := by
  intro h
  obtain ⟨-, -, htarena⟩ := h.2 plainArena leading areaToken roomToken Token.zero leading_turn
  obtain ⟨hptr, hparams, hrange, harea⟩ := leading_passes
  rw [leading_arenas] at htarena
  obtain ⟨t, hx, harenas⟩ := htarena 1 leading_ready hptr hparams hrange harea (by decide) (by decide)
    (fun m hm => ⟨searchedArena, List.mem_singleton.mpr rfl, by rw [Nat.lt_one_iff.mp hm]; rfl⟩)
  have hmoved := tarena_moves_search
  rw [show exec _ _ = _ from hx, queuedLeaves, arenas_answered, show (dieAt t 0).arenas = _ from harenas] at hmoved
  exact absurd hmoved (by decide)

end Sys2Proof.Laws
end

section
/-! SUPPORT. Evictions, invalidations and errors of the memory system (R257, R259, R272, R282, R369). -/

namespace Sys2Proof.Laws

open Sys2Proof Sys2Proof.Machine

variable {s t : State}

theorem exec_l1Eviction (core line : Nat) (s : State) : exec (.l1Eviction core line) s = execL1Eviction core line s := rfl
theorem exec_l2Eviction (line : Nat) (s : State) : exec (.l2Eviction line) s = execL2Eviction line s := rfl
theorem exec_pageWalk (die part va : Nat) (s : State) : exec (.pageWalk die part va) s = execPageWalk die part va s := rfl
theorem exec_hostAtsInvalidate (va bytes : Nat) (s : State) :
    exec (.hostAtsInvalidate va bytes) s = execHostAtsInvalidate va bytes s := rfl
theorem exec_hostBackInvalidate (line : Nat) (s : State) : exec (.hostBackInvalidate line) s = execHostBackInvalidate line s := rfl
theorem exec_hostMemRequest (address : Nat) (w : HostMem) (s : State) :
    exec (.hostMemRequest address w) s = execHostMemRequest address w s := rfl
theorem exec_remoteAccess (die part va : Nat) (w : Option (List Byte)) (s : State) :
    exec (.remoteAccess die part va w) s = execRemoteAccess die part va w s := rfl

/-! ## Lines that leave a slice or the L1s -/

theorem OnlyHomes.sameRegs (h : OnlyHomes s t) : SameRegs s t := fun k => by rw [h.coreAt]; exact ⟨rfl, rfl⟩

/-- An eviction of a slice's line leaves every byte where it reads as before (R272). -/
theorem sameMemory_writeBack (s : State) (line : Nat) : SameMemory s (writeBack s line) := by
  have h := onlyHomes_writeBack s line
  intro l
  cases l with
  | pa a v => simp only [readByte, homeByte_writeBack]
  | spad k o => simp only [readByte, h.coreAt]
  | host a => simp only [readByte, h.hostMem]
  | _ => rfl

theorem l2At_writeBack_clean {line : Nat} (hn : (l2At s line).n = 0) : (l2At (writeBack s line) line).dirty = false := by
  unfold writeBack
  extract_lets l written
  rw [if_neg (not_not.mpr hn)]
  by_cases hd : l.dirty = true
  · rw [if_pos hd, l2At_modL2_self]
    rfl
  · rw [if_neg hd]
    by_cases hh : l2Holds s line = true
    · rw [if_pos hh, l2At_modL2_self]
      rfl
    · rw [if_neg hh]
      exact Bool.eq_false_iff.mpr hd

/-- What an eviction leaves in HBM of a line that is not pinned is what its bytes read. -/
theorem hbm_writeBack {line k : Nat} (hn : (l2At s line).n = 0) (hk : k < 64) :
    tabGet 0 (writeBack s line).hbm (64 * line + k) = homeByte s (64 * line + k) := by
  have hline : (64 * line + k) / 64 = line := by omega
  rw [← homeByte_writeBack s line, homeByte_of_notHeld]
  · rw [hline]
    exact l2At_writeBack_clean hn
  · rw [hline]
    rcases writeBack_cases s line with h | ⟨hbm, -, h, -⟩
    · rw [h, hn]
    · rw [h, l2At_modL2_self]
      rfl

theorem quiet_dropClean (s : State) (line : Nat) : Quiet anyL1 s (dropClean s line) :=
  quiet_foldl (fun k _ s => quiet_ite (quiet_clean s k (fun q => tabDel line q.clean)) (Quiet.refl s)) s

theorem l2_dropClean (s : State) (line : Nat) : (dropClean s line).l2 = s.l2 :=
  List.foldlRecOn (motive := fun t : State => t.l2 = s.l2) _ _ rfl fun t ht k _ => by
    split
    · exact ht
    · exact ht

/-- No L1 of a core holds a clean copy of a line. -/
def NoClean (line : Nat) (k : Core) : Prop := ∀ e ∈ k.clean, e.1 ≠ line

theorem noClean_tabDel (line : Nat) (k : Core) : NoClean line { k with clean := tabDel line k.clean } := fun e he => by
  simpa using (List.mem_filter.mp he).2

/-- One core drops its clean copy of a line, and the others keep to have none. -/
theorem noClean_drop (s : State) (line k : Nat) :
    let t := if (coreAt s k).clean.any (fun e => e.1 = line) then modCore s k (fun c => { c with clean := tabDel line c.clean }) else s
    NoClean line (coreAt t k) ∧ ∀ n, NoClean line (coreAt s n) → NoClean line (coreAt t n) := by
  intro t
  by_cases h : (coreAt s k).clean.any (fun e => e.1 = line) = true
  · simp only [t, if_pos h]
    refine ⟨by rw [coreAt_modCore_self]; exact noClean_tabDel line _, fun n hn => ?_⟩
    rw [coreAt_modCore]
    split
    · exact noClean_tabDel line _
    · exact hn
  · simp only [t, if_neg h]
    refine ⟨fun e he hline => h (List.any_eq_true.mpr ⟨e, he, decide_eq_true hline⟩), fun n hn => hn⟩

theorem noClean_dropFrom (line : Nat) (ks : List Nat) (s : State) :
    let t := ks.foldl (fun s k =>
      if (coreAt s k).clean.any (fun e => e.1 = line) then modCore s k (fun c => { c with clean := tabDel line c.clean }) else s) s
    ∀ n, n ∈ ks ∨ NoClean line (coreAt s n) → NoClean line (coreAt t n) := by
  induction ks generalizing s with
  | nil => exact fun n hn => hn.resolve_left nofun
  | cons k ks ih =>
    intro t n hn
    obtain ⟨hself, hkeeps⟩ := noClean_drop s line k
    refine ih _ n ?_
    rcases hn with hn | hn
    · rcases List.mem_cons.mp hn with rfl | hn
      · exact .inr hself
      · exact .inl hn
    · exact .inr (hkeeps n hn)

/-- A line that is dropped stands clean in no L1 (R272). -/
theorem noClean_dropClean {n : Nat} (s : State) (line : Nat) (hn : n ∈ coreNums s) : NoClean line (coreAt (dropClean s line) n) :=
  noClean_dropFrom line (coreNums s) s n (.inl hn)

/-! ## Bytes that leave an L1 -/

/-- A carry leaves in its L1 none of the bytes that it selects, but pending scratchpad stores (R262). -/
theorem dirty_carryHome (s : State) (core : Nat) (sel : Nat → Bool) (pub : Option (CtxId × Word)) :
    ∀ e ∈ (coreAt (carryHome s core sel pub).1 core).dirty, ¬ (e.1 < spadBase ∧ sel e.1 = true) := by
  unfold carryHome carryHomeBy
  extract_lets all judged good bad dropped merged cleaned lost woken
  have hmerged : Stands dropped merged := (onlyHomes_homeMerge _ _ _).stands
  have hcleaned : Stands dropped cleaned := hmerged.trans (stands_foldl (fun s e => stands_mergeClean s _ _ _) _ _)
  have hlost : Stands dropped lost := hcleaned.trans (stands_foldl (fun s e => stands_dropOwnClean s _ _) _ _)
  have hwoken : Stands dropped woken := hlost.trans (stands_wakeWatches _ _)
  intro e he ⟨hlow, hsel⟩
  have hmem := hwoken.dirty core he
  simp [dropped, hlow, hsel] at hmem

/-- An eviction of an L1's line: its dirty bytes go home, and no other byte of GEN changes (R259, R262). -/
theorem l1Eviction_carries {core line : Nat} (hline : 64 * line < spadBase) :
    ∃ t, exec (.l1Eviction core line) s = .next t ∧ SameRegs s t
      ∧ (∀ e ∈ (coreAt t core).dirty, e.1 / 64 ≠ line) ∧ (∀ e ∈ (coreAt t core).clean, e.1 ≠ line)
      ∧ ∀ a v, a / 64 ≠ line → readByte t (.pa a v) = readByte s (.pa a v) := by
  let carried := carryHome s core (fun k => k / 64 = line) none
  let recorded := asyncRecords carried.1 carried.2
  let dropped := modCore recorded core (fun k => { k with clean := tabDel line k.clean })
  have hcarry : Carried (fun a => a / 64 = line) {line} s carried.1 :=
    carried_carryHomeBy 0 s core none (fun e _ he => of_decide_eq_true he) fun a ha => Finset.mem_singleton.mpr ha
  have hrecords : Quiet (fun _ => False) carried.1 recorded := quiet_asyncRecords _ _
  have hdrop : Quiet anyL1 recorded dropped := quiet_clean recorded core fun k => tabDel line k.clean
  refine ⟨dropped, ?_, sameRegs_trans hcarry.regs (sameRegs_trans hrecords.regs hdrop.regs), fun e he hel => ?_, ?_, fun a v ha => ?_⟩
  · rw [exec_l1Eviction, execL1Eviction, if_neg (Nat.not_le.mpr hline)]
  · simp only [dropped, coreAt_modCore_self, (hrecords.l1 id core).2] at he
    refine dirty_carryHome s core _ none e he ⟨?_, decide_eq_true hel⟩
    simp only [spadBase] at hline ⊢
    omega
  · simp only [dropped, coreAt_modCore_self]
    exact noClean_tabDel line _
  · rw [hdrop.memory, hrecords.memory]
    exact hcarry.memory _ fun a' v' h hk => by cases h; exact ha hk

theorem homeByte_drainByte (s : State) (e : Nat × DirtyByte) (a : Nat) : homeByte (drainByte s e) a = homeByte s a := by
  unfold drainByte
  extract_lets
  split <;> rfl

theorem sameRegs_drainByte (s : State) (e : Nat × DirtyByte) : SameRegs s (drainByte s e) := by
  unfold drainByte
  extract_lets k
  split
  · intro n
    rw [coreAt_modCore]
    split
    · subst n
      exact ⟨rfl, rfl⟩
    · exact ⟨rfl, rfl⟩
  · exact fun _ => ⟨rfl, rfl⟩

/-- A drain of pending scratchpad stores changes no register and no byte of GEN (R264). -/
theorem drainSpad_leaves (s : State) (core : Nat) (sel : DirtyByte → Bool) :
    SameRegs s (drainSpad s core sel) ∧ ∀ a, homeByte (drainSpad s core sel) a = homeByte s a := by
  unfold drainSpad
  extract_lets all dropped
  split
  · exact ⟨fun _ => ⟨rfl, rfl⟩, fun _ => rfl⟩
  · have hdrop : Quiet anyL1 s dropped := quiet_modCore s core (sparesCore_dirty _) (.inl rfl)
    have hbytes : SameRegs s (all.foldl drainByte dropped) ∧ ∀ a, homeByte (all.foldl drainByte dropped) a = homeByte s a :=
      List.foldlRecOn (motive := fun t => SameRegs s t ∧ ∀ a, homeByte t a = homeByte s a) _ _
        ⟨hdrop.regs, homeByte_of_sameMemory hdrop.memory⟩ fun t ht e _ =>
          ⟨sameRegs_trans ht.1 (sameRegs_drainByte t e), fun a => (homeByte_drainByte t e a).trans (ht.2 a)⟩
    have hwake := quiet_wakeWatches (all.foldl drainByte dropped)
      (all.map (fun e => Loc.spad ((e.1 - spadBase) / 2 ^ 19) (e.1 % 2 ^ 19)))
    exact ⟨sameRegs_trans hbytes.1 hwake.regs, fun a => (homeByte_of_sameMemory hwake.memory a).trans (hbytes.2 a)⟩

theorem l1Eviction_drains {core line : Nat} (hline : spadBase ≤ 64 * line) :
    ∃ t, exec (.l1Eviction core line) s = .next t ∧ SameRegs s t
      ∧ (∀ e ∈ (coreAt t core).dirty, e.1 < spadBase) ∧ ∀ a v, readByte t (.pa a v) = readByte s (.pa a v) := by
  obtain ⟨hregs, hbytes⟩ := drainSpad_leaves s core (fun _ => true)
  obtain ⟨-, hdirty⟩ := drainSpad_spec s core
  refine ⟨_, ?_, hregs, hdirty, fun a v => congrArg some (hbytes a)⟩
  rw [exec_l1Eviction, execL1Eviction, if_pos hline]

/-! ## Events that change no byte -/

theorem l2Eviction_keeps (s : State) (line : Nat) :
    ∃ t, exec (.l2Eviction line) s = .next t ∧ SameMemory s t ∧ SameRegs s t := by
  refine ⟨_, rfl, ?_⟩
  by_cases hn : (l2At s line).n ≠ 0
  · rw [if_pos hn]
    exact ⟨fun _ => rfl, fun _ => ⟨rfl, rfl⟩⟩
  · rw [if_neg hn]
    exact ⟨sameMemory_writeBack s line, (onlyHomes_writeBack s line).sameRegs⟩

theorem pageWalk_keeps (s : State) (die part va : Nat) :
    ∃ t, exec (.pageWalk die part va) s = .next t ∧ SameMemory s t ∧ SameRegs s t := by
  rw [exec_pageWalk, execPageWalk]
  refine ⟨_, rfl, ?_⟩
  have hsame : SameMemory s s ∧ SameRegs s s := ⟨fun _ => rfl, fun _ => ⟨rfl, rfl⟩⟩
  split
  · exact hsame
  · split
    · exact hsame
    · next e _ =>
      have h := quiet_modPart (C := anything) s die part (fun p => { p with tlb := p.tlb ++ [e] })
      exact ⟨h.memory, h.regs⟩

theorem hostAtsInvalidate_keeps (s : State) (va bytes : Nat) :
    ∃ t, exec (.hostAtsInvalidate va bytes) s = .next t ∧ SameMemory s t ∧ SameRegs s t :=
  ⟨_, rfl, sameMemory_of rfl rfl rfl fun _ => rfl, fun _ => ⟨rfl, rfl⟩⟩

theorem hostBackInvalidate_keeps (s : State) (line : Nat) :
    ∃ t, exec (.hostBackInvalidate line) s = .next t ∧ SameMemory s t ∧ SameRegs s t := by
  refine ⟨_, rfl, ?_⟩
  by_cases hl : 64 * line < 2 ^ 40
  · rw [if_pos hl]
    exact ⟨fun _ => rfl, fun _ => ⟨rfl, rfl⟩⟩
  · rw [if_neg hl]
    have h := quiet_dropClean (writeBack s line) line
    exact ⟨SameMemory.trans (sameMemory_writeBack s line) h.memory, sameRegs_trans (onlyHomes_writeBack s line).sameRegs h.regs⟩

/-! ## What the events leave -/

/-- An HBM error that a host's read meets, of a line that its slice does not hold (R369). -/
theorem exec_hbmError {address : Nat} (ha : address < 2 ^ 39) (hl : l2Holds s (address / 64) = false) (corrected : Bool) :
    exec (.hostMemRequest address (.read (some corrected))) s = .next (
      if corrected then modDie s (homeDie s address) (fun d => { d with hbmCe := min (2 ^ 22 - 1) (d.hbmCe + 1) })
      else modDie { s with poison := address / 64 :: s.poison.filter (· ≠ address / 64) } (homeDie s address)
        (fun d => { d with hbmUe := min (2 ^ 32 - 1) (d.hbmUe + 1) })) := by
  have hread : ¬ (decide (2 ^ 39 ≤ address) || l2Holds s (address / 64)) = true := by
    simp only [hl, Bool.or_false, decide_eq_true_eq]
    omega
  rw [exec_hostMemRequest, execHostMemRequest, hbmError, if_neg hread]

theorem hostBackInvalidate_clears {line : Nat} (hline : 2 ^ 40 ≤ 64 * line) :
    ∃ t, exec (.hostBackInvalidate line) s = .next t ∧ ((l2At s line).n = 0 → (l2At t line).dirty = false)
      ∧ ∀ core, core ∈ coreNums s → ∀ e ∈ (coreAt t core).clean, e.1 ≠ line := by
  have hcores : coreNums (writeBack s line) = coreNums s := by rw [onlyHomes_writeBack s line]; rfl
  refine ⟨dropClean (writeBack s line) line, ?_, fun hn => ?_, fun core hcore => ?_⟩
  · rw [exec_hostBackInvalidate, execHostBackInvalidate, if_neg (Nat.not_lt.mpr hline)]
  · rw [l2At, l2_dropClean]
    exact l2At_writeBack_clean hn
  · exact noClean_dropClean _ line (by rw [hcores]; exact hcore)

theorem l2Eviction_writes {line : Nat} (hn : (l2At s line).n = 0) :
    ∃ t, exec (.l2Eviction line) s = .next t ∧ (l2At t line).dirty = false
      ∧ ∀ k, k < 64 → tabGet 0 t.hbm (64 * line + k) = homeByte s (64 * line + k) := by
  refine ⟨writeBack s line, ?_, l2At_writeBack_clean hn, fun k hk => hbm_writeBack hn hk⟩
  rw [exec_l2Eviction, execL2Eviction, if_neg (not_not.mpr hn)]

theorem pageWalk_caches {die part va : Nat} {e : TlbEntry}
    (hnone : (partAt s die part).tlb.find? (fun q => q.va ≤ va && va < q.va + q.size) = none)
    (hfind : findPage s die part va = some e) :
    exec (.pageWalk die part va) s = .next (modPart s die part (fun p => { p with tlb := p.tlb ++ [e] })) := by
  have hmiss : ¬ (partAt s die part).tlb.any (fun q => q.va ≤ va && va < q.va + q.size) = true := by
    simpa using hnone
  rw [exec_pageWalk, execPageWalk]
  simp only [if_neg hmiss, hfind]

end Sys2Proof.Laws
end

section
/-! CERTIFICATES. The memory system of itself (R257, R259, R272, R281, R282, R369). -/

namespace Sys2Proof.Laws

open Sys2Proof Sys2Proof.Machine

/-- Settles O56: an eviction puts bytes where they are read from next, and the other events change what is cached alone. -/
theorem cacheEventsKeepMemory : Obligations.CacheEventsKeepMemory := by
  intro s
  refine ⟨fun i hi n m k => ?_, fun _ => rfl, fun address ha hl => ⟨?_, ?_⟩, fun _ _ _ => rfl,
    fun line hline => hostBackInvalidate_clears hline, fun line hn => l2Eviction_writes hn, fun line hn => ?_,
    fun core line hline => l1Eviction_carries hline, fun core line hline => l1Eviction_drains hline,
    fun die part va e hnone hfind => pageWalk_caches hnone hfind, fun va bytes p => ⟨_, rfl, ?_⟩⟩
  · simp only [List.mem_cons, List.not_mem_nil, or_false] at hi
    rcases hi with rfl | rfl | rfl | rfl
    · exact l2Eviction_keeps s n
    · exact pageWalk_keeps s n m k
    · exact hostAtsInvalidate_keeps s n m
    · exact hostBackInvalidate_keeps s n
  · exact ⟨_, exec_hbmError ha hl true, rfl, rfl, rfl, by rw [if_pos rfl, dieAt_modDie_self]⟩
  · refine ⟨_, exec_hbmError ha hl false, rfl, rfl, fun n => ?_, ?_⟩
    · simp [modDie, List.mem_filter, or_and_left, em]
    · rw [if_neg Bool.false_ne_true, dieAt_modDie_self]
      rfl
  · rw [exec_l2Eviction, execL2Eviction, if_pos hn]
  · simp only [List.mem_filter, spansMeet, Bool.not_eq_true', Bool.and_eq_false_iff, decide_eq_false_iff_not, not_and_or]

end Sys2Proof.Laws
end

section
/-! SUPPORT. What happens at the homes: answers, leases, regions, node evictions and writes from outside (R268, R276, R290 to R293,
R302, R329, R370, R386). -/

namespace Sys2Proof.Laws

open Sys2Proof Sys2Proof.Machine

variable {s t : State} {die part : Nat}

theorem exec_tenureGrant (die part : Nat) (s : State) : exec (.tenureGrant die part) s = execTenureGrant die part s := rfl
theorem exec_leaseExpiry (die part handle holder : Nat) (s : State) :
    exec (.leaseExpiry die part handle holder) s = execLeaseExpiry die part handle holder s := rfl
theorem exec_regionEnd (die part region : Nat) (s : State) : exec (.regionEnd die part region) s = execRegionEnd die part region s := rfl
theorem exec_nodeCacheEviction (die arena node : Nat) (s : State) :
    exec (.nodeCacheEviction die arena node) s = execNodeCacheEviction die arena node s := rfl

/-! ## Host memory beside a wake -/

theorem hostMem_foldl {β : Type} {f : State → β → State} (hf : ∀ s b, (f s b).hostMem = s.hostMem) (l : List β) (s : State) :
    (l.foldl f s).hostMem = s.hostMem :=
  List.foldlRecOn (motive := fun t : State => t.hostMem = s.hostMem) l f rfl fun t ht b _ => (hf t b).trans ht

theorem hostMem_ite {p : Prop} [Decidable p] {u : State} (ht : t.hostMem = s.hostMem) (hu : u.hostMem = s.hostMem) :
    (if p then t else u).hostMem = s.hostMem := by
  split
  · exact ht
  · exact hu

theorem hostMem_setReserved (s : State) (l : Loc) (f : Nat → Nat) : (setReserved s l f).hostMem = s.hostMem := by
  unfold setReserved
  cases l <;> rfl

theorem hostMem_releaseTags (s : State) (c : CtxId) (fr : Frame) (sel : Tag → Bool) :
    (releaseTags s c fr sel).hostMem = s.hostMem := by
  unfold releaseTags
  extract_lets queued units spawns waits freed mine live handles watch
  have hqueued : queued.hostMem = s.hostMem := hostMem_ite rfl rfl
  have hunits : units.hostMem = s.hostMem := (hostMem_foldl (fun s _ => hostMem_setReserved s _ _) _ _).trans hqueued
  have hspawns : spawns.hostMem = s.hostMem := by
    refine (hostMem_foldl (fun s p => ?_) _ _).trans hunits
    split <;> rfl
  have hhandles : handles.hostMem = s.hostMem := hostMem_ite hspawns hspawns
  exact hhandles

theorem hostMem_giveBack (s : State) (c : CtxId) (pos : Nat) (fls : List Flight) : (giveBack s c pos fls).hostMem = s.hostMem :=
  hostMem_ite rfl rfl

theorem hostMem_finishWalk (s : State) (c : CtxId) : (finishWalk s c).hostMem = s.hostMem := by
  unfold finishWalk
  split
  · rfl
  · dsimp only
    split <;> rfl

theorem hostMem_squashFrom (s : State) (c : CtxId) (n : Nat) : (squashFrom s c n).hostMem = s.hostMem := by
  unfold squashFrom
  extract_lets ended x released keep back
  have hended : ended.hostMem = s.hostMem := hostMem_ite (hostMem_finishWalk s c) rfl
  exact (hostMem_foldl (fun s fr => hostMem_releaseTags s c fr _) _ _).trans hended

theorem hostMem_modMate (s : State) (c : CtxId) (k : Nat) (f : Ctx → Ctx) : (modMate s c k f).hostMem = s.hostMem :=
  modThread_hostMem s _ f

theorem hostMem_dropMember (c : CtxId) (pos : Nat) (old : Option Nat → Bool) (s : State) (k : Nat) :
    (dropMember c pos old s k).hostMem = s.hostMem := by
  unfold dropMember
  extract_lets keep dropped
  rw [hostMem_modMate]
  exact hostMem_ite (hostMem_squashFrom s _ _) rfl

theorem hostMem_squashCourse (s : State) (c : CtxId) (n : Nat) : (squashCourse s c n).hostMem = s.hostMem := by
  unfold squashCourse
  dsimp only
  split
  · exact (hostMem_foldl (fun s k => hostMem_dropMember c _ _ s k) _ _).trans (hostMem_squashFrom s c n)
  · exact hostMem_squashFrom s c n

theorem hostMem_discardOwn (s : State) (c : CtxId) (n t : Nat) : (discardOwn s c n t).hostMem = s.hostMem := by
  unfold discardOwn
  split
  · rfl
  · rw [hostMem_giveBack, modFrame_hostMem, hostMem_releaseTags]

theorem hostMem_discardMate (c : CtxId) (pos t : Nat) (s : State) (k : Nat) : (discardMate c pos t s k).hostMem = s.hostMem := by
  unfold discardMate
  dsimp only
  rw [hostMem_modMate]
  split
  · exact hostMem_discardOwn s _ _ _
  · rfl

theorem hostMem_discardIters (s : State) (c : CtxId) (n t : Nat) : (discardIters s c n t).hostMem = s.hostMem := by
  unfold discardIters
  split
  · rfl
  · have h := hostMem_discardOwn s c n t
    exact hostMem_ite ((hostMem_foldl (fun s k => hostMem_discardMate c _ t s k) _ _).trans h) h

theorem hostMem_squashLater (s : State) (c : CtxId) : (squashLater s c).hostMem = s.hostMem := by
  have h : (squashYounger s c).hostMem = s.hostMem := hostMem_squashCourse s c 1
  unfold squashLater
  dsimp only
  split
  · exact hostMem_ite ((hostMem_discardIters _ c 0 _).trans h) h
  · exact h

theorem hostMem_answerLater (c : CtxId) (idx : Nat) (tag : Tag) (t0 : Option Wide) (t1 : Word) (s : State) :
    (answerLater c idx tag t0 t1 s).hostMem = s.hostMem := modCtx_hostMem s c _

theorem hostMem_wakeWatches (s : State) (touched : List Loc) : (wakeWatches s touched).hostMem = s.hostMem := by
  refine hostMem_foldl (fun s k => hostMem_ite (hostMem_foldl (fun s e => ?_) _ s) rfl) _ s
  cases (ctxAt s ⟨k, e.1⟩).watch with
  | none => rfl
  | some wt =>
    refine hostMem_ite ?_ rfl
    rw [hostMem_answerLater, hostMem_squashLater, modCtx_hostMem]

/-! ## A write at the homes that wakes watches -/

/-- Bytes written at their homes, with the watches on some places woken. -/
theorem homeWrite_wakes (s : State) (bs : List (Nat × Byte)) (touched : List Loc) :
    (∀ a, homeByte (wakeWatches (homeWrite s bs) touched) a = (lastWrite bs a).getD (homeByte s a))
    ∧ SameRegs s (wakeWatches (homeWrite s bs) touched) ∧ (wakeWatches (homeWrite s bs) touched).hostMem = s.hostMem := by
  have hwake := quiet_wakeWatches (homeWrite s bs) touched
  have hwrite := onlyHomes_homeWrite s bs
  refine ⟨fun a => ?_, sameRegs_trans hwrite.sameRegs hwake.regs, ?_⟩
  · rw [homeByte_of_sameMemory hwake.memory, homeByte_homeWrite]
  · rw [hostMem_wakeWatches, hwrite.hostMem]

/-- What a write of bytes from an address on leaves at another. -/
theorem lastWrite_run (address : Nat) (bs : List Byte) (a : Nat) :
    lastWrite (((List.range bs.length).map (address + ·)).zip bs) a
      = if address ≤ a ∧ a < address + bs.length then some (bs.getD (a - address) 0) else none := by
  induction bs using List.reverseRecOn with
  | nil => rw [if_neg (by simp)]; rfl
  | append_singleton bs b ih =>
    rw [List.length_append, List.length_singleton, List.range_succ, List.map_append, List.zip_append (by simp), List.map_singleton,
      List.zip_cons_cons, List.zip_nil_left, lastWrite_append_singleton, ih]
    by_cases ha : address + bs.length = a
    · subst ha
      simp
    · simp only [if_neg ha]
      by_cases hin : address ≤ a ∧ a < address + bs.length
      · rw [if_pos hin, if_pos (by omega), List.getD_append _ _ _ _ (by omega)]
      · rw [if_neg hin, if_neg (by omega)]

/-- A write from the host lands at the home of each byte (R370). -/
theorem hostWrite_lands {address : Nat} {bs : List Byte} (h : address + bs.length ≤ 2 ^ 39) :
    ∃ t, exec (.hostMemRequest address (.write bs)) s = .next t
      ∧ (∀ k, k < bs.length → homeByte t (address + k) = bs.getD k 0)
      ∧ (∀ a, a < address ∨ address + bs.length ≤ a → homeByte t a = homeByte s a) ∧ SameRegs s t ∧ t.hostMem = s.hostMem := by
  obtain ⟨hbytes, hregs, hhost⟩ := homeWrite_wakes s (((List.range bs.length).map (address + ·)).zip bs)
    (((List.range bs.length).map (address + ·)).map (fun a => Loc.pa a 0))
  refine ⟨_, ?_, fun k hk => ?_, fun a ha => ?_, hregs, hhost⟩
  · rw [exec_hostMemRequest, execHostMemRequest]
    simp only [if_neg (Nat.not_lt.mpr h)]
  · rw [hbytes, lastWrite_run, if_pos (by omega), Nat.add_sub_cancel_left, Option.getD_some]
  · rw [hbytes, lastWrite_run, if_neg (by omega), Option.getD_none]

/-- A write of one byte from another module, which the target does not refuse (R386, R388). -/
theorem remoteWrite_lands {va pa : Nat} {b : Byte} (hown : ownRefusal s die part true (va % 2 ^ 54) = none)
    (hpa : translate s die part (va % 2 ^ 54) false .write false = .ok pa) :
    ∃ t, exec (.remoteAccess die part va (some [b])) s = .next t ∧ homeByte t pa = b
      ∧ (∀ a, a ≠ pa → homeByte t a = homeByte s a) ∧ SameRegs s t := by
  obtain ⟨hbytes, hregs, -⟩ := homeWrite_wakes s [(pa, b)] [Loc.pa pa (va % 2 ^ 54)]
  refine ⟨_, ?_, ?_, fun a ha => ?_, hregs⟩
  · rw [exec_remoteAccess, execRemoteAccess]
    simp only [List.length_singleton, List.range_one, List.map_cons, List.map_nil, Nat.add_zero, List.findSome?_cons, List.findSome?_nil,
      hown, Option.isSome_none, Bool.false_eq_true, if_false, List.zip_cons_cons, List.zip_nil_left, List.filterMap_cons,
      List.filterMap_nil, hpa]
  · rw [hbytes]
    simp [lastWrite]
  · rw [hbytes, lastWrite_eq_none (by simpa using ha.symm), Option.getD_none]

/-- A write from another module that the target refuses at one byte changes nothing (R386). -/
theorem remoteWrite_refused {va k cause : Nat} {bs : List Byte} (hk : k < bs.length)
    (hown : ownRefusal s die part true ((va + k) % 2 ^ 54) = some cause) :
    exec (.remoteAccess die part va (some bs)) s = .next s := by
  have hrefused : (((List.range bs.length).map (fun k => (va + k) % 2 ^ 54)).findSome? (ownRefusal s die part true)).isSome = true := by
    rw [List.findSome?_isSome_iff]
    exact ⟨_, List.mem_map.mpr ⟨k, List.mem_range.mpr hk, rfl⟩, by rw [hown]; rfl⟩
  rw [exec_remoteAccess, execRemoteAccess]
  simp only [hrefused, if_true]

/-! ## Answers and regions -/

theorem tenureGrant_answers {a : Acquire} {h : Handle} {v : Answer} (hdue : (partAt s die part).handles.find? (·.due) = none)
    (ha : answerable s (partAt s die part) [] (partAt s die part).acquires = some (a, h, v)) :
    let s' := modPart s die part (fun p => { p with acquires := p.acquires.erase a })
    exec (.tenureGrant die part) s = .next (deliverAnswer
      (if v = .grant then grantTenure s' die part h a.holder a.kind a.op a.fmt else s') a (partAt s die part) h v) := by
  rw [exec_tenureGrant, execTenureGrant]
  simp only [hdue, serveQueue, ha]

theorem tenureGrant_mirrors {h : Handle} (hdue : (partAt s die part).handles.find? (·.due) = some h) :
    exec (.tenureGrant die part) s
      = .next (mirror (modHandle s die part h.idx (fun q => { q with due := false })) die part h.idx (descWords h h.gen 1)) := by
  rw [exec_tenureGrant, execTenureGrant]
  simp only [hdue]

theorem regionEnd_answers {r : Region} {c : CtxId} {idx : Nat} {tag : Tag}
    (hr : (partAt s die part).regions.find? (fun q => q.num = r.num && q.ending) = some r) (hw : r.waiter = some (c, idx, tag))
    (hunits : anyReserved s (regionLines s die part r) = false) :
    let e := endRegion s c die part r
    exec (.regionEnd die part r.num) s
      = .next (answerLater c idx tag (some ((endWord 0 e.2).setWidth 512)) (endWord 0 e.2) e.1) := by
  rw [exec_regionEnd, execRegionEnd]
  simp only [hr, hw, hunits, Bool.false_eq_true, if_false]

theorem nodeCacheEviction_writes {ar : Arena} {node : Nat} (h : (dieAt s die).arenas.find? (·.id = ar.id) = some ar) :
    exec (.nodeCacheEviction die ar.id node) s
      = .next (writeNodes s ar ([node / 2 * 2, node / 2 * 2 + 1].filter (· < ar.cap))) := by
  rw [exec_nodeCacheEviction, execNodeCacheEviction]
  simp only [h]

/-! ## Leases -/

theorem dies_dropSpan (s : State) (die part core lo hi : Nat) : (dropSpan s die part core lo hi).dies = s.dies :=
  List.foldlRecOn (motive := fun t : State => t.dies = s.dies) _ _ rfl fun t ht k _ => by
    split
    · next pa _ =>
      exact List.foldlRecOn (motive := fun u : State => u.dies = s.dies) _ _ ht fun u hu m _ => hu
    · exact ht

/-- The end of a lease at its slice (R268). -/
def leaseEnds (s : State) (h : Handle) (t : Tenure) : Nat := tabGet 0 (dieAt s h.die).leaseBase h.slice + t.leaseAt

/-- The slice's time has come to the end of a lease (log entry 47). -/
def timeAt (s : State) (h : Handle) (t : Tenure) : State :=
  modDie s h.die (fun d =>
    { d with leaseNow := tabSet 0 d.leaseNow h.slice (max (leaseEnds s h t) (tabGet 0 d.leaseNow h.slice)) })

/-- The lapsed READ tenures of a holder on a handle (R293). -/
def lapse (holder : Nat) (h : Handle) : Handle :=
  { h with tens := h.tens.map (fun t => if t.holder = holder && t.kind = 1 then { t with lapsed := true, leaseAt := 0 } else t) }

theorem partAt_timeAt (s : State) (h : Handle) (t : Tenure) (d p : Nat) : partAt (timeAt s h t) d p = partAt s d p := by
  unfold partAt timeAt
  by_cases hd : d = h.die
  · rw [hd, dieAt_modDie_self]
    rfl
  · rw [dieAt_modDie_other _ _ hd]

theorem leaseExpiry_lapses {handle holder : Nat} {h : Handle} {t : Tenure} (hh : (partAt s die part).handles = [h])
    (hidx : h.idx = handle) (ht : h.tens = [t]) (hholder : t.holder = holder) (hk : t.kind = 1) (hl : t.lapsed = false) :
    exec (.leaseExpiry die part handle holder) s
      = .next (dropSpan (modHandle (timeAt s h t) die part handle (lapse holder)) die part
          (holderCore (modHandle (timeAt s h t) die part handle (lapse holder)) die part holder) h.lo h.hi) := by
  have hten : tenureOf h holder = some t := by simp [tenureOf, ht, hholder]
  have hfind : (partAt s die part).handles.find? (fun h => h.idx = handle && (tenureOf h holder).any (fun t => t.kind = 1 && !t.lapsed))
      = some h := by
    rw [hh]
    simp [hidx, hten, hk, hl]
  rw [exec_leaseExpiry, execLeaseExpiry]
  simp only [hfind, hten, Option.map_some, Option.getD_some]
  rfl

/-- The lease of the one tenure of the one handle of a partition ends (R268, R293). -/
theorem leaseExpiry_spec {handle holder : Nat} {h : Handle} {t : Tenure} (hh : (partAt s die part).handles = [h])
    (hidx : h.idx = handle) (ht : h.tens = [t]) (hholder : t.holder = holder) (hk : t.kind = 1) (hl : t.lapsed = false) :
    ∃ u, exec (.leaseExpiry die part handle holder) s = .next u ∧ SameMemory s u ∧ SameRegs s u
      ∧ (partAt u die part).handles = [{ h with tens := [{ t with lapsed := true, leaseAt := 0 }] }]
      ∧ tabGet 0 (dieAt u h.die).leaseNow h.slice
        = max (tabGet 0 (dieAt s h.die).leaseBase h.slice + t.leaseAt) (tabGet 0 (dieAt s h.die).leaseNow h.slice) := by
  let lapsed := modHandle (timeAt s h t) die part handle (lapse holder)
  have hlapsed : Quiet anyL1 s lapsed := (quiet_modDie s _ _).trans (quiet_modPart _ _ _ _)
  have hquiet := hlapsed.trans (quiet_dropSpan lapsed die part (holderCore lapsed die part holder) h.lo h.hi)
  have hdies := dies_dropSpan lapsed die part (holderCore lapsed die part holder) h.lo h.hi
  refine ⟨_, leaseExpiry_lapses hh hidx ht hholder hk hl, hquiet.memory, hquiet.regs, ?_, ?_⟩
  · have hpart : (partAt lapsed die part).handles = [lapse holder h] := by
      simp only [lapsed, modHandle, partAt_modPart_self, partAt_timeAt, hh, List.map_cons, List.map_nil, hidx, if_true]
    rw [partAt, dieAt, hdies]
    refine hpart.trans ?_
    simp [lapse, ht, hholder, hk]
  · rw [dieAt, hdies]
    change tabGet 0 (dieAt lapsed h.die).leaseNow h.slice = _
    rw [show lapsed = modPart (timeAt s h t) die part _ from rfl, dieAt_modPart]
    simp only [timeAt, dieAt_modDie_self, tabGet_tabSet_self]
    rfl

end Sys2Proof.Laws
end

section
/-! CERTIFICATES. What happens at the homes (R268, R276, R290 to R293, R302, R329, R370, R386). -/

namespace Sys2Proof.Laws

open Sys2Proof Sys2Proof.Machine

/-- Settles O57: each event at a home is one answer, one lapse or one write of bytes there. -/
theorem homeEvents : Obligations.HomeEvents := by
  intro s die part
  exact ⟨fun a h v hdue ha => tenureGrant_answers hdue ha, fun h hdue => tenureGrant_mirrors hdue,
    fun handle holder h t hh hidx ht hholder hk hl => leaseExpiry_spec hh hidx ht hholder hk hl,
    fun r c idx tag hr hw hunits => regionEnd_answers hr hw hunits, fun ar node h => nodeCacheEviction_writes h,
    fun address bs h => hostWrite_lands h, fun va b pa hown hpa => remoteWrite_lands hown hpa,
    fun va bs k cause hk hown => remoteWrite_refused hk hown⟩

end Sys2Proof.Laws
end
